-- ==== Sys2Proof/Word.lean ====
section
/-! DEFINITION. The word types of the VJ-8 and their plainest arithmetic (spec/00 R1). -/

namespace Sys2Proof

/-- A byte, the unit of every memory of the device (R1). -/
abbrev Byte := BitVec 8
/-- A 32-bit word: a slot word, a lane, a half register. -/
abbrev Word32 := BitVec 32
/-- A scalar register, an address, a latch. -/
abbrev Word := BitVec 64
/-- A vector register: 128 lanes of 32 bits, lane i at bits [32i+31:32i] (R113). -/
abbrev VWord := BitVec 4096
/-- A predicate register, one bit per lane (R58). -/
abbrev PWord := BitVec 128

/-- Ceiling of a quotient. -/
def ceilDiv (a b : Nat) : Nat := (a + b - 1) / b

end Sys2Proof
end

