-- ==== Sys2Proof/Config.lean ====
section
/-! DEFINITION. What the spec leaves open and what one part fixes: values with no body, so that nothing can
be proved of them, and the functions of the standards the device names (spec/00 R6, Standards). -/

namespace Sys2Proof.Config

/-- The n-th value that the manual calls unpredictable (R6), as a word (log 2: DESIGN CHOICE). -/
opaque freeWord : Nat → Word
/-- The n-th unpredictable byte (R6, log 2: DESIGN CHOICE). -/
opaque freeByte : Nat → Byte
/-- The n-th outcome the manual leaves open between two (R6, R74, log 2: DESIGN CHOICE). -/
opaque freeBool : Nat → Bool

/-- The AES-GCM tag of NIST SP 800-38D (R284, R339, R377; log 16: DESIGN CHOICE): key, nonce, additional data, plaintext. -/
opaque gcmTag : (key : Nat) → (nonce : BitVec 96) → (aad plain : List Byte) → BitVec 128
/-- The AES-CMAC signature of a beat under the beat key of kindling number `boot` (R352). -/
opaque beatSig : (boot : Nat) → (bits : Word) → Word
/-- SHA-384 (R301). -/
opaque sha384 : List Byte → List Byte
/-- The AES-GCM ciphertext of NIST SP 800-38D (R301; log 16: DESIGN CHOICE): key, nonce, plaintext. -/
opaque gcmCipher : (key : Nat) → (nonce : BitVec 96) → (plain : List Byte) → List Byte
/-- The n-th 256 bits of the random-number generator (R300). -/
opaque randomKey : Nat → BitVec 256
/-- The P-384 public key of a private key, x then y (R301). -/
opaque p384Public : BitVec 256 → List Byte
/-- The ECDH shared secret of a private key and a public key (R301). -/
opaque ecdh : BitVec 256 → (pub : List Byte) → List Byte
/-- HKDF-SHA-384 of RFC 5869 (R301): secret, salt, info. -/
opaque hkdf : (secret salt info : List Byte) → Nat
/-- An ECDSA signature over P-384 and SHA-384 under the device identity key, r then s, with its random number (R301). -/
opaque deviceSign : (data : List Byte) → BitVec 256 → List Byte
/-- The device identity public key, 96 bytes, x then y (R378, R380). -/
opaque identityKey : List Byte
/-- The firmware version (R378). -/
opaque firmwareVersion : Word32
/-- The pair secret two packages agree under R337, and whether the peer's share checks. -/
opaque pairSecret : (self peer n : Nat) → Nat
opaque pairOk : (peer n : Nat) → Bool
/-- The traffic key of a message, by HKDF-SHA-384 of the pair secret (R339). -/
opaque linkKey : (secret src dst sctx rctx : Nat) → Nat

/-- The 64 KiB frame at which the bellows core's pool of page tables begins, and the number of tables of 4 KiB that it holds
(R378): the manual places it in memory that no context can address. -/
opaque poolFrame : Nat
opaque poolTables : Nat

end Sys2Proof.Config
end

