-- ==== Sys2Proof/Syntax.lean ====
section
/-! DEFINITION. The instructions of the VJ-8 as data: one constructor of `Instr` per row of the table of
operations and events (spec/opcode_table.json; spec/95_what_each_step_holds.md). The 172 slot words carry
the fields of their layout (spec/03_bundle.md R57); the other rows are the part's whole steps and carry
what names the unit they happen in, or what the outside world brings with them. -/

namespace Sys2Proof

/-- The seven slot classes (R54). -/
inductive SlotClass where
  | S | A | M | V | T | E | C
  deriving DecidableEq, Repr

/-- The lend bits a slot receives (R51): none, `lend[11:0]` or `lend[23:12]` alone, or all 24. -/
inductive Lend where
  | zero
  | one (b : BitVec 12)
  | two (b : BitVec 24)
  deriving DecidableEq, Repr

/-- One slot word as it stands in a loop-buffer entry (R78): its class, its 32 bits and its lend bits. -/
structure SlotWord where
  cls : SlotClass
  word : Word32
  lend : Lend := .zero
  deriving DecidableEq, Repr

/-- The ten slot positions, in mask order (R49). -/
inductive Pos where
  | S0 | S1 | A | M | V0 | V1 | T | E0 | E1 | C
  deriving DecidableEq, Repr

/-- The class of a position (R54). -/
def Pos.cls : Pos → SlotClass
  | .S0 | .S1 => .S
  | .A => .A
  | .M => .M
  | .V0 | .V1 => .V
  | .T => .T
  | .E0 | .E1 => .E
  | .C => .C

/-- The number of a position, counted in mask order from S0 (R272). -/
def Pos.idx : Pos → Nat
  | .S0 => 0 | .S1 => 1 | .A => 2 | .M => 3 | .V0 => 4 | .V1 => 5 | .T => 6 | .E0 => 7 | .E1 => 8 | .C => 9

/-- All positions in mask order. -/
def Pos.all : List Pos := [.S0, .S1, .A, .M, .V0, .V1, .T, .E0, .E1, .C]

/-- A register a slot word can name (R54, R58). -/
inductive Reg where
  | s (n : BitVec 6)
  | v (n : BitVec 5)
  | p (n : BitVec 3)
  deriving DecidableEq, Repr

/-- A source register with its W bit (R54, R64). -/
inductive Source where
  | s (n : BitVec 6) (w : Bool)
  | v (n : BitVec 5) (w : Bool)
  | p (n : BitVec 3)
  deriving DecidableEq, Repr

namespace Operands

/-- Layout SR (R57). -/
structure SR where
  (sd sa : BitVec 6)
  wa : Bool
  sb : BitVec 6
  wb : Bool
  deriving DecidableEq, Repr

/-- Layout SR1, and the forms that use sd and sa only (R57). -/
structure SR1 where
  (sd sa : BitVec 6)
  wa : Bool
  deriving DecidableEq, Repr

/-- The forms that use sa only (R57). -/
structure S1 where
  sa : BitVec 6
  wa : Bool
  deriving DecidableEq, Repr

/-- The forms that use sa and sb only (R57). -/
structure SS where
  sa : BitVec 6
  wa : Bool
  sb : BitVec 6
  wb : Bool
  deriving DecidableEq, Repr

/-- The forms that use sd only (R57). -/
structure SD where
  sd : BitVec 6
  deriving DecidableEq, Repr

/-- Layouts SI and AI: imm13 with its lend bits (R57). -/
structure SI where
  (sd sa : BitVec 6)
  wa : Bool
  imm : BitVec 13
  lend : Lend
  deriving DecidableEq, Repr

/-- Layout SI of the shift forms: imm13[5:0] is the count (R57). -/
structure SH where
  (sd sa : BitVec 6)
  wa : Bool
  cnt : BitVec 6
  deriving DecidableEq, Repr

/-- Layout SB (R57). -/
structure SB where
  (sd sa : BitVec 6)
  wa : Bool
  lsb : BitVec 6
  wm1 : BitVec 6
  deriving DecidableEq, Repr

/-- Layout AB of br (R57). -/
structure ABr where
  off : BitVec 19
  lend : Lend
  deriving DecidableEq, Repr

/-- Layout AB of the conditional branches (R57). -/
structure ABc where
  sa : BitVec 6
  wa : Bool
  off : BitVec 19
  lend : Lend
  deriving DecidableEq, Repr

/-- Layout AB of call (R57). -/
structure ABl where
  sd : BitVec 6
  off : BitVec 19
  lend : Lend
  deriving DecidableEq, Repr

/-- Layout AA (R57). -/
structure AA where
  (sd sa : BitVec 6)
  wa : Bool
  sb : BitVec 6
  wb : Bool
  sh : BitVec 3
  deriving DecidableEq, Repr

/-- Layout AL (R57). -/
structure AL where
  lvl : BitVec 3
  sa : BitVec 6
  wa : Bool
  lm1 : BitVec 8
  deriving DecidableEq, Repr

/-- Layout ALI (R57). -/
structure ALI where
  lvl : BitVec 3
  cnt : BitVec 15
  lm1 : BitVec 8
  lend : Lend
  deriving DecidableEq, Repr

/-- Layout AX (R57). -/
structure AX where
  lvl : BitVec 3
  deriving DecidableEq, Repr

/-- Layout MS of a load (R57). -/
structure MSl where
  (sd sa : BitVec 6)
  wa : Bool
  off : BitVec 12
  lend : Lend
  deriving DecidableEq, Repr

/-- Layout MS of a store (R57). -/
structure MSs where
  sc : BitVec 6
  wc : Bool
  sa : BitVec 6
  wa : Bool
  off : BitVec 12
  lend : Lend
  deriving DecidableEq, Repr

/-- Layout MV of a load (R57). -/
structure MVl where
  vd : BitVec 5
  p : BitVec 3
  sa : BitVec 6
  wa : Bool
  off : BitVec 10
  lend : Lend
  deriving DecidableEq, Repr

/-- Layout MV of a store (R57). -/
structure MVs where
  vc : BitVec 5
  wc : Bool
  p : BitVec 3
  sa : BitVec 6
  wa : Bool
  off : BitVec 10
  lend : Lend
  deriving DecidableEq, Repr

/-- Layout MG of vgath (R57). -/
structure MGl where
  vd : BitVec 5
  p : BitVec 3
  sa : BitVec 6
  wa : Bool
  vb : BitVec 5
  wb : Bool
  deriving DecidableEq, Repr

/-- Layout MG of vscat (R57). -/
structure MGs where
  vc : BitVec 5
  wc : Bool
  p : BitVec 3
  sa : BitVec 6
  wa : Bool
  vb : BitVec 5
  wb : Bool
  deriving DecidableEq, Repr

/-- Layout VR without vc (R57). -/
structure VR where
  (vd va : BitVec 5)
  wa : Bool
  vb : BitVec 5
  wb : Bool
  p : BitVec 3
  deriving DecidableEq, Repr

/-- Layout VR of the vfma forms (R57). -/
structure VR3 where
  (vd va : BitVec 5)
  wa : Bool
  vb : BitVec 5
  wb : Bool
  vc : BitVec 5
  wc : Bool
  p : BitVec 3
  deriving DecidableEq, Repr

/-- Layout VR1 (R57). -/
structure VR1 where
  (vd va : BitVec 5)
  wa : Bool
  p : BitVec 3
  deriving DecidableEq, Repr

/-- Layout VP (R57). -/
structure VP where
  pd : BitVec 3
  va : BitVec 5
  wa : Bool
  vb : BitVec 5
  wb : Bool
  p : BitVec 3
  deriving DecidableEq, Repr

/-- Layout VB (R57). -/
structure VB where
  vd : BitVec 5
  sa : BitVec 6
  wa : Bool
  p : BitVec 3
  deriving DecidableEq, Repr

/-- Layout VX (R57). -/
structure VX where
  sd : BitVec 6
  va : BitVec 5
  wa : Bool
  lane : BitVec 7
  deriving DecidableEq, Repr

/-- Layout VQ (R57). -/
structure VQ where
  sd : BitVec 6
  va : BitVec 5
  wa : Bool
  p : BitVec 3
  deriving DecidableEq, Repr

/-- Layout VC: the from and to format codes (R57). -/
structure VC where
  (vd va : BitVec 5)
  wa : Bool
  (src dst : BitVec 4)
  p : BitVec 3
  deriving DecidableEq, Repr

/-- Layout VG (R57). -/
structure VG where
  (vd va : BitVec 5)
  wa : Bool
  group : BitVec 4
  p : BitVec 3
  deriving DecidableEq, Repr

/-- Layout TT of trin (R57). -/
structure TI where
  va : BitVec 5
  wa : Bool
  deriving DecidableEq, Repr

/-- Layouts TT of tpop and EV (R57). -/
structure TP where
  vd : BitVec 5
  deriving DecidableEq, Repr

/-- Layout TT of tmode (R57). -/
structure TM where
  mode : BitVec 4
  deriving DecidableEq, Repr

/-- Layout EL (R57). -/
structure EL where
  latch : BitVec 10
  sa : BitVec 6
  wa : Bool
  deriving DecidableEq, Repr

/-- Layout EI (R57). -/
structure EI where
  latch : BitVec 10
  imm : BitVec 16
  lend : Lend
  deriving DecidableEq, Repr

/-- Layout ES (R57). -/
structure ES where
  latch : BitVec 10
  sd : BitVec 6
  deriving DecidableEq, Repr

/-- Layout EC of the plain copy (R57). -/
structure ECp where
  eng : BitVec 2
  fo : Bool
  deriving DecidableEq, Repr

/-- Layout EC of an accumulate-on-write (R57). -/
structure ECa where
  (eng ty : BitVec 2)
  deriving DecidableEq, Repr

/-- Layout EC of a returning atomic (R57). -/
structure ECr where
  (eng ty : BitVec 2)
  sd : BitVec 6
  deriving DecidableEq, Repr

/-- Layout EW (R57). -/
structure EW where
  unit : BitVec 3
  deriving DecidableEq, Repr

/-- Layout EM (R57). -/
structure EM where
  wm : BitVec 4
  sa : BitVec 6
  wa : Bool
  deriving DecidableEq, Repr

/-- Layout CI of trap, setfmt, bar and rdv (bits lent above imm16 are reserved there, R57) (R57). -/
structure CI where
  imm : BitVec 16
  deriving DecidableEq, Repr

/-- Layout CS of rdsr (R57). -/
structure CSr where
  sd : BitVec 6
  num : BitVec 12
  deriving DecidableEq, Repr

/-- Layout CS of wrsr (R57). -/
structure CSw where
  sa : BitVec 6
  wa : Bool
  num : BitVec 12
  deriving DecidableEq, Repr

end Operands

/-- A barrier of a group (R236). -/
inductive BarrierId where
  | step
  | rdv
  | barGrp
  | barRow (r : Nat)
  | barCol (c : Nat)
  deriving DecidableEq, Repr

/-- A port that performs read-modify-writes (R198, R201): a tile's floor port or an HBM channel. -/
inductive Port where
  | floor (tile : Nat)
  | hbm (channel : Nat)
  deriving DecidableEq, Repr

/-- One component of a fetch-and-add (R203): the request's name within the package, its increment, and the
decombining records (router, number) that its reply passes, the next one first (R205). -/
structure Component where
  tile : Nat
  eng : Nat
  id : Nat
  inc : Word
  via : List (Nat × Nat)
  deriving DecidableEq, Repr

/-- The operation of a returning atomic (R199). -/
inductive AtomOp where
  | fadd | swap | cas
  deriving DecidableEq, Repr

/-- A returning atomic on its way to its port (R199 to R204): `va` is its virtual address where the port is one of the
HBM, `att` the attachment at which it leaves the mesh (R391); at a floor port, which has none, 64 there says that the bank had
performed its read when a repair began (R371). -/
structure AtomReq where
  op : AtomOp
  wide : Bool
  port : Port
  addr : Nat
  ctx : Nat
  opa : Word
  opb : Word
  comps : List Component
  retry : Bool
  uncomb : Bool
  firstTs : Nat
  va : Word
  att : Option Nat
  deriving DecidableEq, Repr

/-- The answer to one component of a returning atomic (R200): 0 performed, 1 not performed, 2 unknown. -/
structure AtomReply where
  status : Nat
  olds : List (Component × Word)
  combined : Bool
  deriving DecidableEq, Repr

/-- A link message (R338): the header fields, the clock records and the payload. -/
structure Msg where
  eth : Bool
  src : Nat
  dst : Nat
  via : Nat
  sctx : Nat
  rctx : Nat
  retry : Bool
  uncomb : Bool
  status : Nat
  seq : Word32
  rack : Word32
  recs : List Word32
  gen : BitVec 16
  va : Word
  id : Nat
  payload : List Byte
  ts : Word
  tile : Nat
  eng : Nat
  tx : Nat
  tag : BitVec 128
  ok : Bool
  etype : BitVec 16 := 0x88B5
  mac : BitVec 48 := 0
  tags : Nat := 0
  deriving DecidableEq, Repr

/-- A heartbeat (R352). -/
structure Beat where
  seq : BitVec 16
  tile : BitVec 6
  st : BitVec 3
  stamp : Word32
  sig : Word
  deriving DecidableEq, Repr

/-- The kinds of vote message (R354, R360). -/
inductive VoteKind where
  | accuse | withdraw | appeal | accept
  deriving DecidableEq, Repr

/-- A vote message (R354). -/
structure Vote where
  kind : VoteKind
  accuser : Nat
  accused : Nat
  ts : Nat
  deriving DecidableEq, Repr

/-- What the error bank of R314 is told of an error. -/
structure ErrorInfo where
  ue : Bool
  kind : Nat
  ctx : Nat
  own : Bool
  cons : Bool
  addr : Word
  deriving DecidableEq, Repr

/-- What a PTP message brings (R346): its domain, port, master and times in ns. -/
structure PtpMsg where
  domain : Nat
  port : Nat
  master : Nat
  priority : Nat
  seq : Nat
  twoStep : Bool
  origin : Int
  udp : Bool := false
  deriving DecidableEq, Repr

/-- What the tests of one kindling find (R380): the steps that fail, those whose alternate path fails too, the step during
which power is lost, the failing parts, the time at which its steps end; and the first sample of the package power, of
the rail voltages of the islands from island 0 up, and of the sensors, sixteen of each layer from L0 up, which is taken within 1 µs of power-on (R4, R366). -/
structure KindlingInput where
  failed : List Nat
  altFailed : List Nat
  lostAt : Option Nat
  badTiles : List Nat
  badRouters : List Nat
  badDies : List Nat
  altDies : List Nat
  badFlues : List (Nat × Nat × Nat)
  sweepFails : List Nat
  darkWaves : List (Nat × Nat × Nat)
  ts : Word
  power : Nat
  volts : List (BitVec 12)
  temps : List (BitVec 16)
  deriving DecidableEq, Repr

/-- One reading of the regulators: the package power in W (R366) and the rail voltage of each island in mV, from island 0 up
(R4, R21). -/
structure Rails where
  power : Nat
  volts : List (BitVec 12)
  deriving DecidableEq, Repr

/-- A window of 2²⁴ bits received on a wavelength: its corrected bits, whether the wavelength has been up in all of it (R333). -/
structure BerWindow where
  bits : Nat
  up : Bool
  deriving DecidableEq, Repr

/-- A replay of a flue's beat (R151, R369): the cube operation whose beat it is, the boundary and the flue that it crossed, and
whether the replay failed. -/
structure FlueReplay where
  op : Nat
  boundary : Nat
  flue : Nat
  fails : Bool
  deriving DecidableEq, Repr

open Operands

/-- The rows of spec/opcode_table.json, one constructor each: the slot words with fields, the steps that the
part schedules for itself, the rows without fields, the steps that come from outside or from another step. -/
inductive Instr where
  /-- ADD: Writes the 64-bit wrapping sum of sa and sb to sd. (R94) -/
  | add (o : SR)
  /-- SUB: Writes sa minus sb, wrapping, to sd. (R94) -/
  | sub (o : SR)
  /-- AND: Writes the bitwise and of sa and sb to sd. (R94) -/
  | and (o : SR)
  /-- OR: Writes the bitwise or of sa and sb to sd. (R94) -/
  | or (o : SR)
  /-- XOR: Writes the bitwise xor of sa and sb to sd. (R94) -/
  | xor (o : SR)
  /-- SHL: Shifts sa left by sb[5:0] into sd. (R94) -/
  | shl (o : SR)
  /-- SHR: Shifts sa right logically by sb[5:0] into sd. (R94) -/
  | shr (o : SR)
  /-- SAR: Shifts sa right arithmetically by sb[5:0] into sd. (R94) -/
  | sar (o : SR)
  /-- MUL: Writes the low 64 bits of sa times sb to sd after 3 hc. (R94) -/
  | mul (o : SR)
  /-- MULHS: Writes the high 64 bits of the signed product to sd. (R94) -/
  | mulhs (o : SR)
  /-- MULHU: Writes the high 64 bits of the unsigned product to sd. (R94) -/
  | mulhu (o : SR)
  /-- MIN: Writes the signed minimum of sa and sb to sd. (R94) -/
  | min (o : SR)
  /-- MAX: Writes the signed maximum of sa and sb to sd. (R94) -/
  | max (o : SR)
  /-- MINU: Writes the unsigned minimum of sa and sb to sd. (R94) -/
  | minu (o : SR)
  /-- MAXU: Writes the unsigned maximum of sa and sb to sd. (R94) -/
  | maxu (o : SR)
  /-- CEQ: Writes 1 to sd if sa equals sb, else 0. (R94) -/
  | ceq (o : SR)
  /-- CNE: Writes 1 to sd if sa differs from sb, else 0. (R94) -/
  | cne (o : SR)
  /-- CLT: Writes 1 to sd if sa is signed-less than sb. (R94) -/
  | clt (o : SR)
  /-- CLE: Writes 1 to sd if sa is signed-less or equal to sb. (R94) -/
  | cle (o : SR)
  /-- CLTU: Writes 1 to sd if sa is unsigned-less than sb. (R94) -/
  | cltu (o : SR)
  /-- CLEU: Writes 1 to sd if sa is unsigned-less or equal to sb. (R94) -/
  | cleu (o : SR)
  /-- MOVNZ: Copies sa to sd when sb is nonzero, else keeps sd. (R94) -/
  | movnz (o : SR)
  /-- MOVZ: Copies sa to sd when sb is zero, else keeps sd. (R94) -/
  | movz (o : SR)
  /-- CLZ: Writes the count of leading zero bits of sa to sd. (R94) -/
  | clz (o : SR1)
  /-- CTZ: Writes the count of trailing zero bits of sa to sd. (R94) -/
  | ctz (o : SR1)
  /-- POPC: Writes the count of one bits of sa to sd. (R94) -/
  | popc (o : SR1)
  /-- BSWAP: Writes sa with its bytes reversed to sd. (R94) -/
  | bswap (o : SR1)
  /-- ADDI: Writes sa plus the sign-extended immediate to sd. (R94) -/
  | addi (o : SI)
  /-- ANDI: Writes sa and the zero-extended immediate to sd. (R94) -/
  | andi (o : SI)
  /-- ORI: Writes sa or the zero-extended immediate to sd. (R94) -/
  | ori (o : SI)
  /-- XORI: Writes sa xor the zero-extended immediate to sd. (R94) -/
  | xori (o : SI)
  /-- SHLI: Shifts sa left by an immediate count into sd. (R94) -/
  | shli (o : SH)
  /-- SHRI: Shifts sa right logically by an immediate count into sd. (R94) -/
  | shri (o : SH)
  /-- SARI: Shifts sa right arithmetically by an immediate count into sd. (R94) -/
  | sari (o : SH)
  /-- MULI: Writes the low 64 bits of sa times the signed immediate to sd. (R94) -/
  | muli (o : SI)
  /-- CEQI: Writes 1 to sd if sa equals the signed immediate. (R94) -/
  | ceqi (o : SI)
  /-- CNEI: Writes 1 to sd if sa differs from the signed immediate. (R94) -/
  | cnei (o : SI)
  /-- CLTI: Writes 1 to sd if sa is signed-less than the immediate. (R94) -/
  | clti (o : SI)
  /-- CLEI: Writes 1 to sd if sa is signed-less or equal to the immediate. (R94) -/
  | clei (o : SI)
  /-- CLTUI: Writes 1 to sd if sa is unsigned-less than the zero-extended immediate. (R94) -/
  | cltui (o : SI)
  /-- CLEUI: Writes 1 to sd if sa is unsigned-less or equal to the zero-extended immediate. (R94) -/
  | cleui (o : SI)
  /-- BFX: Extracts a zero-extended bit field of sa into sd. (R95) -/
  | bfx (o : SB)
  /-- BFXS: Extracts a sign-extended bit field of sa into sd. (R95) -/
  | bfxs (o : SB)
  /-- BFI: Inserts the low bits of sa into a field of sd. (R95) -/
  | bfi (o : SB)
  /-- SLI: Shifts sa left by the immediate width and ors in the unsigned immediate. (R94) -/
  | sli (o : SI)
  /-- BR: Branches unconditionally after one delay bundle. (R96) -/
  | br (o : ABr)
  /-- BRZ: Branches after the delay bundle when sa is zero. (R96) -/
  | brz (o : ABc)
  /-- BRNZ: Branches after the delay bundle when sa is nonzero. (R96) -/
  | brnz (o : ABc)
  /-- BRN: Branches after the delay bundle when sa is negative. (R96) -/
  | brn (o : ABc)
  /-- BRNN: Branches after the delay bundle when sa is not negative. (R96) -/
  | brnn (o : ABc)
  /-- CALL: Writes the link to sd and transfers to a relative target after a delay bundle. (R97) -/
  | call (o : ABl)
  /-- CALLR: Writes the link to sd and transfers to the address in sa. (R97) -/
  | callr (o : SR1)
  /-- JR: Transfers to the address in sa after a delay bundle. (R97) -/
  | jr (o : S1)
  /-- ADDA: Writes sa plus sb shifted by sh to sd in the A slot. (R98) -/
  | adda (o : AA)
  /-- ADDAI: Writes sa plus the signed immediate to sd in the A slot. (R98) -/
  | addai (o : SI)
  /-- LOOP: Sets up a hardware loop level with the count in sa. (R100) -/
  | loop (o : AL)
  /-- LOOPI: Sets up a hardware loop level with an immediate count. (R100) -/
  | loopi (o : ALI)
  /-- LEXIT: Leaves a loop level and every deeper level after one delay bundle. (R102) -/
  | lexit (o : AX)
  /-- FLD_B: Loads one zero-extended floor byte into sd. (R175) -/
  | fldB (o : MSl)
  /-- FLD_H: Loads two zero-extended floor bytes into sd. (R175) -/
  | fldH (o : MSl)
  /-- FLD_W: Loads four zero-extended floor bytes into sd. (R175) -/
  | fldW (o : MSl)
  /-- FLD_D: Loads eight floor bytes into sd. (R175) -/
  | fldD (o : MSl)
  /-- FST_B: Stores the low byte of sc to the floor. (R175) -/
  | fstB (o : MSs)
  /-- FST_H: Stores the low two bytes of sc to the floor. (R175) -/
  | fstH (o : MSs)
  /-- FST_W: Stores the low four bytes of sc to the floor. (R175) -/
  | fstW (o : MSs)
  /-- FST_D: Stores all eight bytes of sc to the floor. (R175) -/
  | fstD (o : MSs)
  /-- VLD: Loads 512 floor bytes into the active lanes of vd. (R176) -/
  | vld (o : MVl)
  /-- VST: Stores the active lanes of vc to 512 floor bytes. (R176) -/
  | vst (o : MVs)
  /-- VGATH: Gathers one floor word per active lane into vd. (R177) -/
  | vgath (o : MGl)
  /-- VSCAT: Scatters the active lanes of vc to floor words in ascending lane order. (R177) -/
  | vscat (o : MGs)
  /-- WLD: Loads 512 well bytes into the active lanes of vd. (R176) -/
  | wld (o : MVl)
  /-- WST: Stores the active lanes of vc to 512 well bytes. (R176) -/
  | wst (o : MVs)
  /-- LOOKUP: Looks up the slot holding the tag in sa and writes a hit, filling or miss code to sd. (R174) -/
  | lookup (o : SR1)
  /-- TAGSET: Sets the tag and pin state of a floor slot. (R174) -/
  | tagset (o : SS)
  /-- TAGINV: Removes the tag of a valid or pinned floor slot. (R174) -/
  | taginv (o : S1)
  /-- TAGRD: Reads a slot's tag, or its state code and owner, into sd. (R174) -/
  | tagrd (o : SR1)
  /-- GLD: Marks sd empty and starts a global load of 8 bytes from a local page. (R268) -/
  | gld (o : MSl)
  /-- GST: Posts a global store of 8 bytes to a local page. (R268) -/
  | gst (o : MSs)
  /-- RLD: Marks sd empty, parks the task and starts a remote load. (R268) -/
  | rld (o : MSl)
  /-- RST: Posts a remote store of 8 bytes through the link send queue. (R268) -/
  | rst (o : MSs)
  /-- VADD_F32: Adds FP32 lanes. (R117) -/
  | vaddF32 (o : VR)
  /-- VSUB_F32: Subtracts FP32 lanes. (R117) -/
  | vsubF32 (o : VR)
  /-- VMUL_F32: Multiplies FP32 lanes. (R117) -/
  | vmulF32 (o : VR)
  /-- VFMA_F32: Fused multiply-adds FP32 lanes with one rounding. (R117) -/
  | vfmaF32 (o : VR3)
  /-- VMIN_F32: Takes the lesser of FP32 lanes. (R117) -/
  | vminF32 (o : VR)
  /-- VMAX_F32: Takes the greater of FP32 lanes. (R117) -/
  | vmaxF32 (o : VR)
  /-- VADD_BF16: Adds BF16 elements under fmt.sat. (R117) -/
  | vaddBf16 (o : VR)
  /-- VMUL_BF16: Multiplies BF16 elements under fmt.sat. (R117) -/
  | vmulBf16 (o : VR)
  /-- VFMA_BF16: Fused multiply-adds BF16 elements. (R117) -/
  | vfmaBf16 (o : VR3)
  /-- VADD_F16: Adds FP16 elements under fmt.sat. (R117) -/
  | vaddF16 (o : VR)
  /-- VMUL_F16: Multiplies FP16 elements under fmt.sat. (R117) -/
  | vmulF16 (o : VR)
  /-- VFMA_F16: Fused multiply-adds FP16 elements. (R117) -/
  | vfmaF16 (o : VR3)
  /-- VADD_I32: Adds 32-bit integer lanes, wrapping. (R118) -/
  | vaddI32 (o : VR)
  /-- VSUB_I32: Subtracts 32-bit integer lanes, wrapping. (R118) -/
  | vsubI32 (o : VR)
  /-- VMUL_I32: Multiplies 32-bit integer lanes, keeping the low half. (R118) -/
  | vmulI32 (o : VR)
  /-- VMIN_I32: Takes the signed minimum of lanes. (R118) -/
  | vminI32 (o : VR)
  /-- VMAX_I32: Takes the signed maximum of lanes. (R118) -/
  | vmaxI32 (o : VR)
  /-- VAND: Bitwise and of lanes. (R118) -/
  | vand (o : VR)
  /-- VOR: Bitwise or of lanes. (R118) -/
  | vor (o : VR)
  /-- VXOR: Bitwise xor of lanes. (R118) -/
  | vxor (o : VR)
  /-- VSHL: Shifts lanes left. (R118) -/
  | vshl (o : VR)
  /-- VSHR: Shifts lanes right logically. (R118) -/
  | vshr (o : VR)
  /-- VSAR: Shifts lanes right arithmetically. (R118) -/
  | vsar (o : VR)
  /-- VADD_I16: Adds 16-bit elements, wrapping. (R118) -/
  | vaddI16 (o : VR)
  /-- VSUB_I16: Subtracts 16-bit elements, wrapping. (R118) -/
  | vsubI16 (o : VR)
  /-- VADDS_I16: Adds 16-bit elements with saturation. (R118) -/
  | vaddsI16 (o : VR)
  /-- VMUL_I16: Multiplies 16-bit elements, keeping the low half. (R118) -/
  | vmulI16 (o : VR)
  /-- VCMPEQ_F32: Writes a predicate of FP32 equality. (R119) -/
  | vcmpeqF32 (o : VP)
  /-- VCMPLT_F32: Writes a predicate of FP32 less-than. (R119) -/
  | vcmpltF32 (o : VP)
  /-- VCMPLE_F32: Writes a predicate of FP32 less-or-equal. (R119) -/
  | vcmpleF32 (o : VP)
  /-- VCMPEQ_I32: Writes a predicate of integer equality. (R119) -/
  | vcmpeqI32 (o : VP)
  /-- VCMPLT_I32: Writes a predicate of signed less-than. (R119) -/
  | vcmpltI32 (o : VP)
  /-- VSEL: Selects each lane from va or vb by the predicate. (R120) -/
  | vsel (o : VR)
  /-- VPERM: Permutes lanes of va by indices in vb. (R120) -/
  | vperm (o : VR)
  /-- VBCAST: Broadcasts the low 32 bits of sa to active lanes. (R120) -/
  | vbcast (o : VB)
  /-- VEXT: Extracts one lane of va into sd. (R120) -/
  | vext (o : VX)
  /-- VREDSUM_F32: Sums active FP32 lanes by the fixed tree into sd. (R121) -/
  | vredsumF32 (o : VQ)
  /-- VREDMAX_F32: Takes the maximum of active FP32 lanes into sd. (R121) -/
  | vredmaxF32 (o : VQ)
  /-- VREDMIN_F32: Takes the minimum of active FP32 lanes into sd. (R121) -/
  | vredminF32 (o : VQ)
  /-- VREDSUM_I32: Sums active integer lanes, wrapping, into sd. (R121) -/
  | vredsumI32 (o : VQ)
  /-- VCVT: Converts elements 0 to 127 between the formats named by from and to. (R122) -/
  | vcvt (o : VC)
  /-- VCVT_F32_I16: Converts INT16 elements to FP32 exactly. (R123) -/
  | vcvtF32I16 (o : VR1)
  /-- VCVT_I16_F32: Converts FP32 elements to saturated INT16. (R123) -/
  | vcvtI16F32 (o : VR1)
  /-- VRCP_F32: Computes the correctly rounded reciprocal of lanes. (R124) -/
  | vrcpF32 (o : VR1)
  /-- VRSQRT_F32: Computes the correctly rounded reciprocal square root. (R124) -/
  | vrsqrtF32 (o : VR1)
  /-- VEXP2_F32: Computes 2 to the power of each lane. (R124) -/
  | vexp2F32 (o : VR1)
  /-- VLOG2_F32: Computes the base-2 logarithm of each lane. (R124) -/
  | vlog2F32 (o : VR1)
  /-- VTANH_F32: Computes the hyperbolic tangent of each lane. (R124) -/
  | vtanhF32 (o : VR1)
  /-- VGLY: Decodes sixteen GLY2 glyphs into 128 FP32 lanes. (R125) -/
  | vgly (o : VG)
  /-- VBSCALE: Applies block scales from lane 0 of vb to the FP32 lanes of va. (R126) -/
  | vbscale (o : VR)
  /-- TRIN: Stores va as the next transposer row. (R128) -/
  | trin (o : TI)
  /-- TPOP: Marks vd empty and requests the next transposed output vector. (R128) -/
  | tpop (o : TP)
  /-- TMODE: Clears the transposer and sets its element width. (R128) -/
  | tmode (o : TM)
  /-- MVL: Writes sa to an engine latch. (R186) -/
  | mvl (o : EL)
  /-- MVLI: Writes a sign-extended immediate to an engine latch. (R186) -/
  | mvli (o : EI)
  /-- MVLH: Writes an immediate to the high bits of an engine latch. (R186) -/
  | mvlh (o : EI)
  /-- MVS: Reads an engine latch into sd. (R186) -/
  | mvs (o : ES)
  /-- TRIG_CPY: Triggers a plain copy command, optionally with a follow-on cube operation. (R189) -/
  | trigCpy (o : ECp)
  /-- TRIG_CPY_AW_ADD: Triggers an accumulate-on-write add copy. (R198) -/
  | trigCpyAwAdd (o : ECa)
  /-- TRIG_CPY_AW_MIN: Triggers an accumulate-on-write minimum copy. (R198) -/
  | trigCpyAwMin (o : ECa)
  /-- TRIG_CPY_AW_MAX: Triggers an accumulate-on-write maximum copy. (R198) -/
  | trigCpyAwMax (o : ECa)
  /-- TRIG_CPY_AW_AND: Triggers an accumulate-on-write and copy. (R198) -/
  | trigCpyAwAnd (o : ECa)
  /-- TRIG_CPY_AW_OR: Triggers an accumulate-on-write or copy. (R198) -/
  | trigCpyAwOr (o : ECa)
  /-- TRIG_CPY_AW_XOR: Triggers an accumulate-on-write xor copy. (R198) -/
  | trigCpyAwXor (o : ECa)
  /-- TRIG_CPY_FADD: Triggers a returning fetch-and-add whose old value goes to sd. (R199) -/
  | trigCpyFadd (o : ECr)
  /-- TRIG_CPY_SWAP: Triggers a returning swap whose old value goes to sd. (R199) -/
  | trigCpySwap (o : ECr)
  /-- TRIG_CPY_CAS: Triggers a returning compare-and-swap whose old value goes to sd. (R199) -/
  | trigCpyCas (o : ECr)
  /-- TRIG_CUBE: Snapshots the cube latches and fmt and triggers a cube operation. (R143) -/
  | trigCube (o : TP)
  /-- TRIG_NIB: Snapshots the nib latches and fmt and issues a nib request. (R162) -/
  | trigNib (o : TP)
  /-- EWAIT: Parks the task until the named engine's earlier work has ended. (R196) -/
  | ewait (o : EW)
  /-- WMWAIT: Parks the task until a watermark channel reaches sa or is idle. (R195) -/
  | wmwait (o : EM)
  /-- TRAP: Raises a software-trap fault on a tile core or enters the bellows handler. (R109) -/
  | trap (o : CI)
  /-- RDSR: Reads a system register into sd. (R111) -/
  | rdsr (o : CSr)
  /-- WRSR: Writes sa to a system register. (R111) -/
  | wrsr (o : CSw)
  /-- RDTS: Reads the global timestamp counter into sd. (R111) -/
  | rdts (o : SD)
  /-- SETFMT: Writes the fmt register with a 4 hc delay. (R159) -/
  | setfmt (o : CI)
  /-- BAR: Arrives at a row, column or group barrier with a tag and parks until release. (R244) -/
  | bar (o : CI)
  /-- RDV: Arrives at the group rendezvous with a tag and parks until delivery completes. (R245) -/
  | rdv (o : CI)
  /-- PROBE: Marks sd empty and walks the published wait edges from a start unit. (R250) -/
  | probe (o : SR1)
  /-- SEAL: Places a seal request for a plain region with the region unit. (R225) -/
  | seal (o : S1)
  /-- UNSEAL: Places an unseal request for a plain region. (R225) -/
  | unseal (o : S1)
  /-- PUB: Places an exchange request for a publish region. (R225) -/
  | pub (o : S1)
  /-- WSWAP: Places an exchange request for a weight-bank pair at timestamp sb. (R225) -/
  | wswap (o : SS)
  /-- PFH: Places a prefetch hint for a tile handle in the tile's hint queue. (R207) -/
  | pfh (o : SS)
  /-- FIXED_LATENCY_WRITE: A fixed-latency result or store becomes written or visible at its issue hc plus its latency. (R66) -/
  | fixedLatencyWrite (t k : Nat)
  /-- PREFETCH_EXPANSION: The prefetch engine expands a segment into a loop-buffer half one bundle per hc. (R79) -/
  | prefetchExpansion (t h : Nat)
  /-- ISSUE_SELECTION: The core chooses the earliest-ready task, which may issue two hc later. (R92) -/
  | issueSelection (t : Nat)
  /-- PREEMPT_DRAIN_HOLD: After the pipeline drain the task becomes held with beg and idx set to lim. (R106) -/
  | preemptDrainHold (t k : Nat)
  /-- TASK_RETIRE: A halted task retires once none of its long-latency results is outstanding. (R108) -/
  | taskRetire (t k : Nat)
  /-- TPOP_RESULT: An outstanding pop writes its transposed vector once its block is complete. (R129) -/
  | tpopResult (t n : Nat)
  /-- CUBE_RESOLUTION: In the hc after acceptance the cube resolves handles and checks the operation. (R145) -/
  | cubeResolution (t n : Nat)
  /-- CUBE_CHUNK_FILL_END: A missing chunk's fill from HBM lands and the slot becomes valid. (R146) -/
  | cubeChunkFillEnd (t n c : Nat)
  /-- CUBE_STAGING_END: The last chunk reaches its well half and the operation becomes staged. (R147) -/
  | cubeStagingEnd (t n : Nat)
  /-- CUBE_RUN_START: A staged operation starts its skewed run once its layers are free. (R149) -/
  | cubeRunStart (t n : Nat)
  /-- CUBE_RUN_END: The operation completes its c_k + 254 run steps. (R150) -/
  | cubeRunEnd (t n : Nat)
  /-- CUBE_RISE_END: The partial sums finish rising and the operation becomes ready to drain. (R153) -/
  | cubeRiseEnd (t n : Nat)
  /-- CUBE_DRAIN_START: An operation awaiting drain takes its turn on the falling flue. (R154) -/
  | cubeDrainStart (t n : Nat)
  /-- CUBE_DRAIN_END: The drain writes floor slots and vd, compares checksums and sets done bits. (R153) -/
  | cubeDrainEnd (t n : Nat)
  /-- NIB_RESOLUTION: The nib port resolves the weight handle and checks the request. (R162) -/
  | nibResolution (t n : Nat)
  /-- NIB_REQUEST_COMPLETE: The nib groups' result vector is written to vd. (R163) -/
  | nibRequestComplete (t n : Nat)
  /-- COPY_START: A queued command starts on its free engine, claiming or evicting slots after its start checks. (R191) -/
  | copyStart (t e : Nat)
  /-- COPY_LANDING: Bytes or elements of a copy land at a destination port and the watermark rises. (R194) -/
  | copyLanding (t e n : Nat)
  /-- COPY_COMPLETE: A copy's last byte lands or last element is acknowledged and it completes. (R184) -/
  | copyComplete (t e : Nat)
  /-- FOLLOW_ON_CUBE: A completed copy presents its follow-on snapshot to the cube as a trigger. (R197) -/
  | followOnCube (t e : Nat)
  /-- AW_PORT_APPLY: A port applies an accumulate-on-write element indivisibly. (R198) -/
  | awPortApply (t e : Nat)
  /-- ATOMIC_PORT_ARRIVAL: A returning atomic arrives at its port and is answered from record, performed or refused. (R201) -/
  | atomicPortArrival (q : AtomReq)
  /-- ATOMIC_REPLY_ARRIVAL: An atomic reply reaches its engine and writes sd and cpyN.out. (R200) -/
  | atomicReplyArrival (r : AtomReply)
  /-- ATOMIC_RETRY_EXPIRY: No reply after the retry interval resends the atomic or ends it as OUTCOME_UNKNOWN. (R202) -/
  | atomicRetryExpiry (t e id : Nat)
  /-- COMBINE_REQUEST_ARRIVAL: A combinable fetch-and-add arrives at a router and is appended, opens an entry or passes. (R203) -/
  | combineRequestArrival (router : Nat) (q : AtomReq)
  /-- COMBINE_WINDOW_EXPIRY: An entry's hold time ends or its list fills, and the summed request is forwarded. (R203) -/
  | combineWindowExpiry (router id : Nat)
  /-- DECOMBINE_REPLY_ARRIVAL: A combined reply reaches its router and is split to the components. (R205) -/
  | decombineReplyArrival (router id : Nat) (r : AtomReply)
  /-- DECOMBINE_RECORD_TIMEOUT: A decombining record with no reply within the record window is discarded. (R205) -/
  | decombineRecordTimeout (router id : Nat)
  /-- HINT_DEADLINE_EXPIRY: A hint whose deadline passes before it starts is dropped and counted. (R207) -/
  | hintDeadlineExpiry (t n : Nat)
  /-- GLOBAL_LOAD_REPLY: A gld, rld or probe result arrives and fills its destination register. (R268) -/
  | globalLoadReply (t k n : Nat)
  /-- GLOBAL_WRITE_PERFORM: A global write is performed at its home bank in per-source order. (R255) -/
  | globalWritePerform (t k : Nat)
  /-- SSHARE_STORE_ARRIVAL: A store to step-shared space arrives at the floor port and updates the next plane by the region rule. (R217) -/
  | sshareStoreArrival (t addr rank bytes : Nat) (v : Word)
  /-- PROBE_WALK_END: The probe walk ends and writes its outcome to sd. (R250) -/
  | probeWalkEnd (t k n : Nat)
  /-- SEAL_TAKES_EFFECT: At Tseal the region becomes sealed and its descriptor fields are written. (R223) -/
  | sealTakesEffect (c n : Nat)
  /-- UNSEAL_TAKES_EFFECT: At Tun, after replicas and caches are dropped, the region becomes unsealed. (R224) -/
  | unsealTakesEffect (c n : Nat)
  /-- PUB_EXCHANGE: At T the written pages of a publish region make their next plane present. (R220) -/
  | pubExchange (c n : Nat)
  /-- WSWAP_EXCHANGE: At T' the halves of a weight-bank pair exchange. (R222) -/
  | wswapExchange (c n : Nat)
  /-- REGION_DESCRIPTOR_READ: The region unit reads a request's descriptor and raises a region fault if it is rejected. (R226) -/
  | regionDescriptorRead (c n : Nat)
  /-- GROUP_PLACEMENT: The dispatcher places a forming group on a free rectangle. (R229) -/
  | groupPlacement (g : Nat)
  /-- BARRIER_DRAIN_END: A step or rdv instance's posted traffic has drained. (R241) -/
  | barrierDrainEnd (g : Nat) (b : BarrierId)
  /-- STEP_EXCHANGE: At t_x every member's step-shared space is resolved and exchanged. (R240) -/
  | stepExchange (g : Nat)
  /-- BARRIER_RELEASE: The instance releases and every member's wait ends. (R238) -/
  | barrierRelease (g : Nat) (b : BarrierId)
  /-- BAR_COMPLETE: A bar instance completes its count after the last arrival. (R242) -/
  | barComplete (g : Nat) (b : BarrierId)
  /-- QUEUE_ADMISSION: Every 250 ns the dispatcher admits a ready queue's head record. (R289) -/
  | queueAdmission (q : Nat)
  /-- TIMETABLE_SLOT_START: A timetable slot starts and maps its entry's queue. (R294) -/
  | timetableSlotStart (slot : Nat)
  /-- TIMETABLE_SLOT_END: A slot ends, releasing its queue and counting a miss if nothing was accepted. (R294) -/
  | timetableSlotEnd (slot : Nat)
  /-- PLACEMENT_TIMEOUT: A group forming past ptmo, or unplaceable, is removed with status 4. (R291) -/
  | placementTimeout (g : Nat)
  /-- HALT_LINE_ARRIVAL: The halt line reaches a tile, which stops issue and opens stop records. (R303) -/
  | haltLineArrival (c t : Nat)
  /-- STOP_RECORD_CLOSE: A stop record closes when its awaited replies end; the last closes the halt. (R303) -/
  | stopRecordClose (c : Nat)
  /-- PREEMPT_ATOMIC_TIMEOUT: After 100 µs held, unanswered atomic IDs are saved as unanswered. (R209) -/
  | preemptAtomicTimeout (c : Nat)
  /-- PREEMPT_SAVE_END: The save area is written and the pre-empted context becomes saved. (R308) -/
  | preemptSaveEnd (c : Nat)
  /-- RESTORE_PLACEMENT: A pending restore places the groups once their tiles are free and writes state back. (R233) -/
  | restorePlacement (c : Nat)
  /-- RESTORE_RESUME: At t_r every tile's queues of the restored context resume. (R309) -/
  | restoreResume (c : Nat)
  /-- SENSOR_SAMPLE: Sensors are sampled every 1 µs and the critical rule and alert are judged. (R366) -/
  | sensorSample (power : Rails) (temps : List (BitVec 16))
  /-- SCRUB_END: A destroyed context's scrub ends and it becomes empty. (R299) -/
  | scrubEnd (c : Nat)
  /-- TRANSLATION_WALK_END: A page walk completes, filling the TLBs or raising a translation fault. (R318) -/
  | translationWalkEnd (n : Nat)
  /-- REMOTE_TRANSLATION_RETRY: An unanswered remote translation is resent or faults 0x2D. (R322) -/
  | remoteTranslationRetry (n : Nat)
  /-- FRAME_ZEROING_END: A mapped frame finishes zeroing and its leaf becomes valid. (R326) -/
  | frameZeroingEnd (c : Nat) (va : Word)
  /-- FRAME_FREED: An invalidating frame becomes free once old accesses and holders are done. (R326) -/
  | frameFreed (n : Nat)
  /-- HELD_MESSAGE_APPLY: A waiting remote message is applied once its causal condition holds. (R262) -/
  | heldMessageApply (n : Nat)
  /-- CAUSAL_WAIT_LIMIT: A message waiting beyond sr.cwait.lim is reported. (R262) -/
  | causalWaitLimit (n : Nat)
  /-- CIRCUIT_SLOT_START: A circuit slot's guard or data window begins and ports connect to their peers. (R334) -/
  | circuitSlotStart (slot : Nat) (data : Bool)
  /-- MESSAGE_SEND: A connected port takes flits of a queued message that fit the data window. (R335) -/
  | messageSend (peer : Nat)
  /-- LINK_COMMAND_TAKE: The link send port takes a command, routes it and queues its write messages. (R343) -/
  | linkCommandTake (t : Nat)
  /-- LINK_RESEND_EXPIRY: An uncovered message is resent, or its peer becomes unreachable. (R340) -/
  | linkResendExpiry (peer seq : Nat)
  /-- LINK_ACK_TIMER: A receiver with nothing else to send emits a link acknowledgement within 2 µs. (R340) -/
  | linkAckTimer (peer : Nat)
  /-- PARK_DECISION: An idle fibre parks its highest up wavelength. (R332) -/
  | parkDecision (port fib : Nat)
  /-- WAKE_END: 400 ns after the trigger the waking wavelengths are announced to join. (R330) -/
  | wakeEnd (port fib : Nat)
  /-- LINK_CHANGE_EFFECT: An announced wavelength change applies at the next flit boundary. (R387) -/
  | linkChangeEffect (port fib : Nat)
  /-- HEARTBEAT_SEND: Every 1,000 ns a tile sends a signed beat to each neighbour. (R352) -/
  | heartbeatSend (t : Nat)
  /-- HEARTBEAT_RECEIVE: A beat is judged good or a babble event, possibly accusing or withdrawing. (R353) -/
  | heartbeatReceive (t dir : Nat) (b : Beat)
  /-- HEARTBEAT_SILENCE: No good beat for 4,050 ns makes the neighbour silent and accused. (R353) -/
  | heartbeatSilence (t dir : Nat)
  /-- VOTE_MESSAGE: A vote message is recorded and forwarded, possibly completing a quorum. (R354) -/
  | voteMessage (t : Nat) (v : Vote)
  /-- FENCE_DECLARATION: At td a fence is applied: routers close and the tile is zeroed. (R355) -/
  | fenceDeclaration (t : Nat)
  /-- SWEEP_START: The tile in turn begins its sweep once free. (R359) -/
  | sweepStart (t : Nat)
  /-- SWEEP_WAIT_EXPIRY: A tile not free within wait ms is skipped. (R359) -/
  | sweepWaitExpiry (t : Nat)
  /-- APPEAL_ACCEPT: At ta the appealing tile rejoins as free. (R360) -/
  | appealAccept (t : Nat)
  /-- APPEAL_TIMEOUT: An appeal without quorum in 100 µs is refused. (R360) -/
  | appealTimeout (t : Nat)
  /-- ISLAND_RESTART_END: A restarted island's clocks run again. (R21) -/
  | islandRestartEnd (isl : Nat)
  /-- SWEEP_END: A sweep passes, updating lastpass, or fails with a suspect window. (R358) -/
  | sweepEnd (t pat : Nat) (pass : Bool)
  /-- CFENCE: Issues once every earlier access and accepted command of the slot has been performed or ended. (R269) -/
  | cfence
  /-- TCLR: Frees both transposer blocks and completes outstanding pops with zeros. (R128) -/
  | tclr
  /-- TRIG_LNK: Snapshots the link latches and queues a link send command. (R343) -/
  | trigLnk
  /-- NOP: Has no effect. (R108) -/
  | nop
  /-- HALT: Ends the task after its long-latency results, or idles the bellows core until an interrupt. (R108) -/
  | halt
  /-- ERET: Returns from the bellows handler to sr.epc and clears inh. (R109) -/
  | eret
  /-- STEP: Arrives at the group's step barrier and parks until the superstep completes. (R239) -/
  | step
  /-- KSYNC: Empties the code buffer and marks both loop-buffer halves stale. (R280) -/
  | ksync
  /-- ROTATION_BOUNDARY: Every 100 µs the mapper releases and maps untimed queues. (R288) -/
  | rotationBoundary
  /-- KEY_REAGREEMENT: Pair secrets are re-agreed when a traffic key's tx reaches 2^55. (R339) -/
  | keyReagreement
  /-- PPS_EDGE: A 1PPS edge loads the timestamp counter from sr.todnext. (R347) -/
  | ppsEdge
  /-- SWEEP_ROTATION: Every ivl ms the rotation advances to the next tile. (R359) -/
  | sweepRotation
  /-- DAMPER_EVALUATION: At every ivl boundary the damper re-chooses each layer's step. (R367) -/
  | damperEvaluation
  /-- INTERRUPT_ENTRY: The bellows core enters its handler on an enabled pending interrupt. (R110) -/
  | interruptEntry
  /-- TTSTAT_READ: A read returns timetable status and clears the overrun and miss counts. (R296) -/
  | ttstatRead
  /-- LNKCNT_READ: A read returns link error counters and clears them. (R348) -/
  | lnkcntRead
  /-- PPS_LOCK_LOST: With src = 1PPS, lock is lost when no edge arrives within 1 s plus 1 µs of the last one. (R347) -/
  | ppsLockLost
  /-- ILLEGAL_INSTRUCTION_WORD: A slot word whose opcode the opcode map marks — reaches the head of its queue and raises a precise illegal-instruction fault. (R55) -/
  | illegalInstructionWord
  /-- POWER_LOSS: Loss of package power ends all activity at once and leaves only the boot record in flash, with any running step at st = 1. (R381) -/
  | powerLoss
  /-- SYNC_BUNDLE_ISSUE: A sync bundle's slots issue together once all earlier entries and fixed-latency results are done. (R73) -/
  | syncBundleIssue (t k : Nat)
  /-- BUFFER_MISS: A target outside both halves abandons expansion and expands the target's segment. (R79) -/
  | bufferMiss (t k : Nat) (target : Word)
  /-- LOOP_ITERATION_END: At the end of the last body bundle the loop engine advances the iteration or ends the level. (R101) -/
  | loopIterationEnd (t k : Nat)
  /-- FLUE_BEAT_REPLAY: A flue beat with a corrected soft error is replayed, holding the operation 2 hc. (R151) -/
  | flueBeatReplay (t : Nat) (n : FlueReplay)
  /-- ATOMIC_RECORD_AGING: An atomic record ages past 1 ms and frees room at its port. (R201) -/
  | atomicRecordAging (p : Port)
  /-- HINT_START: An idle engine takes the oldest hint and fills its missing chunks. (R207) -/
  | hintStart (t e : Nat)
  /-- NOTICE_ARRIVAL: A router notice ends an agent's work towards a fenced or retired tile without fault. (R357) -/
  | noticeArrival (t e : Nat)
  /-- QUEUE_DOORBELL: A doorbell write commits the record window to the ring or discards it. (R282) -/
  | queueDoorbell (q : Nat) (window : List (Nat × Byte))
  /-- PREEMPTION_REQUEST: The dispatcher requests pre-emption of a context for a class 3 or hard-slot launch. (R290) -/
  | preemptionRequest (c : Nat)
  /-- REWIND_SNAPSHOT: Entry to a rewindable segment issues its first bundle and takes a snapshot. (R310) -/
  | rewindSnapshot (t k : Nat)
  /-- UE_CONSUMPTION: A corrupted value is consumed and causes a rewind or a fault. (R311) -/
  | ueConsumption (t k entry bank : Nat) (addr : Word)
  /-- ERROR_BANK_UPDATE: A detected error updates its error bank record. (R314) -/
  | errorBankUpdate (bank : Nat) (e : ErrorInfo)
  /-- WRITE_MESSAGE: A remote write message is applied at the target and acknowledged. (R341) -/
  | writeMessage (m : Msg)
  /-- READ_MESSAGE: A remote read message is performed and answered with a read reply. (R341) -/
  | readMessage (m : Msg)
  /-- READ_REPLY: A read reply returns the value of a remote load. (R268) -/
  | readReply (m : Msg)
  /-- ATOMIC_MESSAGE: A remote atomic is handled under its record and answered. (R341) -/
  | atomicMessage (m : Msg)
  /-- ATOMIC_REPLY: A remote atomic reply ends the request at its engine. (R200) -/
  | atomicReply (m : Msg)
  /-- WRITE_ACKNOWLEDGEMENT: A write acknowledgement makes a remote write performed at its source. (R255) -/
  | writeAcknowledgement (m : Msg)
  /-- NOTICE_MESSAGE: A link notice refuses a remote access and faults the source. (R341) -/
  | noticeMessage (m : Msg)
  /-- TRANSLATION_REQUEST: A target walks its tables and grants or refuses a remote translation. (R322) -/
  | translationRequest (m : Msg)
  /-- TRANSLATION_REPLY: A granted translation is cached as a remote entry, or a refusal faults 0x2C. (R322) -/
  | translationReply (m : Msg)
  /-- INVALIDATION: A holder drops a remote translation and acknowledges when its accesses are answered. (R324) -/
  | invalidation (m : Msg)
  /-- INVALIDATION_ACKNOWLEDGEMENT: The target clears the holder's bit and frees the export entry at zero. (R324) -/
  | invalidationAcknowledgement (m : Msg)
  /-- CLOCK_ONLY: A clock-only message carries causal clock records. (R261) -/
  | clockOnly (m : Msg)
  /-- LINK_ACKNOWLEDGEMENT: A link acknowledgement's rack releases the sender's covered messages. (R340) -/
  | linkAcknowledgement (m : Msg)
  /-- TRAINING_END: Training of a wavelength passes or fails. (R331) -/
  | trainingEnd (port fib lam : Nat) (pass : Bool)
  /-- WAKE_TRIGGER: Queue depth or an upcoming slot starts waking the parked wavelengths. (R332) -/
  | wakeTrigger (port : Nat)
  /-- BER_WINDOW_CLOSE: A receiver closes a corrected-bit window and orders a hand-out if over the limit. (R333) -/
  | berWindowClose (port fib lam : Nat) (bits : BerWindow)
  /-- HAND_OUT: A hand-out order reaches the sender, which removes the wavelength for retraining. (R333) -/
  | handOut (port fib lam : Nat)
  /-- RETRAIN_ATTEMPT_END: A retrain attempt passes and hands the wavelength back, or fails and retries or goes dark. (R388) -/
  | retrainAttemptEnd (port fib lam bits lim : Nat) (rx : Bool)
  /-- PTP_SYNC: A PTP sync message disciplines the timestamp counter. (R346) -/
  | ptpSync (p : PtpMsg)
  /-- PTP_FOLLOW_UP: A two-step master's follow-up supplies the sync timestamp. (R346) -/
  | ptpFollowUp (p : PtpMsg)
  /-- PTP_DELAY_RESP: A delay response completes the delay request-response measurement. (R346) -/
  | ptpDelayResp (p : PtpMsg)
  /-- PTP_ANNOUNCE: An announce message feeds the best master clock algorithm. (R346) -/
  | ptpAnnounce (p : PtpMsg)
  /-- GROUP_RETIREMENT: After every triggered operation ends the retiring group ceases to exist. (R228) -/
  | groupRetirement (g : Nat)
  /-- NOT_BEFORE_TIME_REACHED: A mapped queue blocked on its head record's nbt becomes ready when the global timestamp counter reaches nbt. (R286) -/
  | notBeforeTimeReached (q : Nat)
  /-- PENDING_WRITE_APPLY: A pending-write entry is written at t_r plus its remaining latency. (R309) -/
  | pendingWriteApply (t k : Nat)
  /-- FLUE_RETIREMENT: A failing flue is retired and detoured. (R369) -/
  | flueRetirement (t b f : Nat)
  /-- FLOOR_BANK_REPAIR_END: A floor bank's port repair ends and the bank resumes. (R371) -/
  | floorBankRepairEnd (t f : Nat) (lands : Bool)
  /-- BOND_SUSPECT_DROOP: A bond-suspect droop stops the tile's beats or is logged for hearth islands. (R372) -/
  | bondSuspectDroop (isl : Nat)
  /-- KINDLING: After reset the bellows core runs boot steps K0 to K15. (R380) -/
  | kindling (r : KindlingInput)
  /-- CREATE: Creates a context, generates keys and assigns its queues. (R378) -/
  | create (w : List Byte)
  /-- LOAD: Writes bytes into a loading context's memory and extends its measurement. (R378) -/
  | load (w : List Byte)
  /-- QUEUE_SET: Writes a queue's ring fields during loading. (R378) -/
  | queueSet (w : List Byte)
  /-- FINALISE: Closes the measurement, issues the attestation report and enables the queues. (R378) -/
  | finalise (w : List Byte)
  /-- MAP: Writes a page leaf and starts zeroing its frame. (R378) -/
  | map (w : List Byte)
  /-- UNMAP: Invalidates a mapped page. (R378) -/
  | unmap (w : List Byte)
  /-- QUEUE_ENABLE: Enables a queue of the context. (R378) -/
  | queueEnable (w : List Byte)
  /-- SAVE: Saves a halted context into its save area. (R378) -/
  | save (w : List Byte)
  /-- RESTORE: Restores a saved context, pending until its tiles are free. (R378) -/
  | restore (w : List Byte)
  /-- DESTROY: Destroys a context and begins its scrub. (R378) -/
  | destroy (w : List Byte)
  /-- READ_BOOT_RECORD: Returns the boot record in the response window. (R378) -/
  | readBootRecord (w : List Byte)
  /-- READ_IDENTITY: Returns the part, firmware version and identity key. (R378) -/
  | readIdentity (w : List Byte)
  /-- SEAL_COMMAND: Seals a plain region of a context from the management page. (R378) -/
  | sealCommand (w : List Byte)
  /-- RESET_REQUEST: A write of the reset word to the management page resets the package. (R376) -/
  | resetRequest (x : Word32)
  /-- ISLCTL_WRITE: Sets an island's voltage and stops or restarts its clocks. (R21) -/
  | islctlWrite (x : Word)
  /-- CGRP_WRITE: A change of the connected group waits for quiet links, then agrees pair secrets. (R337) -/
  | cgrpWrite (x : Word)
  /-- DMPCTL_WRITE: Writes damper control, keeping dmin and dmax unless dmax stays at or above dmin. (R368) -/
  | dmpctlWrite (x : Word)
  /-- ERRST_CLEAR: Writing 1 to v clears the selected error bank record and counts. (R315) -/
  | errstClear (x : Word)
  /-- BIRQ_CLEAR: Writing 1s clears pending interrupt lines. (R382) -/
  | birqClear (x : Word)
  /-- SWRES_CLEAR: Writing 1 to sv clears the suspect-window valid bit. (R358) -/
  | swresClear (t : Nat) (x : Word)
  /-- HBCNT_READ: A read returns heartbeat counters and clears them. (R361) -/
  | hbcntRead (t : Nat)
  /-- REGISTER_WRITE: A write to a register with no behaviour of its own stores its writable fields. (R4) -/
  | registerWrite (t num : Nat) (x : Word)
  /-- UNCORRECTABLE_FLIT: A received flit that its code cannot correct is discarded and counted in ucf. (R329) -/
  | uncorrectableFlit (port fib : Nat)
  /-- COMBINING_RECORD_LOST: A soft error in a combining table or a router reset destroys a decombining record before its reply arrives. (R205) -/
  | combiningRecordLost (router id : Nat)
  deriving DecidableEq, Repr

end Sys2Proof
end

