-- ==== Sys2Proof/WellFormed.lean ====
section
/-! DEFINITION. Which field values the forms allow (spec/03_bundle.md R55, R57, R60, R62, R76; spec/04
R95; spec/05 R122, R128; spec/06 R159; spec/11 R244): everything a slot word can say that is not refused. -/

namespace Sys2Proof

/-- The latch indices that the engines' chapters assign (R137, R161, R185, R342); index 0x3F is the
trigger latch and is written by the trig forms only (R62). -/
def latchAssigned (n : BitVec 10) : Bool :=
  let b := n.toNat / 64
  let i := n.toNat % 64
  if b < 4 then i ≤ 8 || (0x10 ≤ i && i ≤ 0x15) || (0x19 ≤ i && i ≤ 0x1D) || (0x21 ≤ i && i ≤ 0x25)
  else if b = 4 then i ≤ 0x0E
  else if b = 5 then i ≤ 5
  else if b = 6 then i ≤ 4
  else false

/-- The assigned system-register numbers, as closed ranges (R60 and the chapters it names). -/
def srRanges : List (Nat × Nat) :=
  [(0x008, 0x00B), (0x010, 0x012), (0x020, 0x025), (0x028, 0x02D), (0x030, 0x035), (0x038, 0x03D),
   (0x040, 0x045), (0x048, 0x04D), (0x050, 0x055), (0x058, 0x058), (0x100, 0x108), (0x110, 0x115),
   (0x118, 0x11C), (0x120, 0x14F), (0x150, 0x157), (0x160, 0x167), (0x200, 0x202), (0x210, 0x215),
   (0x220, 0x227), (0x230, 0x23C), (0x240, 0x250), (0x258, 0x25B), (0x260, 0x26A), (0x270, 0x274)]

/-- A system-register number that the manual assigns (R60). -/
def srAssigned (n : Nat) : Bool := srRanges.any fun r => r.1 ≤ n && n ≤ r.2

/-- A format code of R27 that is not reserved. -/
def fmtCodeOk (c : Nat) : Bool := 1 ≤ c && c ≤ 0xB

/-- The from and to pairs of vcvt (R122). -/
def vcvtPairOk (src dst : Nat) : Bool :=
  (dst == 9 && (src == 1 || src == 2 || src == 3 || src == 7 || src == 8 || src == 0xB || src == 5 ||
    src == 4 || src == 0xA)) ||
  (src == 9 && (dst == 7 || dst == 8 || dst == 2 || dst == 1 || dst == 3 || dst == 0xB || dst == 4 ||
    dst == 0xA)) ||
  (src == 0xA && dst == 4)

/-- The value of a setfmt (R28, R159): no reserved code, bs not 0b11. -/
def setfmtOk (v : BitVec 16) : Bool :=
  fmtCodeOk (v.toNat % 16) && fmtCodeOk (v.toNat / 16 % 16) && fmtCodeOk (v.toNat / 256 % 16) &&
  v.toNat / 4096 % 4 != 3

/-- The scope and tag of bar (R244). -/
def barOk (v : BitVec 16) : Bool := v.toNat / 256 % 4 != 3 && v.toNat / 1024 == 0

/-- The width and place of a bit field (R95). -/
def fieldOk (lsb wm1 : BitVec 6) : Bool := lsb.toNat + wm1.toNat + 1 ≤ 64

/-- The well-formed instructions: every field value is one the form allows (R55). A row that is no word
has no field to refuse (log 15: DESIGN CHOICE). -/
def Instr.wf : Instr → Bool
  | .bfx o | .bfxs o | .bfi o => fieldOk o.lsb o.wm1
  | .loop o => o.lvl.toNat < 6
  | .loopi o => o.lvl.toNat < 6
  | .lexit o => o.lvl.toNat < 6
  | .vcvt o => vcvtPairOk o.src.toNat o.dst.toNat
  | .tmode o => o.mode.toNat < 3
  | .mvl o => latchAssigned o.latch
  | .mvli o | .mvlh o => latchAssigned o.latch
  | .mvs o => latchAssigned o.latch
  | .trigCpyAwAdd o | .trigCpyAwMin o | .trigCpyAwMax o => o.ty.toNat < 3
  | .trigCpyAwAnd o | .trigCpyAwOr o | .trigCpyAwXor o => o.ty.toNat == 1 || o.ty.toNat == 2
  | .trigCpyFadd o | .trigCpySwap o | .trigCpyCas o => o.ty.toNat == 1 || o.ty.toNat == 2
  | .rdsr o => srAssigned o.num.toNat
  | .wrsr o => srAssigned o.num.toNat
  | .setfmt o => setfmtOk o.imm
  | .bar o => barOk o.imm
  | _ => true

end Sys2Proof
end

