-- ==== Sys2Proof/Decode.lean ====
section
/-! DEFINITION. The decoder: slot words (spec/03_bundle.md R54 to R57, R75, R76), then whole bundles
(R49 to R53), and after them the encoders, written from the same layouts. A word is decoded in its slot
class, which its position gives; reserved fields are refused by name (R55). -/

namespace Sys2Proof

open Operands

/-- Why a slot word is refused (R55), or its bundle (R53: `notExtensible`). -/
inductive DecodeError where
  | unassignedOpcode
  | reservedField
  | forbiddenField
  | notExtensible
  deriving DecidableEq, Repr

/-- The field `[lo + n - 1 : lo]` of a word. -/
def fld (w : Word32) (lo n : Nat) : BitVec n := w.extractLsb' lo n
/-- Bit `i` of a word as a flag. -/
def bitAt (w : Word32) (i : Nat) : Bool := w.getLsbD i
/-- A W bit as one bit of a word. -/
def wbit (b : Bool) : BitVec 1 := BitVec.ofBool b

/-! ### The layouts of R57: reading -/

/-- Reads layout SR. -/
def decSR (w : Word32) : Option SR :=
  if fld w 0 6 = 0 then
    some { sd := fld w 20 6, sa := fld w 14 6, wa := bitAt w 13, sb := fld w 7 6, wb := bitAt w 6 }
  else none

/-- Reads layout SR1. -/
def decSR1 (w : Word32) : Option SR1 :=
  if fld w 0 13 = 0 then
    some { sd := fld w 20 6, sa := fld w 14 6, wa := bitAt w 13 }
  else none

/-- Reads layout S1. -/
def decS1 (w : Word32) : Option S1 :=
  if fld w 0 13 = 0 ∧ fld w 20 6 = 0 then
    some { sa := fld w 14 6, wa := bitAt w 13 }
  else none

/-- Reads layout SS. -/
def decSS (w : Word32) : Option SS :=
  if fld w 0 6 = 0 ∧ fld w 20 6 = 0 then
    some { sa := fld w 14 6, wa := bitAt w 13, sb := fld w 7 6, wb := bitAt w 6 }
  else none

/-- Reads layout SD. -/
def decSD (w : Word32) : Option SD :=
  if fld w 0 20 = 0 then
    some { sd := fld w 20 6 }
  else none

/-- Reads layout SI. -/
def decSI (w : Word32) (l : Lend) : Option SI :=
  some { sd := fld w 20 6, sa := fld w 14 6, wa := bitAt w 13, imm := fld w 0 13, lend := l }

/-- Reads layout SH. -/
def decSH (w : Word32) : Option SH :=
  if fld w 6 7 = 0 then
    some { sd := fld w 20 6, sa := fld w 14 6, wa := bitAt w 13, cnt := fld w 0 6 }
  else none

/-- Reads layout SB. -/
def decSB (w : Word32) : Option SB :=
  if fld w 6 1 = 0 then
    some { sd := fld w 20 6, sa := fld w 14 6, wa := bitAt w 13, lsb := fld w 7 6, wm1 := fld w 0 6 }
  else none

/-- Reads layout ABr. -/
def decABr (w : Word32) (l : Lend) : Option ABr :=
  if fld w 19 7 = 0 then
    some { off := fld w 0 19, lend := l }
  else none

/-- Reads layout ABc. -/
def decABc (w : Word32) (l : Lend) : Option ABc :=
  some { sa := fld w 20 6, wa := bitAt w 19, off := fld w 0 19, lend := l }

/-- Reads layout ABl. -/
def decABl (w : Word32) (l : Lend) : Option ABl :=
  if fld w 19 1 = 0 then
    some { sd := fld w 20 6, off := fld w 0 19, lend := l }
  else none

/-- Reads layout AA. -/
def decAA (w : Word32) : Option AA :=
  if fld w 0 3 = 0 then
    some { sd := fld w 20 6, sa := fld w 14 6, wa := bitAt w 13, sb := fld w 7 6, wb := bitAt w 6, sh := fld w 3 3 }
  else none

/-- Reads layout AL. -/
def decAL (w : Word32) : Option AL :=
  if fld w 8 8 = 0 then
    some { lvl := fld w 23 3, sa := fld w 17 6, wa := bitAt w 16, lm1 := fld w 0 8 }
  else none

/-- Reads layout ALI. -/
def decALI (w : Word32) (l : Lend) : Option ALI :=
  some { lvl := fld w 23 3, cnt := fld w 8 15, lm1 := fld w 0 8, lend := l }

/-- Reads layout AX. -/
def decAX (w : Word32) : Option AX :=
  if fld w 0 23 = 0 then
    some { lvl := fld w 23 3 }
  else none

/-- Reads layout MSl. -/
def decMSl (w : Word32) (l : Lend) : Option MSl :=
  if fld w 19 1 = 0 then
    some { sd := fld w 20 6, sa := fld w 13 6, wa := bitAt w 12, off := fld w 0 12, lend := l }
  else none

/-- Reads layout MSs. -/
def decMSs (w : Word32) (l : Lend) : Option MSs :=
  some { sc := fld w 20 6, wc := bitAt w 19, sa := fld w 13 6, wa := bitAt w 12, off := fld w 0 12, lend := l }

/-- Reads layout MVl. -/
def decMVl (w : Word32) (l : Lend) : Option MVl :=
  if fld w 20 1 = 0 then
    some { vd := fld w 21 5, p := fld w 17 3, sa := fld w 11 6, wa := bitAt w 10, off := fld w 0 10, lend := l }
  else none

/-- Reads layout MVs. -/
def decMVs (w : Word32) (l : Lend) : Option MVs :=
  some { vc := fld w 21 5, wc := bitAt w 20, p := fld w 17 3, sa := fld w 11 6, wa := bitAt w 10, off := fld w 0 10, lend := l }

/-- Reads layout MGl. -/
def decMGl (w : Word32) : Option MGl :=
  if fld w 0 4 = 0 ∧ fld w 20 1 = 0 then
    some { vd := fld w 21 5, p := fld w 17 3, sa := fld w 11 6, wa := bitAt w 10, vb := fld w 5 5, wb := bitAt w 4 }
  else none

/-- Reads layout MGs. -/
def decMGs (w : Word32) : Option MGs :=
  if fld w 0 4 = 0 then
    some { vc := fld w 21 5, wc := bitAt w 20, p := fld w 17 3, sa := fld w 11 6, wa := bitAt w 10, vb := fld w 5 5, wb := bitAt w 4 }
  else none

/-- Reads layout VR. -/
def decVR (w : Word32) : Option VR :=
  if fld w 3 6 = 0 then
    some { vd := fld w 21 5, va := fld w 16 5, wa := bitAt w 15, vb := fld w 10 5, wb := bitAt w 9, p := fld w 0 3 }
  else none

/-- Reads layout VR3. -/
def decVR3 (w : Word32) : Option VR3 :=
  some { vd := fld w 21 5, va := fld w 16 5, wa := bitAt w 15, vb := fld w 10 5, wb := bitAt w 9, vc := fld w 4 5, wc := bitAt w 3, p := fld w 0 3 }

/-- Reads layout VR1. -/
def decVR1 (w : Word32) : Option VR1 :=
  if fld w 3 12 = 0 then
    some { vd := fld w 21 5, va := fld w 16 5, wa := bitAt w 15, p := fld w 0 3 }
  else none

/-- Reads layout VP. -/
def decVP (w : Word32) : Option VP :=
  if fld w 3 6 = 0 ∧ fld w 24 2 = 0 then
    some { pd := fld w 21 3, va := fld w 16 5, wa := bitAt w 15, vb := fld w 10 5, wb := bitAt w 9, p := fld w 0 3 }
  else none

/-- Reads layout VB. -/
def decVB (w : Word32) : Option VB :=
  if fld w 3 11 = 0 then
    some { vd := fld w 21 5, sa := fld w 15 6, wa := bitAt w 14, p := fld w 0 3 }
  else none

/-- Reads layout VX. -/
def decVX (w : Word32) : Option VX :=
  if fld w 0 7 = 0 then
    some { sd := fld w 20 6, va := fld w 15 5, wa := bitAt w 14, lane := fld w 7 7 }
  else none

/-- Reads layout VQ. -/
def decVQ (w : Word32) : Option VQ :=
  if fld w 3 11 = 0 then
    some { sd := fld w 20 6, va := fld w 15 5, wa := bitAt w 14, p := fld w 0 3 }
  else none

/-- Reads layout VC. -/
def decVC (w : Word32) : Option VC :=
  if fld w 3 4 = 0 then
    some { vd := fld w 21 5, va := fld w 16 5, wa := bitAt w 15, src := fld w 11 4, dst := fld w 7 4, p := fld w 0 3 }
  else none

/-- Reads layout VG. -/
def decVG (w : Word32) : Option VG :=
  if fld w 3 8 = 0 then
    some { vd := fld w 21 5, va := fld w 16 5, wa := bitAt w 15, group := fld w 11 4, p := fld w 0 3 }
  else none

/-- Reads layout TI. -/
def decTI (w : Word32) : Option TI :=
  if fld w 0 15 = 0 ∧ fld w 21 5 = 0 then
    some { va := fld w 16 5, wa := bitAt w 15 }
  else none

/-- Reads layout TP. -/
def decTP (w : Word32) : Option TP :=
  if fld w 0 21 = 0 then
    some { vd := fld w 21 5 }
  else none

/-- Reads layout TM. -/
def decTM (w : Word32) : Option TM :=
  if fld w 4 22 = 0 then
    some { mode := fld w 0 4 }
  else none

/-- Reads layout EL. -/
def decEL (w : Word32) : Option EL :=
  if fld w 0 9 = 0 then
    some { latch := fld w 16 10, sa := fld w 10 6, wa := bitAt w 9 }
  else none

/-- Reads layout EI. -/
def decEI (w : Word32) (l : Lend) : Option EI :=
  some { latch := fld w 16 10, imm := fld w 0 16, lend := l }

/-- Reads layout ES. -/
def decES (w : Word32) : Option ES :=
  if fld w 0 10 = 0 then
    some { latch := fld w 16 10, sd := fld w 10 6 }
  else none

/-- Reads layout ECp. -/
def decECp (w : Word32) : Option ECp :=
  if fld w 0 11 = 0 ∧ fld w 12 8 = 0 then
    some { eng := fld w 24 2, fo := bitAt w 11 }
  else none

/-- Reads layout ECa. -/
def decECa (w : Word32) : Option ECa :=
  if fld w 0 18 = 0 then
    some { eng := fld w 24 2, ty := fld w 18 2 }
  else none

/-- Reads layout ECr. -/
def decECr (w : Word32) : Option ECr :=
  if fld w 0 12 = 0 then
    some { eng := fld w 24 2, ty := fld w 18 2, sd := fld w 12 6 }
  else none

/-- Reads layout EW. -/
def decEW (w : Word32) : Option EW :=
  if fld w 0 23 = 0 then
    some { unit := fld w 23 3 }
  else none

/-- Reads layout EM. -/
def decEM (w : Word32) : Option EM :=
  if fld w 0 15 = 0 then
    some { wm := fld w 22 4, sa := fld w 16 6, wa := bitAt w 15 }
  else none

/-- Reads layout CI. -/
def decCI (w : Word32) : Option CI :=
  if fld w 16 10 = 0 then
    some { imm := fld w 0 16 }
  else none

/-- Reads layout CSr. -/
def decCSr (w : Word32) : Option CSr :=
  if fld w 12 8 = 0 then
    some { sd := fld w 20 6, num := fld w 0 12 }
  else none

/-- Reads layout CSw. -/
def decCSw (w : Word32) : Option CSw :=
  if fld w 12 7 = 0 then
    some { sa := fld w 20 6, wa := bitAt w 19, num := fld w 0 12 }
  else none

/-- A word without operand fields: everything below the opcode is reserved. -/
def decNone (w : Word32) (i : Instr) : Option Instr := if fld w 0 26 = 0 then some i else none

/-- The result of reading one layout: a nonzero reserved field is refused (R55). -/
def orReserved (o : Option Instr) : Except DecodeError Instr :=
  match o with
  | some i => .ok i
  | none => .error .reservedField

/-- A form whose layout has no extensible field takes no lend bits (R57). -/
def noLend (l : Lend) (o : Option Instr) : Except DecodeError Instr :=
  match l with
  | .zero => orReserved o
  | _ => .error .notExtensible

/-- A word that no form has has no extensible field either (R53, R57; log 88: DEDUCED). -/
def noForm (l : Lend) (e : DecodeError) : Except DecodeError Instr :=
  match l with
  | .zero => .error e
  | _ => .error .notExtensible

/-- A CI form whose bits above imm16 are reserved (R57): zero lend bits are allowed. -/
def zeroLend (l : Lend) (o : Option Instr) : Except DecodeError Instr :=
  match l with
  | .zero => orReserved o
  | .one b => if b = 0 then orReserved o else .error .reservedField
  | .two b => if b = 0 then orReserved o else .error .reservedField

/-- The opcode field of R54. -/
def opcode (w : Word32) : Nat := (fld w 26 6).toNat

/-- The S class of R75. -/
def decodeS (w : Word32) (l : Lend) : Except DecodeError Instr :=
  match opcode w with
  | 0x00 => noLend l ((decSR w).map .add)
  | 0x01 => noLend l ((decSR w).map .sub)
  | 0x02 => noLend l ((decSR w).map .and)
  | 0x03 => noLend l ((decSR w).map .or)
  | 0x04 => noLend l ((decSR w).map .xor)
  | 0x05 => noLend l ((decSR w).map .shl)
  | 0x06 => noLend l ((decSR w).map .shr)
  | 0x07 => noLend l ((decSR w).map .sar)
  | 0x08 => noLend l ((decSR w).map .mul)
  | 0x09 => noLend l ((decSR w).map .mulhs)
  | 0x0A => noLend l ((decSR w).map .mulhu)
  | 0x0B => noLend l ((decSR w).map .min)
  | 0x0C => noLend l ((decSR w).map .max)
  | 0x0D => noLend l ((decSR w).map .minu)
  | 0x0E => noLend l ((decSR w).map .maxu)
  | 0x10 => noLend l ((decSR w).map .ceq)
  | 0x11 => noLend l ((decSR w).map .cne)
  | 0x12 => noLend l ((decSR w).map .clt)
  | 0x13 => noLend l ((decSR w).map .cle)
  | 0x14 => noLend l ((decSR w).map .cltu)
  | 0x15 => noLend l ((decSR w).map .cleu)
  | 0x16 => noLend l ((decSR w).map .movnz)
  | 0x17 => noLend l ((decSR w).map .movz)
  | 0x18 => noLend l ((decSR1 w).map .clz)
  | 0x19 => noLend l ((decSR1 w).map .ctz)
  | 0x1A => noLend l ((decSR1 w).map .popc)
  | 0x1B => noLend l ((decSR1 w).map .bswap)
  | 0x20 => orReserved ((decSI w l).map .addi)
  | 0x22 => orReserved ((decSI w l).map .andi)
  | 0x23 => orReserved ((decSI w l).map .ori)
  | 0x24 => orReserved ((decSI w l).map .xori)
  | 0x25 => noLend l ((decSH w).map .shli)
  | 0x26 => noLend l ((decSH w).map .shri)
  | 0x27 => noLend l ((decSH w).map .sari)
  | 0x28 => orReserved ((decSI w l).map .muli)
  | 0x30 => orReserved ((decSI w l).map .ceqi)
  | 0x31 => orReserved ((decSI w l).map .cnei)
  | 0x32 => orReserved ((decSI w l).map .clti)
  | 0x33 => orReserved ((decSI w l).map .clei)
  | 0x34 => orReserved ((decSI w l).map .cltui)
  | 0x35 => orReserved ((decSI w l).map .cleui)
  | 0x38 => noLend l ((decSB w).map .bfx)
  | 0x39 => noLend l ((decSB w).map .bfxs)
  | 0x3A => noLend l ((decSB w).map .bfi)
  | 0x3B => orReserved ((decSI w l).map .sli)
  | _ => noForm l .unassignedOpcode

/-- The A class of R75. -/
def decodeA (w : Word32) (l : Lend) : Except DecodeError Instr :=
  match opcode w with
  | 0x00 => orReserved ((decABr w l).map .br)
  | 0x01 => orReserved ((decABc w l).map .brz)
  | 0x02 => orReserved ((decABc w l).map .brnz)
  | 0x03 => orReserved ((decABc w l).map .brn)
  | 0x04 => orReserved ((decABc w l).map .brnn)
  | 0x05 => orReserved ((decABl w l).map .call)
  | 0x06 => noLend l ((decSR1 w).map .callr)
  | 0x07 => noLend l ((decS1 w).map .jr)
  | 0x08 => noLend l ((decAA w).map .adda)
  | 0x09 => orReserved ((decSI w l).map .addai)
  | 0x10 => noLend l ((decAL w).map .loop)
  | 0x11 => orReserved ((decALI w l).map .loopi)
  | 0x12 => noLend l ((decAX w).map .lexit)
  | _ => noForm l .unassignedOpcode

/-- The M class of R75. -/
def decodeM (w : Word32) (l : Lend) : Except DecodeError Instr :=
  match opcode w with
  | 0x00 => orReserved ((decMSl w l).map .fldB)
  | 0x01 => orReserved ((decMSl w l).map .fldH)
  | 0x02 => orReserved ((decMSl w l).map .fldW)
  | 0x03 => orReserved ((decMSl w l).map .fldD)
  | 0x04 => orReserved ((decMSs w l).map .fstB)
  | 0x05 => orReserved ((decMSs w l).map .fstH)
  | 0x06 => orReserved ((decMSs w l).map .fstW)
  | 0x07 => orReserved ((decMSs w l).map .fstD)
  | 0x08 => orReserved ((decMVl w l).map .vld)
  | 0x09 => orReserved ((decMVs w l).map .vst)
  | 0x0A => noLend l ((decMGl w).map .vgath)
  | 0x0B => noLend l ((decMGs w).map .vscat)
  | 0x0C => orReserved ((decMVl w l).map .wld)
  | 0x0D => orReserved ((decMVs w l).map .wst)
  | 0x10 => noLend l ((decSR1 w).map .lookup)
  | 0x11 => noLend l ((decSS w).map .tagset)
  | 0x12 => noLend l ((decS1 w).map .taginv)
  | 0x13 => noLend l ((decSR1 w).map .tagrd)
  | 0x18 => orReserved ((decMSl w l).map .gld)
  | 0x19 => orReserved ((decMSs w l).map .gst)
  | 0x1A => orReserved ((decMSl w l).map .rld)
  | 0x1B => orReserved ((decMSs w l).map .rst)
  | 0x1F => noLend l (decNone w .cfence)
  | _ => noForm l .unassignedOpcode

/-- The V class of R75. -/
def decodeV (w : Word32) (l : Lend) : Except DecodeError Instr :=
  match opcode w with
  | 0x00 => noLend l ((decVR w).map .vaddF32)
  | 0x01 => noLend l ((decVR w).map .vsubF32)
  | 0x02 => noLend l ((decVR w).map .vmulF32)
  | 0x03 => noLend l ((decVR3 w).map .vfmaF32)
  | 0x04 => noLend l ((decVR w).map .vminF32)
  | 0x05 => noLend l ((decVR w).map .vmaxF32)
  | 0x06 => noLend l ((decVR w).map .vaddBf16)
  | 0x07 => noLend l ((decVR w).map .vmulBf16)
  | 0x08 => noLend l ((decVR3 w).map .vfmaBf16)
  | 0x09 => noLend l ((decVR w).map .vaddF16)
  | 0x0A => noLend l ((decVR w).map .vmulF16)
  | 0x0B => noLend l ((decVR3 w).map .vfmaF16)
  | 0x0C => noLend l ((decVR w).map .vaddI32)
  | 0x0D => noLend l ((decVR w).map .vsubI32)
  | 0x0E => noLend l ((decVR w).map .vmulI32)
  | 0x0F => noLend l ((decVR w).map .vminI32)
  | 0x10 => noLend l ((decVR w).map .vmaxI32)
  | 0x11 => noLend l ((decVR w).map .vand)
  | 0x12 => noLend l ((decVR w).map .vor)
  | 0x13 => noLend l ((decVR w).map .vxor)
  | 0x14 => noLend l ((decVR w).map .vshl)
  | 0x15 => noLend l ((decVR w).map .vshr)
  | 0x16 => noLend l ((decVR w).map .vsar)
  | 0x17 => noLend l ((decVR w).map .vaddI16)
  | 0x18 => noLend l ((decVR w).map .vsubI16)
  | 0x19 => noLend l ((decVR w).map .vaddsI16)
  | 0x1A => noLend l ((decVR w).map .vmulI16)
  | 0x1C => noLend l ((decVP w).map .vcmpeqF32)
  | 0x1D => noLend l ((decVP w).map .vcmpltF32)
  | 0x1E => noLend l ((decVP w).map .vcmpleF32)
  | 0x1F => noLend l ((decVP w).map .vcmpeqI32)
  | 0x20 => noLend l ((decVP w).map .vcmpltI32)
  | 0x21 => noLend l ((decVR w).map .vsel)
  | 0x22 => noLend l ((decVR w).map .vperm)
  | 0x23 => noLend l ((decVB w).map .vbcast)
  | 0x24 => noLend l ((decVX w).map .vext)
  | 0x25 => noLend l ((decVQ w).map .vredsumF32)
  | 0x26 => noLend l ((decVQ w).map .vredmaxF32)
  | 0x27 => noLend l ((decVQ w).map .vredminF32)
  | 0x28 => noLend l ((decVQ w).map .vredsumI32)
  | 0x29 => noLend l ((decVC w).map .vcvt)
  | 0x2A => noLend l ((decVR1 w).map .vcvtF32I16)
  | 0x2B => noLend l ((decVR1 w).map .vcvtI16F32)
  | 0x2C => noLend l ((decVR1 w).map .vrcpF32)
  | 0x2D => noLend l ((decVR1 w).map .vrsqrtF32)
  | 0x2E => noLend l ((decVR1 w).map .vexp2F32)
  | 0x2F => noLend l ((decVR1 w).map .vlog2F32)
  | 0x30 => noLend l ((decVR1 w).map .vtanhF32)
  | 0x31 => noLend l ((decVG w).map .vgly)
  | 0x32 => noLend l ((decVR w).map .vbscale)
  | _ => noForm l .unassignedOpcode

/-- The T class of R75. -/
def decodeT (w : Word32) (l : Lend) : Except DecodeError Instr :=
  match opcode w with
  | 0x00 => noLend l ((decTI w).map .trin)
  | 0x01 => noLend l ((decTP w).map .tpop)
  | 0x02 => noLend l ((decTM w).map .tmode)
  | 0x03 => noLend l (decNone w .tclr)
  | _ => noForm l .unassignedOpcode

/-- The E class of R75. -/
def decodeE (w : Word32) (l : Lend) : Except DecodeError Instr :=
  match opcode w with
  | 0x00 => noLend l ((decEL w).map .mvl)
  | 0x01 => orReserved ((decEI w l).map .mvli)
  | 0x02 => orReserved ((decEI w l).map .mvlh)
  | 0x03 => noLend l ((decES w).map .mvs)
  | 0x08 =>
    match (fld w 20 4).toNat with
    | 0x0 => noLend l ((decECp w).map .trigCpy)
    | 0x1 => noLend l ((decECa w).map .trigCpyAwAdd)
    | 0x2 => noLend l ((decECa w).map .trigCpyAwMin)
    | 0x3 => noLend l ((decECa w).map .trigCpyAwMax)
    | 0x4 => noLend l ((decECa w).map .trigCpyAwAnd)
    | 0x5 => noLend l ((decECa w).map .trigCpyAwOr)
    | 0x6 => noLend l ((decECa w).map .trigCpyAwXor)
    | 0x7 => noLend l ((decECr w).map .trigCpyFadd)
    | 0x8 => noLend l ((decECr w).map .trigCpySwap)
    | 0x9 => noLend l ((decECr w).map .trigCpyCas)
    | _ => noForm l .forbiddenField
  | 0x09 => noLend l ((decTP w).map .trigCube)
  | 0x0A => noLend l ((decTP w).map .trigNib)
  | 0x0B => noLend l (decNone w .trigLnk)
  | 0x10 => noLend l ((decEW w).map .ewait)
  | 0x11 => noLend l ((decEM w).map .wmwait)
  | _ => noForm l .unassignedOpcode

/-- The C class of R75. -/
def decodeC (w : Word32) (l : Lend) : Except DecodeError Instr :=
  match opcode w with
  | 0x00 => noLend l (decNone w .nop)
  | 0x01 => noLend l (decNone w .halt)
  | 0x02 => zeroLend l ((decCI w).map .trap)
  | 0x03 => noLend l (decNone w .eret)
  | 0x04 => noLend l ((decCSr w).map .rdsr)
  | 0x05 => noLend l ((decCSw w).map .wrsr)
  | 0x06 => noLend l ((decSD w).map .rdts)
  | 0x08 => zeroLend l ((decCI w).map .setfmt)
  | 0x10 => noLend l (decNone w .step)
  | 0x11 => zeroLend l ((decCI w).map .bar)
  | 0x12 => zeroLend l ((decCI w).map .rdv)
  | 0x13 => noLend l ((decSR1 w).map .probe)
  | 0x18 => noLend l ((decS1 w).map .seal)
  | 0x19 => noLend l ((decS1 w).map .unseal)
  | 0x1A => noLend l ((decS1 w).map .pub)
  | 0x1B => noLend l ((decSS w).map .wswap)
  | 0x1C => noLend l ((decSS w).map .pfh)
  | 0x1D => noLend l (decNone w .ksync)
  | _ => noForm l .unassignedOpcode

/-- The reading of a slot word in its class, before the field values are judged. -/
def decodeRaw (sw : SlotWord) : Except DecodeError Instr :=
  match sw.cls with
  | .S => decodeS sw.word sw.lend
  | .A => decodeA sw.word sw.lend
  | .M => decodeM sw.word sw.lend
  | .V => decodeV sw.word sw.lend
  | .T => decodeT sw.word sw.lend
  | .E => decodeE sw.word sw.lend
  | .C => decodeC sw.word sw.lend

/-- The decoder of one slot word (R54 to R57): total, and a field value that the form forbids is refused
by name (R55). -/
def decodeSlot (sw : SlotWord) : Except DecodeError Instr :=
  match decodeRaw sw with
  | .ok i => if i.wf then .ok i else .error .forbiddenField
  | .error e => .error e

/-! ### What a word reads and writes -/

/-- The registers a word reads, with their W bits (R54, R64). movnz, movz and bfi read sd as though W = 0;
a predicate has no full/empty bit. -/
def sources : Instr → List Source
  | .add o => [.s o.sa o.wa, .s o.sb o.wb]
  | .sub o => [.s o.sa o.wa, .s o.sb o.wb]
  | .and o => [.s o.sa o.wa, .s o.sb o.wb]
  | .or o => [.s o.sa o.wa, .s o.sb o.wb]
  | .xor o => [.s o.sa o.wa, .s o.sb o.wb]
  | .shl o => [.s o.sa o.wa, .s o.sb o.wb]
  | .shr o => [.s o.sa o.wa, .s o.sb o.wb]
  | .sar o => [.s o.sa o.wa, .s o.sb o.wb]
  | .mul o => [.s o.sa o.wa, .s o.sb o.wb]
  | .mulhs o => [.s o.sa o.wa, .s o.sb o.wb]
  | .mulhu o => [.s o.sa o.wa, .s o.sb o.wb]
  | .min o => [.s o.sa o.wa, .s o.sb o.wb]
  | .max o => [.s o.sa o.wa, .s o.sb o.wb]
  | .minu o => [.s o.sa o.wa, .s o.sb o.wb]
  | .maxu o => [.s o.sa o.wa, .s o.sb o.wb]
  | .ceq o => [.s o.sa o.wa, .s o.sb o.wb]
  | .cne o => [.s o.sa o.wa, .s o.sb o.wb]
  | .clt o => [.s o.sa o.wa, .s o.sb o.wb]
  | .cle o => [.s o.sa o.wa, .s o.sb o.wb]
  | .cltu o => [.s o.sa o.wa, .s o.sb o.wb]
  | .cleu o => [.s o.sa o.wa, .s o.sb o.wb]
  | .movnz o => [.s o.sa o.wa, .s o.sb o.wb, .s o.sd false]
  | .movz o => [.s o.sa o.wa, .s o.sb o.wb, .s o.sd false]
  | .clz o => [.s o.sa o.wa]
  | .ctz o => [.s o.sa o.wa]
  | .popc o => [.s o.sa o.wa]
  | .bswap o => [.s o.sa o.wa]
  | .addi o => [.s o.sa o.wa]
  | .andi o => [.s o.sa o.wa]
  | .ori o => [.s o.sa o.wa]
  | .xori o => [.s o.sa o.wa]
  | .shli o => [.s o.sa o.wa]
  | .shri o => [.s o.sa o.wa]
  | .sari o => [.s o.sa o.wa]
  | .muli o => [.s o.sa o.wa]
  | .ceqi o => [.s o.sa o.wa]
  | .cnei o => [.s o.sa o.wa]
  | .clti o => [.s o.sa o.wa]
  | .clei o => [.s o.sa o.wa]
  | .cltui o => [.s o.sa o.wa]
  | .cleui o => [.s o.sa o.wa]
  | .bfx o => [.s o.sa o.wa]
  | .bfxs o => [.s o.sa o.wa]
  | .bfi o => [.s o.sa o.wa, .s o.sd false]
  | .sli o => [.s o.sa o.wa]
  | .brz o => [.s o.sa o.wa]
  | .brnz o => [.s o.sa o.wa]
  | .brn o => [.s o.sa o.wa]
  | .brnn o => [.s o.sa o.wa]
  | .callr o => [.s o.sa o.wa]
  | .jr o => [.s o.sa o.wa]
  | .adda o => [.s o.sa o.wa, .s o.sb o.wb]
  | .addai o => [.s o.sa o.wa]
  | .loop o => [.s o.sa o.wa]
  | .fldB o => [.s o.sa o.wa]
  | .fldH o => [.s o.sa o.wa]
  | .fldW o => [.s o.sa o.wa]
  | .fldD o => [.s o.sa o.wa]
  | .fstB o => [.s o.sc o.wc, .s o.sa o.wa]
  | .fstH o => [.s o.sc o.wc, .s o.sa o.wa]
  | .fstW o => [.s o.sc o.wc, .s o.sa o.wa]
  | .fstD o => [.s o.sc o.wc, .s o.sa o.wa]
  | .vld o => [.p o.p, .s o.sa o.wa]
  | .vst o => [.v o.vc o.wc, .p o.p, .s o.sa o.wa]
  | .vgath o => [.p o.p, .s o.sa o.wa, .v o.vb o.wb]
  | .vscat o => [.v o.vc o.wc, .p o.p, .s o.sa o.wa, .v o.vb o.wb]
  | .wld o => [.p o.p, .s o.sa o.wa]
  | .wst o => [.v o.vc o.wc, .p o.p, .s o.sa o.wa]
  | .lookup o => [.s o.sa o.wa]
  | .tagset o => [.s o.sa o.wa, .s o.sb o.wb]
  | .taginv o => [.s o.sa o.wa]
  | .tagrd o => [.s o.sa o.wa]
  | .gld o => [.s o.sa o.wa]
  | .gst o => [.s o.sc o.wc, .s o.sa o.wa]
  | .rld o => [.s o.sa o.wa]
  | .rst o => [.s o.sc o.wc, .s o.sa o.wa]
  | .vaddF32 o => [.v o.va o.wa, .v o.vb o.wb, .p o.p]
  | .vsubF32 o => [.v o.va o.wa, .v o.vb o.wb, .p o.p]
  | .vmulF32 o => [.v o.va o.wa, .v o.vb o.wb, .p o.p]
  | .vfmaF32 o => [.v o.va o.wa, .v o.vb o.wb, .v o.vc o.wc, .p o.p]
  | .vminF32 o => [.v o.va o.wa, .v o.vb o.wb, .p o.p]
  | .vmaxF32 o => [.v o.va o.wa, .v o.vb o.wb, .p o.p]
  | .vaddBf16 o => [.v o.va o.wa, .v o.vb o.wb, .p o.p]
  | .vmulBf16 o => [.v o.va o.wa, .v o.vb o.wb, .p o.p]
  | .vfmaBf16 o => [.v o.va o.wa, .v o.vb o.wb, .v o.vc o.wc, .p o.p]
  | .vaddF16 o => [.v o.va o.wa, .v o.vb o.wb, .p o.p]
  | .vmulF16 o => [.v o.va o.wa, .v o.vb o.wb, .p o.p]
  | .vfmaF16 o => [.v o.va o.wa, .v o.vb o.wb, .v o.vc o.wc, .p o.p]
  | .vaddI32 o => [.v o.va o.wa, .v o.vb o.wb, .p o.p]
  | .vsubI32 o => [.v o.va o.wa, .v o.vb o.wb, .p o.p]
  | .vmulI32 o => [.v o.va o.wa, .v o.vb o.wb, .p o.p]
  | .vminI32 o => [.v o.va o.wa, .v o.vb o.wb, .p o.p]
  | .vmaxI32 o => [.v o.va o.wa, .v o.vb o.wb, .p o.p]
  | .vand o => [.v o.va o.wa, .v o.vb o.wb, .p o.p]
  | .vor o => [.v o.va o.wa, .v o.vb o.wb, .p o.p]
  | .vxor o => [.v o.va o.wa, .v o.vb o.wb, .p o.p]
  | .vshl o => [.v o.va o.wa, .v o.vb o.wb, .p o.p]
  | .vshr o => [.v o.va o.wa, .v o.vb o.wb, .p o.p]
  | .vsar o => [.v o.va o.wa, .v o.vb o.wb, .p o.p]
  | .vaddI16 o => [.v o.va o.wa, .v o.vb o.wb, .p o.p]
  | .vsubI16 o => [.v o.va o.wa, .v o.vb o.wb, .p o.p]
  | .vaddsI16 o => [.v o.va o.wa, .v o.vb o.wb, .p o.p]
  | .vmulI16 o => [.v o.va o.wa, .v o.vb o.wb, .p o.p]
  | .vcmpeqF32 o => [.v o.va o.wa, .v o.vb o.wb, .p o.p]
  | .vcmpltF32 o => [.v o.va o.wa, .v o.vb o.wb, .p o.p]
  | .vcmpleF32 o => [.v o.va o.wa, .v o.vb o.wb, .p o.p]
  | .vcmpeqI32 o => [.v o.va o.wa, .v o.vb o.wb, .p o.p]
  | .vcmpltI32 o => [.v o.va o.wa, .v o.vb o.wb, .p o.p]
  | .vsel o => [.v o.va o.wa, .v o.vb o.wb, .p o.p]
  | .vperm o => [.v o.va o.wa, .v o.vb o.wb, .p o.p]
  | .vbcast o => [.s o.sa o.wa, .p o.p]
  | .vext o => [.v o.va o.wa]
  | .vredsumF32 o => [.v o.va o.wa, .p o.p]
  | .vredmaxF32 o => [.v o.va o.wa, .p o.p]
  | .vredminF32 o => [.v o.va o.wa, .p o.p]
  | .vredsumI32 o => [.v o.va o.wa, .p o.p]
  | .vcvt o => [.v o.va o.wa, .p o.p]
  | .vcvtF32I16 o => [.v o.va o.wa, .p o.p]
  | .vcvtI16F32 o => [.v o.va o.wa, .p o.p]
  | .vrcpF32 o => [.v o.va o.wa, .p o.p]
  | .vrsqrtF32 o => [.v o.va o.wa, .p o.p]
  | .vexp2F32 o => [.v o.va o.wa, .p o.p]
  | .vlog2F32 o => [.v o.va o.wa, .p o.p]
  | .vtanhF32 o => [.v o.va o.wa, .p o.p]
  | .vgly o => [.v o.va o.wa, .p o.p]
  | .vbscale o => [.v o.va o.wa, .v o.vb o.wb, .p o.p]
  | .trin o => [.v o.va o.wa]
  | .mvl o => [.s o.sa o.wa]
  | .wmwait o => [.s o.sa o.wa]
  | .wrsr o => [.s o.sa o.wa]
  | .probe o => [.s o.sa o.wa]
  | .seal o => [.s o.sa o.wa]
  | .unseal o => [.s o.sa o.wa]
  | .pub o => [.s o.sa o.wa]
  | .wswap o => [.s o.sa o.wa, .s o.sb o.wb]
  | .pfh o => [.s o.sa o.wa, .s o.sb o.wb]
  | _ => []

/-- The register a word writes, where its fields alone say so: trig.cube and trig.nib name vd, but the latches decide
whether trig.cube delivers there (R143), so its vd does not count for R53 (log 101: DEDUCED). -/
def dests : Instr → List Reg
  | .add o => [.s o.sd]
  | .sub o => [.s o.sd]
  | .and o => [.s o.sd]
  | .or o => [.s o.sd]
  | .xor o => [.s o.sd]
  | .shl o => [.s o.sd]
  | .shr o => [.s o.sd]
  | .sar o => [.s o.sd]
  | .mul o => [.s o.sd]
  | .mulhs o => [.s o.sd]
  | .mulhu o => [.s o.sd]
  | .min o => [.s o.sd]
  | .max o => [.s o.sd]
  | .minu o => [.s o.sd]
  | .maxu o => [.s o.sd]
  | .ceq o => [.s o.sd]
  | .cne o => [.s o.sd]
  | .clt o => [.s o.sd]
  | .cle o => [.s o.sd]
  | .cltu o => [.s o.sd]
  | .cleu o => [.s o.sd]
  | .movnz o => [.s o.sd]
  | .movz o => [.s o.sd]
  | .clz o => [.s o.sd]
  | .ctz o => [.s o.sd]
  | .popc o => [.s o.sd]
  | .bswap o => [.s o.sd]
  | .addi o => [.s o.sd]
  | .andi o => [.s o.sd]
  | .ori o => [.s o.sd]
  | .xori o => [.s o.sd]
  | .shli o => [.s o.sd]
  | .shri o => [.s o.sd]
  | .sari o => [.s o.sd]
  | .muli o => [.s o.sd]
  | .ceqi o => [.s o.sd]
  | .cnei o => [.s o.sd]
  | .clti o => [.s o.sd]
  | .clei o => [.s o.sd]
  | .cltui o => [.s o.sd]
  | .cleui o => [.s o.sd]
  | .bfx o => [.s o.sd]
  | .bfxs o => [.s o.sd]
  | .bfi o => [.s o.sd]
  | .sli o => [.s o.sd]
  | .call o => [.s o.sd]
  | .callr o => [.s o.sd]
  | .adda o => [.s o.sd]
  | .addai o => [.s o.sd]
  | .fldB o => [.s o.sd]
  | .fldH o => [.s o.sd]
  | .fldW o => [.s o.sd]
  | .fldD o => [.s o.sd]
  | .vld o => [.v o.vd]
  | .vgath o => [.v o.vd]
  | .wld o => [.v o.vd]
  | .lookup o => [.s o.sd]
  | .tagrd o => [.s o.sd]
  | .gld o => [.s o.sd]
  | .rld o => [.s o.sd]
  | .vaddF32 o => [.v o.vd]
  | .vsubF32 o => [.v o.vd]
  | .vmulF32 o => [.v o.vd]
  | .vfmaF32 o => [.v o.vd]
  | .vminF32 o => [.v o.vd]
  | .vmaxF32 o => [.v o.vd]
  | .vaddBf16 o => [.v o.vd]
  | .vmulBf16 o => [.v o.vd]
  | .vfmaBf16 o => [.v o.vd]
  | .vaddF16 o => [.v o.vd]
  | .vmulF16 o => [.v o.vd]
  | .vfmaF16 o => [.v o.vd]
  | .vaddI32 o => [.v o.vd]
  | .vsubI32 o => [.v o.vd]
  | .vmulI32 o => [.v o.vd]
  | .vminI32 o => [.v o.vd]
  | .vmaxI32 o => [.v o.vd]
  | .vand o => [.v o.vd]
  | .vor o => [.v o.vd]
  | .vxor o => [.v o.vd]
  | .vshl o => [.v o.vd]
  | .vshr o => [.v o.vd]
  | .vsar o => [.v o.vd]
  | .vaddI16 o => [.v o.vd]
  | .vsubI16 o => [.v o.vd]
  | .vaddsI16 o => [.v o.vd]
  | .vmulI16 o => [.v o.vd]
  | .vcmpeqF32 o => [.p o.pd]
  | .vcmpltF32 o => [.p o.pd]
  | .vcmpleF32 o => [.p o.pd]
  | .vcmpeqI32 o => [.p o.pd]
  | .vcmpltI32 o => [.p o.pd]
  | .vsel o => [.v o.vd]
  | .vperm o => [.v o.vd]
  | .vbcast o => [.v o.vd]
  | .vext o => [.s o.sd]
  | .vredsumF32 o => [.s o.sd]
  | .vredmaxF32 o => [.s o.sd]
  | .vredminF32 o => [.s o.sd]
  | .vredsumI32 o => [.s o.sd]
  | .vcvt o => [.v o.vd]
  | .vcvtF32I16 o => [.v o.vd]
  | .vcvtI16F32 o => [.v o.vd]
  | .vrcpF32 o => [.v o.vd]
  | .vrsqrtF32 o => [.v o.vd]
  | .vexp2F32 o => [.v o.vd]
  | .vlog2F32 o => [.v o.vd]
  | .vtanhF32 o => [.v o.vd]
  | .vgly o => [.v o.vd]
  | .vbscale o => [.v o.vd]
  | .tpop o => [.v o.vd]
  | .mvs o => [.s o.sd]
  | .trigCpyFadd o => [.s o.sd]
  | .trigCpySwap o => [.s o.sd]
  | .trigCpyCas o => [.s o.sd]
  | .trigNib o => [.v o.vd]
  | .rdsr o => [.s o.sd]
  | .rdts o => [.s o.sd]
  | .probe o => [.s o.sd]
  | _ => []

/-- The engine latch a word names (R53). -/
def latchOf : Instr → Option (BitVec 10)
  | .mvl o => some o.latch
  | .mvli o | .mvlh o => some o.latch
  | .mvs o => some o.latch
  | _ => none

/-- The engine a word triggers or waits on, as a unit number of ewait (R53, R76). -/
def engineOf : Instr → Option Nat
  | .trigCpy o => some o.eng.toNat
  | .trigCpyAwAdd o | .trigCpyAwMin o | .trigCpyAwMax o | .trigCpyAwAnd o | .trigCpyAwOr o
  | .trigCpyAwXor o => some o.eng.toNat
  | .trigCpyFadd o | .trigCpySwap o | .trigCpyCas o => some o.eng.toNat
  | .trigCube _ => some 4
  | .trigNib _ => some 5
  | .trigLnk => some 6
  | .ewait o => some o.unit.toNat
  | _ => none

/-- The control transfers (R99). -/
def isTransfer : Instr → Bool
  | .br _ | .brz _ | .brnz _ | .brn _ | .brnn _ | .call _ | .callr _ | .jr _ | .loop _ | .loopi _
  | .lexit _ => true
  | _ => false

/-- The transfers that hold every queue after their delay bundle (R72), with lexit (R102). -/
def isBranch : Instr → Bool
  | .br _ | .brz _ | .brnz _ | .brn _ | .brnn _ | .call _ | .callr _ | .jr _ | .lexit _ | .eret => true
  | _ => false

/-- The words whose bundle issues as though sy were 1 (R108, R239, R244, R245, R280). -/
def actsAsSync : Instr → Bool
  | .halt | .step | .bar _ | .rdv _ | .ksync => true
  | _ => false

/-- The forms that are illegal on the bellows core (R77, R207, R225, R247, R250). -/
def illegalOnBellows : Instr → Bool
  | .vld _ | .vst _ | .vgath _ | .vscat _ | .wld _ | .wst _ | .lookup _ | .tagset _ | .taginv _ | .tagrd _
  | .setfmt _ | .step | .bar _ | .rdv _ | .probe _ | .seal _ | .unseal _ | .pub _ | .wswap _ | .pfh _ => true
  | _ => false

/-- The forms that a rewindable segment refuses (R189, R226, R247). -/
def illegalInRewindable : Instr → Bool
  | .trigCpyAwAdd _ | .trigCpyAwMin _ | .trigCpyAwMax _ | .trigCpyAwAnd _ | .trigCpyAwOr _ | .trigCpyAwXor _
  | .trigCpyFadd _ | .trigCpySwap _ | .trigCpyCas _ | .seal _ | .unseal _ | .pub _ | .wswap _
  | .step | .bar _ | .rdv _ => true
  | _ => false

/-! ### Bundles (R49 to R53) -/

/-- The bundle-format conditions of R53. -/
inductive BundleError where
  | reservedHeader
  | badQuadCount
  | nonzeroPadding
  | selectorWithoutLend
  | lendWithoutSela
  | lendReserved
  | selectedSlotAbsent
  | selectedSlotNotExtensible
  | duplicateDestination
  | duplicateEngine
  | slotAbsentOnBellows
  deriving DecidableEq, Repr

/-- A bundle in fixed form (R78): its present slot words by position, and the sy bit. -/
structure Bundle where
  slots : List (Pos × SlotWord)
  sy : Bool
  deriving DecidableEq, Repr

/-- The quad count minus one of a header (R49). -/
def headerQc (h : Word32) : Nat := (fld h 30 2).toNat

/-- The bytes a bundle spans, malformed or not (R52). -/
def bundleBytes (h : Word32) : Nat := 16 * (headerQc h + 1)

/-- The mask bit of a position (R49). -/
def maskBit (h : Word32) (p : Pos) : Bool := bitAt h (29 - p.idx)

/-- The slot a lend selector names (R51); 0 names none. -/
def selPos (c : Nat) : Option Pos :=
  match c with
  | 1 => some .S0
  | 2 => some .S1
  | 3 => some .A
  | 4 => some .M
  | 5 => some .E0
  | 6 => some .E1
  | 7 => some .C
  | _ => none

/-- The lend bits that position `p` receives (R51). -/
def lendFor (sela selb : Nat) (lend : Word32) (p : Pos) : Lend :=
  let a := selPos sela == some p
  let b := selPos selb == some p
  if a && b then .two (fld lend 0 24)
  else if a then .one (fld lend 0 12)
  else if b then .one (fld lend 12 12)
  else .zero

/-- Pairs the present positions with the words that follow the header, in mask order (R50). -/
def pairSlots : List Pos → List Word32 → List (Pos × Word32)
  | p :: ps, w :: ws => (p, w) :: pairSlots ps ws
  | _, _ => []

/-- Whether a list holds some value twice. -/
def hasDup {α : Type} [DecidableEq α] : List α → Bool
  | [] => false
  | x :: xs => decide (x ∈ xs) || hasDup xs

/-- The registers that count for the duplicate rule of R53: s0 and p0 are excepted. -/
def Reg.counts : Reg → Bool
  | .s n => n != 0
  | .v _ => true
  | .p n => n != 0

/-- The instructions of a bundle's words that decode. -/
def decodedSlots (slots : List (Pos × SlotWord)) : List Instr :=
  slots.filterMap fun x => match decodeSlot x.2 with
    | .ok i => some i
    | .error _ => none

/-- Whether a slot word has no extensible field (R57); a word that is illegal for another reason is not
judged here. -/
def notExtensible (sw : SlotWord) : Bool :=
  match decodeSlot sw with
  | .error .notExtensible => true
  | _ => false

/-- The bundle of the words it spans, header first, or the first condition of R53 that it breaks, in the
table's order. -/
def parseBundle (bellows : Bool) (ws : List Word32) : Except BundleError Bundle :=
  match ws with
  | [] => .error .badQuadCount
  | h :: rest =>
    let lw := bitAt h 18
    let sela := (fld h 12 3).toNat
    let selb := (fld h 15 3).toNat
    let present := Pos.all.filter (maskBit h)
    let n := present.length
    let total := 1 + (if lw then 1 else 0) + n
    let lend := if lw then rest.headD 0 else 0
    let body := if lw then rest.drop 1 else rest
    let slots := (pairSlots present body).map fun x =>
      (x.1, (⟨x.1.cls, x.2, lendFor sela selb lend x.1⟩ : SlotWord))
    let named := [selPos sela, selPos selb].filterMap id
    let is := decodedSlots slots
    let regs := (is.flatMap dests).filter Reg.counts
    let es := decodedSlots (slots.filter fun x => x.2.cls == .E)
    if fld h 0 12 ≠ 0 then .error .reservedHeader
    else if headerQc h = 3 || headerQc h + 1 ≠ ceilDiv total 4 then .error .badQuadCount
    else if (ws.drop total).any (· != 0) then .error .nonzeroPadding
    else if !lw && (sela != 0 || selb != 0) then .error .selectorWithoutLend
    else if lw && sela == 0 then .error .lendWithoutSela
    else if fld lend 24 8 ≠ 0 || (fld lend 12 12 ≠ 0 && selb == 0) then .error .lendReserved
    else if named.any (fun p => !maskBit h p) then .error .selectedSlotAbsent
    else if slots.any (fun x => notExtensible x.2) then .error .selectedSlotNotExtensible
    else if hasDup regs then .error .duplicateDestination
    else if hasDup (es.filterMap latchOf) || hasDup (es.filterMap engineOf) then .error .duplicateEngine
    else if bellows && present.any (fun p => p.cls == .V || p.cls == .T || p.cls == .E) then
      .error .slotAbsentOnBellows
    else .ok ⟨slots, bitAt h 19⟩

/-! ### The encoders -/

/-! ### The layouts of R57: writing -/

/-- Writes layout SR under opcode `op`. -/
def encSR (op : BitVec 6) (o : SR) : Word32 :=
  op ++ o.sd ++ o.sa ++ wbit o.wa ++ o.sb ++ wbit o.wb ++ 0#6

/-- Writes layout SR1 under opcode `op`. -/
def encSR1 (op : BitVec 6) (o : SR1) : Word32 :=
  op ++ o.sd ++ o.sa ++ wbit o.wa ++ 0#13

/-- Writes layout S1 under opcode `op`. -/
def encS1 (op : BitVec 6) (o : S1) : Word32 :=
  op ++ 0#6 ++ o.sa ++ wbit o.wa ++ 0#13

/-- Writes layout SS under opcode `op`. -/
def encSS (op : BitVec 6) (o : SS) : Word32 :=
  op ++ 0#6 ++ o.sa ++ wbit o.wa ++ o.sb ++ wbit o.wb ++ 0#6

/-- Writes layout SD under opcode `op`. -/
def encSD (op : BitVec 6) (o : SD) : Word32 :=
  op ++ o.sd ++ 0#20

/-- Writes layout SI under opcode `op`. -/
def encSI (op : BitVec 6) (o : SI) : Word32 :=
  op ++ o.sd ++ o.sa ++ wbit o.wa ++ o.imm

/-- Writes layout SH under opcode `op`. -/
def encSH (op : BitVec 6) (o : SH) : Word32 :=
  op ++ o.sd ++ o.sa ++ wbit o.wa ++ 0#7 ++ o.cnt

/-- Writes layout SB under opcode `op`. -/
def encSB (op : BitVec 6) (o : SB) : Word32 :=
  op ++ o.sd ++ o.sa ++ wbit o.wa ++ o.lsb ++ 0#1 ++ o.wm1

/-- Writes layout ABr under opcode `op`. -/
def encABr (op : BitVec 6) (o : ABr) : Word32 :=
  op ++ 0#7 ++ o.off

/-- Writes layout ABc under opcode `op`. -/
def encABc (op : BitVec 6) (o : ABc) : Word32 :=
  op ++ o.sa ++ wbit o.wa ++ o.off

/-- Writes layout ABl under opcode `op`. -/
def encABl (op : BitVec 6) (o : ABl) : Word32 :=
  op ++ o.sd ++ 0#1 ++ o.off

/-- Writes layout AA under opcode `op`. -/
def encAA (op : BitVec 6) (o : AA) : Word32 :=
  op ++ o.sd ++ o.sa ++ wbit o.wa ++ o.sb ++ wbit o.wb ++ o.sh ++ 0#3

/-- Writes layout AL under opcode `op`. -/
def encAL (op : BitVec 6) (o : AL) : Word32 :=
  op ++ o.lvl ++ o.sa ++ wbit o.wa ++ 0#8 ++ o.lm1

/-- Writes layout ALI under opcode `op`. -/
def encALI (op : BitVec 6) (o : ALI) : Word32 :=
  op ++ o.lvl ++ o.cnt ++ o.lm1

/-- Writes layout AX under opcode `op`. -/
def encAX (op : BitVec 6) (o : AX) : Word32 :=
  op ++ o.lvl ++ 0#23

/-- Writes layout MSl under opcode `op`. -/
def encMSl (op : BitVec 6) (o : MSl) : Word32 :=
  op ++ o.sd ++ 0#1 ++ o.sa ++ wbit o.wa ++ o.off

/-- Writes layout MSs under opcode `op`. -/
def encMSs (op : BitVec 6) (o : MSs) : Word32 :=
  op ++ o.sc ++ wbit o.wc ++ o.sa ++ wbit o.wa ++ o.off

/-- Writes layout MVl under opcode `op`. -/
def encMVl (op : BitVec 6) (o : MVl) : Word32 :=
  op ++ o.vd ++ 0#1 ++ o.p ++ o.sa ++ wbit o.wa ++ o.off

/-- Writes layout MVs under opcode `op`. -/
def encMVs (op : BitVec 6) (o : MVs) : Word32 :=
  op ++ o.vc ++ wbit o.wc ++ o.p ++ o.sa ++ wbit o.wa ++ o.off

/-- Writes layout MGl under opcode `op`. -/
def encMGl (op : BitVec 6) (o : MGl) : Word32 :=
  op ++ o.vd ++ 0#1 ++ o.p ++ o.sa ++ wbit o.wa ++ o.vb ++ wbit o.wb ++ 0#4

/-- Writes layout MGs under opcode `op`. -/
def encMGs (op : BitVec 6) (o : MGs) : Word32 :=
  op ++ o.vc ++ wbit o.wc ++ o.p ++ o.sa ++ wbit o.wa ++ o.vb ++ wbit o.wb ++ 0#4

/-- Writes layout VR under opcode `op`. -/
def encVR (op : BitVec 6) (o : VR) : Word32 :=
  op ++ o.vd ++ o.va ++ wbit o.wa ++ o.vb ++ wbit o.wb ++ 0#6 ++ o.p

/-- Writes layout VR3 under opcode `op`. -/
def encVR3 (op : BitVec 6) (o : VR3) : Word32 :=
  op ++ o.vd ++ o.va ++ wbit o.wa ++ o.vb ++ wbit o.wb ++ o.vc ++ wbit o.wc ++ o.p

/-- Writes layout VR1 under opcode `op`. -/
def encVR1 (op : BitVec 6) (o : VR1) : Word32 :=
  op ++ o.vd ++ o.va ++ wbit o.wa ++ 0#12 ++ o.p

/-- Writes layout VP under opcode `op`. -/
def encVP (op : BitVec 6) (o : VP) : Word32 :=
  op ++ 0#2 ++ o.pd ++ o.va ++ wbit o.wa ++ o.vb ++ wbit o.wb ++ 0#6 ++ o.p

/-- Writes layout VB under opcode `op`. -/
def encVB (op : BitVec 6) (o : VB) : Word32 :=
  op ++ o.vd ++ o.sa ++ wbit o.wa ++ 0#11 ++ o.p

/-- Writes layout VX under opcode `op`. -/
def encVX (op : BitVec 6) (o : VX) : Word32 :=
  op ++ o.sd ++ o.va ++ wbit o.wa ++ o.lane ++ 0#7

/-- Writes layout VQ under opcode `op`. -/
def encVQ (op : BitVec 6) (o : VQ) : Word32 :=
  op ++ o.sd ++ o.va ++ wbit o.wa ++ 0#11 ++ o.p

/-- Writes layout VC under opcode `op`. -/
def encVC (op : BitVec 6) (o : VC) : Word32 :=
  op ++ o.vd ++ o.va ++ wbit o.wa ++ o.src ++ o.dst ++ 0#4 ++ o.p

/-- Writes layout VG under opcode `op`. -/
def encVG (op : BitVec 6) (o : VG) : Word32 :=
  op ++ o.vd ++ o.va ++ wbit o.wa ++ o.group ++ 0#8 ++ o.p

/-- Writes layout TI under opcode `op`. -/
def encTI (op : BitVec 6) (o : TI) : Word32 :=
  op ++ 0#5 ++ o.va ++ wbit o.wa ++ 0#15

/-- Writes layout TP under opcode `op`. -/
def encTP (op : BitVec 6) (o : TP) : Word32 :=
  op ++ o.vd ++ 0#21

/-- Writes layout TM under opcode `op`. -/
def encTM (op : BitVec 6) (o : TM) : Word32 :=
  op ++ 0#22 ++ o.mode

/-- Writes layout EL under opcode `op`. -/
def encEL (op : BitVec 6) (o : EL) : Word32 :=
  op ++ o.latch ++ o.sa ++ wbit o.wa ++ 0#9

/-- Writes layout EI under opcode `op`. -/
def encEI (op : BitVec 6) (o : EI) : Word32 :=
  op ++ o.latch ++ o.imm

/-- Writes layout ES under opcode `op`. -/
def encES (op : BitVec 6) (o : ES) : Word32 :=
  op ++ o.latch ++ o.sd ++ 0#10

/-- Writes layout ECp under opcode `op`. -/
def encECp (op : BitVec 6) (sub : BitVec 4) (o : ECp) : Word32 :=
  op ++ o.eng ++ sub ++ 0#8 ++ wbit o.fo ++ 0#11

/-- Writes layout ECa under opcode `op`. -/
def encECa (op : BitVec 6) (sub : BitVec 4) (o : ECa) : Word32 :=
  op ++ o.eng ++ sub ++ o.ty ++ 0#18

/-- Writes layout ECr under opcode `op`. -/
def encECr (op : BitVec 6) (sub : BitVec 4) (o : ECr) : Word32 :=
  op ++ o.eng ++ sub ++ o.ty ++ o.sd ++ 0#12

/-- Writes layout EW under opcode `op`. -/
def encEW (op : BitVec 6) (o : EW) : Word32 :=
  op ++ o.unit ++ 0#23

/-- Writes layout EM under opcode `op`. -/
def encEM (op : BitVec 6) (o : EM) : Word32 :=
  op ++ o.wm ++ o.sa ++ wbit o.wa ++ 0#15

/-- Writes layout CI under opcode `op`. -/
def encCI (op : BitVec 6) (o : CI) : Word32 :=
  op ++ 0#10 ++ o.imm

/-- Writes layout CSr under opcode `op`. -/
def encCSr (op : BitVec 6) (o : CSr) : Word32 :=
  op ++ o.sd ++ 0#8 ++ o.num

/-- Writes layout CSw under opcode `op`. -/
def encCSw (op : BitVec 6) (o : CSw) : Word32 :=
  op ++ o.sa ++ wbit o.wa ++ 0#7 ++ o.num

/-- A word with no operand fields. -/
def encNone (op : BitVec 6) : Word32 := op ++ 0#26

/-- The encoder: the slot word of an instruction, with its lend bits; none for a row that is no word. -/
def encode : Instr → Option SlotWord
  | .add o => some ⟨.S, encSR 0x00#6 o, .zero⟩
  | .sub o => some ⟨.S, encSR 0x01#6 o, .zero⟩
  | .and o => some ⟨.S, encSR 0x02#6 o, .zero⟩
  | .or o => some ⟨.S, encSR 0x03#6 o, .zero⟩
  | .xor o => some ⟨.S, encSR 0x04#6 o, .zero⟩
  | .shl o => some ⟨.S, encSR 0x05#6 o, .zero⟩
  | .shr o => some ⟨.S, encSR 0x06#6 o, .zero⟩
  | .sar o => some ⟨.S, encSR 0x07#6 o, .zero⟩
  | .mul o => some ⟨.S, encSR 0x08#6 o, .zero⟩
  | .mulhs o => some ⟨.S, encSR 0x09#6 o, .zero⟩
  | .mulhu o => some ⟨.S, encSR 0x0A#6 o, .zero⟩
  | .min o => some ⟨.S, encSR 0x0B#6 o, .zero⟩
  | .max o => some ⟨.S, encSR 0x0C#6 o, .zero⟩
  | .minu o => some ⟨.S, encSR 0x0D#6 o, .zero⟩
  | .maxu o => some ⟨.S, encSR 0x0E#6 o, .zero⟩
  | .ceq o => some ⟨.S, encSR 0x10#6 o, .zero⟩
  | .cne o => some ⟨.S, encSR 0x11#6 o, .zero⟩
  | .clt o => some ⟨.S, encSR 0x12#6 o, .zero⟩
  | .cle o => some ⟨.S, encSR 0x13#6 o, .zero⟩
  | .cltu o => some ⟨.S, encSR 0x14#6 o, .zero⟩
  | .cleu o => some ⟨.S, encSR 0x15#6 o, .zero⟩
  | .movnz o => some ⟨.S, encSR 0x16#6 o, .zero⟩
  | .movz o => some ⟨.S, encSR 0x17#6 o, .zero⟩
  | .clz o => some ⟨.S, encSR1 0x18#6 o, .zero⟩
  | .ctz o => some ⟨.S, encSR1 0x19#6 o, .zero⟩
  | .popc o => some ⟨.S, encSR1 0x1A#6 o, .zero⟩
  | .bswap o => some ⟨.S, encSR1 0x1B#6 o, .zero⟩
  | .addi o => some ⟨.S, encSI 0x20#6 o, o.lend⟩
  | .andi o => some ⟨.S, encSI 0x22#6 o, o.lend⟩
  | .ori o => some ⟨.S, encSI 0x23#6 o, o.lend⟩
  | .xori o => some ⟨.S, encSI 0x24#6 o, o.lend⟩
  | .shli o => some ⟨.S, encSH 0x25#6 o, .zero⟩
  | .shri o => some ⟨.S, encSH 0x26#6 o, .zero⟩
  | .sari o => some ⟨.S, encSH 0x27#6 o, .zero⟩
  | .muli o => some ⟨.S, encSI 0x28#6 o, o.lend⟩
  | .ceqi o => some ⟨.S, encSI 0x30#6 o, o.lend⟩
  | .cnei o => some ⟨.S, encSI 0x31#6 o, o.lend⟩
  | .clti o => some ⟨.S, encSI 0x32#6 o, o.lend⟩
  | .clei o => some ⟨.S, encSI 0x33#6 o, o.lend⟩
  | .cltui o => some ⟨.S, encSI 0x34#6 o, o.lend⟩
  | .cleui o => some ⟨.S, encSI 0x35#6 o, o.lend⟩
  | .bfx o => some ⟨.S, encSB 0x38#6 o, .zero⟩
  | .bfxs o => some ⟨.S, encSB 0x39#6 o, .zero⟩
  | .bfi o => some ⟨.S, encSB 0x3A#6 o, .zero⟩
  | .sli o => some ⟨.S, encSI 0x3B#6 o, o.lend⟩
  | .br o => some ⟨.A, encABr 0x00#6 o, o.lend⟩
  | .brz o => some ⟨.A, encABc 0x01#6 o, o.lend⟩
  | .brnz o => some ⟨.A, encABc 0x02#6 o, o.lend⟩
  | .brn o => some ⟨.A, encABc 0x03#6 o, o.lend⟩
  | .brnn o => some ⟨.A, encABc 0x04#6 o, o.lend⟩
  | .call o => some ⟨.A, encABl 0x05#6 o, o.lend⟩
  | .callr o => some ⟨.A, encSR1 0x06#6 o, .zero⟩
  | .jr o => some ⟨.A, encS1 0x07#6 o, .zero⟩
  | .adda o => some ⟨.A, encAA 0x08#6 o, .zero⟩
  | .addai o => some ⟨.A, encSI 0x09#6 o, o.lend⟩
  | .loop o => some ⟨.A, encAL 0x10#6 o, .zero⟩
  | .loopi o => some ⟨.A, encALI 0x11#6 o, o.lend⟩
  | .lexit o => some ⟨.A, encAX 0x12#6 o, .zero⟩
  | .fldB o => some ⟨.M, encMSl 0x00#6 o, o.lend⟩
  | .fldH o => some ⟨.M, encMSl 0x01#6 o, o.lend⟩
  | .fldW o => some ⟨.M, encMSl 0x02#6 o, o.lend⟩
  | .fldD o => some ⟨.M, encMSl 0x03#6 o, o.lend⟩
  | .fstB o => some ⟨.M, encMSs 0x04#6 o, o.lend⟩
  | .fstH o => some ⟨.M, encMSs 0x05#6 o, o.lend⟩
  | .fstW o => some ⟨.M, encMSs 0x06#6 o, o.lend⟩
  | .fstD o => some ⟨.M, encMSs 0x07#6 o, o.lend⟩
  | .vld o => some ⟨.M, encMVl 0x08#6 o, o.lend⟩
  | .vst o => some ⟨.M, encMVs 0x09#6 o, o.lend⟩
  | .vgath o => some ⟨.M, encMGl 0x0A#6 o, .zero⟩
  | .vscat o => some ⟨.M, encMGs 0x0B#6 o, .zero⟩
  | .wld o => some ⟨.M, encMVl 0x0C#6 o, o.lend⟩
  | .wst o => some ⟨.M, encMVs 0x0D#6 o, o.lend⟩
  | .lookup o => some ⟨.M, encSR1 0x10#6 o, .zero⟩
  | .tagset o => some ⟨.M, encSS 0x11#6 o, .zero⟩
  | .taginv o => some ⟨.M, encS1 0x12#6 o, .zero⟩
  | .tagrd o => some ⟨.M, encSR1 0x13#6 o, .zero⟩
  | .gld o => some ⟨.M, encMSl 0x18#6 o, o.lend⟩
  | .gst o => some ⟨.M, encMSs 0x19#6 o, o.lend⟩
  | .rld o => some ⟨.M, encMSl 0x1A#6 o, o.lend⟩
  | .rst o => some ⟨.M, encMSs 0x1B#6 o, o.lend⟩
  | .cfence => some ⟨.M, encNone 0x1F#6, .zero⟩
  | .vaddF32 o => some ⟨.V, encVR 0x00#6 o, .zero⟩
  | .vsubF32 o => some ⟨.V, encVR 0x01#6 o, .zero⟩
  | .vmulF32 o => some ⟨.V, encVR 0x02#6 o, .zero⟩
  | .vfmaF32 o => some ⟨.V, encVR3 0x03#6 o, .zero⟩
  | .vminF32 o => some ⟨.V, encVR 0x04#6 o, .zero⟩
  | .vmaxF32 o => some ⟨.V, encVR 0x05#6 o, .zero⟩
  | .vaddBf16 o => some ⟨.V, encVR 0x06#6 o, .zero⟩
  | .vmulBf16 o => some ⟨.V, encVR 0x07#6 o, .zero⟩
  | .vfmaBf16 o => some ⟨.V, encVR3 0x08#6 o, .zero⟩
  | .vaddF16 o => some ⟨.V, encVR 0x09#6 o, .zero⟩
  | .vmulF16 o => some ⟨.V, encVR 0x0A#6 o, .zero⟩
  | .vfmaF16 o => some ⟨.V, encVR3 0x0B#6 o, .zero⟩
  | .vaddI32 o => some ⟨.V, encVR 0x0C#6 o, .zero⟩
  | .vsubI32 o => some ⟨.V, encVR 0x0D#6 o, .zero⟩
  | .vmulI32 o => some ⟨.V, encVR 0x0E#6 o, .zero⟩
  | .vminI32 o => some ⟨.V, encVR 0x0F#6 o, .zero⟩
  | .vmaxI32 o => some ⟨.V, encVR 0x10#6 o, .zero⟩
  | .vand o => some ⟨.V, encVR 0x11#6 o, .zero⟩
  | .vor o => some ⟨.V, encVR 0x12#6 o, .zero⟩
  | .vxor o => some ⟨.V, encVR 0x13#6 o, .zero⟩
  | .vshl o => some ⟨.V, encVR 0x14#6 o, .zero⟩
  | .vshr o => some ⟨.V, encVR 0x15#6 o, .zero⟩
  | .vsar o => some ⟨.V, encVR 0x16#6 o, .zero⟩
  | .vaddI16 o => some ⟨.V, encVR 0x17#6 o, .zero⟩
  | .vsubI16 o => some ⟨.V, encVR 0x18#6 o, .zero⟩
  | .vaddsI16 o => some ⟨.V, encVR 0x19#6 o, .zero⟩
  | .vmulI16 o => some ⟨.V, encVR 0x1A#6 o, .zero⟩
  | .vcmpeqF32 o => some ⟨.V, encVP 0x1C#6 o, .zero⟩
  | .vcmpltF32 o => some ⟨.V, encVP 0x1D#6 o, .zero⟩
  | .vcmpleF32 o => some ⟨.V, encVP 0x1E#6 o, .zero⟩
  | .vcmpeqI32 o => some ⟨.V, encVP 0x1F#6 o, .zero⟩
  | .vcmpltI32 o => some ⟨.V, encVP 0x20#6 o, .zero⟩
  | .vsel o => some ⟨.V, encVR 0x21#6 o, .zero⟩
  | .vperm o => some ⟨.V, encVR 0x22#6 o, .zero⟩
  | .vbcast o => some ⟨.V, encVB 0x23#6 o, .zero⟩
  | .vext o => some ⟨.V, encVX 0x24#6 o, .zero⟩
  | .vredsumF32 o => some ⟨.V, encVQ 0x25#6 o, .zero⟩
  | .vredmaxF32 o => some ⟨.V, encVQ 0x26#6 o, .zero⟩
  | .vredminF32 o => some ⟨.V, encVQ 0x27#6 o, .zero⟩
  | .vredsumI32 o => some ⟨.V, encVQ 0x28#6 o, .zero⟩
  | .vcvt o => some ⟨.V, encVC 0x29#6 o, .zero⟩
  | .vcvtF32I16 o => some ⟨.V, encVR1 0x2A#6 o, .zero⟩
  | .vcvtI16F32 o => some ⟨.V, encVR1 0x2B#6 o, .zero⟩
  | .vrcpF32 o => some ⟨.V, encVR1 0x2C#6 o, .zero⟩
  | .vrsqrtF32 o => some ⟨.V, encVR1 0x2D#6 o, .zero⟩
  | .vexp2F32 o => some ⟨.V, encVR1 0x2E#6 o, .zero⟩
  | .vlog2F32 o => some ⟨.V, encVR1 0x2F#6 o, .zero⟩
  | .vtanhF32 o => some ⟨.V, encVR1 0x30#6 o, .zero⟩
  | .vgly o => some ⟨.V, encVG 0x31#6 o, .zero⟩
  | .vbscale o => some ⟨.V, encVR 0x32#6 o, .zero⟩
  | .trin o => some ⟨.T, encTI 0x00#6 o, .zero⟩
  | .tpop o => some ⟨.T, encTP 0x01#6 o, .zero⟩
  | .tmode o => some ⟨.T, encTM 0x02#6 o, .zero⟩
  | .tclr => some ⟨.T, encNone 0x03#6, .zero⟩
  | .mvl o => some ⟨.E, encEL 0x00#6 o, .zero⟩
  | .mvli o => some ⟨.E, encEI 0x01#6 o, o.lend⟩
  | .mvlh o => some ⟨.E, encEI 0x02#6 o, o.lend⟩
  | .mvs o => some ⟨.E, encES 0x03#6 o, .zero⟩
  | .trigCpy o => some ⟨.E, encECp 0x08#6 0x0#4 o, .zero⟩
  | .trigCpyAwAdd o => some ⟨.E, encECa 0x08#6 0x1#4 o, .zero⟩
  | .trigCpyAwMin o => some ⟨.E, encECa 0x08#6 0x2#4 o, .zero⟩
  | .trigCpyAwMax o => some ⟨.E, encECa 0x08#6 0x3#4 o, .zero⟩
  | .trigCpyAwAnd o => some ⟨.E, encECa 0x08#6 0x4#4 o, .zero⟩
  | .trigCpyAwOr o => some ⟨.E, encECa 0x08#6 0x5#4 o, .zero⟩
  | .trigCpyAwXor o => some ⟨.E, encECa 0x08#6 0x6#4 o, .zero⟩
  | .trigCpyFadd o => some ⟨.E, encECr 0x08#6 0x7#4 o, .zero⟩
  | .trigCpySwap o => some ⟨.E, encECr 0x08#6 0x8#4 o, .zero⟩
  | .trigCpyCas o => some ⟨.E, encECr 0x08#6 0x9#4 o, .zero⟩
  | .trigCube o => some ⟨.E, encTP 0x09#6 o, .zero⟩
  | .trigNib o => some ⟨.E, encTP 0x0A#6 o, .zero⟩
  | .trigLnk => some ⟨.E, encNone 0x0B#6, .zero⟩
  | .ewait o => some ⟨.E, encEW 0x10#6 o, .zero⟩
  | .wmwait o => some ⟨.E, encEM 0x11#6 o, .zero⟩
  | .nop => some ⟨.C, encNone 0x00#6, .zero⟩
  | .halt => some ⟨.C, encNone 0x01#6, .zero⟩
  | .trap o => some ⟨.C, encCI 0x02#6 o, .zero⟩
  | .eret => some ⟨.C, encNone 0x03#6, .zero⟩
  | .rdsr o => some ⟨.C, encCSr 0x04#6 o, .zero⟩
  | .wrsr o => some ⟨.C, encCSw 0x05#6 o, .zero⟩
  | .rdts o => some ⟨.C, encSD 0x06#6 o, .zero⟩
  | .setfmt o => some ⟨.C, encCI 0x08#6 o, .zero⟩
  | .step => some ⟨.C, encNone 0x10#6, .zero⟩
  | .bar o => some ⟨.C, encCI 0x11#6 o, .zero⟩
  | .rdv o => some ⟨.C, encCI 0x12#6 o, .zero⟩
  | .probe o => some ⟨.C, encSR1 0x13#6 o, .zero⟩
  | .seal o => some ⟨.C, encS1 0x18#6 o, .zero⟩
  | .unseal o => some ⟨.C, encS1 0x19#6 o, .zero⟩
  | .pub o => some ⟨.C, encS1 0x1A#6 o, .zero⟩
  | .wswap o => some ⟨.C, encSS 0x1B#6 o, .zero⟩
  | .pfh o => some ⟨.C, encSS 0x1C#6 o, .zero⟩
  | .ksync => some ⟨.C, encNone 0x1D#6, .zero⟩
  | _ => none

/-- The low 12 lend bits of a slot and the 12 above them (R51). -/
def Lend.parts : Lend → List (BitVec 12)
  | .zero => []
  | .one b => [b]
  | .two b => [b.extractLsb' 0 12, b.extractLsb' 12 12]

/-- The lend selector of a position (R51). -/
def posSel : Pos → Nat
  | .S0 => 1 | .S1 => 2 | .A => 3 | .M => 4 | .E0 => 5 | .E1 => 6 | .C => 7 | _ => 0

/-- The words of a bundle in memory order (R49 to R51, R85): the minimal quad count, zero padding, sela
before selb in mask order. -/
def encodeBundle (b : Bundle) : List Word32 :=
  let lends := b.slots.flatMap fun x => x.2.lend.parts.map fun l => (posSel x.1, l)
  let mask := b.slots.foldl (fun m x => m ||| (1 <<< (29 - x.1.idx))) 0
  let sela := (lends.head?.map (·.1)).getD 0
  let selb := ((lends.drop 1).head?.map (·.1)).getD 0
  let lo := (lends.head?.map (·.2)).getD 0
  let hi := ((lends.drop 1).head?.map (·.2)).getD 0
  let lw := !lends.isEmpty
  let total := 1 + (if lw then 1 else 0) + b.slots.length
  let quads := ceilDiv total 4
  let header := BitVec.ofNat 32 (((quads - 1) <<< 30) + mask + (if b.sy then 1 <<< 19 else 0) +
    (if lw then 1 <<< 18 else 0) + (selb <<< 15) + (sela <<< 12))
  let lend := BitVec.ofNat 32 (lo.toNat + (hi.toNat <<< 12))
  header :: (if lw then [lend] else []) ++ b.slots.map (·.2.word) ++
    List.replicate (4 * quads - total) 0

/-! ### Words of the opcode table -/

/-- How many bits of its word an instruction fills with operands. -/
def operandBits : Instr → Nat
  | .lexit _ | .trigCpy _ | .ewait _ => 3
  | .tmode _ | .trigCpyAwAdd _ | .trigCpyAwMin _ | .trigCpyAwMax _ | .trigCpyAwAnd _ |
    .trigCpyAwOr _ | .trigCpyAwXor _ => 4
  | .tpop _ | .trigCube _ | .trigNib _ => 5
  | .trin _ | .rdts _ => 6
  | .jr _ | .taginv _ | .seal _ | .unseal _ | .pub _ => 7
  | .trigCpyFadd _ | .trigCpySwap _ | .trigCpyCas _ => 10
  | .wmwait _ => 11
  | .clz _ | .ctz _ | .popc _ | .bswap _ | .callr _ | .lookup _ | .tagrd _ | .probe _ => 13
  | .tagset _ | .vcvtF32I16 _ | .vcvtI16F32 _ | .vrcpF32 _ | .vrsqrtF32 _ | .vexp2F32 _ |
    .vlog2F32 _ | .vtanhF32 _ | .wswap _ | .pfh _ => 14
  | .vbcast _ | .vredsumF32 _ | .vredmaxF32 _ | .vredminF32 _ | .vredsumI32 _ => 15
  | .mvs _ | .trap _ | .setfmt _ | .bar _ | .rdv _ => 16
  | .mvl _ => 17
  | .loop _ | .vcmpeqF32 _ | .vcmpltF32 _ | .vcmpleF32 _ | .vcmpeqI32 _ | .vcmpltI32 _ | .vgly _
    | .rdsr _ => 18
  | .shli _ | .shri _ | .sari _ | .br _ | .vext _ | .wrsr _ => 19
  | .add _ | .sub _ | .and _ | .or _ | .xor _ | .shl _ | .shr _ | .sar _ | .mul _ | .mulhs _ |
    .mulhu _ | .min _ | .max _ | .minu _ | .maxu _ | .ceq _ | .cne _ | .clt _ | .cle _ | .cltu _
    | .cleu _ | .movnz _ | .movz _ | .vaddF32 _ | .vsubF32 _ | .vmulF32 _ | .vminF32 _ |
    .vmaxF32 _ | .vaddBf16 _ | .vmulBf16 _ | .vaddF16 _ | .vmulF16 _ | .vaddI32 _ | .vsubI32 _ |
    .vmulI32 _ | .vminI32 _ | .vmaxI32 _ | .vand _ | .vor _ | .vxor _ | .vshl _ | .vshr _ |
    .vsar _ | .vaddI16 _ | .vsubI16 _ | .vaddsI16 _ | .vmulI16 _ | .vsel _ | .vperm _ | .vbscale
    _ => 20
  | .vgath _ => 21
  | .vscat _ | .vcvt _ => 22
  | .adda _ => 23
  | .bfx _ | .bfxs _ | .bfi _ | .call _ | .fldB _ | .fldH _ | .fldW _ | .fldD _ | .vld _ | .wld
    _ | .gld _ | .rld _ => 25
  | .addi _ | .andi _ | .ori _ | .xori _ | .muli _ | .ceqi _ | .cnei _ | .clti _ | .clei _ |
    .cltui _ | .cleui _ | .sli _ | .brz _ | .brnz _ | .brn _ | .brnn _ | .addai _ | .loopi _ |
    .fstB _ | .fstH _ | .fstW _ | .fstD _ | .vst _ | .wst _ | .gst _ | .rst _ | .vfmaF32 _ |
    .vfmaBf16 _ | .vfmaF16 _ | .mvli _ | .mvlh _ => 26
  | _ => 0

/-- Of two readings, the one whose form fixes more bits; the first on a tie. -/
def moreSpecific (a b : Option Instr) : Option Instr :=
  match a, b with
  | none, b => b
  | a, none => a
  | some i, some j => if operandBits j < operandBits i then some j else some i

/-- A slot word of some class, where it decodes. -/
def tryClass (w : Word32) (c : SlotClass) : Option Instr :=
  match decodeSlot ⟨c, w, .zero⟩ with
  | .ok i => some i
  | .error _ => none

/-- The seven classes in the order of R54. -/
def allClasses : List SlotClass := [.S, .A, .M, .V, .T, .E, .C]

/-- The class in which a bare word is read when no slot position says it (log 8: DESIGN CHOICE). -/
def tableClass (w : Word32) : Option SlotClass :=
  match (allClasses.map (tryClass w)).foldl moreSpecific none with
  | some i => (encode i).map (·.cls)
  | none => none

/-- The instruction this decoder reads from the bits of one table row (a 32-bit slot word). A slot word
does not say its class (R54): of the classes that read it, the form that fixes most bits is taken, and the
order of R54 settles ties (log 8: DESIGN CHOICE). -/
def decodeTableWord (nbits w : Nat) : Option Instr :=
  if nbits = 32 then (allClasses.map (tryClass (BitVec.ofNat 32 w))).foldl moreSpecific none else none

end Sys2Proof
end

