-- ==== Sys2Proof/Machine/State.lean ====
section
/-! DEFINITION. The state of one VJ-8 package as plain data: every piece of state that spec/ names
(INVENTORY.md lists them with their rules), the faults and refusals of a step, and the state after
power-on reset. -/

namespace Sys2Proof.Machine

/-- A sparse table: the entries that have been written, in rising order of their keys; every other key
holds the table's default, which its reader names. -/
abbrev Table (α : Type) := List (Nat × α)

/-- A memory: address and byte pairs, addresses strictly rising, no listed byte 0 (log 5: DESIGN CHOICE). -/
abbrev Memory := List Host.Cell

/-! ### Why a step can stop -/

/-- The step's faults. The device reports every fault of its own as a state (R302), so none of these is
raised by an instruction that the manual gives an effect. -/
inductive Fault where
  /-- Raised by a step of a package that has lost power (R381): nothing moves until power returns. Safe. -/
  | noPower
  deriving DecidableEq, Repr

/-- The step's refusals. -/
inductive Refusal where
  /-- Raised by the dispatch of a row that has no meaning yet. Safe. -/
  | notModelled (mnemonic : String)
  deriving DecidableEq, Repr

/-! ### Task slots (R58, R87 to R107) -/

/-- The states of a task slot (R87), in the order of their codes. -/
inductive TaskSt where
  | free | bound | ready | issuing | parked | held | stopped | retired
  deriving DecidableEq, Repr

/-- What a parked or stalled task awaits (R91, R249). -/
inductive Wait where
  | none
  | reg (r : Reg)
  | rld (r : Reg)
  | barrier (b : BarrierId)
  | engine (unit : Nat)
  | watermark (ch : Nat) (level : Nat)
  deriving DecidableEq, Repr

/-- The marks of a loop level (R103). -/
inductive Mark where
  | T | C | L
  deriving DecidableEq, Repr

/-- One hardware-loop level (R100 to R104); the body bounds are its segment, the number of its first bundle
there, and the addresses of its first bundle, of the end of its last, and of the bundle after it. -/
structure Loop where
  act : Bool := false
  cnt : Word := 0
  idx : Word := 0
  beg : Word := 0
  lim : Word := BitVec.allOnes 64
  dm1 : Nat := 0
  lenm1 : Nat := 0
  mark : Mark := .T
  drn : Bool := false
  org : Word := 0
  str : Word := 1
  first : Nat := 0
  seg : Nat := 0
  bodyAddr : Word := 0
  endAddr : Word := 0
  afterAddr : Word := 0
  deriving DecidableEq, Repr

/-- A fixed-latency result in flight (R66 to R68, R304): its write hc, its destination, its value and the
number of its bundle in program order, with the queue that issued it. A lane mask keeps the lanes that a predicate left out (R115). -/
inductive Dest where
  | s (n : BitVec 6)
  | v (n : BitVec 5) (mask : VWord)
  | p (n : BitVec 3)
  | fmt
  deriving DecidableEq, Repr

structure PendWrite where
  due : Nat
  dest : Dest
  val : VWord
  order : Nat
  pos : Pos
  deriving DecidableEq, Repr

/-- The fixed-latency results that have changed a register since the last sync bundle, the newest first: the queue of each
and what the register held before it (R74). -/
abbrev Recent := List (Pos × VWord)

/-- What a fixed-latency store makes visible (R66, R111, R174): the floor bytes of a scalar store, the floor lanes and the
well lanes of a vector store, 4 bytes each, a tag change, a system-register write, stores into the step-shared space (address,
bytes, value). -/
inductive StoreKind where
  | floor (bytes : List (Nat × Byte))
  | lanes (bytes : List (Nat × Byte))
  | well (bytes : List (Nat × Byte))
  | tag (slot : Nat) (tag : Word) (pin : Bool)
  | sr (num : Nat) (val : Word)
  | share (rank : Nat) (stores : List (Nat × Nat × Word))
  deriving DecidableEq, Repr

/-- A fixed-latency store in flight: when it becomes visible, whose it is, when and in which bundle it issued. -/
structure PendStore where
  due : Nat
  task : Nat
  kind : StoreKind
  issued : Nat
  order : Nat
  deriving DecidableEq, Repr

/-- A long-latency result outstanding (R63): its destination, the kind and number of its producer
(a unit kind of R249), and its bundle's segment entry. -/
structure Outst where
  reg : Reg
  unit : Nat
  id : Nat
  entry : Nat
  deriving DecidableEq, Repr

/-- The faults that a sequenced bundle raises when a queue reaches it (R53, R273). -/
inductive BundleFault where
  | format
  | kernel
  deriving DecidableEq, Repr

/-- A bundle of the loop buffer as the loop engine has sequenced it (R71, R101): its number, its entry, the
loop state and stage predicates of its iteration (R104), and where it stands: whether it enters its segment
(R81) and in which entry, whether it is a delay bundle, the last of an active body, or the one before (R99); `succ` is the
bundle that sequential flow reaches after it. -/
structure SeqBundle where
  n : Nat
  addr : Word
  slots : List (Pos × SlotWord)
  stages : List Nat := []
  sy : Bool := false
  fault : Option BundleFault := none
  q : BitVec 8 := 0xFF
  loops : Table Loop := []
  seg : Nat := 0
  idx : Nat := 0
  rw : Bool := false
  enters : Bool := false
  entry : Nat := 0
  delay : Bool := false
  lastOfBody : Bool := false
  beforeLast : Bool := false
  succ : Word := 0
  deriving DecidableEq, Repr

/-- What holds the sequencer back (R72, R80, R100, R106): nothing; a transfer not yet issued, with its delay
bundle sequenced or not; a transfer issued before its delay bundle is sequenced; a loop word not yet issued;
the end of an iteration, reached with a transfer of its last bundle not yet issued or with none; the drain of a
pre-emption; a fault. -/
inductive FlowHold where
  | run
  | transfer (n : Nat) (delayDone : Bool)
  | issued
  | loopSetup (n : Nat)
  | iterEnd
  | transferEnd (n : Nat)
  | drain
  | halted
  deriving DecidableEq, Repr

/-- The flow of a task: the next bundle to sequence, what holds it, where a taken transfer goes and which
level a lexit leaves, the segment of the last bundle, whether that bundle held a transfer, whether flow has
run off the last segment, the number of segment entries. -/
structure Flow where
  next : Word := 0
  hold : FlowHold := .run
  target : Option Word := none
  lexit : Option Nat := none
  seg : Option Nat := none
  afterTransfer : Bool := false
  ranOff : Bool := false
  entries : Nat := 0
  deriving DecidableEq, Repr

/-- A global access of a task slot, in its source order (R256): a load with its destination or a store
with its value. -/
structure GAcc where
  n : Nat
  load : Bool
  remote : Bool
  va : Word
  val : Word
  sd : BitVec 6
  issuedTs : Nat
  sent : Bool
  entry : Nat
  deriving DecidableEq, Repr

/-- A probe walking (R250). -/
structure ProbeWalk where
  n : Nat
  sd : BitVec 6
  start : Nat
  cur : Nat
  hops : Nat
  deriving DecidableEq, Repr

/-- The snapshot taken at the entry of a rewindable segment (R310), with the address of the segment's header. -/
structure Snap where
  sreg : Table Word
  vreg : Table VWord
  preg : Table PWord
  fmt : Word32
  emptyS : List Nat
  emptyV : List Nat
  loops : Table Loop
  addr : Word
  seg : Nat
  entry : Nat
  deriving DecidableEq, Repr

/-- One task slot (R58, R87 to R93); `boundAt` and `gaccFirst` are the hc of the task's bind and the number of its first
global access, the slot's earlier ones being a former task's; `aliens` are the ranges of numbers that other tasks took in the slot
while this one was saved; `stall` is the last hc in which a queue stalled on a unit, with the unit
(R249). The latches of all engines stand in one table by latch number
(R62), what R74 leaves open by `Reg.key`; `also` are the further waits of a bundle that parked it on several (R91), `needs`
is the bundle that its issue awaits in the loop buffer (R92); a latch not listed holds its reset value (R137, R161, R185, R342). -/
structure Task where
  st : TaskSt := .free
  sreg : Table Word := []
  vreg : Table VWord := []
  preg : Table PWord := []
  emptyS : List Nat := []
  emptyV : List Nat := []
  fmt : Word32 := 0x00000911
  pendMode : Bool := false
  pend : List PendWrite := []
  recent : Table Recent := []
  loops : Table Loop := []
  stream : List SeqBundle := []
  qpos : Table Nat := []
  qlast : Table Nat := []
  nextSeq : Nat := 0
  flow : Flow := {}
  syncOpen : Option Nat := none
  wait : Wait := .none
  also : List Wait := []
  needs : Option Word := none
  readyAt : Nat := 0
  issueFrom : Nat := 0
  outst : List Outst := []
  lat : Table Word := []
  kimg : Word := 0
  marks : List Mark := []
  gid : Option Nat := none
  rank : Nat := 0
  preq : Bool := false
  halting : Bool := false
  gacc : List GAcc := []
  gaccNext : Nat := 0
  gaccFirst : Nat := 0
  aliens : List (Nat × Nat) := []
  boundAt : Nat := 0
  probes : List ProbeWalk := []
  snap : Option Snap := none
  entry : Nat := 0
  stSave : TaskSt := .free
  ewait : List (Nat × Nat) := []
  arrivals : List (BarrierId × Nat) := []
  srNew : List (Nat × Nat × Word) := []
  fenceAt : Option (Nat × Nat) := none
  stall : Option (Nat × Nat) := none
  deriving DecidableEq, Repr

/-! ### Tiles -/

/-- The states of a floor slot (R169), in the order of their codes. -/
inductive SlotSt where
  | empty | filling | valid | pinned | evicting
  deriving DecidableEq, Repr

/-- A tag-table entry (R169, R171, R174); owner 7 is none. -/
structure TagEntry where
  st : SlotSt := .empty
  tag : Word := 0
  owner : Nat := 7
  deriving DecidableEq, Repr

/-- A granule of step-shared space (R215): next value, written bit, writer field, collision mark. -/
structure Granule where
  next : Word := 0
  written : Bool := false
  writer : Nat := 0
  col : Bool := false
  deriving DecidableEq, Repr

/-- A map entry of step-shared space (R215). -/
structure SsMap where
  v : Bool := false
  rule : Nat := 0
  carry : Bool := false
  ty : Nat := 0
  first : Nat := 0
  cm1 : Nat := 0
  rgn : Nat := 0
  deriving DecidableEq, Repr

/-- A watermark channel (R194), with the engine that armed it and the bytes that its command writes: the address of the
first, the length of a row, count and stride of the outer dimensions, the outermost first. -/
structure Watermark where
  base : Nat := 0
  well : Bool := false
  lim : Nat := 0
  wm : Nat := 0
  eng : Nat := 0
  first : Nat := 0
  row : Nat := 0
  dims : List (Nat × Int) := []
  deriving DecidableEq, Repr

/-- The snapshot a cube trigger takes (R138): latches, fmt, the plane element of R135, vd. -/
structure CubeSnap where
  lat : Table Word
  fmt : Word32
  elem : Option Nat
  vd : BitVec 5
  deriving DecidableEq, Repr

/-- The states of a cube operation or pass (R148). -/
inductive CubeSt where
  | accepted | resolving | staging | staged | running | rising | awaiting | draining | complete
  | failed | abandoned
  deriving DecidableEq, Repr

/-- A tile descriptor as the cube keeps it (R140). -/
structure TileDesc where
  kind : Nat := 0
  format : Nat := 0
  layout : Nat := 0
  cm1 : Nat := 0
  d0 : Nat := 0
  d1 : Nat := 0
  base : Word := 0
  stride : Word := 0
  tscale : Word32 := 0x3F800000
  hscale : Word32 := 0xFFFFFFFF
  handles : List Word32 := []
  deriving DecidableEq, Repr

/-- One chunk that an operation reads: operand (0 A, 1 B, 2 addend), chunk number of the tile, tag, slot,
whether the operation itself fills it now. -/
structure ChunkUse where
  operand : Nat
  chunk : Nat
  tag : Word
  slot : Nat
  own : Bool
  deriving DecidableEq, Repr

/-- A cube operation (R133 to R160), or one pass of a grouped one: its number, the number of its trigger, the
copy command it follows; `after` counts the task's global accesses before it (R258); `chunks` are those it reads, `aBytes`, `bBytes` and `addBytes` its operands by chunk
and offset, `halves` the well half on each layer, `out` bytes on their way (to the wells while staging, to the
floor while draining), `stepsLeft` the run steps or hc to come (while staging: the hc at which it ends); `miss` and `dstMiss` count the missing chunks of its operands and its destination over the
passes so far (R383), `hb` is the handle of the pass's B, `dstSlots` are the destination chunks of the drain with their slots. -/
structure CubeOp where
  n : Nat
  trig : Nat
  origin : Option Nat
  task : Nat
  snap : CubeSnap
  st : CubeSt
  pass : Nat
  passes : Nat
  layers : List Nat
  marks : Bool
  entry : Nat
  addr : Word
  acceptedAt : Nat
  after : Nat
  dA : TileDesc := {}
  dB : TileDesc := {}
  dAdd : TileDesc := {}
  dDst : TileDesc := {}
  chunks : List ChunkUse := []
  miss : Table Nat := []
  dstMiss : Nat := 0
  hb : Word32 := 0xFFFFFFFF
  dstSlots : List (Nat × Nat) := []
  aBytes : Memory := []
  bBytes : Memory := []
  addBytes : Memory := []
  scaleA : List Byte := []
  scaleB : List Byte := []
  halves : List Nat := []
  readyAt : Nat := 0
  stepsLeft : Nat := 0
  holdLeft : Nat := 0
  heldHc : Nat := 0
  out : List (Nat × Byte) := []
  outV : Option VWord := none
  bad : Bool := false
  victims : List Nat := []
  poison : Bool := false
  deriving DecidableEq, Repr

/-- A nib request (R161 to R164); `flips` are the regions, by base and size, whose halves have exchanged since; `w` and `sc` are the
descriptors of W and of its scales once it is resolved, `x` the bytes of x once they are read: none of them where they could not
be. -/
structure NibReq where
  id : Nat
  task : Nat
  lat : Table Word
  fmt : Word32
  vd : BitVec 5
  ts : Nat
  resolved : Bool
  entry : Nat
  addr : Word
  poison : Bool
  issued : Nat
  after : Nat
  flips : List (Nat × Nat)
  w : TileDesc := {}
  sc : Option TileDesc := none
  x : Option (List Byte) := none
  deriving DecidableEq, Repr

/-- The states of an accepted copy command (R183). -/
inductive CopySt where
  | queued | fetching | landing
  deriving DecidableEq, Repr

/-- An accepted copy command (R182 to R199): its latch snapshot, what it does, how far it has come: `fetched` bytes
read, `landed` bytes landed at every destination, `prog` those landed at each tile of a multicast (R193), `bytes` those
read and not yet landed everywhere, in element order, with their destinations, `part` those that have reached a tile's
step-shared space and whose granule is not whole yet (R217), by tile and place in element order. `sent` says of a returning atomic that its
request has left; `eid` is the request ID of an element on its way to another package (R209). -/
structure CopyCmd where
  n : Nat
  task : Nat
  op : Nat
  ty : Nat
  sd : BitVec 6
  lat : Table Word
  follow : Option CubeSnap
  id : Nat
  st : CopySt
  fetched : Nat
  landed : Nat
  wm : Option Nat
  rank : Nat
  entry : Nat
  claimed : List (Nat × Nat)
  rep : Bool
  bytes : List (Nat × Byte)
  firstTs : Nat
  tries : Nat
  sent : Bool
  prog : Table Nat
  part : List (Nat × Nat × Byte)
  eid : Option Nat
  answered : Option (Nat × Word × Bool)
  unanswered : Bool
  noticed : Bool
  poison : Bool
  acceptedAt : Nat
  after : Nat
  addr : Word
  deriving DecidableEq, Repr

/-- A prefetch hint (R207), with a number of its own. -/
structure Hint where
  id : Nat
  ctx : Nat
  handle : Word32
  victim : Nat
  deadline : Word
  deriving DecidableEq, Repr

/-- A hint that an engine runs: the next chunk in order, the slot it fills now, the victims taken so far, and the place of
that fill among the cube's reads (R266): the cube operations before it and the hc of its claim; `att` is the attachment by which
it goes (R391). -/
structure HintRun where
  hint : Hint
  next : Nat
  slot : Option Nat
  missed : Nat
  after : Nat
  claimedAt : Nat
  att : Option Nat := none
  deriving DecidableEq, Repr

/-- A copy engine (R182, R200): its accepted commands in order, its request ID counter and the counter, running down, of the IDs
of the elements that it sends to other packages (R209), the completed
commands whose follow-on the cube has not accepted (number, task, snapshot, entry, bundle; R197), the oldest first, a
hint that it runs. -/
structure CopyEng where
  cmds : List CopyCmd := []
  nextId : BitVec 24 := 0
  nextElem : BitVec 24 := 0
  follow : List (Nat × Nat × CubeSnap × Nat × Word) := []
  hint : Option HintRun := none
  deriving DecidableEq, Repr

/-- An outstanding pop (R127, R129): its own number, its n, its register, its issue hc, and the hc at which a
tclr makes it write zeros. -/
structure Pop where
  id : Nat
  n : Nat
  vd : BitVec 5
  issued : Nat
  zeroAt : Option Nat
  deriving DecidableEq, Repr

/-- The transposer (R127 to R131): rows by m, blocks complete with their t_c, outstanding pops. -/
structure Xpose where
  mode : Nat := 0
  m : Nat := 0
  n : Nat := 0
  rows : Table VWord := []
  done : Table Nat := []
  pops : List Pop := []
  popSeq : Nat := 0
  owner : Nat := 0
  deriving DecidableEq, Repr

/-- A loop-buffer entry (R78). -/
structure Entry where
  addr : Word
  bytes : Nat
  slots : List (Pos × SlotWord)
  sy : Bool
  stages : List Nat
  fault : Option BundleFault
  deriving DecidableEq, Repr

/-- A half of the loop buffer (R78, R79): the segment it holds, the image and context it came from, the
bundles expanded and those read but not yet expanded (R278); `cut` says that their expansion was abandoned. -/
structure Half where
  seg : Nat := 0
  task : Nat := 0
  ctx : Nat := 0
  kimg : Word := 0
  next : Word := 0
  rw : Bool := false
  blen : Nat := 0
  entries : List Entry := []
  todo : List Entry := []
  stale : Bool := false
  cut : Bool := false
  v : Bool := false
  deriving DecidableEq, Repr

/-- An entry of a combining table (R203): open for merging, or a decombining record (R205). -/
structure CombEntry where
  id : Nat
  req : AtomReq
  opened : Nat
  deadline : Nat
  isOpen : Bool
  deriving DecidableEq, Repr

/-- An atomic record at a port (R201). -/
structure AtomRec where
  tile : Nat
  eng : Nat
  id : Nat
  old : Word
  ts : Nat
  deriving DecidableEq, Repr

/-- A command of the link send port (R343). -/
structure LnkCmd where
  n : Nat
  task : Nat
  lat : Table Word
  offset : Nat
  taken : Bool
  pendingSeqs : List Nat
  peer : Nat
  eth : Bool
  failed : Bool
  entry : Nat
  acceptedAt : Nat
  after : Nat
  deriving DecidableEq, Repr

/-- The states of a tile (R350), in the order of their codes. -/
inductive TileSt where
  | free | bound | running | sweeping | accused | fenced | appealing | retired
  deriving DecidableEq, Repr

/-- What a tile keeps for one neighbour (R352, R353), by direction 0 west, 1 north, 2 east, 3 south: the seq of the last
beat sent and of the last one received. -/
structure Neighbour where
  sent : BitVec 16 := 0
  expect : BitVec 16 := 0
  lastGood : Nat := 0
  babbles : List Nat := []
  run : Nat := 0
  accused : Bool := false
  deriving DecidableEq, Repr

/-- The heartbeat and vote unit, the sweep registers (R350 to R361); `testing` says that a sweep of the tile
runs. -/
structure Health where
  st : TileSt := .free
  prior : TileSt := .free
  beating : Bool := true
  nb : Table Neighbour := []
  votes : List Vote := []
  fenceAt : Option (Nat × Nat) := none
  miss : BitVec 16 := 0
  bab : BitVec 16 := 0
  accd : BitVec 16 := 0
  lastpass : Word := 0
  swsus0 : Word := 0
  swsus1 : Word := 0
  sv : Bool := false
  pat : BitVec 8 := 0
  afail : Nat := 0
  sweepStart : Word := 0
  testing : Bool := false
  appealAt : Option Nat := none
  acceptAt : Option (Nat × Nat) := none
  bond : Bool := false
  deriving DecidableEq, Repr

/-- A cached translation (R319): context, page number base, page bytes, remote package. -/
structure TlbEntry where
  ctx : Nat
  va : Nat
  bytes : Nat
  remote : Bool
  deriving DecidableEq, Repr

/-- One tile of the hearth (R9); `replays` are the hc of the replays of each flue in the last ms, by 4 × boundary + flue (R369); `prev` is the context whose bytes its floor and wells hold (R6). Of the hc `raceHc`, `raceOld`
holds what stood before each access of an engine at the floor port, and `raceSt` the bytes of each store of a task slot with what
stood there before, the newest first (R178, R255). -/
structure Tile where
  tasks : Table Task := []
  issuing : Option Nat := none
  freedAt : Nat := 0
  floor : Memory := []
  wells : Memory := []
  wellWritten : List Nat := []
  stores : List PendStore := []
  raceHc : Nat := 0
  raceOld : List (List (Nat × Byte)) := []
  raceSt : List (List (Nat × Byte × Byte)) := []
  tags : Table TagEntry := []
  gran : Table Granule := []
  ssmap : Table SsMap := []
  sshare : Nat := 0
  ssGid : Option Nat := none
  ssCol : Nat := 0
  ssRev : Nat := 0
  ssAddr : Nat := 0
  ssAv : Bool := false
  wm : Table Watermark := []
  cpy : Table CopyEng := []
  cpySeq : Nat := 0
  cubeOps : List CubeOp := []
  cubeSeq : Nat := 0
  cubeDone : BitVec 8 := 0
  flueBusy : Nat := 0
  stageFree : Nat := 0
  held : Word := 0
  nib : List NibReq := []
  xp : Xpose := {}
  hints : List Hint := []
  halves : Table Half := []
  exec : Nat := 0
  codeBuf : List Nat := []
  tdtbase : Word := 0
  tdtlen : Word32 := 0
  chktol : Word32 := 0x3A800000
  rgtbase : Word := 0
  rgtlen : BitVec 16 := 0
  combwin : Nat := 2
  combComb : Word32 := 0
  combOvf : Word32 := 0
  pfhAcc : Word32 := 0
  pfhDrop : Word32 := 0
  umiss : Word32 := 0
  hmiss : Word32 := 0
  rwCnt : Nat := 0
  rwTot : Word32 := 0
  ctx : Option Nat := none
  prev : Option Nat := none
  stamps : Table Nat := []
  orphNtc : Word32 := 0
  orphDrop : Word32 := 0
  fluert : BitVec 36 := 0
  replays : Table (List Nat) := []
  repair : List Nat := []
  comb : List CombEntry := []
  atomRecs : List AtomRec := []
  utlb : List TlbEntry := []
  lnk : List LnkCmd := []
  lnkSeq : Nat := 0
  lnkTail : List (Nat × Nat) := []
  health : Health := {}
  tdCache : List Nat := []
  deriving DecidableEq, Repr

/-! ### Groups and barriers (R227 to R248) -/

/-- The states of a group (R227). -/
inductive GroupSt where
  | forming | placed | running | stepping | degraded | saved | retiring
  deriving DecidableEq, Repr

/-- The states of one round of a barrier (R237). -/
inductive BarSt where
  | idle | gathering | draining | exchanging | releasing
  deriving DecidableEq, Repr

/-- A barrier's open round: who has arrived, its tag, the members fenced in it, the hc of its exchange or its completion
once it has gathered and drained (R242). -/
structure Barrier where
  st : BarSt := .idle
  arrived : List Nat := []
  tag : Nat := 0
  fencedIn : List Nat := []
  retired : List Nat := []
  due : Nat := 0
  deriving DecidableEq, Repr

/-- A group: its rectangle, its members and its barriers, and the launch it runs; a forming group's number is 64 and
its queue's. `faulted` says that its context took a fault while it existed (R285), `overran` that its launch
overran its slot (R295). -/
structure Group where
  gid : Nat
  ctx : Nat
  st : GroupSt
  x0 : Nat
  y0 : Nat
  w : Nat
  h : Nat
  tol : Bool
  minlive : Nat
  live : Word
  everFenced : Bool
  slots : List (Nat × Nat)
  retiredRanks : List Nat
  nstep : Word32
  bars : List (BarrierId × Barrier)
  queue : Nat
  seq : Word32
  cls : Nat
  kimg : Word
  args : Word
  cwa : Word
  acceptedNs : Nat
  placedNs : Nat
  ssNeeded : Bool
  slotIndex : Option Nat
  faulted : Bool
  overran : Bool
  deriving DecidableEq, Repr

/-! ### Queues and timetable (R281 to R296) -/

/-- A queue descriptor and its run state (R281, R286). -/
structure Queue where
  en : Bool := false
  timed : Bool := false
  ctx : Nat := 0
  owned : Bool := false
  lring : Nat := 0
  why : Nat := 0
  ring : Word := 0
  head : Word32 := 0
  tail : Word32 := 0
  nseq : Word32 := 1
  cseq : Word32 := 0
  ovr : Word32 := 0
  rej : Word32 := 0
  hw : Bool := false
  dispatching : Bool := false
  overrun : Bool := false
  window : List Byte := []
  ended : List Nat := []
  deriving DecidableEq, Repr

/-- The running timetable slot (R293 to R295): its entry, whether its one acceptance is made, whether its own queue was
overrun at its start, its end on the timestamp counter; the next slot start; the entries of the running cycle; the
launches that overran at its start, each by its queue and sequence number. -/
structure SlotRun where
  idx : Nat := 0
  running : Bool := false
  accepted : Bool := false
  heldBack : Bool := false
  ends : Nat := 0
  nextAt : Option (Nat × Nat) := none
  live : List Word := []
  late : List (Nat × Word32) := []
  deriving DecidableEq, Repr

/-! ### Contexts (R297 to R315) -/

/-- The states of a context (R297), in the order of their codes. -/
inductive CtxSt where
  | empty | loading | runnable | running | halting | halted | preempting | saved | destroyed
  deriving DecidableEq, Repr

/-- The region requests (R225). -/
inductive RegionOp where
  | seal | unseal | pub | wswap
  deriving DecidableEq, Repr

/-- An accepted region request of a task slot, or of the management processor; `after` and `cmds` count the global accesses and the copy commands of its slot
before it (R258), `gid` is its task's group (R232). -/
structure RegionReq where
  n : Nat
  op : RegionOp
  region : Nat
  ts : Word
  tile : Nat
  task : Nat
  table : Word
  len : Nat
  mgmt : Bool
  read : Bool
  after : Nat
  cmds : Nat
  gid : Option Nat
  deriving DecidableEq, Repr

/-- What a save keeps of one tile (R308): its tasks, slots, wells, channels, engines. -/
structure SavedTile where
  tile : Nat
  image : Tile
  deriving DecidableEq, Repr

/-- One context; `keys` are its sixteen pairs of memory keys, its launch key and its link key (R300), `trap` is the code of its software-trap fault (R109), `rgts` are the region tables, by base and length,
that its tasks and its requests have named (R212, R274). -/
structure Context where
  st : CtxSt := .empty
  code : Nat := 0
  trap : BitVec 16 := 0
  src : Nat := 0
  prec : Bool := false
  addr : Word := 0
  fts : Nat := 0
  more : BitVec 16 := 0
  faulted : Bool := false
  ptroot : Word := 0
  keys : List (BitVec 256) := []
  owner : List Byte := []
  nonce : List Byte := []
  meas : List Byte := []
  preempted : Bool := false
  regs : List RegionReq := []
  regSeq : Nat := 0
  rgts : List (Word × Nat) := []
  save : List SavedTile := []
  haltTiles : List Nat := []
  closing : Bool := false
  destroyAfter : Bool := false
  restorePending : Bool := false
  deriving DecidableEq, Repr

/-- The launch key of a context, while it has its keys (R300). -/
def Context.launchKey (x : Context) : Option Nat := (x.keys[32]?).map (·.toNat)

/-- An error-bank record (R314). -/
structure ErrBank where
  v : Bool := false
  ue : Bool := false
  kind : Nat := 0
  ctx : Nat := 0
  own : Bool := false
  cons : Bool := false
  ovf : BitVec 16 := 0
  cecnt : BitVec 16 := 0
  addr : Word := 0
  ts : Word := 0
  ovts : Word := 0
  deriving DecidableEq, Repr

/-! ### Pages (R316 to R327) -/

/-- The states of a frame (R325). -/
inductive FrameSt where
  | free | zeroing | mapped | exported | invalidating
  deriving DecidableEq, Repr

/-- A frame that is not free: its state, bytes, owner, leaf entry and virtual address, generation and holder mask (R323, R325);
`granted` is the generation that each holder was last given, `bits` the leaf as it stood when the frame was unmapped at time
`invTs` (R326). -/
structure Frame where
  st : FrameSt := .free
  bytes : Nat := 0
  ctx : Nat := 0
  key : Nat := 0
  leaf : Nat := 0
  va : Nat := 0
  gen : BitVec 16 := 0
  holders : BitVec 16 := 0
  granted : Table (BitVec 16) := []
  bits : Word := 0
  invTs : Nat := 0
  deriving DecidableEq, Repr

/-- A page walk in progress, or a remote translation awaited (R319, R322); `far` says that the access it serves may meet a
remote page (R268), `unit` that a unit of the tile waits for it, which finds a fault itself; `also` are the other look-ups that
share it. -/
structure Walk where
  n : Nat
  tile : Nat
  task : Nat
  ctx : Nat
  va : Word
  write : Bool
  remote : Bool
  pkg : Nat
  tries : Nat
  far : Bool
  unit : Bool := false
  also : List (Nat × Nat × Bool) := []
  deriving DecidableEq, Repr

/-- A granted remote translation (R322, R323); a dropped one is acknowledged under the generation `dropGen`. -/
structure RemoteXlat where
  ctx : Nat
  va : Nat
  bytes : Nat
  pkg : Nat
  rctx : Nat
  w : Bool
  sealed : Bool
  gen : BitVec 16
  dropped : Bool
  dropGen : BitVec 16 := 0
  deriving DecidableEq, Repr

/-! ### Links (R328 to R348) -/

/-- The states of a wavelength (R330). -/
inductive WaveSt where
  | dark | training | up | parked | waking | retraining
  deriving DecidableEq, Repr

/-- A wavelength of a fibre's sending direction: its retrain failures, the time at which its wake or its retrain attempt
began, whether a wake trigger came while its park was announced. -/
structure Wave where
  st : WaveSt := .dark
  fails : Nat := 0
  since : Nat := 0
  wake : Bool := false
  deriving DecidableEq, Repr

/-- A change of a fibre's active set (R331, R387). -/
inductive LinkChange where
  | join (lams : List Nat)
  | leave (lam : Nat) (retrain : Bool)
  deriving DecidableEq, Repr

/-- A fibre: its wavelengths, the times at which its last flit starts and ends, in 1/4200 ns, the announced changes with
the multiples of 16 ns at which they apply, those decided whose control flit is still to be sent, its counters (R348). -/
structure Fibre where
  waves : Table Wave := []
  started : Nat := 0
  busy : Nat := 0
  changes : List (Nat × LinkChange) := []
  unsaid : List LinkChange := []
  cbits : Word32 := 0
  ucf : BitVec 16 := 0
  hout : BitVec 16 := 0
  deriving DecidableEq, Repr

/-- A port: whether it is enabled, the peer its slot connects, the time since it last had a flit. -/
structure LinkPort where
  enabled : Bool := false
  peer : Option Nat := none
  idleSince : Nat := 0
  fibres : Table Fibre := []
  deriving DecidableEq, Repr

/-- The agent whose access a remote message carries (R253): a task slot's access (tile 64 is the bellows
core), an engine's command, a link command, a page walk, or the device itself. -/
inductive Sender where
  | slot (t k n : Nat)
  | engine (t e n : Nat)
  | port (t n : Nat)
  | walk (n : Nat)
  | device
  deriving DecidableEq, Repr

/-- A message in a send queue, or kept until a rack covers it (R340), with its kind code of R338, the flits still to be
sent, the time at which it was queued or its last flit sent; `pass` for one that is not kept: a link acknowledgement, a
message on its way through this package (R336); `again` for an access answered stale, which is kept until it is answered
(R323). -/
structure Sent where
  kind : Nat
  msg : Msg
  left : Nat
  lastSent : Nat
  tries : Nat
  pass : Bool
  again : Bool := false
  deriving DecidableEq, Repr

/-- A remote access whose answer has not come (R255, R268, R322); `stale` counts the steps since its generation was found
old: 1 answered stale, 2 its translation asked for again (R323). -/
structure Waiting where
  kind : Nat
  msg : Msg
  sender : Sender
  stale : Nat := 0
  deriving DecidableEq, Repr

/-- A remote message that waits at the mantel (R262), with its kind, its sender's clock and its arrival time. -/
structure HeldMsg where
  kind : Nat
  msg : Msg
  clock : Table Word32
  at_ : Nat
  reported : Bool
  deriving DecidableEq, Repr

/-- What a package keeps for one peer index (R335, R340) or Ethernet peer entry (index + 16); `held` are the
messages that came before an earlier one of their pair, `staleClock` is the clock of the access answered stale, `backlog` are
the device's own messages and those on their way through it that wait for room in the queue, the latter marked, with their kinds. -/
structure PeerState where
  nextSeq : Word32 := 1
  rackIn : Word32 := 0
  sent : List Sent := []
  txNext : Table Nat := []
  secret : Nat := 0
  ackDue : Option Nat := none
  clockSent : Table Word32 := []
  clockSeen : Table Word32 := []
  replies : List (Word32 × Nat × Msg) := []
  held : List HeldMsg := []
  waiting : List Waiting := []
  stale : Option Word32 := none
  staleClock : Table Word32 := []
  backlog : List (Bool × Nat × Msg) := []
  deriving DecidableEq, Repr

/-- A circuit-table entry (R334). -/
structure Circuit where
  g : BitVec 16 := 0
  l : Word32 := 0
  v : Bool := false
  peers : Word := 0
  deriving DecidableEq, Repr

/-- The running cycle of the circuit table (R334): its entries, the slot under way, whether its data window is open, the
end of the guard or window on the timestamp counter, the next start. -/
structure CircuitRun where
  live : List Circuit := []
  idx : Nat := 0
  data : Bool := false
  ends : Nat := 0
  nextAt : Option (Nat × Bool × Nat) := none
  deriving DecidableEq, Repr

/-- A peer-table entry (R345, R348). -/
structure EthPeer where
  mac : BitVec 48 := 0
  port : BitVec 4 := 0
  v : Bool := false
  deriving DecidableEq, Repr

/-- A master whose announcements are heard (R346): its number and rank, and the hc of the last two of them, latest first. -/
structure ForeignMaster where
  num : Nat
  rank : Nat
  seen : List Nat
  deriving DecidableEq, Repr

/-- The clock discipline (R346, R347): the master by rank and number, the masters heard, the sync whose follow-up is awaited, the
last origin and receipt times, the delay request under way and the time at which it was sent, the path delay, the ns that the
slew still adds, the hc from which it adds the next one, the hc of the last 1PPS edge. -/
structure ClockDisc where
  master : Option (Nat × Nat) := none
  heard : List ForeignMaster := []
  reqSeq : Option Nat := none
  reqSent : Int := 0
  reqNext : Nat := 0
  stepped : Bool := false
  good : Nat := 0
  syncSeq : Nat := 0
  syncRecv : Int := 0
  syncOrigin : Option Int := none
  pathDelay : Int := 0
  slew : Int := 0
  slewFrom : Nat := 0
  lastEdge : Option Nat := none
  deriving DecidableEq, Repr

/-! ### Layers, islands, bellows (R20, R363 to R382) -/

/-- The states of a die (R363), in the order of their codes. -/
inductive DieSt where
  | present | tested | mapped | spare | failed
  deriving DecidableEq, Repr

/-- A logical layer's damper and sensors (R366 to R368), with the time of its last evaluation. -/
structure Layer where
  temps : List (BitVec 16) := []
  auto : Bool := true
  d : Nat := 0
  man : Nat := 0
  dmin : Nat := 0
  dmax : Nat := 15
  ivl : Nat := 100
  hi : BitVec 16 := 0x05F0
  hys : BitVec 8 := 0x50
  alert : BitVec 16 := 0x0640
  crit : BitVec 16 := 0x06E0
  armed : Bool := true
  evalTs : Nat := 0
  deriving DecidableEq, Repr

/-- A voltage and frequency island (R20, R21). -/
structure Island where
  vset : Nat := 30
  run : Bool := true
  act : Bool := true
  vmeas : Nat := 750
  deriving DecidableEq, Repr

/-- Why the bellows core does not issue (R108, R110, R375). -/
inductive BellowsSt where
  | booting | running | halted | waitingLoad | stopped
  deriving DecidableEq, Repr

/-- The bellows core (R110, R373, R374): one task's registers, its exception registers, own memory; the eret whose delay
bundle clears inh (R109); the handler entry that waits for its results; the register writes whose effect waits for a
sync bundle (R111): the hc from which each applies, 0 before that is known, its number with its selector, its value. -/
structure Bellows where
  st : BellowsSt := .booting
  core : Task := { st := .issuing }
  mem : Memory := []
  halves : Table Half := []
  exec : Nat := 0
  evec : Word := 0
  epc : Word := 0
  ecode : BitVec 16 := 0
  eclass : BitVec 8 := 0
  inh : Bool := false
  ie : Bool := false
  clearInh : Option Nat := none
  pendEntry : Option (Nat × Nat × Word) := none
  birq : BitVec 12 := 0
  bien : BitVec 12 := 0
  bptroot : Word := 0
  btsel : BitVec 9 := 0
  newSr : List (Nat × Nat × Word) := []
  stores : List PendStore := []
  deriving DecidableEq, Repr

/-- A boot-record entry (R381). -/
structure BootEntry where
  st : Nat := 0
  tries : Nat := 0
  det : Nat := 0
  ts : Word := 0
  deriving DecidableEq, Repr

/-- What a busy management command waits for (R299, R320, R378): the scrub of a context, the seal of a region request, the
zeroing of a mapped page. -/
inductive MgmtWait where
  | scrub (c : Nat)
  | seal (c n : Nat)
  | zero (c : Nat) (va : Word)
  deriving DecidableEq, Repr

/-- The management page (R376, R379): its command window, stat (0 idle, 1 busy, 2 done, 3 stopped), what a busy command
waits for, the sequence last served, the response. -/
structure Mgmt where
  cmd : List Byte := []
  wait : Option MgmtWait := none
  stat : Nat := 0
  result : Nat := 0
  seqf : Word32 := 0
  exhausted : Bool := false
  resp : List Byte := []
  deriving DecidableEq, Repr

/-- The sweep rotation (R359). -/
structure Sweep where
  en : Bool := true
  ivl : Nat := 200
  tries : Nat := 3
  wait : Nat := 400
  next : Nat := 0
  cur : Nat := 0
  act : Bool := false
  waiting : Option Nat := none
  skip : BitVec 16 := 0
  fail : BitVec 16 := 0
  deriving DecidableEq, Repr

/-- Work in flight or an input of the outside world: the hc from which it takes place, the step, and the global time
that sets the hc, if one does, and its phase of the hc: 0 before the words of that hc, 1 after them, 2 last. -/
structure Pend where
  due : Nat
  ev : Instr
  ts : Option Nat := none
  phase : Nat := 0
  deriving DecidableEq, Repr

/-- Whose word a step executes: a task slot of a tile, or the bellows core. -/
inductive CoreId where
  | tile (t k : Nat)
  | bellows
  deriving DecidableEq, Repr

/-- The word being executed: its core and position, its bundle's number and address, what it reads from the
registers that R74 leaves open, and, while a bundle issues as a whole, its task as the bundle found it (R73, R110). -/
structure Cur where
  core : CoreId := .tile 0 0
  pos : Pos := .S0
  n : Nat := 0
  addr : Word := 0
  seen : List (Reg × VWord) := []
  start : Option Task := none
  deriving DecidableEq, Repr

/-- The whole package; `sample` is the last sample of the sensors, sixteen of each layer from L0 up (R366). -/
structure State where
  hc : Nat
  ts : Nat
  tsPhase : Nat
  events : List Pend
  delays : List Nat
  free : Nat
  turn : Nat
  cur : Cur
  powered : Bool
  tiles : Table Tile
  hbm : Memory
  groups : List Group
  queues : Table Queue
  timetable : Table Word
  slotRun : SlotRun
  contexts : Table Context
  errBanks : Table ErrBank
  frames : Table Frame
  genSeq : BitVec 16
  walks : List Walk
  walkSeq : Nat
  combSeq : Nat
  htlb : List TlbEntry
  remotes : List RemoteXlat
  ptPool : List (Nat × Nat)
  sr : Table Word
  islands : Table Island
  mantelComb : List CombEntry
  mantelCombComb : Word32
  mantelCombOvf : Word32
  hbmRecs : Table (List AtomRec)
  wslate : Word32
  clockK : Table Word32
  clockA : Table Word32
  cwHeld : List HeldMsg
  cwLate : BitVec 16
  cgrpPend : Option Word
  ports : Table LinkPort
  peers : Table PeerState
  circuit : Table Circuit
  circuitRun : CircuitRun
  ethPeers : Table EthPeer
  disc : ClockDisc
  locked : Bool
  ttOvr : BitVec 16
  ttMiss : BitVec 16
  qrot : Nat
  sweep : Sweep
  beatKey : Nat
  dies : Table DieSt
  layermap : List Nat
  spare : Option Nat
  layers : Table Layer
  power : Nat
  sample : List (BitVec 16)
  dmpOld : Nat
  dmpNew : Nat
  dmpLyr : Nat
  dmpCause : Nat
  dmpCnt : Word32
  dmpTs : Word
  bondst : Word
  bellows : Bellows
  mgmt : Mgmt
  bootRec : Table BootEntry
  flash : Table BootEntry
  bootStep : Nat
  bootDone : Bool
  bootStop : Bool
  mf : Bool
  deriving DecidableEq, Repr

/-- The package right after power-on reset: kindling has not begun (K0, R380), every tile is free (R350),
every queue disabled (R286), every context empty (R297), every die present (R363), every wavelength dark
(R330). The values the spec gives no reset for are named in logs 1, 5 and 6 (log 1: DESIGN CHOICE) (log 6: DESIGN CHOICE). -/
def State.reset : State where
  hc := 0
  ts := 0
  tsPhase := 0
  events := []
  delays := []
  free := 0
  turn := 0
  cur := {}
  powered := true
  tiles := []
  hbm := []
  groups := []
  queues := []
  timetable := []
  slotRun := {}
  contexts := []
  errBanks := []
  frames := []
  genSeq := 0
  walks := []
  walkSeq := 0
  combSeq := 0
  htlb := []
  remotes := []
  ptPool := []
  sr := []
  islands := []
  mantelComb := []
  mantelCombComb := 0
  mantelCombOvf := 0
  hbmRecs := []
  wslate := 0
  clockK := []
  clockA := []
  cwHeld := []
  cwLate := 0
  cgrpPend := none
  ports := []
  peers := []
  circuit := []
  circuitRun := {}
  ethPeers := []
  disc := {}
  locked := false
  ttOvr := 0
  ttMiss := 0
  qrot := 0
  sweep := {}
  beatKey := 0
  dies := []
  layermap := []
  spare := none
  layers := []
  power := 0
  sample := []
  dmpOld := 0
  dmpNew := 0
  dmpLyr := 0
  dmpCause := 0
  dmpCnt := 0
  dmpTs := 0
  bondst := 0
  bellows := {}
  mgmt := {}
  bootRec := []
  flash := []
  bootStep := 0
  bootDone := false
  bootStop := false
  mf := false

end Sys2Proof.Machine
end

