-- ==== Sys2Proof/Machine/Ops.lean ====
section
/-! DEFINITION. The named operations over memory, registers, tasks and events; the issue of a slot word and
its outcomes; taking a fault (spec/15 R302 to R307) and, on the bellows core, entering the handler and
returning from it (spec/04 R109, R110). -/

namespace Sys2Proof.Machine

/-! ### Sparse tables -/

/-- The entry at key `k`, or the default `d`. -/
def tget {α : Type} (d : α) : Table α → Nat → α
  | [], _ => d
  | (k', v) :: r, k => if k' = k then v else tget d r k

/-- Writes the entry at key `k`. -/
def tset {α : Type} : Table α → Nat → α → Table α
  | [], k, v => [(k, v)]
  | (k', v') :: r, k, v =>
    if k' = k then (k, v) :: r
    else if k < k' then (k, v) :: (k', v') :: r
    else (k', v') :: tset r k v

/-- Changes the entry at key `k`. -/
def tmod {α : Type} (d : α) (t : Table α) (k : Nat) (f : α → α) : Table α := tset t k (f (tget d t k))

/-! ### Byte memories -/

/-- What a memory holds at an address; an address not listed holds 0 (log 5: DESIGN CHOICE). -/
def mread : Memory → Nat → Byte
  | [], _ => 0
  | (a', b) :: r, a => if a' = a then b else mread r a

/-- Writes one byte, keeping the canonical form. -/
def mwrite : Memory → Nat → Byte → Memory
  | [], a, b => if b = 0 then [] else [(a, b)]
  | (a', b') :: r, a, b =>
    if a' = a then (if b = 0 then r else (a, b) :: r)
    else if a < a' then (if b = 0 then (a', b') :: r else (a, b) :: (a', b') :: r)
    else (a', b') :: mwrite r a b

/-- The canonical form: addresses strictly rising from `lo`, no byte equal to what an unlisted one reads. -/
def wfFrom : Nat → Memory → Bool
  | _, [] => true
  | lo, (a, b) :: r => decide (lo ≤ a) && decide (b ≠ 0) && wfFrom (a + 1) r

/-- The canonical form of a memory. -/
def Memory.wf (m : Memory) : Bool := wfFrom 0 m

/-- Writes a list of addressed bytes in order. -/
def mwriteAll (m : Memory) : List (Nat × Byte) → Memory
  | [] => m
  | (a, b) :: r => mwriteAll (mwrite m a b) r

/-- The `n` bytes from address `a`. -/
def mbytes (m : Memory) (a : Nat) : Nat → List Byte
  | 0 => []
  | n + 1 => mread m a :: mbytes m (a + 1) n

/-- The value of bytes, the lowest address first (R1). -/
def leNat : List Byte → Nat
  | [] => 0
  | b :: r => b.toNat + 256 * leNat r

/-- The `n` bytes of a value, the lowest first (R1). -/
def leBytes : Nat → Nat → List Byte
  | 0, _ => []
  | n + 1, v => BitVec.ofNat 8 v :: leBytes n (v / 256)

/-- Pairs bytes with the addresses from `a` upward. -/
def addrBytes : Nat → List Byte → List (Nat × Byte)
  | _, [] => []
  | a, b :: r => (a, b) :: addrBytes (a + 1) r

/-- The little-endian value of `n` bytes at `a`. -/
def mword (m : Memory) (a n : Nat) : Nat := leNat (mbytes m a n)

/-- Sets every listed byte in `[a, a + n)` to 0. -/
def mzero (m : Memory) (a n : Nat) : Memory := m.filter fun c => !(a ≤ c.1 && c.1 < a + n)

/-! ### Tiles, task slots, contexts -/

/-- Tile `t`. -/
def tileOf (s : State) (t : Nat) : Tile := tget {} s.tiles t
/-- Changes tile `t`. -/
def updTile (s : State) (t : Nat) (f : Tile → Tile) : State :=
  { s with tiles := tset s.tiles t (f (tileOf s t)) }
/-- Task slot `k` of tile `t`. -/
def taskOf (s : State) (t k : Nat) : Task := tget {} (tileOf s t).tasks k
/-- Changes task slot `k` of tile `t`. -/
def updTask (s : State) (t k : Nat) (f : Task → Task) : State :=
  updTile s t fun x => { x with tasks := tset x.tasks k (f (tget {} x.tasks k)) }
/-- Context `c`. -/
def ctxOf (s : State) (c : Nat) : Context := tget {} s.contexts c
/-- Changes context `c`. -/
def updCtx (s : State) (c : Nat) (f : Context → Context) : State :=
  { s with contexts := tset s.contexts c (f (ctxOf s c)) }
/-- Queue `q` (R281). -/
def queueOf (s : State) (q : Nat) : Queue := tget {} s.queues q
/-- The group with id `g`, if it exists. -/
def groupOf (s : State) (g : Nat) : Option Group := s.groups.find? fun x => x.gid == g
/-- Changes group `g`. -/
def updGroup (s : State) (g : Nat) (f : Group → Group) : State :=
  { s with groups := s.groups.map fun x => if x.gid = g then f x else x }

/-- The task a core executes: a task slot of a tile, or the bellows core's one task (R58). -/
def coreTask (s : State) : CoreId → Task
  | .tile t k => taskOf s t k
  | .bellows => s.bellows.core

/-- Changes the task a core executes. -/
def updCore (s : State) (c : CoreId) (f : Task → Task) : State :=
  match c with
  | .tile t k => updTask s t k f
  | .bellows => { s with bellows := { s.bellows with core := f s.bellows.core } }

/-- The task of the word being executed. -/
def curTask (s : State) : Task := coreTask s s.cur.core
/-- Changes the task of the word being executed. -/
def updCur (s : State) (f : Task → Task) : State := updCore s s.cur.core f
/-- The tile of the word being executed; the bellows core has none. -/
def curTile (s : State) : Nat :=
  match s.cur.core with
  | .tile t _ => t
  | .bellows => 64
/-- The task slot of the word being executed. -/
def curSlot (s : State) : Nat :=
  match s.cur.core with
  | .tile _ k => k
  | .bellows => 0
/-- Whether the word being executed is the bellows core's. -/
def onBellows (s : State) : Bool :=
  match s.cur.core with
  | .tile _ _ => false
  | .bellows => true

/-! ### Package registers that keep a plain word -/

/-- The reset value of a package register that keeps a plain word (R202, R206, R265, R296, R313, R348, R368,
R372). -/
def srReset (n : Nat) : Word :=
  match n with
  | 0x210 => 0x3E880064
  | 0x211 => 2
  | 0x214 => 0x00010000
  | 0x215 => 0x03E80000
  | 0x226 => 0x0003E808
  | 0x235 => 2
  | 0x243 => 0x00030010
  | 0x244 => 0x03E8001000640008
  | 0x245 => 0x00080014
  | 0x250 => 0x88B5
  | 0x268 => 0x32000007D0
  | 0x269 => 0x0014053C
  | _ => 0

/-- The stored word of package register `n`. -/
def srWord (s : State) (n : Nat) : Word := tget (srReset n) s.sr n

/-! ### Queue descriptors (R281) -/

/-- The address of the descriptor of queue `q`. -/
def queueAddr (s : State) (q : Nat) : Nat := (srWord s 0x220).toNat + 64 * q

/-- The words of a queue's descriptor. -/
def Queue.words (q : Queue) : List Nat :=
  [q.en.toNat + 2 * q.timed.toNat + 4 * (q.ctx % 64) + 256 * (q.lring % 16) + 4096 * (q.why % 16), q.ring.toNat,
   q.head.toNat + 2 ^ 32 * q.tail.toNat, q.nseq.toNat + 2 ^ 32 * q.cseq.toNat, q.ovr.toNat + 2 ^ 32 * q.rej.toNat]

/-- Changes queue `q`, and its descriptor in memory with it. -/
def updQueue (s : State) (q : Nat) (f : Queue → Queue) : State :=
  let x := f (queueOf s q)
  { s with queues := tset s.queues q x, hbm := mwriteAll s.hbm (addrBytes (queueAddr s q) (x.words.flatMap (leBytes 8))) }

/-- Queue `q` as its descriptor in memory has it. -/
def loadQueue (s : State) (q : Nat) : State :=
  let w := fun i => mword s.hbm (queueAddr s q + 8 * i) 8
  let x := queueOf s q
  let en := w 0 % 2 == 1
  let y : Queue :=
      { x with en := en, dispatching := x.dispatching && en, overrun := x.overrun && en, timed := w 0 / 2 % 2 == 1, ctx := w 0 / 4 % 64, lring := w 0 / 256 % 16, why := w 0 / 4096 % 16,
               ring := BitVec.ofNat 64 (w 1), head := BitVec.ofNat 32 (w 2), tail := BitVec.ofNat 32 (w 2 / 2 ^ 32),
               nseq := BitVec.ofNat 32 (w 3), cseq := BitVec.ofNat 32 (w 3 / 2 ^ 32), ovr := BitVec.ofNat 32 (w 4),
               rej := BitVec.ofNat 32 (w 4 / 2 ^ 32), hw := x.hw && en }
  { s with queues := tset s.queues q y }

/-- A store of the bellows core at physical address `a` that falls in the queue table changes a queue
(log 99: DEDUCED). -/
def seeQueueStore (s : State) (a : Nat) : State :=
  let base := queueAddr s 0
  if base ≤ a && a < base + 64 * 4096 then loadQueue s ((a - base) / 64) else s

/-- The queues are those of the table that sr.qtbase now names (log 99: DEDUCED). -/
def loadTable (s : State) : State :=
  let base := queueAddr s 0
  let used := (s.hbm.filter fun c => base ≤ c.1 && c.1 < base + 64 * 4096).map fun c => (c.1 - base) / 64
  (s.queues.map (·.1) ++ used).eraseDups.foldl loadQueue s

/-! ### Registers (R58, R59) -/

/-- Reads s register `n`; s0 reads as zero. -/
def readS (t : Task) (n : BitVec 6) : Word := if n = 0 then 0 else tget 0 t.sreg n.toNat
/-- Reads v register `n`. -/
def readV (t : Task) (n : BitVec 5) : VWord := tget 0 t.vreg n.toNat
/-- Reads p register `n`; p0 reads as all ones. -/
def readP (t : Task) (n : BitVec 3) : PWord := if n = 0 then BitVec.allOnes 128 else tget 0 t.preg n.toNat

/-- Writes s register `n`; a write to s0 is discarded. -/
def writeS (t : Task) (n : BitVec 6) (v : Word) : Task :=
  if n = 0 then t else { t with sreg := tset t.sreg n.toNat v }
/-- Writes the lanes of v register `n` that the mask marks. -/
def writeV (t : Task) (n : BitVec 5) (mask v : VWord) : Task :=
  { t with vreg := tset t.vreg n.toNat ((v &&& mask) ||| (readV t n &&& ~~~mask)) }
/-- Writes p register `n`; a write to p0 is discarded. -/
def writeP (t : Task) (n : BitVec 3) (v : PWord) : Task :=
  if n = 0 then t else { t with preg := tset t.preg n.toNat v }

/-- Writes a fixed-latency result to its destination (R66). -/
def writeDest (t : Task) (d : Dest) (v : VWord) : Task :=
  match d with
  | .s n => writeS t n (v.setWidth 64)
  | .v n mask => writeV t n mask v
  | .p n => writeP t n (v.setWidth 128)
  | .fmt => { t with fmt := v.setWidth 32 }

/-- The number of a register in `Task.recent`. -/
def Reg.key : Reg → Nat
  | .s n => n.toNat
  | .v n => 64 + n.toNat
  | .p n => 128 + n.toNat

/-- Whether a register is empty; s0 and the predicates are always full (R58, R59). -/
def isEmpty (t : Task) : Reg → Bool
  | .s n => n != 0 && t.emptyS.contains n.toNat
  | .v n => t.emptyV.contains n.toNat
  | .p _ => false

/-- Marks a register empty (R63); s0 never is. -/
def markEmpty (t : Task) : Reg → Task
  | .s n => if n = 0 then t else { t with emptyS := n.toNat :: t.emptyS.filter (· != n.toNat) }
  | .v n => { t with emptyV := n.toNat :: t.emptyV.filter (· != n.toNat) }
  | .p _ => t

/-- Marks a register full. -/
def markFull (t : Task) : Reg → Task
  | .s n => { t with emptyS := t.emptyS.filter (· != n.toNat) }
  | .v n => { t with emptyV := t.emptyV.filter (· != n.toNat) }
  | .p _ => t

/-- The register a fixed-latency result goes to, if it is one. -/
def Dest.reg : Dest → Option Reg
  | .s n => some (.s n)
  | .v n _ => some (.v n)
  | .p n => some (.p n)
  | .fmt => none

/-- sr.issuectl.pend as bundle `n` meets it: a written value applies from the first bundle after the next sync bundle
(R69, R111). -/
def pendModeAt (t : Task) (n : Nat) : Bool :=
  match (t.srNew.filter fun e => e.1 == 0x010 && e.2.1 != 0 && decide (e.2.1 ≤ n)).getLast? with
  | some e => e.2.2.getLsbD 0
  | none => t.pendMode

/-- Whether the pending bit of a register is set (R69); never for s0 and p0. -/
def isPending (t : Task) (r : Reg) : Bool :=
  r != .s 0 && r != .p 0 && t.pend.any fun w => w.dest.reg == some r && pendModeAt t w.order

/-! ### Events and time -/

/-- Inserts work that takes place at hc `due`, after what is already due then. -/
def insertEvent (e : Pend) : List Pend → List Pend
  | [] => [e]
  | x :: r => if e.due < x.due then e :: x :: r else x :: insertEvent e r

/-- The phase of its hc in which an event falls unless it is said otherwise: claims of slots, the ends of fills and the
starts of drains follow the words of the task slots (R154, R174), and a barrier and a pending restore see at the end of an hc what
has drained or become free in it (R242, R298). -/
def eventPhase : Instr → Nat
  | .copyStart _ _ | .cubeResolution _ _ | .cubeChunkFillEnd _ _ _ | .cubeDrainStart _ _ | .hintStart _ _
  | .copyLanding _ _ 0 => 1
  | .barrierDrainEnd _ _ | .restorePlacement _ => 2
  | _ => 0

/-- Schedules an event. -/
def schedule (s : State) (due : Nat) (ev : Instr) : State :=
  { s with events := insertEvent { due := due, ev := ev, phase := eventPhase ev } s.events }

/-- Schedules an event of phase `ph` of its hc: 1 after the words of that hc, 2 after everything else in it. -/
def scheduleLate (s : State) (due : Nat) (ph : Nat) (ev : Instr) : State :=
  if s.events.any (fun p => p.ev == ev && decide (p.due ≤ due) && p.phase == ph) then s
  else { s with events := insertEvent { due := due, ev := ev, phase := ph } s.events }

/-- The first event of a phase that is due, and the events without it. -/
def takeEvent (ph hc : Nat) : List Pend → Option (Pend × List Pend)
  | [] => none
  | e :: r =>
    if hc < e.due then none
    else if e.phase = ph then some (e, r)
    else (takeEvent ph hc r).map fun x => (x.1, e :: x.2)

/-- Schedules an event unless the same one is already scheduled for that hc or an earlier one. -/
def scheduleOnce (s : State) (due : Nat) (ev : Instr) : State :=
  if s.events.any (fun p => p.ev == ev && decide (p.due ≤ due)) then s else schedule s due ev

/-- Removes every scheduled occurrence of an event. -/
def unschedule (s : State) (ev : Instr) : State :=
  { s with events := s.events.filter fun p => p.ev != ev }

/-- The next value of the stream that settles times without a bound (log 4: DESIGN CHOICE), and the stream after it. -/
def popDelay (s : State) : Nat × State :=
  match s.delays with
  | [] => (0, s)
  | d :: r => (d, { s with delays := r })

/-- Schedules an event whose time has no fixed bound: at least one hc from now (log 4: DESIGN CHOICE). -/
def scheduleOpen (s : State) (ev : Instr) : State :=
  let (d, s) := popDelay s
  schedule s (s.hc + 1 + d) ev

/-- The hc count of `n` ns, rounded up (R2: 700 MHz). -/
def nsToHc (n : Nat) : Nat := ceilDiv (7 * n) 10
/-- The hc count of `n` µs. -/
def usToHc (n : Nat) : Nat := 700 * n

/-- The hc at which the timestamp counter reaches `t`. -/
def hcOfTs (s : State) (t : Nat) : Nat := s.hc + ceilDiv (7 * (t - s.ts) - s.tsPhase) 10

/-- Schedules an event for global time `t` (R2). -/
def scheduleAt (s : State) (t : Nat) (ev : Instr) : State :=
  { s with events := insertEvent { due := hcOfTs s t, ev := ev, ts := some t } s.events }

/-- The hc of an event that a global time sets, after the counter has been moved. -/
def retimed (s : State) (e : Pend) : Pend :=
  match e.ts with
  | some t => { e with due := hcOfTs s t }
  | none => e

/-- The events in the order of their hc after the counter has been moved (R346, R347). -/
def retime (s : State) : State := { s with events := s.events.foldl (fun es e => insertEvent (retimed s e) es) [] }

/-- A fresh free value (R6, log 2: DESIGN CHOICE). -/
def freshWord (s : State) : Word × State := (Config.freeWord s.free, { s with free := s.free + 1 })
/-- A fresh free byte (R6, log 2: DESIGN CHOICE). -/
def freshByte (s : State) : Byte × State := (Config.freeByte s.free, { s with free := s.free + 1 })
/-- A fresh open choice between two outcomes (R6, log 2: DESIGN CHOICE). -/
def freshBool (s : State) : Bool × State := (Config.freeBool s.free, { s with free := s.free + 1 })
/-- `n` fresh free bytes. -/
def freshBytes (s : State) : Nat → List Byte × State
  | 0 => ([], s)
  | n + 1 =>
    let (b, s) := freshByte s
    let (r, s) := freshBytes s n
    (b :: r, s)

/-- The timestamp as a 64-bit counter (R2). -/
def tsWord (s : State) : Word := BitVec.ofNat 64 s.ts

/-! ### Units (R249) and fault sources (R306) -/

/-- The unit ID of unit kind `kind` of tile `t`. -/
def unitId (t kind : Nat) : Nat := t + 64 * kind
def srcHbm (g : Nat) : Nat := 0x0400 + g
def srcMantel : Nat := 0x0500
def srcDamper (l : Nat) : Nat := 0x0540 + l
def srcOptical (k : Nat) : Nat := 0x0510 + k
def srcEthernet (k : Nat) : Nat := 0x0520 + k
def srcBellows : Nat := 0x0530

/-! ### Readiness of tasks (R87, R88, R92) -/

/-- Whether a task slot is occupied (R87). -/
def TaskSt.occupied : TaskSt → Bool
  | .free => false
  | _ => true

/-- A task joins the ready order: it becomes ready at this hc, and the core chooses as the hc ends. -/
def makeReady (s : State) (t k : Nat) : State :=
  let s := updTask s t k fun x => { x with st := .ready, wait := .none, also := [], readyAt := s.hc }
  if (tileOf s t).issuing.isNone then scheduleLate s s.hc 2 (.issueSelection t) else s

/-- The issuing task of tile `t` leaves that state (R92). -/
def leaveIssue (s : State) (t : Nat) : State :=
  scheduleLate (updTile s t fun x => { x with issuing := none, freedAt := s.hc }) s.hc 2 (.issueSelection t)

/-- Whether a wait is one at which a pre-emption holds the task in place (R105 b). -/
def Wait.holds : Wait → Bool
  | .barrier _ | .engine _ | .watermark _ _ => true
  | .none | .reg _ | .rld _ => false

/-- A task parks on a wait, beside those on which words of the same bundle have parked it (R73, R91); with a pre-emption
requested, a task that waits on a barrier, an engine or a watermark is held in place (R105). -/
def Task.parkOn (x : Task) (w : Wait) : Task :=
  match x.wait with
  | .none => { x with st := if x.preq && w.holds then .held else .parked, wait := w }
  | v => { x with st := if x.preq && (w.holds || v.holds) then .held else .parked, also := x.also ++ [w] }

/-- Parks the task of a core on a wait (R91). The bellows core has one task and only stalls. -/
def parkTask (s : State) (c : CoreId) (w : Wait) : State :=
  match c with
  | .tile t k => leaveIssue (updTask s t k fun x => x.parkOn w) t
  | .bellows => s

/-- Ends a wait of a task that waits on `w`: once its last one has ended, a parked task becomes ready, and one held or stopped
in place waits for nothing more (R91, R93, R247). -/
def wake (s : State) (t k : Nat) (w : Wait) : State :=
  let x := taskOf s t k
  if x.wait = w then
    match x.also with
    | v :: r => updTask s t k fun x => { x with wait := v, also := r }
    | [] => if x.st = .parked then makeReady s t k else updTask s t k fun x => { x with wait := .none }
  else updTask s t k fun x => { x with also := x.also.erase w }

/-- A long-latency result is written: its register becomes full and the waits on it end (R63, R91). -/
def fillReg (s : State) (c : CoreId) (r : Reg) (f : Task → Task) : State :=
  let s := updCore s c fun x =>
    { markFull (f x) r with outst := x.outst.filter fun o => o.reg != r, recent := x.recent.filter fun e => e.1 != Reg.key r }
  match c with
  | .tile t k =>
    let s := wake (wake s t k (.reg r)) t k (.rld r)
    if (taskOf s t k).st = .issuing && (taskOf s t k).halting && (taskOf s t k).outst.isEmpty then
      scheduleOnce s s.hc (.taskRetire t k)
    else s
  | .bellows => s

/-- The number of the segment entry to which the executed word belongs (R81, R313). -/
def curEntry (s : State) : Nat :=
  match (curTask s).stream.find? fun b => b.n == s.cur.n with
  | some b => b.entry
  | none => (curTask s).entry

/-- A long-latency producer marks its destination empty at issue (R63). -/
def startLong (s : State) (r : Reg) (unit id : Nat) : State :=
  updCur s fun x =>
    if r = .s 0 then x else
      { markEmpty x r with outst := x.outst ++ [⟨r, unit, id, curEntry s⟩] }

/-! ### Fixed-latency results and stores (R66 to R68) -/

/-- A fixed-latency result of the word being executed, written `lat` hc after its issue. -/
def writeLater (s : State) (d : Dest) (v : VWord) (lat : Nat) : State :=
  let s' := updCur s fun x =>
    { x with pend := x.pend ++ [⟨s.hc + lat, d, v, s.cur.n, s.cur.pos⟩] }
  match s.cur.core with
  | .tile t k => scheduleOnce s' (s.hc + lat) (.fixedLatencyWrite t k)
  | .bellows => scheduleOnce s' (s.hc + lat) (.fixedLatencyWrite 64 0)

/-- A scalar result. -/
def writeLaterS (s : State) (n : BitVec 6) (v : Word) (lat : Nat) : State :=
  writeLater s (.s n) (v.setWidth 4096) lat

/-- A store of the word being executed that becomes visible `lat` hc after its issue. -/
def storeLater (s : State) (k : StoreKind) (lat : Nat) : State :=
  match s.cur.core with
  | .tile t slot =>
    scheduleOnce (updTile s t fun x => { x with stores := x.stores ++ [⟨s.hc + lat, slot, k, s.hc, s.cur.n⟩] })
      (s.hc + lat) (.fixedLatencyWrite t slot)
  | .bellows =>
    scheduleOnce
      { s with bellows := { s.bellows with stores := s.bellows.stores ++ [⟨s.hc + lat, 0, k, s.hc, s.cur.n⟩] } }
      (s.hc + lat) (.fixedLatencyWrite 64 0)

/-! ### Interrupts of the bellows core (R110, R374) -/

/-- Raises interrupt line `n` (R374); the core looks at it in this hc. -/
def raiseLine (s : State) (n : Nat) : State :=
  scheduleOnce { s with bellows := { s.bellows with birq := s.bellows.birq ||| (1 <<< n) } } s.hc
    .interruptEntry

/-- A management command ends: its result and its sequence number stand in the response, stat reads done (R379). A
stopped page reports nothing more (R375, R380) (log 81: DEDUCED). -/
def mgmtReport (s : State) (result : Nat) (seq : Word32) (data : List Byte) : State :=
  if s.mf || s.bootStop then s
  else { s with mgmt := { s.mgmt with wait := none, stat := 2, result := result,
                                      resp := leBytes 4 result ++ leBytes 4 seq.toNat ++ data } }

/-- What a busy management command waits for has come. -/
def mgmtSettle (s : State) (w : MgmtWait) (result : Nat) : State :=
  if s.mgmt.wait = some w then mgmtReport s result s.mgmt.seqf [] else s

/-- The last write hc among a task's fixed-latency results, or now. -/
def lastWrite (s : State) (t : Task) : Nat := t.pend.foldl (fun m w => max m w.due) s.hc

/-- The bellows core begins to enter its handler: it issues nothing further, and enters once its
fixed-latency results are written. A fault while inh = 1 stops it instead: the management-fault event
(R110, R375); a trap is no fault, and enters. An entry under way stands (log 75: DEDUCED). -/
def bellowsEnter (s : State) (cls code : Nat) (epc : Word) : State :=
  let b := s.bellows
  let entering := match b.pendEntry with
    | some e => e.1 != 0x06
    | none => false
  if entering then s
  else if b.inh && cls != 0x06 && cls != 0x01 then
    { s with bellows := { b with st := .stopped }, mf := true, mgmt := { s.mgmt with stat := 3 } }
  else
    schedule { s with bellows := { b with pendEntry := some (cls, code, epc) } }
      (lastWrite s b.core) .interruptEntry

/-- The class of R110 of a fault code of R302 raised on the bellows core (log 20: DEDUCED). -/
def bellowsClass (code : Nat) : Nat :=
  if code = 0x02 || code = 0x06 then 0x03
  else if code = 0x03 then 0x04
  else if 0x20 ≤ code && code ≤ 0x2F then 0x05
  else 0x02

/-! ### Taking a fault (R302 to R307) -/

/-- The tiles of a context's partition (R299). -/
def ctxTiles (s : State) (c : Nat) : List Nat :=
  (s.tiles.filter fun x => x.2.ctx == some c).map (·.1)

/-- The first hc at which the halt line can reach a tile: at once on the tile that raised it, within 8 hc
elsewhere (R303, log 4: DESIGN CHOICE). -/
def haltDue (s : State) (src t : Nat) : Nat :=
  if src < 0x400 && src % 64 == t then s.hc else s.hc + min 8 (1 + (popDelay s).1)

/-- Raises the halt line of context `c` towards the listed tiles. -/
def raiseHaltLine (s : State) (c src : Nat) : List Nat → State
  | [] => s
  | t :: r => raiseHaltLine (schedule s (haltDue s src t) (.haltLineArrival c t)) c src r

/-- Records the first fault of a halt (R306, R307). -/
def recordFault (x : Context) (code src : Nat) (addr : Word) (prec : Bool) (ts : Nat) : Context :=
  { x with faulted := true, code := code, trap := 0, src := src, addr := addr, prec := prec, fts := ts }

/-- The order of what the device timestamps: by timestamp, then by source number (R306). -/
def stampBefore (a b : Nat × Nat) : Bool := decide (a.1 < b.1) || a.1 == b.1 && decide (a.2 < b.2)

/-- Counts a further fault, saturating; the first in the order of R306 is the record. -/
def laterFault (x : Context) (code src : Nat) (addr : Word) (prec : Bool) (ts : Nat) : Context :=
  let x' := { x with more := if x.more = 0xFFFF then 0xFFFF else x.more + 1 }
  if x.faulted && stampBefore (ts, src) (x.fts, x.src) then recordFault x' code src addr prec ts else x'

/-- The groups of a context note that it took a fault other than 0x5F (R285). -/
def markFaulted (s : State) (c code : Nat) : State :=
  if code = 0x5F then s
  else { s with groups := s.groups.map fun g => if g.ctx = c then { g with faulted := true } else g }

/-- A fault of context `c` (R298, R302, R303, R306). -/
def raiseFault (s : State) (c code src : Nat) (addr : Word) (prec : Bool) : State :=
  let x := ctxOf s c
  match x.st with
  | .running | .preempting =>
    let s := updCtx (markFaulted s c code) c fun x =>
      { recordFault x code src addr prec s.ts with st := .halting, haltTiles := ctxTiles s c }
    scheduleOnce (raiseHaltLine s c src (ctxTiles s c)) (s.hc + 1) (.stopRecordClose c)
  | .runnable =>
    schedule
      (updCtx (markFaulted s c code) c fun x =>
        { recordFault x code src addr prec s.ts with st := .halting, haltTiles := [] })
      (s.hc + 1) (.stopRecordClose c)
  | .halting | .halted => updCtx (markFaulted s c code) c fun x => laterFault x code src addr prec s.ts
  | .saved =>
    raiseLine
      (updCtx (markFaulted s c code) c fun x =>
        { recordFault x code src addr prec s.ts with st := .halted, closing := true }) 5
  | .empty | .loading | .destroyed => s

/-- The place of a word in a bundle, from which it is executed. -/
def curAt (c : CoreId) (p : Pos) (b : SeqBundle) : Cur := { core := c, pos := p, n := b.n, addr := b.addr }

/-- The context that owns the tile of the word being executed. -/
def curCtx (s : State) : Nat := ((tileOf s (curTile s)).ctx).getD 0

/-- A precise fault of the word being executed: it does not issue; its bundle's address is recorded (R55,
R302). On the bellows core the handler is entered (R110). -/
def preciseFault (s : State) (code : Nat) : State :=
  match s.cur.core with
  | .tile t k => raiseFault s (curCtx s) code (unitId t k) s.cur.addr true
  | .bellows => bellowsEnter s (bellowsClass code) 0 s.cur.addr

/-- trap on a tile core: a precise software-trap fault, its code kept beside the fault code (R109). -/
def trapFault (s : State) (imm : BitVec 16) : State :=
  updCtx (preciseFault s 0x05) (curCtx s) fun x =>
    if x.faulted && x.code == 0x05 && x.src == unitId (curTile s) (curSlot s) && x.addr == s.cur.addr then
      { x with trap := imm } else x

/-- An imprecise fault of a unit of tile `t`, recording an address (R302). -/
def tileFault (s : State) (t kind code : Nat) (addr : Word) : State :=
  raiseFault s (((tileOf s t).ctx).getD 0) code (unitId t kind) addr false

/-! ### The issue of a slot word -/

/-- What becomes of a slot word at the head of its queue. -/
inductive Verdict where
  /-- It issues; the state carries its effects. -/
  | issue (s : State)
  /-- It issues and its task parks (R91). -/
  | issuePark (s : State) (w : Wait)
  /-- It does not issue and its task keeps issuing (R70). -/
  | stall (s : State)
  /-- It does not issue and its task parks (R64, R65). -/
  | park (w : Wait)
  /-- It does not issue and raises a precise fault (R55). -/
  | fault (code : Nat)
  /-- It does not issue and raises a software-trap fault with a code of its own (R109). -/
  | trap (imm : BitVec 16)
  deriving Repr

/-- The register and W bit of a source. -/
def Source.reg : Source → Reg × Bool
  | .s n w => (.s n, w)
  | .v n w => (.v n, w)
  | .p n => (.p n, false)

/-- The first empty source whose W bit is set, then the first empty source or destination to wait for
(R64, R65). -/
def emptyFault (t : Task) (i : Instr) : Bool :=
  (sources i).any fun x => (Source.reg x).2 && isEmpty t (Source.reg x).1

/-- The first empty register a word waits for (R64, R65). -/
def emptyWait (t : Task) (i : Instr) : Option Reg :=
  (((sources i).map fun x => (Source.reg x).1) ++ dests i).find? (isEmpty t)

/-- Whether a word of bundle `n` meets a pending bit under pend = 1 (R69): the registers it reads or writes. -/
def pendingHit (t : Task) (n : Nat) (i : Instr) : Bool :=
  pendModeAt t n && (((sources i).map fun x => (Source.reg x).1) ++ dests i).any (isPending t)

/-- Whether the core has no such form: the bellows core's exceptions (R77), the tile core's eret (R109). -/
def coreForbids (s : State) (i : Instr) : Bool := (onBellows s && illegalOnBellows i) || (!onBellows s && i == .eret)

/-- Whether the form stands in a rewindable segment, which refuses it (R189, R226, R247). -/
def segmentForbids (s : State) (i : Instr) : Bool :=
  illegalInRewindable i && ((curTask s).stream.any fun b => b.n == s.cur.n && b.rw)

/-- Whether the form may not stand where the word stands. -/
def placeForbids (s : State) (i : Instr) : Bool := coreForbids s i || segmentForbids s i

/-- The task as the executed word meets its empty registers and its pending bits: in a bundle that issues as a whole, as the
bundle found it (R73, R110). -/
def gateTask (s : State) : Task := (s.cur.start).getD (curTask s)

/-- The rules every slot word meets before its own meaning (R55, R64, R65, R69); a word waits for its registers before it
is refused by its segment (R390). -/
def gateVerdict (i : Instr) (s : State) (body : State → Verdict) : Verdict :=
  let t := gateTask s
  if coreForbids s i then .fault 0x01
  else if emptyFault t i then .fault 0x03
  else match emptyWait t i with
    | some r => .park (.reg r)
    | none =>
      if segmentForbids s i then .fault 0x01 else if pendingHit t s.cur.n i then .fault 0x04 else body s

/-! ### What a read returns of another queue's results (R74) -/

/-- The value of a register as it stands. -/
def regValue (t : Task) : Reg → VWord
  | .s n => (readS t n).setWidth 4096
  | .v n => readV t n
  | .p n => (readP t n).setWidth 4096

/-- What its register holds once a result is written. -/
def PendWrite.lands (t : Task) (w : PendWrite) : VWord :=
  match w.dest with
  | .v n mask => (w.val &&& mask) ||| (readV t n &&& ~~~mask)
  | .s _ | .p _ | .fmt => w.val

/-- What a register held before the results of other queues than `p` changed it, since the last one of `p` (R66). -/
def oldsOf (p : Pos) : Recent → List VWord
  | [] => []
  | (q, v) :: es => if q = p then [] else v :: oldsOf p es

/-- The values beside the present one that a read of queue `p` may return: of another queue's result on its way the new
one, of one written since the last sync bundle the old one (R74). -/
def rivalValues (t : Task) (p : Pos) (r : Reg) : List VWord :=
  if r = .s 0 || r = .p 0 then []
  else ((t.pend.filter fun w => w.pos != p && w.dest.reg == some r).map (·.lands t)) ++ oldsOf p (tget [] t.recent (Reg.key r))

/-- One of several values, by free choices (log 12: DESIGN CHOICE). -/
def pickValue (s : State) (v : VWord) : List VWord → VWord × State
  | [] => (v, s)
  | w :: r => pickValue (freshBool s).2 (if (freshBool s).1 then w else v) r

/-- What the executed word reads from a register where R74 left it open. -/
def seenOf (s : State) (r : Reg) : Option VWord := (s.cur.seen.find? fun x => x.1 == r).map (·.2)

/-- The executed word's read of a register is settled, once, where R74 leaves it open. -/
def viewReg (s : State) (r : Reg) : State :=
  if (seenOf s r).isSome then s
  else match rivalValues (gateTask s) s.cur.pos r with
  | [] => s
  | w :: ws =>
    let x := pickValue s (regValue (curTask s) r) (w :: ws)
    { x.2 with cur := { x.2.cur with seen := (r, x.1) :: x.2.cur.seen } }

/-- The registers a word reads. -/
def readRegs (i : Instr) : List Reg := ((sources i).map fun x => (Source.reg x).1).eraseDups

/-- The executed word's reads are settled (R74). -/
def openReads (i : Instr) (s : State) : State := (readRegs i).foldl viewReg s

/-- A first word of a later segment entry issues: the tile's count of rewinds starts anew (R313). -/
def noteEntry (s : State) : State :=
  match s.cur.core with
  | .tile t k =>
    if (taskOf s t k).entry < curEntry s then
      updTile (updTask s t k fun x => { x with entry := curEntry s }) t fun x => { x with rwCnt := 0 }
    else s
  | .bellows => s

/-- The queue of the executed word moves past its entry (R70). -/
def advance (s : State) : State :=
  updCur (noteEntry s) fun x =>
    { x with qpos := tset x.qpos s.cur.pos.idx (s.cur.n + 1),
             qlast := tset x.qlast s.cur.pos.idx (s.hc + 1) }

/-- A queue stalls on a unit of kind `kind` of the executing tile (R249). -/
def noteStall (s : State) (kind : Nat) : State :=
  updCur s fun x => { x with stall := some (s.hc, unitId (curTile s) kind) }

/-- Carries a verdict out. -/
def settle (s : State) : Verdict → State
  | .issue s' => advance s'
  | .issuePark s' w => parkTask (advance s') s'.cur.core w
  | .stall s' => s'
  | .park w => parkTask s s.cur.core w
  | .fault code => preciseFault s code
  | .trap imm => trapFault s imm

/-- The step of one slot word: the shared rules, its meaning, the queue. -/
def gate (i : Instr) (s : State) (body : State → Verdict) :
    Host.Outcome State Fault Refusal :=
  let s := openReads i s
  .next (settle s (gateVerdict i s body))

/-- A step of the part that happens only where its condition holds; elsewhere nothing changes (log 3: DESIGN CHOICE). -/
def whenever (c : Bool) (s : State) (f : State → State) : Host.Outcome State Fault Refusal :=
  .next (if c then f s else s)

/-! ### Engine latches (R62, R137, R161, R185, R342) -/

/-- The reset value of engine latch `n` (block n / 64, index n % 64). -/
def latchReset (n : Nat) : Word :=
  let b := n / 64
  let i := n % 64
  if b < 4 then (if i = 0 then 0x0003FFF0 else if 0x10 ≤ i && i ≤ 0x15 then 1 else 0)
  else if b = 4 then
    (if i = 2 then 0xFF else if 3 ≤ i && i ≤ 6 then 0xFFFFFFFF
     else if 0x0A ≤ i && i ≤ 0x0D then BitVec.allOnes 64 else 0)
  else if b = 5 then (if i = 0 then 0xFFFFFFFF else if i = 4 then 0x3F800000 else 0)
  else 0

/-- The bits of engine latch `n` that it keeps: its width (R62), none in the read-only latches. A reserved field within the
width is kept for the triggers that judge it (R143, R162, R343; log 50: DEDUCED). -/
def latchMask (n : Nat) : Word :=
  let b := n / 64
  let i := n % 64
  if b < 4 then
    (if i = 0 then 0x07FFFFFF else if i = 7 || i = 8 then 0
     else if 0x10 ≤ i && i ≤ 0x15 then 0xFFFFFFFF else BitVec.allOnes 64)
  else if b = 4 then
    (if i = 0 then 0x1F else if i = 2 || i = 8 then 0xFF
     else if 3 ≤ i && i ≤ 6 then 0xFFFFFFFF else if i = 7 then 0x01FFFFFFFFFFFFFF
     else if i = 9 then 0 else if i = 0x0E then 0x7FF else BitVec.allOnes 64)
  else if b = 5 then
    (if i = 1 || i = 2 then BitVec.allOnes 64 else if i = 5 then 0 else 0xFFFFFFFF)
  else
    (if i = 1 || i = 2 then BitVec.allOnes 64 else if i = 0 || i = 3 then 0xFFFFFFFF else 0)

/-- The value of latch `n` without its reserved fields, which read as zero (R5, R137, R161, R342). -/
def shownLatch (n : Nat) (v : Word) : Word :=
  if n = 0x101 then v &&& 0xFFFFFFFF007F07FF
  else if n = 0x107 then v &&& 0x01FF01FF01FF01FF
  else if n = 0x142 then v &&& 0xFFFFFFFF0000007F
  else if n = 0x180 then v &&& (if v.getLsbD 4 then 0x003F07F0 else 0x003F001F)
  else v

/-- Whether a reserved field of latch `n` is not zero. -/
def latchBad (n : Nat) (v : Word) : Bool := shownLatch n v != v

/-- A latch in a table of latches (a task's, or a command's snapshot). -/
def latchIn (l : Table Word) (n : Nat) : Word := tget (latchReset n) l n

end Sys2Proof.Machine
end

