-- ==== Sys2Proof/Machine/Operands.lean ====
section
/-! DEFINITION. The operand forms: immediates with their lend bits (spec/03 R51, R57), register operands,
and the lane and element views of a vector register (spec/05 R113, R115). -/

namespace Sys2Proof.Machine

/-! ### Immediates (R51) -/

/-- The width of an immediate field of `n` bits after its lend bits. -/
def immWidth (n : Nat) : Lend → Nat
  | .zero => n
  | .one _ => n + 12
  | .two _ => n + 24

/-- The value of an immediate field with its lend bits above it, unsigned. -/
def immNat {n : Nat} (i : BitVec n) : Lend → Nat
  | .zero => i.toNat
  | .one b => i.toNat + 2 ^ n * b.toNat
  | .two b => i.toNat + 2 ^ n * b.toNat

/-- The lent immediate zero-extended to 64 bits. -/
def zextImm {n : Nat} (i : BitVec n) (l : Lend) : Word := BitVec.ofNat 64 (immNat i l)

/-- A value of `w` bits read as two's complement. -/
def signedOf (w v : Nat) : Int := if 2 ^ (w - 1) ≤ v then (v : Int) - 2 ^ w else v

/-- The lent immediate sign-extended to 64 bits. -/
def sextImm {n : Nat} (i : BitVec n) (l : Lend) : Word :=
  BitVec.ofInt 64 (signedOf (immWidth n l) (immNat i l))

/-! ### Register operands of the word being executed -/

/-- The value that the word reads from s register `n` (R58, R66, R74). -/
def srcS (s : State) (n : BitVec 6) : Word :=
  match seenOf s (.s n) with
  | some v => v.setWidth 64
  | none => readS (curTask s) n
/-- The value that the word reads from v register `n`. -/
def srcV (s : State) (n : BitVec 5) : VWord := (seenOf s (.v n)).getD (readV (curTask s) n)
/-- The value that the word reads from p register `n`. -/
def srcP (s : State) (n : BitVec 3) : PWord :=
  match seenOf s (.p n) with
  | some v => v.setWidth 128
  | none => readP (curTask s) n

/-! ### Lanes and packed elements (R113) -/

/-- Element `e` of width `w` of a vector. -/
def elem (v : VWord) (w e : Nat) : Nat := (v.toNat >>> (w * e)) % 2 ^ w

/-- Lane `i` of a vector. -/
def lane (v : VWord) (i : Nat) : Word32 := BitVec.ofNat 32 (elem v 32 i)

/-- Values of `w` bits side by side, the first lowest. -/
def packNat (w : Nat) : List Nat → Nat
  | [] => 0
  | x :: r => x % 2 ^ w + 2 ^ w * packNat w r

/-- The vector whose elements 0 to `n - 1` of width `w` are given by `f`, zeros above. -/
def fromElems (w n : Nat) (f : Nat → Nat) : VWord := BitVec.ofNat 4096 (packNat w ((List.range n).map f))

/-- The vector whose 128 lanes are given by `f`. -/
def fromLanes (f : Nat → Word32) : VWord := fromElems 32 128 fun i => (f i).toNat

/-- The bits of the lanes that a predicate makes active (R115). -/
def laneMask (p : PWord) : VWord := fromLanes fun i => if p.getLsbD i then BitVec.allOnes 32 else 0

/-- The bits a conversion to width `w` writes: the elements that the predicate marks, and everything above
element 127 (R122). -/
def cvtMask (p : PWord) (w : Nat) : VWord :=
  BitVec.ofNat 4096
    (packNat w ((List.range 128).map fun e => if p.getLsbD e then 2 ^ w - 1 else 0) +
     2 ^ (128 * w) * (2 ^ (4096 - 128 * w) - 1))

/-- A vector result of the word being executed, in the lanes its predicate makes active. -/
def writeLaterV (s : State) (n : BitVec 5) (p : PWord) (v : VWord) (lat : Nat) : State :=
  writeLater s (.v n (laneMask p)) v lat

/-- A lane-wise binary operation on lanes of 32 bits. -/
def map2 (f : Word32 → Word32 → Word32) (a b : VWord) : VWord := fromLanes fun i => f (lane a i) (lane b i)

/-- An element-wise binary operation on elements of 16 bits. -/
def map2h (f : BitVec 16 → BitVec 16 → BitVec 16) (a b : VWord) : VWord :=
  fromElems 16 256 fun i => (f (BitVec.ofNat 16 (elem a 16 i)) (BitVec.ofNat 16 (elem b 16 i))).toNat

/-- Bytes of a vector image (R113): byte k holds bits [8k + 7 : 8k]. -/
def vecByte (v : VWord) (k : Nat) : Byte := BitVec.ofNat 8 (elem v 8 k)

/-- The vector whose stored image is the given bytes. -/
def vecOfBytes (bs : List Byte) : VWord := BitVec.ofNat 4096 (leNat bs)

end Sys2Proof.Machine
end

