-- ==== Sys2Proof/Machine/Flags.lean ====
section
/-! DEFINITION. The comparison results. The machine has no flags register: a scalar compare writes 1 or 0
to an s register (spec/04 R94), a vector compare one bit per lane to a predicate (spec/05 R119). -/

namespace Sys2Proof.Machine

/-- A condition as the word 1 or 0. -/
def condWord (c : Bool) : Word := if c then 1 else 0

/-- Signed less, on words. -/
def slt (x y : Word) : Bool := x.slt y
/-- Signed less or equal. -/
def sle (x y : Word) : Bool := x.sle y
/-- Unsigned less. -/
def ult (x y : Word) : Bool := x.ult y
/-- Unsigned less or equal. -/
def ule (x y : Word) : Bool := x.ule y

/-- The predicate that marks the active lanes in which a condition holds (R119). -/
def lanePred (p : PWord) (c : Nat → Bool) : PWord :=
  BitVec.ofNat 128 (packNat 1 ((List.range 128).map fun i => if p.getLsbD i && c i then 1 else 0))

/-- Signed less on lanes. -/
def laneSlt (x y : Word32) : Bool := x.slt y

/-- The smaller and the greater of two signed lanes (R118). -/
def laneMin (x y : Word32) : Word32 := if x.slt y then x else y
def laneMax (x y : Word32) : Word32 := if x.slt y then y else x

/-- Saturates an integer to the signed range of `w` bits. -/
def satInt (w : Nat) (v : Int) : Int :=
  if v < -(2 ^ (w - 1) : Int) then -(2 ^ (w - 1) : Int)
  else if (2 ^ (w - 1) : Int) - 1 < v then (2 ^ (w - 1) : Int) - 1 else v

end Sys2Proof.Machine
end

