-- ==== Sys2Proof/Machine/Translate.lean ====
section
/-! DEFINITION. Address translation and global accesses at their home (spec/16 R316 to R321; spec/09 R219 to
R224; spec/12 R255): the page walk, the planes of a page, reads and writes of global bytes. -/

namespace Sys2Proof.Machine

/-- A leaf found by a walk (R317): the physical address of its entry, the entry, the page's base and size. -/
structure Leaf where
  pte : Nat
  bits : Word
  base : Nat
  bytes : Nat
  deriving DecidableEq, Repr

/-- The outcome of a translation (R318): a local leaf, a remote leaf, or a fault code. -/
inductive Xlat where
  | here (l : Leaf)
  | remote (l : Leaf)
  | fault (code : Nat)
  deriving DecidableEq, Repr

/-- The field `[lo + n - 1 : lo]` of a 64-bit word. -/
def wfld (w : Word) (lo n : Nat) : Nat := w.toNat / 2 ^ lo % 2 ^ n
/-- Bit `i` of a 64-bit word. -/
def wbitAt (w : Word) (i : Nat) : Bool := w.getLsbD i

/-- The connected group's index of this package (sr.cgrp.self, R265). -/
def selfIdx (s : State) : Nat := wfld (srWord s 0x214) 0 4
/-- Whether an index is a member of the connected group (R265). -/
def isMember (s : State) (q : Nat) : Bool := wbitAt (srWord s 0x214) (16 + q)

/-- The page size of a leaf at a level (R316). -/
def leafBytes : Nat → Nat
  | 1 => 2 ^ 30
  | 2 => 2 ^ 21
  | _ => 2 ^ 16

/-- The index of a virtual address at a level (R316). -/
def levelIndex (va : Word) : Nat → Nat
  | 0 => wfld va 39 9
  | 1 => wfld va 30 9
  | 2 => wfld va 21 9
  | _ => wfld va 16 5

/-- Whether a leaf entry keeps the layout of R317 at its level: 0x2B otherwise. -/
def leafOk (s : State) (level : Nat) (e : Word) : Bool :=
  if wbitAt e 5 then
    (e &&& ~~~(0x0000000003FF0027 : Word)) == 0 && isMember s (wfld e 16 4) && wfld e 16 4 != selfIdx s
  else
    (e &&& ~~~(0x7FFFFF7FFFFF3FFF : Word)) == 0 &&
    (wfld e 16 23 * 2 ^ 16) % leafBytes level == 0 && (wfld e 40 23 * 2 ^ 16) % leafBytes level == 0 &&
    (wbitAt e 3 || wfld e 40 23 == 0)

/-- Whether a pointer entry keeps the layout of R317: its reserved bits, and the alignment of the table it
names (R316). -/
def pointerOk (level : Nat) (e : Word) : Bool :=
  (e &&& ~~~(0x0000007FFFFFFF03 : Word)) == 0 && (level == 2 || wfld e 8 4 == 0)

/-- The walk of R316 from the table at `table`, checked level by level (R318). -/
def walkFrom (s : State) (va : Word) : Nat → Nat → Nat → Xlat
  | 0, _, _ => .fault 0x2B
  | fuel + 1, level, table =>
    let pte := table + 8 * levelIndex va level
    let e : Word := BitVec.ofNat 64 (mword s.hbm pte 8)
    if !wbitAt e 0 then .fault 0x28
    else if wbitAt e 1 then
      if level = 0 || !leafOk s level e then .fault 0x2B
      else
        let l : Leaf := ⟨pte, e, va.toNat / leafBytes level * leafBytes level, leafBytes level⟩
        if wbitAt e 5 then .remote l else .here l
    else if level = 3 || !pointerOk level e then .fault 0x2B
    else walkFrom s va fuel (level + 1) (wfld e 8 31 * 2 ^ 8)

/-- The translation of `va` under the table at `root`, for a read or a write (R318). -/
def translate (s : State) (root : Word) (va : Word) (write : Bool) : Xlat :=
  if wfld va 48 16 ≠ 0 then .fault 0x2A
  else match walkFrom s va 4 0 root.toNat with
    | .here l => if write && !wbitAt l.bits 2 then .fault 0x29 else .here l
    | .remote l => if write && !wbitAt l.bits 2 then .fault 0x29 else .remote l
    | .fault c => .fault c

/-- Whether a walk ends at a remote leaf whose one flaw is that its package is not a member of the group (R318). -/
def outsideGroup (s : State) (root va : Word) : Bool :=
  match translate { s with sr := tset s.sr 0x214 (srWord s 0x214 ||| 0xFFFF0000) } root va false with
  | .remote _ => true
  | _ => false

/-- The level-0 table of a context (R327); context 64 stands for the bellows core (R373). -/
def rootOf (s : State) (c : Nat) : Word := if c = 64 then s.bellows.bptroot else (ctxOf s c).ptroot

/-- Bits of a local leaf (R317). -/
def Leaf.pp (l : Leaf) : Bool := wbitAt l.bits 3
def Leaf.seal (l : Leaf) : Bool := wbitAt l.bits 4
def Leaf.x (l : Leaf) : Bool := wbitAt l.bits 6
def Leaf.cur (l : Leaf) : Bool := wbitAt l.bits 7
def Leaf.nw (l : Leaf) : Bool := wbitAt l.bits 8
def Leaf.zr (l : Leaf) : Bool := wbitAt l.bits 9
def Leaf.pa0 (l : Leaf) : Nat := wfld l.bits 16 23 * 2 ^ 16
def Leaf.pa1 (l : Leaf) : Nat := wfld l.bits 40 23 * 2 ^ 16
/-- The target package and context of a remote leaf (R317). -/
def Leaf.pkg (l : Leaf) : Nat := wfld l.bits 16 4
def Leaf.rctx (l : Leaf) : Nat := wfld l.bits 20 6

/-- The frame of the present plane or active half (R317). -/
def Leaf.present (l : Leaf) : Nat := if l.pp && l.cur then l.pa1 else l.pa0
/-- The frame that writes land in: the next plane or shadow half, or the page's one frame (R219, R222). -/
def Leaf.next (l : Leaf) : Nat := if l.pp then (if l.cur then l.pa0 else l.pa1) else l.pa0

/-- The physical address a read of `va` takes its value from. -/
def Leaf.readPa (l : Leaf) (va : Word) : Nat := l.present + (va.toNat - l.base)
/-- The physical address a write of `va` lands at. -/
def Leaf.writePa (l : Leaf) (va : Word) : Nat := l.next + (va.toNat - l.base)

/-- The leaf that mapped an address of a context when an access was translated at time `ts`, if its frame is being invalidated
since: that of the earliest unmap after that time (R326). -/
def oldLeaf (s : State) (c : Nat) (va : Word) (ts : Nat) : Option Leaf :=
  ((s.frames.filter fun f => f.2.st == .invalidating && f.2.ctx == c && decide (ts < f.2.invTs) && decide (f.2.va ≤ va.toNat) &&
      decide (va.toNat < f.2.va + f.2.bytes)).foldl (fun (b : Option Frame) f => match b with
    | none => some f.2
    | some g => if f.2.invTs < g.invTs then some f.2 else b) none).map fun f => ⟨f.leaf, f.bits, f.va, f.bytes⟩

/-- The translation of `va` as an access made at time `ts` has it (R326): an unmap since then leaves it the old frame. -/
def translateAt (s : State) (c : Nat) (va : Word) (write : Bool) (ts : Nat) : Xlat :=
  match oldLeaf s c va ts with
  | some l => if write && !wbitAt l.bits 2 then .fault 0x29 else .here l
  | none => translate s (rootOf s c) va write

/-- Rewrites a leaf in its table; the device's own change of seal, cur, nw or zr (R320). -/
def writePte (s : State) (pte : Nat) (e : Word) : State :=
  { s with hbm := mwriteAll s.hbm (addrBytes pte (leBytes 8 e.toNat)) }

/-- Sets or clears one bit of a word. -/
def setBit (w : Word) (i : Nat) (b : Bool) : Word :=
  if b then w ||| BitVec.ofNat 64 (2 ^ i) else w &&& ~~~(BitVec.ofNat 64 (2 ^ i))

/-- The bytes a local page shows at `va` (R219, R222, R317): zeros where zr is set. -/
def pageBytes (s : State) (l : Leaf) (va : Word) (n : Nat) : List Byte :=
  if l.pp && l.zr then List.replicate n 0 else mbytes s.hbm (l.readPa va) n

/-! ### Region tables (R212) -/

/-- A region descriptor as it stands in memory (R212). -/
structure RegionDesc where
  w0 : Word
  base : Word
  size : Word
  w4 : Word
  rest : List Word
  addr : Word
  deriving DecidableEq, Repr

def RegionDesc.kind (d : RegionDesc) : Nat := wfld d.w0 0 4
def RegionDesc.rule (d : RegionDesc) : Nat := wfld d.w0 4 2
def RegionDesc.carry (d : RegionDesc) : Bool := wbitAt d.w0 6
def RegionDesc.ty (d : RegionDesc) : Nat := wfld d.w0 8 2
def RegionDesc.first (d : RegionDesc) : Nat := wfld d.w0 16 8
def RegionDesc.cm1 (d : RegionDesc) : Nat := wfld d.w0 24 8
def RegionDesc.epoch (d : RegionDesc) : Nat := wfld d.w4 0 32
def RegionDesc.sealed (d : RegionDesc) : Bool := wbitAt d.w4 32

/-- Whether the device accepts a descriptor (R5, R212); fields of another kind must be zero (log 118: DESIGN CHOICE). -/
def RegionDesc.ok (d : RegionDesc) : Bool :=
  let k := d.kind
  wfld d.w0 10 6 == 0 && wfld d.w0 32 32 == 0 && wfld d.w0 7 1 == 0 && wfld d.w4 33 31 == 0 &&
  d.rest.all (· == 0) && decide (k < 4) &&
  (if k = 1 then d.ty != 3 && d.base == 0 && d.size == 0 && decide (d.first + d.cm1 < 128)
   else d.rule == 0 && d.ty == 0 && d.first == 0 && d.cm1 == 0 && (k == 2 || !d.carry) &&
     d.base.toNat % 2 ^ 16 == 0 && d.size.toNat % 2 ^ 16 == 0 && d.size != 0)

/-- Reads `n` bytes of one page through a context's tables, whatever its plane; none on a fault or a remote
page. The bytes must not cross a 64 KiB boundary. -/
def readVirt (s : State) (root va : Word) (n : Nat) : Option (List Byte) :=
  match translate s root va false with
  | .here l => some (pageBytes s l va n)
  | _ => none

/-- The little-endian value of `n` bytes at `va`. -/
def readVirtNat (s : State) (root va : Word) (n : Nat) : Option Nat := (readVirt s root va n).map leNat

/-- The descriptor at `va` of a region table. -/
def readRegion (s : State) (root va : Word) : Option RegionDesc :=
  (readVirt s root va 64).map fun bs =>
    let w := fun i => (BitVec.ofNat 64 (leNat ((bs.drop (8 * i)).take 8)) : Word)
    ⟨w 0, w 1, w 2, w 4, [w 3, w 6, w 7], va⟩

/-- The region tables of a context, base and length: those that its tiles hold (R213, R275) and those that it has named
before (R274) (log 106: DEDUCED). -/
def ctxRegionTables (s : State) (c : Nat) : List (Word × Nat) :=
  (((s.tiles.filter fun x => x.2.ctx == some c && x.2.rgtlen != 0).map fun x => (x.2.rgtbase, x.2.rgtlen.toNat)) ++
    (ctxOf s c).rgts).eraseDups

/-- A context names a region table. -/
def noteTable (s : State) (c : Nat) (base : Word) (n : Nat) : State :=
  if n = 0 || (ctxOf s c).rgts.contains (base, n) then s else updCtx s c fun x => { x with rgts := (base, n) :: x.rgts }

/-- Whether two ranges of bytes meet. -/
def rangesMeet (a b : Nat × Nat) : Bool := decide (a.1 < b.1 + b.2) && decide (b.1 < a.1 + a.2)

/-- The accepted descriptors of a table, with their region numbers. -/
def regionsFrom (s : State) (root base : Word) : Nat → Nat → List (Nat × RegionDesc)
  | _, 0 => []
  | i, n + 1 =>
    let r := regionsFrom s root base (i + 1) n
    match readRegion s root (base + BitVec.ofNat 64 (64 * i)) with
    | some d => if d.ok then (i, d) :: r else r
    | none => r

/-- The accepted descriptors of every region table of a context. -/
def ctxRegions (s : State) (c : Nat) : List RegionDesc :=
  (ctxRegionTables s c).flatMap fun t => (regionsFrom s (rootOf s c) t.1 0 t.2).map (·.2)

/-- Whether a global region covers an address. -/
def RegionDesc.covers (d : RegionDesc) (va : Nat) : Bool :=
  d.kind != 1 && d.base.toNat ≤ va && va < d.base.toNat + d.size.toNat

/-- The publish region of a context that covers an address, if one does. -/
def publishAt (s : State) (c : Nat) (va : Nat) : Option RegionDesc :=
  (ctxRegions s c).find? fun d => d.kind == 2 && d.covers va

/-! ### Writes at the home bank (R219, R222, R255) -/

/-- Copies the listed bytes of a range of memory to another range of the same size, which then holds the
same contents. -/
def copyRange (m : Memory) (src dst n : Nat) : Memory :=
  let cells := (m.filter fun c => src ≤ c.1 && c.1 < src + n).map fun c => (c.1 - src + dst, c.2)
  mwriteAll (mzero m dst n) cells

/-- A leaf takes its nw bit: in its table, or, where it has been unmapped, as its frames keep it (R326). -/
def markWritten (s : State) (l : Leaf) : State :=
  let b := setBit l.bits 8 true
  if mword s.hbm l.pte 8 = l.bits.toNat then writePte s l.pte b
  else { s with frames := s.frames.map fun f =>
    if f.2.st == .invalidating && f.2.leaf == l.pte && f.2.bits == l.bits then (f.1, { f.2 with bits := b }) else f }

/-- The first write to a next-plane page after an exchange fills it under the region's seed (R219), and sets
nw (R317). -/
def seedPage (s : State) (c : Nat) (l : Leaf) : State :=
  if !l.pp || l.nw then s
  else
    let s' := match publishAt s c l.base with
      | some d =>
        if d.carry && !l.zr then { s with hbm := copyRange s.hbm l.present l.next l.bytes }
        else { s with hbm := mzero s.hbm l.next l.bytes }
      | none => s
    markWritten s' l

/-- Writes bytes of one local page where writes of it land. -/
def writePage (s : State) (c : Nat) (l : Leaf) (va : Word) (bs : List Byte) : State :=
  let s := seedPage s c l
  { s with hbm := mwriteAll s.hbm (addrBytes (l.writePa va) bs) }

/-- A global write performed at its home: the fault code it meets instead, if any. A sealed page refuses it
(R223). -/
def globalWrite (s : State) (c : Nat) (va : Word) (bs : List Byte) : Except Nat State :=
  match translate s (rootOf s c) va true with
  | .here l => if l.seal then .error 0x22 else .ok (writePage s c l va bs)
  | .remote _ => .error 0x24
  | .fault code => .error code

/-- A global read performed at its home. -/
def globalRead (s : State) (c : Nat) (va : Word) (n : Nat) : Except Nat (List Byte) :=
  match translate s (rootOf s c) va false with
  | .here l => .ok (pageBytes s l va n)
  | .remote _ => .error 0x24
  | .fault code => .error code

/-- The device's own write of a descriptor's epoch, sealed and tx fields (R212): whatever w and seal are. -/
def deviceWrite (s : State) (c : Nat) (va : Word) (bs : List Byte) : State :=
  match translate s (rootOf s c) va false with
  | .here l => writePage s c l va bs
  | _ => s

/-- The home channel of a physical address (R14). -/
def homeChannel (pa : Nat) : Nat := pa / 256 % 256

/-! ### Translation caches (R319) -/

/-- Whether a cached translation covers an address. -/
def TlbEntry.covers (e : TlbEntry) (c va : Nat) : Bool := e.ctx == c && e.va ≤ va && va < e.va + e.bytes

/-- Whether the micro-TLB of a tile holds the translation of `va`. -/
def inUtlb (s : State) (t c : Nat) (va : Word) : Bool :=
  (tileOf s t).utlb.any fun e => e.covers c va.toNat
/-- Whether the hearth TLB holds it. -/
def inHtlb (s : State) (c : Nat) (va : Word) : Bool := s.htlb.any fun e => e.covers c va.toNat

/-- The page of a context that holds an address, by its first byte and its size; where no leaf maps the address, its block of
64 KiB. -/
def pageSpan (s : State) (c : Nat) (va : Word) : Nat × Nat :=
  match translate s (rootOf s c) va false with
  | .here l | .remote l => (l.base, l.bytes)
  | .fault _ => (va.toNat / 65536 * 65536, 65536)

/-- Whether two addresses of a context lie in one page. -/
def samePage (s : State) (c : Nat) (a b : Word) : Bool :=
  let p := pageSpan s c a
  decide (p.1 ≤ b.toNat) && decide (b.toNat < p.1 + p.2)

/-- The granted remote translation of an address, if the package holds one for the target that its leaf names (R322). -/
def remoteXlat (s : State) (ctx : Nat) (va : Word) : Option RemoteXlat :=
  match translate s (rootOf s ctx) va false with
  | .remote l => s.remotes.find? fun r =>
    r.ctx == ctx && !r.dropped && r.pkg == l.pkg && r.rctx == l.rctx && r.va ≤ va.toNat && va.toNat < r.va + r.bytes
  | _ => none

/-- The entry that the caches take for an address: its page, and of a remote one what the target has granted (R319, R322);
none on a fault, which is never cached. -/
def xlatEntry (s : State) (c : Nat) (va : Word) : Option TlbEntry :=
  match translate s (rootOf s c) va false with
  | .fault _ => none
  | .here l => some ⟨c, l.base, l.bytes, false⟩
  | .remote l => (remoteXlat s c va).map fun r =>
    ⟨c, max l.base r.va, min (l.base + l.bytes) (r.va + r.bytes) - max l.base r.va, true⟩

/-- A look-up for tile `t` misses its micro-TLB, and the hearth TLB unless that holds the translation (R319). -/
def countMiss (s : State) (t : Nat) (hit : Bool) : State :=
  updTile s t fun x => { x with umiss := x.umiss + 1, hmiss := if hit then x.hmiss else x.hmiss + 1 }

/-- The caches take the translation of an address: first in, first out in both (R319, log 11: DESIGN CHOICE). -/
def fillXlat (s : State) (t c : Nat) (va : Word) : State :=
  match xlatEntry s c va with
  | none => s
  | some e =>
    let s := if inHtlb s c va then s else { s with htlb := (e :: s.htlb).take 8192 }
    if inUtlb s t c va then s else updTile s t fun x => { x with utlb := (e :: x.utlb).take 64 }

/-- A translation that is made in this hc for tile `t`: the misses it counts and the entries it leaves. Those of the further
pages of one access of a unit, and those that fail, begin and end so (R319, log 126: DESIGN CHOICE). -/
def noteXlat (s : State) (t c : Nat) (va : Word) : State :=
  if wfld va 48 16 ≠ 0 || inUtlb s t c va then s else fillXlat (countMiss s t (inHtlb s c va)) t c va

/-- Drops every cached translation of a range of a context (R320, R324). -/
def dropXlat (s : State) (c base bytes : Nat) : State :=
  let keep := fun (e : TlbEntry) => !(e.ctx == c && rangesMeet (e.va, e.bytes) (base, bytes))
  { s with htlb := s.htlb.filter keep,
           tiles := s.tiles.map fun x => (x.1, { x.2 with utlb := x.2.utlb.filter keep }) }

end Sys2Proof.Machine
end

