-- ==== Sys2Proof/Machine/Sequence.lean ====
section
/-! DEFINITION. The flow of a task: fetch from its kernel image (spec/13 R271 to R280), the two halves of the
loop buffer (spec/03 R78, R79), the loop engine's sequencing of bundles (spec/04 R96 to R107), and the ten
slot queues (spec/03 R70 to R73, R80). -/

namespace Sys2Proof.Machine

/-! ### The loop buffer of a core -/

/-- The loop buffer's halves of a core. -/
def coreHalves (s : State) : CoreId → Table Half
  | .tile t _ => (tileOf s t).halves
  | .bellows => s.bellows.halves

/-- The half a core executes. -/
def coreExec (s : State) : CoreId → Nat
  | .tile t _ => (tileOf s t).exec
  | .bellows => s.bellows.exec

/-- Changes the loop buffer of a core. -/
def setHalves (s : State) (c : CoreId) (exec : Nat) (hs : Table Half) : State :=
  match c with
  | .tile t _ => updTile s t fun x => { x with halves := hs, exec := exec }
  | .bellows => { s with bellows := { s.bellows with halves := hs, exec := exec } }

/-- The tile and slot by which a core's events name it; the bellows core is 64, 0. -/
def coreName : CoreId → Nat × Nat
  | .tile t k => (t, k)
  | .bellows => (64, 0)

/-- The core that an event names. -/
def nameCore (t k : Nat) : CoreId := if t = 64 then .bellows else .tile t k

/-- The context whose code a core runs. -/
def coreCtx (s : State) : CoreId → Nat
  | .tile t _ => ((tileOf s t).ctx).getD 0
  | .bellows => 64

/-! ### Fetch (R271 to R273, R373) -/

/-- Fetches bytes of code: sealed bytes of the context (R273), or the bellows core's own memory (R373). The
bytes do not cross a 64 KiB boundary. -/
def fetch (s : State) (c : CoreId) (va : Nat) (n : Nat) : Option (List Byte) :=
  match c with
  | .tile _ _ =>
    match translate s (rootOf s (coreCtx s c)) (BitVec.ofNat 64 va) false with
    | .here l => if l.seal then some (pageBytes s l (BitVec.ofNat 64 va) n) else none
    | _ => none
  | .bellows => if va + n ≤ 2 ^ 22 then some (mbytes s.bellows.mem va n) else none

/-- The little-endian value of fetched bytes. -/
def fetchNat (s : State) (c : CoreId) (va n : Nat) : Option Nat := (fetch s c va n).map leNat

/-- Field `[lo + n - 1 : lo]` of a number. -/
def nfld (w lo n : Nat) : Nat := w / 2 ^ lo % 2 ^ n

/-- The number of segment-table entries of an image, and its table's address (R271). -/
def segTable (s : State) (c : CoreId) (kimg : Nat) : Nat × Nat :=
  match fetchNat s c kimg 8, fetchNat s c (kimg + 8) 8 with
  | some w, some a => (nfld w 32 16, a)
  | _, _ => (0, 0)

/-- Entry `i` of a segment table. -/
def segEntry (s : State) (c : CoreId) (segt i : Nat) : Option Nat := fetchNat s c (segt + 8 * i) 8

/-- The last table entry among the first `n` whose header address is at or below `va` (R273). -/
def lastAtOrBelow (s : State) (c : CoreId) (segt va : Nat) : Nat → Option Nat
  | 0 => none
  | n + 1 =>
    match segEntry s c segt n with
    | some a => if a ≤ va then some a else lastAtOrBelow s c segt va n
    | none => lastAtOrBelow s c segt va n

/-- Whether one of the first `n` table entries is `a`. -/
def inTable (s : State) (c : CoreId) (segt a : Nat) : Nat → Bool
  | 0 => false
  | n + 1 => segEntry s c segt n == some a || inTable s c segt a n

/-- The header address of the segment that contains `va` (R273). -/
def findSegment (s : State) (c : CoreId) (kimg va : Nat) : Option Nat :=
  let t := segTable s c kimg
  match lastAtOrBelow s c t.2 va t.1 with
  | some h =>
    match fetchNat s c (h + 8) 8 with
    | some w => if h + 16 ≤ va && va < h + 16 + nfld w 32 32 then some h else none
    | none => none
  | none => none

/-- The words of `q` quads from `a`; none where a quad lies outside sealed memory. -/
def fetchQuads (s : State) (c : CoreId) : Nat → Nat → Option (List Word32)
  | _, 0 => some []
  | a, q + 1 =>
    match fetch s c a 16, fetchQuads s c (a + 16) q with
    | some bs, some r =>
      some ((List.range 4).map (fun i => (BitVec.ofNat 32 (leNat ((bs.drop (4 * i)).take 4)) : Word32)) ++ r)
    | _, _ => none

/-- The ten stages of one stage-map word (R272). -/
def stagesOf (w : Nat) : List Nat := (List.range 10).map fun k => nfld w (3 * k) 3

/-- One bundle as a loop-buffer entry (R52, R53, R78, R273). -/
def readEntry (s : State) (c : CoreId) (a : Nat) (stage : Nat) : Entry :=
  match fetchQuads s c a 1 with
  | none => ⟨BitVec.ofNat 64 a, 16, [], false, [], some .kernel⟩
  | some q0 =>
    let n := bundleBytes (q0.headD 0)
    match fetchQuads s c a (n / 16) with
    | none => ⟨BitVec.ofNat 64 a, n, [], false, [], some .kernel⟩
    | some ws =>
      match parseBundle (c == .bellows) ws with
      | .ok b => ⟨BitVec.ofNat 64 a, n, b.slots, b.sy, stagesOf stage, none⟩
      | .error _ => ⟨BitVec.ofNat 64 a, n, [], false, [], some .format⟩

/-- The stage word of bundle `i` of a segment with its stage map at `sm`; none where it lies outside sealed memory (R272). -/
def stageWord (s : State) (c : CoreId) (sm : Option Nat) (i : Nat) : Option Nat :=
  match sm with
  | some m => fetchNat s c (m + 4 * i) 4
  | none => some 0

/-- `n` bundles from `a`, with the stage map at `sm` (R272); one whose stages lie outside sealed memory faults (R273). -/
def readEntries (s : State) (c : CoreId) (sm : Option Nat) : Nat → Nat → Nat → List Entry
  | _, _, 0 => []
  | a, i, n + 1 =>
    let e := match stageWord s c sm i with
      | some w => readEntry s c a w
      | none => { readEntry s c a 0 with slots := [], fault := some .kernel }
    e :: readEntries s c sm (a + e.bytes) (i + 1) n

/-- Whether the sizes of the bundles of a segment are known: the header of each can be fetched (R52, R273). -/
def sizesKnown (s : State) (c : CoreId) (es : List Entry) : Bool := es.all fun e => (fetchQuads s c e.addr.toNat 1).isSome

/-- Whether a word of the stage map has a reserved bit set (R272). -/
def stageMapBad (s : State) (c : CoreId) (m : Nat) : Nat → Bool
  | 0 => false
  | n + 1 => nfld ((fetchNat s c (m + 4 * n) 4).getD 0) 30 2 != 0 || stageMapBad s c m n

/-- A segment read whole into a half, nothing expanded yet; in one that R273 refuses the first bundle faults. A bundle of which
a quad cannot be fetched faults; where that is its header, the sum of the sizes is not judged (log 55: DEDUCED). -/
def loadSegment (s : State) (c : CoreId) (kimg : Word) (header : Nat) : Half :=
  let base : Half :=
    { seg := header, task := (coreName c).2, ctx := coreCtx s c, kimg := kimg, v := true }
  let bad := fun (e : Entry) => { e with slots := [], fault := some .kernel }
  match fetchNat s c header 8, fetchNat s c (header + 8) 8 with
  | some next, some w =>
    let nb := nfld w 0 8 + 1
    let blen := nfld w 32 32
    let sm := if nfld w 9 1 = 1 then some (header + 16 + blen) else none
    let es := readEntries s c sm (header + 16) 0 nb
    let refused := nfld w 10 22 ≠ 0 || (sizesKnown s c es && (es.map (·.bytes)).sum ≠ blen) ||
        (match sm with | some m => stageMapBad s c m nb | none => false)
    { base with next := BitVec.ofNat 64 next, rw := nfld w 8 1 == 1, blen := max blen 16,
                todo := if refused then (es.take 1).map bad ++ es.drop 1 else es }
  | _, _ => { base with blen := 16, todo := [⟨BitVec.ofNat 64 (header + 16), 16, [], false, [], some .kernel⟩] }

/-! ### Looking a bundle up in the loop buffer -/

/-- Where an address stands against the loop buffer. -/
inductive Look where
  | found (h : Nat) (half : Half) (i : Nat) (e : Entry)
  | wait
  | noHeader
  | miss
  deriving DecidableEq, Repr

/-- Whether a half holds code that a task's flow may enter at `va`: its own image, not stale unless flow
stays in the segment (R280). -/
def Half.usable (x : Half) (ctx : Nat) (t : Task) (va : Nat) : Bool :=
  x.v && x.ctx == ctx && x.kimg == t.kimg && (!x.stale || t.flow.seg == some x.seg) &&
  x.seg + 16 ≤ va && va < x.seg + 16 + x.blen

/-- Whether an address is that of a bundle whose expansion was abandoned (R79). -/
def Half.cutAt (x : Half) (va : Word) : Bool := x.cut && x.todo.any fun e => e.addr == va

/-- Looks an address up in one half. -/
def Half.look (x : Half) (h : Nat) (va : Word) : Look :=
  match x.entries.findIdx? (fun e => e.addr == va) with
  | some i =>
    match x.entries[i]? with
    | some e => .found h x i e
    | none => .noHeader
  | none => if x.todo.any (fun e => e.addr == va) then .wait else .noHeader

/-- Looks an address up for a task (R79). -/
def look (s : State) (c : CoreId) (va : Word) : Look :=
  let t := coreTask s c
  let hs := coreHalves s c
  let e := coreExec s c
  let a := tget {} hs e
  let b := tget {} hs (1 - e)
  if a.usable (coreCtx s c) t va.toNat && !a.cutAt va then a.look e va
  else if b.usable (coreCtx s c) t va.toNat && !b.cutAt va then b.look (1 - e) va
  else .miss

/-- Every bundle of the segment in a half, expanded or not. -/
def Half.all (x : Half) : List Entry := x.entries ++ x.todo

/-- A half whose expansion is abandoned (R79). -/
def Half.abandon (x : Half) : Half := if x.todo.isEmpty then x else { x with cut := true }

/-- Whether the engine is expanding a half of a core. -/
def expanding (s : State) (c : CoreId) : Bool := (coreHalves s c).any fun x => x.2.v && !x.2.cut && !x.2.todo.isEmpty

/-- Starts expanding a segment into the half that is not executing, abandoning the current expansion (R79). -/
def startExpand (s : State) (c : CoreId) (header : Nat) : State :=
  let e := coreExec s c
  let half := loadSegment s c (coreTask s c).kimg header
  let s := setHalves s c e (tset ((coreHalves s c).map fun x => (x.1, x.2.abandon)) (1 - e) half)
  let s := unschedule (unschedule s (.prefetchExpansion (coreName c).1 e)) (.prefetchExpansion (coreName c).1 (1 - e))
  scheduleOpen s (.prefetchExpansion (coreName c).1 (1 - e))

/-- Whether a half holds, or is expanding, a segment of a task's image. -/
def Half.holdsSeg (x : Half) (ctx : Nat) (kimg : Word) (seg : Nat) : Bool :=
  x.v && x.ctx == ctx && x.kimg == kimg && x.seg == seg && !x.stale && !x.cut

/-- Whether the next segment of a half is one of its image: the loop buffer holds it, or the segment table names it
(R273, R279). -/
def nextListed (s : State) (c : CoreId) (x : Half) : Bool :=
  x.next != 0 &&
  ((coreHalves s c).any (fun o => o.2.holdsSeg x.ctx x.kimg x.next.toNat) ||
   (let t := segTable s c x.kimg.toNat
    inTable s c t.2 x.next.toNat t.1))

/-- The idle engine turns to the segment after the executing one, unless the other half holds it, or holds what flow goes
on to (R79). -/
def wantNext (s : State) (c : CoreId) : State :=
  let e := coreExec s c
  let x : Half := tget {} (coreHalves s c) e
  let o : Half := tget {} (coreHalves s c) (1 - e)
  if !x.v || expanding s c || o.holdsSeg x.ctx x.kimg x.next.toNat ||
      o.usable (coreCtx s c) (coreTask s c) (coreTask s c).flow.next.toNat || !nextListed s c x then s
  else startExpand s c x.next.toNat

/-- Flow enters the segment of half `h`: that half executes, and its next segment is expanded into the other
(R79). -/
def enterHalf (s : State) (c : CoreId) (h : Nat) : State :=
  if coreExec s c = h then s else wantNext (setHalves s c h (coreHalves s c)) c

/-! ### Loop levels (R100 to R104) -/

/-- Loop level `l` of a table of levels. -/
def loopIn (ls : Table Loop) (l : Nat) : Loop := tget {} ls l

/-- The innermost active level. -/
def innermost (ls : Table Loop) : Option Nat := ([5, 4, 3, 2, 1, 0] : List Nat).find? fun l => (loopIn ls l).act

/-- The stage predicates of a level in its current iteration (R101). -/
def stageBits (x : Loop) : BitVec 8 :=
  let m := min x.cnt.toNat x.lim.toNat
  let j := x.idx.toNat
  BitVec.ofNat 8 (packNat 1 ((List.range 8).map fun st =>
    if st ≤ x.dm1 && x.beg.toNat + st ≤ j && j < m + st then 1 else 0))

/-- The q bits that the innermost active level gives, all ones outside every loop (R59, R101). -/
def qBits (ls : Table Loop) : BitVec 8 :=
  match innermost ls with
  | some l => stageBits (loopIn ls l)
  | none => 0xFF

/-- Whether bundle `i` of segment `seg` is the last one of an active body, or `d` before it. -/
def atBodyEnd (ls : Table Loop) (seg i d : Nat) : Bool :=
  ([0, 1, 2, 3, 4, 5] : List Nat).any fun l =>
    let x := loopIn ls l
    x.act && x.seg == seg && x.first + x.lenm1 == i + d

/-- Whether bundle `i` of segment `seg` lies in the body of the innermost active level (R59, R80, R272). -/
def inBody (ls : Table Loop) (seg i : Nat) : Bool :=
  match innermost ls with
  | some l =>
    let x := loopIn ls l
    x.seg == seg && decide (x.first ≤ i) && decide (i ≤ x.first + x.lenm1)
  | none => false

/-- Level `l` and every deeper level become inactive (R102). -/
def leaveLevels (ls : Table Loop) (l : Nat) : Table Loop :=
  ls.map fun x => if l ≤ x.1 then (x.1, { x.2 with act := false }) else x

/-! ### Sequencing (R71, R72, R79, R96, R100) -/

/-- The word of a position in a bundle. -/
def slotAt (slots : List (Pos × SlotWord)) (p : Pos) : Option SlotWord :=
  (slots.find? fun x => x.1 == p).map (·.2)

/-- The instruction a slot word holds, if it decodes. -/
def instrOf (w : SlotWord) : Option Instr :=
  match decodeSlot w with
  | .ok i => some i
  | .error _ => none

/-- The stage number of a position of a bundle. -/
def SeqBundle.stage (b : SeqBundle) (p : Pos) : Nat := (b.stages.drop p.idx).headD 0

/-- Whether the slot of a position issues as itself: its stage predicate is 1 (R80). R58 gives the bellows core no q
registers and R272 says nothing of its stages: its q counts as the tile core's (log 100: DEDUCED). -/
def SeqBundle.live (b : SeqBundle) (p : Pos) : Bool := b.q.getLsbD (b.stage p)

/-- The instruction in position `p` of a bundle. -/
def SeqBundle.instr (b : SeqBundle) (p : Pos) : Option Instr := (slotAt b.slots p).bind instrOf

/-- The instructions of a bundle that are live. -/
def SeqBundle.liveInstrs (b : SeqBundle) : List Instr :=
  b.slots.filterMap fun x => if b.live x.1 then instrOf x.2 else none

/-- Whether a bundle issues under R73: sy = 1, a word that acts as though it were, or the entry of a
rewindable segment (R310). -/
def SeqBundle.isSync (b : SeqBundle) : Bool :=
  b.sy || (b.enters && b.rw) || b.liveInstrs.any actsAsSync

/-- The slowest queue's position. -/
def minPos (t : Task) : Nat := Pos.all.foldl (fun m p => min m (tget 0 t.qpos p.idx)) (tget 0 t.qpos 0)

/-- Whether the segment table of a half's image lies outside sealed memory, so that it names nothing (R273). -/
def tableUnread (s : State) (c : CoreId) (x : Half) : Bool :=
  (fetchNat s c x.kimg.toNat 8).isNone || (fetchNat s c (x.kimg.toNat + 8) 8).isNone ||
  (let t := segTable s c x.kimg.toNat
   (List.range t.1).any fun i => (segEntry s c t.2 i).isNone)

/-- The bundle after entry `i` of a half in sequential flow, or none when the segment is the last (R79). Where the table
cannot be fetched, flow goes to the segment that the pointer names, and faults there (R273, R277). -/
def seqSucc (s : State) (c : CoreId) (x : Half) (i : Nat) (e : Entry) : Option Word :=
  if i + 1 < x.all.length then some (e.addr + BitVec.ofNat 64 e.bytes)
  else if nextListed s c x || (x.next != 0 && tableUnread s c x) then some (x.next + 16) else none

/-- A bundle that only raises a kernel-format fault where flow has gone wrong (R273). -/
def faultBundle (t : Task) (va : Word) : SeqBundle :=
  { n := t.nextSeq, addr := va, slots := [], fault := some .kernel }

/-- Where flow stands after a body that ends at bundle `i` of a segment has been left: the iteration of an outer level whose
body ends there too ends at the same point (R102). -/
def holdAfter (ls : Table Loop) (seg i : Nat) : FlowHold := if atBodyEnd ls seg i 0 then .iterEnd else .run

/-- Whether a bundle holds a control transfer (R72, R109). -/
def SeqBundle.transfers (b : SeqBundle) : Bool :=
  (match b.instr .A with | some w => isBranch w | none => false) || b.instr .C == some .eret

/-- Whether a transfer of a bundle is live: one that is not is not taken (R80). -/
def SeqBundle.liveTransfer (b : SeqBundle) : Bool :=
  (match b.instr .A with | some w => isBranch w && b.live .A | none => false) || (b.instr .C == some .eret && b.live .C)

/-- Whether a bundle holds a live loop word. -/
def SeqBundle.setsLoop (b : SeqBundle) : Bool := match b.instr .A with
  | some (.loop _) | some (.loopi _) => b.live .A
  | _ => false

/-- What holds the sequencer once a bundle is sequenced, with no transfer before it outstanding (R72, R80, R100). A live
transfer in the last bundle of a body is refused (R99): flow goes no further. -/
def SeqBundle.holdAt (b : SeqBundle) : FlowHold :=
  if b.liveTransfer then .transfer b.n b.lastOfBody
  else if b.transfers then (if b.lastOfBody then .transferEnd b.n else .transfer b.n false)
  else if b.setsLoop then .loopSetup b.n
  else if b.lastOfBody then .iterEnd
  else .run

/-- What holds the sequencer once a transfer whose delay bundle is the last bundle sequenced has issued: what that bundle
itself brings (R72, R80). After a taken transfer the body's end is left behind. -/
def holdLanded (t : Task) (taken : Bool) : FlowHold :=
  match t.stream.getLast? with
  | some b => if taken then (if b.transfers then .transfer b.n false else .run) else b.holdAt
  | none => .run

/-- Flow after a transfer is resolved and its delay bundle sequenced (R96, R102). -/
def landTransfer (t : Task) (f : Flow) : Task :=
  let g := { f with next := f.target.getD f.next, target := none, lexit := none, hold := holdLanded t f.target.isSome,
                    ranOff := f.ranOff && f.target.isNone }
  match f.lexit with
  | some l =>
    let x := loopIn t.loops l
    let ls := leaveLevels t.loops l
    { t with loops := ls, flow := { g with hold := holdAfter ls x.seg (x.first + x.lenm1) } }
  | none => { t with flow := g }

/-- Adds the entry found at the flow's next address to the task's stream. -/
def sequenceEntry (s : State) (c : CoreId) (h : Nat) (x : Half) (i : Nat) (e : Entry) : State :=
  let s := enterHalf s c h
  let t := coreTask s c
  let enters := t.flow.seg != some x.seg
  let inLoop := inBody t.loops x.seg i
  let last := atBodyEnd t.loops x.seg i 0
  let entries := if enters then t.flow.entries + 1 else t.flow.entries
  let b : SeqBundle :=
    { n := t.nextSeq, addr := e.addr, slots := e.slots, stages := if inLoop then e.stages else [],
      sy := e.sy, fault := e.fault, q := if inLoop then qBits t.loops else 0xFF, loops := t.loops, seg := x.seg, idx := i, rw := x.rw,
      enters := enters, entry := entries, delay := t.flow.afterTransfer, lastOfBody := last,
      beforeLast := atBodyEnd t.loops x.seg i 1, succ := (seqSucc s c x i e).getD (e.addr + BitVec.ofNat 64 e.bytes) }
  let succ := seqSucc s c x i e
  let f : Flow :=
    { t.flow with next := succ.getD (e.addr + BitVec.ofNat 64 e.bytes), ranOff := succ.isNone,
                  seg := some x.seg, afterTransfer := b.transfers, entries := entries }
  let t := { t with nextSeq := t.nextSeq + 1, stream := t.stream ++ [b] }
  let t' :=
    match t.flow.hold with
    | .transfer n _ => { t with flow := { f with hold := .transfer n true } }
    | .issued => landTransfer t f
    | _ => { t with flow := { f with hold := b.holdAt } }
  updCore s c fun _ => t'

/-- What the sequencer can do next for a core. -/
inductive SeqAct where
  /-- Nothing now. -/
  | idle
  /-- One more bundle stands in the stream. -/
  | more (s : State)
  /-- The next bundle is in neither half (R79). -/
  | miss (va : Word)
  /-- The last body bundle is sequenced (R101). -/
  | iterEnd
  deriving Repr

/-- Whether a ksync stands in the stream and has not issued: flow enters no further segment before it has (R280). -/
def ksyncAhead (t : Task) : Bool :=
  t.stream.any fun b => b.instr .C == some .ksync && b.live .C && tget 0 t.qpos Pos.C.idx ≤ b.n

/-- The bundle numbered `n` of a task's stream. -/
def bundleAt (t : Task) (n : Nat) : Option SeqBundle := t.stream.find? fun b => b.n == n

/-- Whether a half holds the bundle at `va` of a task's image, expanded. -/
def heldAt (s : State) (c : CoreId) (va : Word) : Bool :=
  (coreHalves s c).any fun x =>
    x.2.v && x.2.ctx == coreCtx s c && x.2.kimg == (coreTask s c).kimg && x.2.entries.any fun e => e.addr == va

/-- A task that awaits the bundle at `va` in the loop buffer: it goes on once that is expanded (R79, R92); where the segment
that holds it now has no bundle there, nothing more is to come. -/
def awaitCode (s : State) (c : CoreId) (va : Word) : SeqAct :=
  let go := SeqAct.more (updCore s c fun t => { t with needs := none })
  if heldAt s c va then go
  else match look s c va with
    | .found _ _ _ _ | .noHeader => go
    | .wait => .idle
    | .miss => .miss va

/-- The bundle of a loop word that has not issued and whose segment no half holds any longer (R100). -/
def lostLoop (s : State) (c : CoreId) (n : Nat) : Option Word :=
  match bundleAt (coreTask s c) n with
  | some b => if (coreHalves s c).any (fun x => x.2.v && x.2.seg == b.seg) then none else some b.addr
  | none => none

/-- Whether the sequencer waits for a loop word. -/
def FlowHold.awaitsLoop : FlowHold → Bool
  | .loopSetup _ => true
  | .run | .transfer _ _ | .issued | .iterEnd | .transferEnd _ | .drain | .halted => false

/-- One move of the sequencer: at most 16 bundles ahead of the slowest queue (R71). -/
def sequence (s : State) (c : CoreId) : SeqAct :=
  let t := coreTask s c
  match t.needs with
  | some va => awaitCode s c va
  | none =>
  if t.halting || minPos t + 16 ≤ t.nextSeq && !t.flow.hold.awaitsLoop then .idle
  else
    let go :=
      if t.flow.ranOff then
        .more (updCore s c fun t =>
          { t with stream := t.stream ++ [faultBundle t t.flow.next], nextSeq := t.nextSeq + 1,
                   flow := { t.flow with hold := .halted } })
      else
        match look s c t.flow.next with
        | .found h x i e =>
          if ksyncAhead t && t.flow.seg != some x.seg then .idle else .more (sequenceEntry s c h x i e)
        | .wait => .idle
        | .noHeader =>
          .more (updCore s c fun t =>
            { t with stream := t.stream ++ [faultBundle t t.flow.next], nextSeq := t.nextSeq + 1,
                     flow := { t.flow with hold := .halted } })
        | .miss => if ksyncAhead t then .idle else .miss t.flow.next
    match t.flow.hold with
    | .run | .transfer _ false | .issued => go
    | .iterEnd | .transferEnd _ => .iterEnd
    | .loopSetup n =>
      (match lostLoop s c n with
       | some va => .more (updCore s c fun t => { t with needs := some va })
       | none => .idle)
    | .transfer _ true | .drain | .halted => .idle

/-- A transfer issues: where flow goes after its delay bundle (R96 to R98, R102). -/
def resolveTransfer (t : Task) (n : Nat) (target : Option Word) (lexit : Option Nat) : Task :=
  let f := { t.flow with target := target, lexit := lexit }
  match t.flow.hold with
  | .transfer m true => if m = n then landTransfer t f else t
  | .transfer m false => if m = n then { t with flow := { f with hold := .issued } } else t
  | .transferEnd m => if m = n then { t with flow := { t.flow with hold := .iterEnd } } else t
  | _ => t

/-- A loop word issues: its levels, and where flow goes on when its body is skipped, and whether it has run off, and how it
stands there (R100, R102). -/
def resolveLoop (t : Task) (n : Nat) (loops : Table Loop) (skip : Option (Word × Bool × FlowHold)) : Task :=
  match t.flow.hold with
  | .loopSetup m =>
    if m = n then
      match skip with
      | some (a, off, h) => { t with loops := loops, flow := { t.flow with hold := h, next := a, ranOff := off } }
      | none => { t with loops := loops, flow := { t.flow with hold := .run } }
    else t
  | _ => t

/-! ### The queues (R70, R71, R73) -/

/-- Where a queue stands once it has passed its empty entries; it stops at a sync bundle and at a bundle
that faults (R53, R70, R73). -/
def passFrom (t : Task) (p : Pos) : Nat → Nat → Nat
  | 0, n => n
  | fuel + 1, n =>
    match bundleAt t n with
    | some b =>
      if (slotAt b.slots p).isSome || b.isSync || b.fault.isSome then n else passFrom t p fuel (n + 1)
    | none => n

/-- Bundles that all queues have left are dropped. -/
def dropPassed (t : Task) : Task := { t with stream := t.stream.filter fun b => minPos t ≤ b.n }

/-- Every queue passes its empty entries. -/
def passAll (t : Task) : Task :=
  dropPassed { t with qpos := Pos.all.foldl (fun q p => tset q p.idx (passFrom t p 17 (tget 0 t.qpos p.idx))) t.qpos }

/-- Whether every queue stands at bundle `n`. -/
def allAt (t : Task) (n : Nat) : Bool := Pos.all.all fun p => tget 0 t.qpos p.idx == n

/-- The bundle at the head of a position's queue. -/
def headBundle (t : Task) (p : Pos) : Option SeqBundle := bundleAt t (tget 0 t.qpos p.idx)

/-- The slot word at the head of a position's queue, if it may issue in this hc: at most one per hc (R70),
and the words of a sync bundle only once it is open (R73). -/
def headWord (t : Task) (hc : Nat) (p : Pos) : Option (SeqBundle × SlotWord) :=
  match headBundle t p with
  | some b =>
    match slotAt b.slots p with
    | some w =>
      if hc < tget 0 t.qlast p.idx then none
      else if b.isSync && t.syncOpen != some b.n then none
      else if b.fault.isSome then none
      else some (b, w)
    | none => none
  | none => none

/-- Opens a sync bundle in this hc: its present slots issue in it, the other queues pass it; all queues leave it together, in
the next hc (R73; log 51: DEDUCED). Reads from a sync bundle on return what was written before it (R74). -/
def openBundle (t : Task) (hc : Nat) (b : SeqBundle) : Task :=
  let q := Pos.all.foldl (fun q p => if (slotAt b.slots p).isSome then q else tset q p.idx (b.n + 1)) t.qpos
  { t with qpos := q, qlast := Pos.all.map fun p => (p.idx, hc + 1), syncOpen := some b.n,
           recent := if b.isSync then [] else t.recent }

end Sys2Proof.Machine
end

