-- ==== Sys2Proof/Machine/Scalar.lean ====
section
/-! DEFINITION. The S class and the A class's address forms (spec/04 R94, R95, R98): each reads its sources
under R64, and its result is written at the latency of R66. -/

namespace Sys2Proof.Machine

open Sys2Proof.Operands

/-- A form of two registers: sd receives `f x y` after `lat` hc. -/
def scalarRR (i : Instr) (o : SR) (lat : Nat) (f : Word → Word → Word) (s : State) :
    Host.Outcome State Fault Refusal :=
  gate i s fun s => .issue (writeLaterS s o.sd (f (srcS s o.sa) (srcS s o.sb)) lat)

/-- A form of two registers that may keep sd. R94 leaves sd unchanged and R64 says that it is written: here a word that
keeps sd writes nothing, for the order of writes and the bits of R69 too (log 102: DEDUCED). -/
def scalarKeep (i : Instr) (o : SR) (keep : Word → Bool) (s : State) : Host.Outcome State Fault Refusal :=
  gate i s fun s =>
    .issue (if keep (srcS s o.sb) then s else writeLaterS s o.sd (srcS s o.sa) 1)

/-- A form of one register. -/
def scalarR (i : Instr) (o : SR1) (f : Word → Word) (s : State) : Host.Outcome State Fault Refusal :=
  gate i s fun s => .issue (writeLaterS s o.sd (f (srcS s o.sa)) 1)

/-- A form with a lent immediate read as `ext` says. -/
def scalarRI (i : Instr) (o : SI) (lat : Nat) (ext : BitVec 13 → Lend → Word) (f : Word → Word → Word)
    (s : State) : Host.Outcome State Fault Refusal :=
  gate i s fun s => .issue (writeLaterS s o.sd (f (srcS s o.sa) (ext o.imm o.lend)) lat)

/-- A shift by an immediate count. -/
def scalarSh (i : Instr) (o : SH) (f : Word → Nat → Word) (s : State) : Host.Outcome State Fault Refusal :=
  gate i s fun s => .issue (writeLaterS s o.sd (f (srcS s o.sa) o.cnt.toNat) 1)

/-- The count of a shift form: y[5:0] (R94). -/
def shCount (y : Word) : Nat := y.toNat % 64

/-- x << n, x >> n with zeros, x >> n with copies of x[63] (R94). -/
def shlWord (x : Word) (n : Nat) : Word := x <<< n
def shrWord (x : Word) (n : Nat) : Word := x >>> n
def sarWord (x : Word) (n : Nat) : Word := x.sshiftRight n

/-- The high half of the signed product (R94). -/
def mulHighS (x y : Word) : Word := BitVec.ofInt 64 (x.toInt * y.toInt / 2 ^ 64)
/-- The high half of the unsigned product (R94). -/
def mulHighU (x y : Word) : Word := BitVec.ofNat 64 (x.toNat * y.toNat / 2 ^ 64)

/-- The number of leading zero bits among the low `n` (R94). -/
def clzFrom (x : Word) : Nat → Nat
  | 0 => 0
  | n + 1 => if x.getLsbD n then 0 else 1 + clzFrom x n
/-- The number of trailing zero bits, of `n` still to look at. -/
def ctzFrom (x : Word) : Nat → Nat → Nat
  | _, 0 => 0
  | i, n + 1 => if x.getLsbD i then 0 else 1 + ctzFrom x (i + 1) n
/-- The number of one bits among the low `n`. -/
def popcFrom (x : Word) : Nat → Nat
  | 0 => 0
  | n + 1 => (if x.getLsbD n then 1 else 0) + popcFrom x n
/-- Byte k of the result is byte 7 − k of x (R94). -/
def bswapWord (x : Word) : Word := BitVec.ofNat 64 (leNat (leBytes 8 x.toNat).reverse)

/-- The mask of `width` low bits. -/
def lowMask (width : Nat) : Word := BitVec.ofNat 64 (2 ^ width - 1)
/-- x[lsb + width − 1 : lsb], zero-extended (R95). -/
def bitField (x : Word) (lsb width : Nat) : Word := (x >>> lsb) &&& lowMask width
/-- The same field sign-extended from bit width − 1 (R95). -/
def bitFieldS (x : Word) (lsb width : Nat) : Word :=
  BitVec.ofInt 64 (signedOf width (bitField x lsb width).toNat)
/-- `old` with the field replaced by the low bits of x (R95). -/
def insertField (old x : Word) (lsb width : Nat) : Word :=
  (old &&& ~~~(lowMask width <<< lsb)) ||| ((x &&& lowMask width) <<< lsb)

/-- add: sd ← x + y (R94). -/
def execAdd (o : SR) (s : State) : Host.Outcome State Fault Refusal :=
  scalarRR (.add o) o 1 (fun x y => x + y) s

/-- sub: sd ← x − y (R94). -/
def execSub (o : SR) (s : State) : Host.Outcome State Fault Refusal :=
  scalarRR (.sub o) o 1 (fun x y => x - y) s

/-- and: sd ← x and y (R94). -/
def execAnd (o : SR) (s : State) : Host.Outcome State Fault Refusal :=
  scalarRR (.and o) o 1 (fun x y => x &&& y) s

/-- or: sd ← x or y (R94). -/
def execOr (o : SR) (s : State) : Host.Outcome State Fault Refusal :=
  scalarRR (.or o) o 1 (fun x y => x ||| y) s

/-- xor: sd ← x xor y (R94). -/
def execXor (o : SR) (s : State) : Host.Outcome State Fault Refusal :=
  scalarRR (.xor o) o 1 (fun x y => x ^^^ y) s

/-- shl: sd ← x << y[5:0] (R94). -/
def execShl (o : SR) (s : State) : Host.Outcome State Fault Refusal :=
  scalarRR (.shl o) o 1 (fun x y => shlWord x (shCount y)) s

/-- shr: sd ← x >> y[5:0], logical (R94). -/
def execShr (o : SR) (s : State) : Host.Outcome State Fault Refusal :=
  scalarRR (.shr o) o 1 (fun x y => shrWord x (shCount y)) s

/-- sar: sd ← x >> y[5:0], arithmetic (R94). -/
def execSar (o : SR) (s : State) : Host.Outcome State Fault Refusal :=
  scalarRR (.sar o) o 1 (fun x y => sarWord x (shCount y)) s

/-- mul: sd ← (x × y)[63:0] (R94). -/
def execMul (o : SR) (s : State) : Host.Outcome State Fault Refusal :=
  scalarRR (.mul o) o 3 (fun x y => x * y) s

/-- mulhs: sd ← (x × y)[127:64], signed (R94). -/
def execMulhs (o : SR) (s : State) : Host.Outcome State Fault Refusal :=
  scalarRR (.mulhs o) o 3 (mulHighS) s

/-- mulhu: sd ← (x × y)[127:64], unsigned (R94). -/
def execMulhu (o : SR) (s : State) : Host.Outcome State Fault Refusal :=
  scalarRR (.mulhu o) o 3 (mulHighU) s

/-- min: signed minimum (R94). -/
def execMin (o : SR) (s : State) : Host.Outcome State Fault Refusal :=
  scalarRR (.min o) o 1 (fun x y => if slt x y then x else y) s

/-- max: signed maximum (R94). -/
def execMax (o : SR) (s : State) : Host.Outcome State Fault Refusal :=
  scalarRR (.max o) o 1 (fun x y => if slt x y then y else x) s

/-- minu: unsigned minimum (R94). -/
def execMinu (o : SR) (s : State) : Host.Outcome State Fault Refusal :=
  scalarRR (.minu o) o 1 (fun x y => if ult x y then x else y) s

/-- maxu: unsigned maximum (R94). -/
def execMaxu (o : SR) (s : State) : Host.Outcome State Fault Refusal :=
  scalarRR (.maxu o) o 1 (fun x y => if ult x y then y else x) s

/-- ceq: sd ← x = y (R94). -/
def execCeq (o : SR) (s : State) : Host.Outcome State Fault Refusal :=
  scalarRR (.ceq o) o 1 (fun x y => condWord (x == y)) s

/-- cne: sd ← x ≠ y (R94). -/
def execCne (o : SR) (s : State) : Host.Outcome State Fault Refusal :=
  scalarRR (.cne o) o 1 (fun x y => condWord (x != y)) s

/-- clt: sd ← x < y, signed (R94). -/
def execClt (o : SR) (s : State) : Host.Outcome State Fault Refusal :=
  scalarRR (.clt o) o 1 (fun x y => condWord (slt x y)) s

/-- cle: sd ← x ≤ y, signed (R94). -/
def execCle (o : SR) (s : State) : Host.Outcome State Fault Refusal :=
  scalarRR (.cle o) o 1 (fun x y => condWord (sle x y)) s

/-- cltu: sd ← x < y, unsigned (R94). -/
def execCltu (o : SR) (s : State) : Host.Outcome State Fault Refusal :=
  scalarRR (.cltu o) o 1 (fun x y => condWord (ult x y)) s

/-- cleu: sd ← x ≤ y, unsigned (R94). -/
def execCleu (o : SR) (s : State) : Host.Outcome State Fault Refusal :=
  scalarRR (.cleu o) o 1 (fun x y => condWord (ule x y)) s

/-- movnz: sd ← x where y ≠ 0, else sd is kept (R94). -/
def execMovnz (o : SR) (s : State) : Host.Outcome State Fault Refusal :=
  scalarKeep (.movnz o) o (fun y => y == 0) s

/-- movz: sd ← x where y = 0, else sd is kept (R94). -/
def execMovz (o : SR) (s : State) : Host.Outcome State Fault Refusal :=
  scalarKeep (.movz o) o (fun y => y != 0) s

/-- clz: leading zero bits; 64 if x = 0 (R94). -/
def execClz (o : SR1) (s : State) : Host.Outcome State Fault Refusal :=
  scalarR (.clz o) o (fun x => BitVec.ofNat 64 (clzFrom x 64)) s

/-- ctz: trailing zero bits; 64 if x = 0 (R94). -/
def execCtz (o : SR1) (s : State) : Host.Outcome State Fault Refusal :=
  scalarR (.ctz o) o (fun x => BitVec.ofNat 64 (ctzFrom x 0 64)) s

/-- popc: one bits (R94). -/
def execPopc (o : SR1) (s : State) : Host.Outcome State Fault Refusal :=
  scalarR (.popc o) o (fun x => BitVec.ofNat 64 (popcFrom x 64)) s

/-- bswap: the bytes in reverse order (R94). -/
def execBswap (o : SR1) (s : State) : Host.Outcome State Fault Refusal :=
  scalarR (.bswap o) o (bswapWord) s

/-- addi: x + sext(i) (R94). -/
def execAddi (o : SI) (s : State) : Host.Outcome State Fault Refusal :=
  scalarRI (.addi o) o 1 sextImm (fun x i => x + i) s

/-- andi: x and zext(i) (R94). -/
def execAndi (o : SI) (s : State) : Host.Outcome State Fault Refusal :=
  scalarRI (.andi o) o 1 zextImm (fun x i => x &&& i) s

/-- ori: x or zext(i) (R94). -/
def execOri (o : SI) (s : State) : Host.Outcome State Fault Refusal :=
  scalarRI (.ori o) o 1 zextImm (fun x i => x ||| i) s

/-- xori: x xor zext(i) (R94). -/
def execXori (o : SI) (s : State) : Host.Outcome State Fault Refusal :=
  scalarRI (.xori o) o 1 zextImm (fun x i => x ^^^ i) s

/-- muli: (x × sext(i))[63:0] (R94). -/
def execMuli (o : SI) (s : State) : Host.Outcome State Fault Refusal :=
  scalarRI (.muli o) o 3 sextImm (fun x i => x * i) s

/-- ceqi: x = sext(i) (R94). -/
def execCeqi (o : SI) (s : State) : Host.Outcome State Fault Refusal :=
  scalarRI (.ceqi o) o 1 sextImm (fun x i => condWord (x == i)) s

/-- cnei: x ≠ sext(i) (R94). -/
def execCnei (o : SI) (s : State) : Host.Outcome State Fault Refusal :=
  scalarRI (.cnei o) o 1 sextImm (fun x i => condWord (x != i)) s

/-- clti: x < sext(i), signed (R94). -/
def execClti (o : SI) (s : State) : Host.Outcome State Fault Refusal :=
  scalarRI (.clti o) o 1 sextImm (fun x i => condWord (slt x i)) s

/-- clei: x ≤ sext(i), signed (R94). -/
def execClei (o : SI) (s : State) : Host.Outcome State Fault Refusal :=
  scalarRI (.clei o) o 1 sextImm (fun x i => condWord (sle x i)) s

/-- cltui: x < zext(i), unsigned (R94). -/
def execCltui (o : SI) (s : State) : Host.Outcome State Fault Refusal :=
  scalarRI (.cltui o) o 1 zextImm (fun x i => condWord (ult x i)) s

/-- cleui: x ≤ zext(i), unsigned (R94). -/
def execCleui (o : SI) (s : State) : Host.Outcome State Fault Refusal :=
  scalarRI (.cleui o) o 1 zextImm (fun x i => condWord (ule x i)) s

/-- sli: (x << w) or zext(i), w the width of the lent immediate (R94). -/
def execSli (o : SI) (s : State) : Host.Outcome State Fault Refusal :=
  scalarRI (.sli o) o 1 zextImm (fun x i => (x <<< immWidth 13 o.lend) ||| i) s

/-- shli: x << i (R94). -/
def execShli (o : SH) (s : State) : Host.Outcome State Fault Refusal :=
  scalarSh (.shli o) o shlWord s

/-- shri: x >> i, logical (R94). -/
def execShri (o : SH) (s : State) : Host.Outcome State Fault Refusal :=
  scalarSh (.shri o) o shrWord s

/-- sari: x >> i, arithmetic (R94). -/
def execSari (o : SH) (s : State) : Host.Outcome State Fault Refusal :=
  scalarSh (.sari o) o sarWord s

/-- bfx: a zero-extended bit field of x (R95). -/
def execBfx (o : SB) (s : State) : Host.Outcome State Fault Refusal :=
  gate (.bfx o) s fun s =>
    .issue (writeLaterS s o.sd (bitField (srcS s o.sa) o.lsb.toNat (o.wm1.toNat + 1)) 1)

/-- bfxs: a sign-extended bit field of x (R95). -/
def execBfxs (o : SB) (s : State) : Host.Outcome State Fault Refusal :=
  gate (.bfxs o) s fun s =>
    .issue (writeLaterS s o.sd (bitFieldS (srcS s o.sa) o.lsb.toNat (o.wm1.toNat + 1)) 1)

/-- bfi: the low bits of x into a field of sd (R95). -/
def execBfi (o : SB) (s : State) : Host.Outcome State Fault Refusal :=
  gate (.bfi o) s fun s =>
    .issue (writeLaterS s o.sd (insertField (srcS s o.sd) (srcS s o.sa) o.lsb.toNat (o.wm1.toNat + 1)) 1)

/-- adda: sd ← x + (y << sh) (R98). -/
def execAdda (o : AA) (s : State) : Host.Outcome State Fault Refusal :=
  gate (.adda o) s fun s => .issue (writeLaterS s o.sd (srcS s o.sa + (srcS s o.sb <<< o.sh.toNat)) 1)

/-- addai: sd ← x + sext(i) (R98). -/
def execAddai (o : SI) (s : State) : Host.Outcome State Fault Refusal :=
  scalarRI (.addai o) o 1 sextImm (fun x i => x + i) s

end Sys2Proof.Machine
end

