-- ==== Sys2Proof/Machine/Branch.lean ====
section
/-! DEFINITION. The control transfers (spec/04 R96, R97, R99, R100, R102) and the steps of the loop engine
(R101, R105, R106). -/

namespace Sys2Proof.Machine

open Sys2Proof.Operands

/-- The sequenced bundle of the word being executed. -/
def curBundle (s : State) : Option SeqBundle := bundleAt (curTask s) s.cur.n

/-- The loop levels of the iteration in which the executed word's bundle is sequenced (R104). -/
def curLoops (s : State) : Table Loop :=
  match curBundle s with
  | some b => b.loops
  | none => (curTask s).loops

/-- The target of a relative transfer: its bundle's address plus sext(off) × 16 (R96). -/
def relTarget (s : State) (off : BitVec 19) (l : Lend) : Word :=
  s.cur.addr + (sextImm off l <<< 4)

/-- Whether a transfer stands where R99 forbids one: in a delay bundle, in the last bundle of an active body,
or, for a transfer with a delay bundle, just before it. -/
def transferMisplaced (s : State) (delayed : Bool) : Bool :=
  match curBundle s with
  | some b => b.delay || b.lastOfBody || (delayed && b.beforeLast)
  | none => false

/-- Whether a target lies outside the body of the innermost active loop (R99). -/
def outsideBody (s : State) (target : Word) : Bool :=
  match innermost (curLoops s) with
  | some l =>
    let x := loopIn (curLoops s) l
    !(x.bodyAddr.toNat ≤ target.toNat && target.toNat < x.endAddr.toNat)
  | none => false

/-- Whether a loop level is active where the word stands. -/
def insideLoop (s : State) : Bool := (innermost (curLoops s)).isSome

/-- Whether the bundle of the executed word also holds a live eret, not the word itself. -/
def beforeEret (s : State) : Bool :=
  s.cur.pos == .A && (match curBundle s with | some b => b.instr .C == some .eret && b.live .C | none => false)

/-- A transfer issues; flow goes to `target`, if it is taken, after the delay bundle. A transfer that is not taken leaves the
flow to the eret of its bundle; beside one that is taken, the eret gives no target (log 112: DESIGN CHOICE). -/
def takeTransfer (s : State) (target : Option Word) (lexit : Option Nat) : State :=
  if target.isNone && beforeEret s then s else updCur s fun t => resolveTransfer t s.cur.n target lexit

/-- A conditional or unconditional relative branch (R96, R99). -/
def branchBody (taken : Bool) (target : Word) (s : State) : Verdict :=
  if transferMisplaced s true || (taken && outsideBody s target) then .fault 0x01
  else .issue (takeTransfer s (if taken then some target else none) none)

/-- The link: the address of the bundle that flow reaches after the delay bundle, once that is sequenced
(R97). -/
def linkOf (s : State) : Option Word :=
  match (curTask s).flow.hold with
  | .transfer n true => if n = s.cur.n then some (curTask s).flow.next else none
  | _ => none

/-- call and callr (R97, R99): the word waits until its delay bundle is sequenced, which fixes the link. -/
def callBody (sd : BitVec 6) (target : Word) (s : State) : Verdict :=
  if transferMisplaced s true || insideLoop s then .fault 0x01
  else match linkOf s with
    | some link => .issue (writeLaterS (takeTransfer s (some target) none) sd link 1)
    | none => .stall s

/-- br: always taken (R96). -/
def execBr (o : ABr) (s : State) : Host.Outcome State Fault Refusal :=
  gate (.br o) s fun s => branchBody true (relTarget s o.off o.lend) s

/-- brz: taken when x = 0 (R96). -/
def execBrz (o : ABc) (s : State) : Host.Outcome State Fault Refusal :=
  gate (.brz o) s fun s => branchBody (srcS s o.sa == 0) (relTarget s o.off o.lend) s

/-- brnz: taken when x ≠ 0 (R96). -/
def execBrnz (o : ABc) (s : State) : Host.Outcome State Fault Refusal :=
  gate (.brnz o) s fun s => branchBody (srcS s o.sa != 0) (relTarget s o.off o.lend) s

/-- brn: taken when x[63] = 1 (R96). -/
def execBrn (o : ABc) (s : State) : Host.Outcome State Fault Refusal :=
  gate (.brn o) s fun s => branchBody (srcS s o.sa).msb (relTarget s o.off o.lend) s

/-- brnn: taken when x[63] = 0 (R96). -/
def execBrnn (o : ABc) (s : State) : Host.Outcome State Fault Refusal :=
  gate (.brnn o) s fun s => branchBody (!(srcS s o.sa).msb) (relTarget s o.off o.lend) s

/-- call: the link to sd, a relative target (R97). -/
def execCall (o : ABl) (s : State) : Host.Outcome State Fault Refusal :=
  gate (.call o) s fun s => callBody o.sd (relTarget s o.off o.lend) s

/-- callr: the link to sd, the target in sa; x[3:0] ≠ 0 is forbidden (R97). -/
def execCallr (o : SR1) (s : State) : Host.Outcome State Fault Refusal :=
  gate (.callr o) s fun s =>
    if (srcS s o.sa).toNat % 16 ≠ 0 then .fault 0x01 else callBody o.sd (srcS s o.sa) s

/-- jr: the target in sa; x[3:0] ≠ 0 is forbidden (R97). -/
def execJr (o : S1) (s : State) : Host.Outcome State Fault Refusal :=
  gate (.jr o) s fun s =>
    if (srcS s o.sa).toNat % 16 ≠ 0 then .fault 0x01 else branchBody true (srcS s o.sa) s

/-! ### Loop set-up (R100, R102, R103) -/

/-- The half that holds the segment of the executed word's bundle. -/
def curHalf (s : State) : Option Half :=
  match curBundle s with
  | some b => ((coreHalves s s.cur.core).find? fun x => x.2.v && x.2.seg == b.seg).map (·.2)
  | none => none

/-- The largest stage among the words of the entries that lie outside the bodies of loop words within (R100);
`skip` counts the bundles of such a body still to come. -/
def maxStage : List Entry → Nat → Nat
  | [], _ => 0
  | e :: r, skip =>
    let here := if skip = 0 then
        e.slots.foldl (fun m x => max m ((e.stages.drop x.1.idx).headD 0)) 0
      else 0
    let inner := match (slotAt e.slots .A).bind instrOf with
      | some (.loop o) => o.lm1.toNat + 1
      | some (.loopi o) => o.lm1.toNat + 1
      | _ => 0
    max here (maxStage r (max (skip - 1) (if skip = 0 then inner else 0)))

/-- The levels that carry mark C in a task's loop table (R234). -/
def cLevels (t : Task) : List Nat := (List.range 6).filter fun l => (t.marks.drop l).headD .T == .C

/-- The share of a C level: org and str (R234). -/
def groupShare (s : State) (t : Task) (lvl : Nat) : Nat × Nat :=
  match t.gid.bind (groupOf s) with
  | some g =>
    match cLevels t with
    | [_] => (t.rank, g.w * g.h)
    | a :: _ => if lvl = a then (t.rank / g.w, g.h) else (t.rank % g.w, g.w)
    | [] => (0, 1)
  | none => (0, 1)

/-- Whether a loop word may not set up a level where it stands (R80, R99, R102). -/
def loopForbidden (s : State) (b : SeqBundle) (half : Half) (lvl len : Nat) : Bool :=
  let first := b.idx + 1
  let last := b.idx + len
  transferMisplaced s false ||
  (List.range 6).any (fun l => (loopIn b.loops l).act && lvl ≤ l) ||
  half.all.length ≤ last ||
  (match innermost b.loops with
   | some l =>
     let x := loopIn b.loops l
     x.seg != b.seg || !(x.first ≤ first && last ≤ x.first + x.lenm1) || 0 < x.dm1
   | none => false)

/-- loop and loopi with count N (R100, R102, R103); org and str are set where the count is 0 too (R234). -/
def loopBody (lvl : Nat) (lm1 : BitVec 8) (count : Nat) (s : State) : Verdict :=
  match curBundle s, curHalf s with
  | some b, some half =>
    let len := lm1.toNat + 1
    if loopForbidden s b half lvl len then .fault 0x01
    else
      let body := (half.all.drop (b.idx + 1)).take len
      let t := curTask s
      let mark := (t.marks.drop lvl).headD .T
      let share := if mark = .C then groupShare s t lvl else (0, 1)
      let n := if mark = .C then (if share.1 < count then ceilDiv (count - share.1) share.2 else 0) else count
      let lastE := body.getLast?
      let endA : Word := match lastE with
        | some e => e.addr + BitVec.ofNat 64 e.bytes
        | none => 0
      let skip := match lastE.bind (seqSucc s s.cur.core half (b.idx + len)) with
        | some a => (a, false, holdAfter b.loops b.seg (b.idx + len))
        | none => (endA, true, holdAfter b.loops b.seg (b.idx + len))
      if n = 0 then
        let x := { loopIn t.loops lvl with org := BitVec.ofNat 64 share.1, str := BitVec.ofNat 64 share.2 }
        .issue (updCur s fun t => resolveLoop t s.cur.n (tset t.loops lvl x) (some skip))
      else
        let x : Loop :=
          { act := true, cnt := BitVec.ofNat 64 n, idx := 0, beg := 0, lim := BitVec.allOnes 64,
            dm1 := maxStage body 0, lenm1 := lm1.toNat, mark := mark, drn := false,
            org := BitVec.ofNat 64 share.1, str := BitVec.ofNat 64 share.2, first := b.idx + 1, seg := b.seg,
            bodyAddr := match body.head? with | some e => e.addr | none => 0, endAddr := endA,
            afterAddr := skip.1 }
        .issue (updCur s fun t => resolveLoop t s.cur.n (tset t.loops lvl x) none)
  | _, _ => .stall s

/-- loop: N is the value of sa, unsigned (R100). -/
def execLoop (o : AL) (s : State) : Host.Outcome State Fault Refusal :=
  gate (.loop o) s fun s => loopBody o.lvl.toNat o.lm1 (srcS s o.sa).toNat s

/-- loopi: N is the lent immediate, unsigned (R100). -/
def execLoopi (o : ALI) (s : State) : Host.Outcome State Fault Refusal :=
  gate (.loopi o) s fun s => loopBody o.lvl.toNat o.lm1 (immNat o.cnt o.lend) s

/-- lexit: leaves level lvl and the deeper ones for the bundle after its body, after one delay bundle; an
inactive level is an illegal instruction (R102). -/
def execLexit (o : AX) (s : State) : Host.Outcome State Fault Refusal :=
  gate (.lexit o) s fun s =>
    let x := loopIn (curLoops s) o.lvl.toNat
    if transferMisplaced s true || !x.act then .fault 0x01
    else .issue (takeTransfer s (some x.afterAddr) (some o.lvl.toNat))

/-! ### The loop engine (R101, R105, R106) -/

/-- The end of an iteration of the innermost level, and of every outer level whose body ends there too: the
next iteration, the drain of a pre-emption, or the flow after the body. -/
def endIteration (preq : Bool) : Nat → Task → Task
  | 0, t => { t with flow := { t.flow with hold := .run } }
  | fuel + 1, t =>
    match innermost t.loops with
    | none => { t with flow := { t.flow with hold := .run } }
    | some l =>
      let x := loopIn t.loops l
      let j := x.idx + 1
      let x := if preq && !x.drn then { x with lim := j, drn := true } else x
      let m := min x.cnt.toNat x.lim.toNat
      if j.toNat < m + x.dm1 then
        { t with loops := tset t.loops l { x with idx := j },
                 flow := { t.flow with hold := .run, next := x.bodyAddr, ranOff := false } }
      else if x.lim.toNat < x.cnt.toNat then
        { t with loops := tset t.loops l { x with idx := j }, flow := { t.flow with hold := .drain } }
      else
        let loops := tset t.loops l { x with act := false, drn := false }
        let t := { t with loops := loops }
        match innermost loops with
        | some l' =>
          let y := loopIn loops l'
          if y.seg = x.seg && y.first + y.lenm1 == x.first + x.lenm1 then endIteration preq fuel t
          else { t with flow := { t.flow with hold := .run } }
        | none => { t with flow := { t.flow with hold := .run } }

/-- A transfer of the last bundle of the iteration, not yet passed, goes on to hold the queues behind its delay bundle, the
next in flow (R72, R80). -/
def keepTransfer (hold : FlowHold) (t : Task) : Task :=
  match hold, t.flow.hold with
  | .transferEnd n, .run => { t with flow := { t.flow with hold := .transfer n false } }
  | _, _ => t

/-- LOOP_ITERATION_END: at the end of the last body bundle the loop engine advances the iteration, begins a
pre-emption's drain, or ends the level (R101, R106). -/
def execLoopIterationEnd (t k : Nat) (s : State) : Host.Outcome State Fault Refusal :=
  let c := nameCore t k
  let hold := (coreTask s c).flow.hold
  let atEnd : Bool := match hold with
    | .iterEnd | .transferEnd _ => true
    | _ => false
  whenever atEnd s fun s =>
    let s := updCore s c fun x => keepTransfer hold (endIteration x.preq 6 x)
    if (coreTask s c).flow.hold == .drain then scheduleOnce s (s.hc + 1) (.preemptDrainHold t k) else s

/-- A task becomes held at a pre-emption point (R88, R105). -/
def holdTask (s : State) (t k : Nat) : State := leaveIssue (updTask s t k fun x => { x with st := .held }) t

/-- At the end of the drain the level's next run begins where it stopped (R106). -/
def rearmLevel (t : Task) : Task :=
  match innermost t.loops with
  | some l =>
    let x := loopIn t.loops l
    { t with loops := tset t.loops l { x with beg := x.lim, idx := x.lim, lim := BitVec.allOnes 64, drn := false },
             flow := { t.flow with hold := .run, next := x.bodyAddr, ranOff := false } }
  | none => t

/-- Whether every queue has issued every entry and every fixed-latency result is written (R106). -/
def drained (t : Task) : Bool := (passAll t).stream.isEmpty && t.pend.isEmpty

/-- Whether the task stands at a sync bundle outside every hardware loop with a request set (R105). -/
def atSyncPoint (t : Task) : Bool :=
  t.preq && t.st == .issuing &&
  (match bundleAt t (minPos t) with
   | some b => (innermost b.loops).isNone && b.isSync && allAt t b.n && t.syncOpen != some b.n
   | none => false)

/-- PREEMPT_DRAIN_HOLD: the task becomes held once its drain has ended (R106), or before a sync bundle
outside every loop issues (R105). A drain not yet over is looked at again in the next hc. -/
def execPreemptDrainHold (t k : Nat) (s : State) : Host.Outcome State Fault Refusal :=
  let x := taskOf s t k
  if x.flow.hold = .drain && x.st == .issuing then
    if drained x then
      let s := updTask s t k rearmLevel
      .next (if x.preq then holdTask s t k else s)
    else .next (scheduleOnce s (s.hc + 1) (.preemptDrainHold t k))
  else whenever (atSyncPoint x) s fun s => holdTask s t k

end Sys2Proof.Machine
end

