-- ==== Sys2Proof/Machine/Float.lean ====
section
/-! DEFINITION. The number formats, their conversions and exact arithmetic with one rounding (spec/02 R27 to
R46; spec/05 R117, R119, R121, R124): a finite value is an exact dyadic number, and one function rounds. -/

namespace Sys2Proof.Machine

/-- The value of a floating-point code: a NaN keeps its sign and trailing significand; a finite value is
(−1)^neg × m × 2^e. -/
inductive Num where
  | nan (neg : Bool) (f : Nat)
  | inf (neg : Bool)
  | fin (neg : Bool) (m : Nat) (e : Int)
  deriving DecidableEq, Repr

/-- What the greatest exponent field means (R30). -/
inductive Special where
  | ieee
  | e4m3
  | none
  deriving DecidableEq, Repr

/-- A floating-point format (R30). -/
structure FFmt where
  ew : Nat
  fw : Nat
  bias : Int
  sp : Special
  deriving DecidableEq, Repr

def f32F : FFmt := ⟨8, 23, 127, .ieee⟩
def f16F : FFmt := ⟨5, 10, 15, .ieee⟩
def bf16F : FFmt := ⟨8, 7, 127, .ieee⟩
def e5m2F : FFmt := ⟨5, 2, 15, .ieee⟩
def e4m3F : FFmt := ⟨4, 3, 7, .e4m3⟩
def e2m1F : FFmt := ⟨2, 1, 1, .none⟩

/-- The width of a format. -/
def FFmt.width (F : FFmt) : Nat := 1 + F.ew + F.fw

/-- The sign bit's weight. -/
def FFmt.signBit (F : FFmt) : Nat := 2 ^ (F.ew + F.fw)

/-- The magnitude code of the largest finite value (R30). -/
def FFmt.maxFinite (F : FFmt) : Nat :=
  match F.sp with
  | .ieee => (2 ^ F.ew - 1) * 2 ^ F.fw - 1
  | .e4m3 => 2 ^ (F.ew + F.fw) - 2
  | .none => 2 ^ (F.ew + F.fw) - 1

/-- The value a code stands for (R30). -/
def decodeF (F : FFmt) (x : Nat) : Num :=
  let neg := x / F.signBit % 2 == 1
  let mag := x % F.signBit
  let e := mag / 2 ^ F.fw
  let f := mag % 2 ^ F.fw
  let finite := if e = 0 then Num.fin neg f (1 - F.bias - F.fw)
    else Num.fin neg (2 ^ F.fw + f) (e - F.bias - F.fw)
  match F.sp with
  | .ieee => if e = 2 ^ F.ew - 1 then (if f = 0 then .inf neg else .nan neg f) else finite
  | .e4m3 => if mag = 2 ^ (F.ew + F.fw) - 1 then .nan neg f else finite
  | .none => finite

/-- The sign bit of a code. -/
def FFmt.sign (F : FFmt) (neg : Bool) : Nat := if neg then F.signBit else 0

/-- The magnitude code of m × 2^e rounded to nearest, ties to even, as if the exponent range had no upper
end (R38); a sticky bit says that the exact value lies strictly above m × 2^e and below (m + 1) × 2^e. -/
def roundMag (F : FFmt) (m : Nat) (e : Int) (sticky : Bool) : Nat :=
  let m' := if sticky then 2 * m + 1 else m
  let e' := if sticky then e - 1 else e
  if m' = 0 then 0
  else
    let emin : Int := 1 - F.bias
    let top : Int := (Nat.log2 m' : Int) + e'
    let q : Int := max top emin - F.fw
    let n : Nat :=
      if q ≤ e' then m' * 2 ^ (e' - q).toNat
      else
        let sh := (q - e').toNat
        let w := m' / 2 ^ sh
        let r := m' % 2 ^ sh
        let half := 2 ^ (sh - 1)
        if r < half then w else if half < r then w + 1 else w + w % 2
    n + (q - emin + F.fw).toNat * 2 ^ F.fw

/-- The code of an overflowed finite value (R38). -/
def overflowMag (F : FFmt) (sat : Bool) : Nat :=
  match F.sp with
  | .ieee => if sat then F.maxFinite else F.maxFinite + 1
  | .e4m3 => if sat then F.maxFinite else F.maxFinite + 1
  | .none => F.maxFinite

/-- One rounding of an exact value to a format (R38, R43). -/
def roundF (F : FFmt) (sat neg : Bool) (m : Nat) (e : Int) (sticky : Bool) : Nat :=
  let r := roundMag F m e sticky
  F.sign neg + (if F.maxFinite < r then overflowMag F sat else r)

/-- The code of an infinity in an IEEE format. -/
def infCode (F : FFmt) (neg : Bool) : Nat := F.sign neg + (2 ^ F.ew - 1) * 2 ^ F.fw

/-- The default NaN of an IEEE format (R43): 0x7FC0_0000, 0x7E00, 0x7FC0. -/
def defaultNan (F : FFmt) : Nat := (2 ^ F.ew - 1) * 2 ^ F.fw + 2 ^ (F.fw - 1)

/-- Rounds a value to an IEEE format; a NaN becomes the default NaN. -/
def packNum (F : FFmt) (sat : Bool) : Num → Nat
  | .nan _ _ => defaultNan F
  | .inf neg => infCode F neg
  | .fin neg m e => roundF F sat neg m e false

/-! ### Exact arithmetic -/

/-- Whether a value is a NaN. -/
def Num.isNan : Num → Bool
  | .nan _ _ => true
  | _ => false

/-- The signed integer m with its sign. -/
def signedM (neg : Bool) (m : Nat) : Int := if neg then -(m : Int) else m

/-- The exact sum of two values that are no NaN; +∞ and −∞ have none. An exact zero is +0 but for
(−0) + (−0) (R41). -/
def addNum : Num → Num → Num
  | .nan n f, _ => .nan n f
  | _, .nan n f => .nan n f
  | .inf a, .inf b => if a = b then .inf a else .nan false 0
  | .inf a, .fin _ _ _ => .inf a
  | .fin _ _ _, .inf b => .inf b
  | .fin a ma ea, .fin b mb eb =>
    if ma = 0 ∧ mb = 0 then .fin (a && b) 0 0
    else if ma = 0 then .fin b mb eb
    else if mb = 0 then .fin a ma ea
    else
      let e := min ea eb
      let v := signedM a (ma * 2 ^ (ea - e).toNat) + signedM b (mb * 2 ^ (eb - e).toNat)
      .fin (decide (v < 0)) v.natAbs e

/-- The exact product of two values that are no NaN; ∞ × 0 has none. -/
def mulNum : Num → Num → Num
  | .nan n f, _ => .nan n f
  | _, .nan n f => .nan n f
  | .inf a, .inf b => .inf (a != b)
  | .inf a, .fin b m _ => if m = 0 then .nan false 0 else .inf (a != b)
  | .fin a m _, .inf b => if m = 0 then .nan false 0 else .inf (a != b)
  | .fin a ma ea, .fin b mb eb => .fin (a != b) (ma * mb) (ea + eb)

/-- The value with the opposite sign. -/
def negNum : Num → Num
  | .nan n f => .nan n f
  | .inf n => .inf (!n)
  | .fin n m e => .fin (!n) m e

/-- The magnitude. -/
def absNum : Num → Num
  | .nan _ f => .nan false f
  | .inf _ => .inf false
  | .fin _ m e => .fin false m e

/-- The value as a sign and an integer over a common exponent, for comparisons of finite values. -/
def leNum : Num → Num → Bool
  | .nan _ _, _ => false
  | _, .nan _ _ => false
  | .inf true, _ => true
  | .inf false, .inf false => true
  | .inf false, _ => false
  | .fin _ _ _, .inf b => !b
  | .fin a ma ea, .fin b mb eb =>
    let e := min ea eb
    decide (signedM a (ma * 2 ^ (ea - e).toNat) ≤ signedM b (mb * 2 ^ (eb - e).toNat))

/-- Strictly less. -/
def ltNum (x y : Num) : Bool := leNum x y && !leNum y x

/-- Equal values; ±0 are equal. -/
def eqNum (x y : Num) : Bool := leNum x y && leNum y x

/-! ### Vector arithmetic on codes (R43, R117) -/

/-- A NaN code with its quiet bit set (R43). -/
def quiet (F : FFmt) (x : Nat) : Nat :=
  if x / 2 ^ (F.fw - 1) % 2 = 1 then x else x + 2 ^ (F.fw - 1)

/-- The first NaN among codes in order, quieted. -/
def firstNan (F : FFmt) : List Nat → Option Nat
  | [] => none
  | x :: r => if (decodeF F x).isNan then some (quiet F x) else firstNan F r

/-- x + y in a lane format. -/
def fAdd (F : FFmt) (sat : Bool) (x y : Nat) : Nat :=
  match firstNan F [x, y] with
  | some n => n
  | none => packNum F sat (addNum (decodeF F x) (decodeF F y))

/-- x − y in a lane format. -/
def fSub (F : FFmt) (sat : Bool) (x y : Nat) : Nat :=
  match firstNan F [x, y] with
  | some n => n
  | none => packNum F sat (addNum (decodeF F x) (negNum (decodeF F y)))

/-- x × y in a lane format. -/
def fMul (F : FFmt) (sat : Bool) (x y : Nat) : Nat :=
  match firstNan F [x, y] with
  | some n => n
  | none => packNum F sat (mulNum (decodeF F x) (decodeF F y))

/-- x × y + z with one rounding. -/
def fFma (F : FFmt) (sat : Bool) (x y z : Nat) : Nat :=
  match firstNan F [x, y, z] with
  | some n => n
  | none => packNum F sat (addNum (mulNum (decodeF F x) (decodeF F y)) (decodeF F z))

/-- Whether x orders below y, with −0 below +0 (R117). -/
def belowF (F : FFmt) (x y : Nat) : Bool :=
  let a := decodeF F x
  let b := decodeF F y
  if eqNum a b then decide (x / F.signBit % 2 > y / F.signBit % 2) else leNum a b

/-- The lesser of two codes (R117). -/
def fMin (F : FFmt) (x y : Nat) : Nat :=
  match firstNan F [x, y] with
  | some n => n
  | none => if belowF F y x then y else x

/-- The greater of two codes (R117). -/
def fMax (F : FFmt) (x y : Nat) : Nat :=
  match firstNan F [x, y] with
  | some n => n
  | none => if belowF F x y then y else x

/-! ### The conversions of R38 -/

/-- The floating-point format of a code of R27 that has one. -/
def fmtOfCode : Nat → Option FFmt
  | 1 => some e4m3F
  | 2 => some e5m2F
  | 3 => some e2m1F
  | 7 => some bf16F
  | 8 => some f16F
  | 9 => some f32F
  | _ => none

/-- The width of a format code of R27 as an element of a vector (R122). -/
def codeWidth : Nat → Nat
  | 3 | 5 => 4
  | 1 | 2 | 4 | 0xB => 8
  | 6 | 7 | 8 => 16
  | _ => 32

/-- A code of a narrower floating-point format as FP32 bits, exactly (R38). -/
def widenF (F : FFmt) (x : Nat) : Nat :=
  match decodeF F x with
  | .nan neg f => f32F.sign neg + 0xFF * 2 ^ 23 + f * 2 ^ (23 - F.fw)
  | .inf neg => infCode f32F neg
  | .fin neg m e => f32F.sign neg + roundMag f32F m e false

/-- An E8M0 code as FP32 bits (R38). -/
def e8m0ToF32 (x : Nat) : Nat := if x = 0xFF then 0x7FC00000 else if x = 0 then 0x00400000 else x * 2 ^ 23

/-- An integer as FP32 bits, rounded to nearest even (R38). -/
def intToF32 (v : Int) : Nat := roundF f32F false (decide (v < 0)) v.natAbs 0 false

/-- A code of format `c` as FP32 bits (R38). -/
def toF32 (c x : Nat) : Nat :=
  match fmtOfCode c with
  | some F => if c = 9 then x else widenF F x
  | none =>
    if c = 0xB then e8m0ToF32 x
    else if c = 5 then intToF32 (signedOf 4 x)
    else if c = 4 then intToF32 (signedOf 8 x)
    else if c = 0xA then intToF32 (signedOf 32 x)
    else x

/-- FP32 bits in a narrower floating-point format (R38). -/
def narrowF (F : FFmt) (sat : Bool) (x : Nat) : Nat :=
  match decodeF f32F x with
  | .nan neg f =>
    match F.sp with
    | .ieee =>
      let g := f / 2 ^ (23 - F.fw)
      F.sign neg + (2 ^ F.ew - 1) * 2 ^ F.fw + (if g = 0 then 1 else g)
    | .e4m3 => F.sign neg + F.maxFinite + 1
    | .none => 0
  | .inf neg =>
    match F.sp with
    | .ieee => infCode F neg
    | .e4m3 => F.sign neg + overflowMag F sat
    | .none => F.sign neg + F.maxFinite
  | .fin neg m e => roundF F sat neg m e false

/-- FP32 bits as E8M0 (R38). -/
def f32ToE8m0 (x : Nat) : Nat :=
  match decodeF f32F x with
  | .fin false m e =>
    if m = 0 then 0xFF
    else
      let l : Int := (Nat.log2 m : Int) + e + 127
      if l < 0 then 0 else if 254 < l then 254 else l.toNat
  | _ => 0xFF

/-- The integer nearest to m × 2^e, ties to even. -/
def roundInt (m : Nat) (e : Int) : Nat :=
  if 0 ≤ e then m * 2 ^ e.toNat
  else
    let sh := (-e).toNat
    let w := m / 2 ^ sh
    let r := m % 2 ^ sh
    let half := 2 ^ (sh - 1)
    if r < half then w else if half < r then w + 1 else w + w % 2

/-- FP32 bits as a signed integer of `w` bits, saturating; NaN gives 0 (R38). -/
def f32ToInt (w x : Nat) : Nat :=
  match decodeF f32F x with
  | .nan _ _ => 0
  | .inf neg => (BitVec.ofInt w (satInt w (signedM neg (2 ^ 40)))).toNat
  | .fin neg m e => (BitVec.ofInt w (satInt w (signedM neg (roundInt m e)))).toNat

/-- FP32 bits in format `c` (R38). -/
def fromF32 (c : Nat) (sat : Bool) (x : Nat) : Nat :=
  match fmtOfCode c with
  | some F => if c = 9 then x else narrowF F sat x
  | none =>
    if c = 0xB then f32ToE8m0 x
    else if c = 4 then f32ToInt 8 x
    else if c = 0xA then f32ToInt 32 x
    else x

/-- The conversion between two format codes that R122 pairs (R38). -/
def convertCode (src dst : Nat) (sat : Bool) (x : Nat) : Nat :=
  if src = 0xA ∧ dst = 4 then (BitVec.ofInt 8 (satInt 8 (signedOf 32 x))).toNat
  else if dst = 9 then toF32 src x
  else fromF32 dst sat x

/-! ### Glyphs (R34) -/

/-- Twice the value v[i] of a glyph. -/
def glyph2 (g i : Nat) : Int :=
  let bit := fun k => g / 2 ^ k % 2
  let c := bit 15
  let m := bit (7 + i)
  let par := (bit 0 + bit 1 + bit 2 + bit 3 + bit 4 + bit 5 + bit 6) % 2
  let s := if i = 7 then par else bit i
  let odd := (bit 7 + bit 8 + bit 9 + bit 10 + bit 11 + bit 12 + bit 13 + bit 14) % 2
  let mag : Nat :=
    if c = 0 then 2 * m + 1 else if i = 7 ∧ odd = 1 then 2 * m + 2 else 2 * m
  if s = 1 then -(mag : Int) else mag

/-- The value v[i] of a glyph; a decoded zero is +0. -/
def glyphNum (g i : Nat) : Num :=
  let v := glyph2 g i
  .fin (decide (v < 0)) v.natAbs (-1)

/-- The value v[i] of a glyph as FP32 bits. -/
def glyphF32 (g i : Nat) : Nat := packNum f32F false (glyphNum g i)

/-! ### The fixed tree of reductions (R44) -/

/-- One halving of the tree. -/
def treeStep (f : Nat → Nat → Nat) (h : Nat) (t : List Nat) : List Nat :=
  (t.take h).zipWith f (t.drop h)

/-- The tree over 128 values. -/
def treeReduce (f : Nat → Nat → Nat) (t : List Nat) : Nat :=
  (([64, 32, 16, 8, 4, 2, 1].foldl (fun t h => treeStep f h t) t).head?).getD 0

/-- The lanes of a vector with an identity in the inactive ones. -/
def activeLanes (p : PWord) (v : VWord) (ident : Nat) : List Nat :=
  (List.range 128).map fun i => if p.getLsbD i then elem v 32 i else ident

/-! ### Reciprocals and special functions (R124) -/

/-- The largest r with r × r ≤ n, from `k` bits down. -/
def isqrtBits (n : Nat) : Nat → Nat → Nat
  | 0, r => r
  | k + 1, r => let r' := r + 2 ^ k; isqrtBits n k (if r' * r' ≤ n then r' else r)

/-- 1 / x. -/
def fRcp (x : Nat) : Nat :=
  match decodeF f32F x with
  | .nan _ _ => quiet f32F x
  | .inf neg => f32F.sign neg
  | .fin neg m e =>
    if m = 0 then infCode f32F neg
    else roundF f32F false neg (2 ^ 64 / m) (-64 - e) (2 ^ 64 % m != 0)

/-- 1 / √x. -/
def fRsqrt (x : Nat) : Nat :=
  match decodeF f32F x with
  | .nan _ _ => quiet f32F x
  | .inf neg => if neg then defaultNan f32F else 0
  | .fin neg m e =>
    if m = 0 then infCode f32F neg
    else if neg then defaultNan f32F
    else
      let m2 := if e % 2 = 0 then m else 2 * m
      let e2 := if e % 2 = 0 then e else e - 1
      let r := isqrtBits (2 ^ 120 / m2) 61 0
      roundF f32F false false r (-60 - e2 / 2) (r * r * m2 != 2 ^ 120)

/-- The fractional bits of the fixed-point evaluations (log 10: DEDUCED). -/
def fixP : Nat := 300

/-- Σ y^k / k! over the first terms, y and the sum in units of 2^-fixP. -/
def expSeries (y : Nat) : Nat → Nat → Nat → Nat → Nat
  | 0, _, _, acc => acc
  | fuel + 1, k, term, acc =>
    let term' := term * y / 2 ^ fixP / k
    expSeries y fuel (k + 1) term' (acc + term')

/-- e^y for 0 ≤ y < 1 in units of 2^-fixP. -/
def expFix (y : Nat) : Nat := expSeries y 64 1 (2 ^ fixP) (2 ^ fixP)

/-- Σ z^(2k+1) / (2k+1), z in units of 2^-fixP. -/
def atanhSeries (z2 : Nat) : Nat → Nat → Nat → Nat → Nat
  | 0, _, _, acc => acc
  | fuel + 1, k, pw, acc => atanhSeries z2 fuel (k + 2) (pw * z2 / 2 ^ fixP) (acc + pw / k)

/-- ln(a / b) for b ≤ a ≤ 2b, in units of 2^-fixP. -/
def lnRatio (a b : Nat) : Nat :=
  let z := (a - b) * 2 ^ fixP / (a + b)
  2 * atanhSeries (z * z / 2 ^ fixP) 100 1 z 0

/-- ln 2 in units of 2^-fixP. -/
def ln2Fix : Nat := lnRatio 2 1

/-- 2^x: x = m × 2^e with its sign. -/
def fExp2 (x : Nat) : Nat :=
  match decodeF f32F x with
  | .nan _ _ => quiet f32F x
  | .inf neg => if neg then 0 else infCode f32F false
  | .fin neg m e =>
    if m = 0 then 0x3F800000
    else if 128 * 2 ^ 149 ≤ m * 2 ^ (e + 149).toNat then (if neg then
        (if 150 * 2 ^ 149 ≤ m * 2 ^ (e + 149).toNat then 0 else exp2Fin neg m e)
      else infCode f32F false)
    else exp2Fin neg m e
where
  /-- 2^x for |x| below 150. -/
  exp2Fin (neg : Bool) (m : Nat) (e : Int) : Nat :=
    let v := signedM neg (m * 2 ^ (e + 149).toNat)
    let n := v / 2 ^ 149
    let f := (v % 2 ^ 149).toNat
    if f = 0 then roundF f32F false false 1 n false
    else
      let y := f * 2 ^ (fixP - 149) * ln2Fix / 2 ^ fixP
      roundF f32F false false (expFix y) (n - fixP) true

/-- log2 x. -/
def fLog2 (x : Nat) : Nat :=
  match decodeF f32F x with
  | .nan _ _ => quiet f32F x
  | .inf neg => if neg then defaultNan f32F else infCode f32F false
  | .fin neg m e =>
    if m = 0 then infCode f32F true
    else if neg then defaultNan f32F
    else
      let l := Nat.log2 m
      let n : Int := (l : Int) + e
      if m = 2 ^ l then packNum f32F false (.fin (decide (n < 0)) n.natAbs 0)
      else
        let v : Int := n * 2 ^ fixP + (lnRatio m (2 ^ l) * 2 ^ fixP / ln2Fix : Nat)
        if v < 0 then roundF f32F false true (v.natAbs - 1) (-fixP) true
        else roundF f32F false false v.natAbs (-fixP) true

/-- tanh x, as (E − 1) / (E + 1) with E = e^(2|x|) = (e^(2|x|/64))^64. -/
def fTanh (x : Nat) : Nat :=
  match decodeF f32F x with
  | .nan _ _ => quiet f32F x
  | .inf neg => f32F.sign neg + 0x3F800000
  | .fin neg m e =>
    let v := m * 2 ^ (e + 149).toNat
    if m = 0 then x
    else if 16 * 2 ^ 149 ≤ v then roundF f32F false neg (2 ^ 60 - 1) (-60) true
    else if v < 2 ^ (149 - 13) then roundF f32F false neg (m * 2 ^ 40 - 1) (e - 40) true
    else
      let y := v * 2 ^ (fixP - 149) / 32
      let sq := fun (a : Nat) => a * a / 2 ^ fixP
      let big := sq (sq (sq (sq (sq (sq (expFix y))))))
      roundF f32F false neg ((big - 2 ^ fixP) * 2 ^ fixP / (big + 2 ^ fixP)) (-fixP) true

end Sys2Proof.Machine
end

