-- ==== Sys2Proof/Machine/Chunk.lean ====
section
/-! DEFINITION. Reads of global memory in bulk, and tile descriptors with their chunks (spec/06 R139 to R141, R146). -/

namespace Sys2Proof.Machine

/-! ### Global memory in bulk -/

/-- `n` bytes from `va` read by blocks of 64 KiB, the smallest page, each as `rd` reads it. -/
def readBlocks (rd : Nat → Nat → Except Nat (List Byte)) : Nat → Nat → Nat → Except (Nat × Nat) (List Byte)
  | 0, _, _ => .ok []
  | fuel + 1, va, n =>
    if n = 0 then .ok []
    else
      let k := min n (65536 - va % 65536)
      match rd va k with
      | .error code => .error (code, va)
      | .ok bs =>
        match readBlocks rd fuel (va + k) (n - k) with
        | .ok r => .ok (bs ++ r)
        | .error e => .error e

/-- `n` bytes of context `c` from `va`, read page by page (R255, R318); or the fault code that the first page it
cannot read gives, with the address. -/
def readGlobal (s : State) (c va n : Nat) : Except (Nat × Nat) (List Byte) :=
  readBlocks (fun va k => globalRead s c (BitVec.ofNat 64 va) k) (n / 65536 + 2) va n

/-! ### Tile descriptors (R139 to R141) -/

/-- The descriptor that 64 bytes hold, if R140 accepts them. -/
def descOf (bs : List Byte) : Option TileDesc :=
  let w := fun i => leNat ((bs.drop (8 * i)).take 8)
  let kind := nfld (w 0) 0 4
  if kind = 0 then
    let f := nfld (w 0) 4 4
    let lay := nfld (w 0) 8 4
    if f = 0 || 0xC ≤ f || 2 ≤ lay || nfld (w 0) 12 4 ≠ 0 || w 4 ≠ 0 || w 5 ≠ 0 || w 6 ≠ 0 || w 7 ≠ 0 then none
    else some
      { kind := 0, format := f, layout := lay, d0 := nfld (w 0) 16 16 + 1, d1 := nfld (w 0) 32 32,
        base := BitVec.ofNat 64 (w 1), stride := BitVec.ofNat 64 (w 2), tscale := BitVec.ofNat 32 (nfld (w 3) 0 32),
        hscale := BitVec.ofNat 32 (nfld (w 3) 32 32) }
  else if kind = 1 then
    let cm1 := nfld (w 0) 16 4
    let hs := (List.range 14).map fun i => leNat ((bs.drop (8 + 4 * i)).take 4)
    if nfld (w 0) 4 12 ≠ 0 || nfld (w 0) 20 44 ≠ 0 || 14 ≤ cm1 || (hs.drop (cm1 + 1)).any (· != 0) then none
    else some { kind := 1, cm1 := cm1, handles := (hs.take (cm1 + 1)).map fun h => BitVec.ofNat 32 h }
  else if kind = 2 then
    if nfld (w 0) 4 60 ≠ 0 || w 3 ≠ 0 || w 4 ≠ 0 || w 5 ≠ 0 || w 6 ≠ 0 || w 7 ≠ 0 then none
    else some { kind := 2, base := BitVec.ofNat 64 (w 1), stride := BitVec.ofNat 64 (w 2) }
  else none

/-- The context of a tile. -/
def tileCtx (s : State) (t : Nat) : Nat := ((tileOf s t).ctx).getD 0

/-- The descriptor of a handle as tile `t` resolves it: in range, in a sealed table, accepted (R139, R140); else the handle
fault, or the fault of the page with the address (R318). -/
def fetchDesc (s : State) (t : Nat) (h : Word32) : Except (Nat × Option Nat) TileDesc :=
  let x := tileOf s t
  let c := tileCtx s t
  let va := x.tdtbase + BitVec.ofNat 64 (64 * h.toNat)
  if x.tdtlen.toNat ≤ h.toNat then .error (0x13, none)
  else match translate s (rootOf s c) va false with
    | .fault code => .error (code, some va.toNat)
    | .remote _ => .error (0x24, some va.toNat)
    | .here l =>
      match (if l.seal then descOf (pageBytes s l va 64) else none) with
      | some d => .ok d
      | none => .error (0x13, none)

/-- The descriptor of a handle, if tile `t` can resolve it. -/
def readDesc (s : State) (t : Nat) (h : Word32) : Option TileDesc := (fetchDesc s t h).toOption

/-- The elements along the inner extent that a chunk holds (R141). -/
def chunkElems (code : Nat) : Nat := if code = 6 then 512 else 1024 / codeWidth code

/-- The operand tag of chunk `c` of handle `h` (R171). -/
def operandTag (h : Word32) (c : Nat) : Word :=
  BitVec.ofNat 64 (0x4000000000000000 + c * 2 ^ 32 + h.toNat)

/-- Chunk `c` of a tile as memory holds it (R141, R146): 128 bytes of each of the 128 outer indices of its row
block, zeros at or above d0; or the fault met, with its address. -/
def chunkRows (s : State) (ctx : Nat) (d : TileDesc) (c : Nat) : Nat → Except (Nat × Nat) (List Byte)
  | 0 => .ok []
  | r + 1 =>
    match chunkRows s ctx d c r with
    | .error e => .error e
    | .ok before =>
      let outer := 128 * (c / 1024) + r
      if d.d0 ≤ outer then .ok (before ++ List.replicate 128 0)
      else
        let va := (d.base + BitVec.ofNat 64 outer * d.stride + BitVec.ofNat 64 (128 * (c % 1024))).toNat
        match readGlobal s ctx va 128 with
        | .ok bs => .ok (before ++ bs)
        | .error e => .error e

/-- The 16,384 bytes of a chunk (log 25: DEDUCED). -/
def chunkBytes (s : State) (ctx : Nat) (d : TileDesc) (c : Nat) : Except (Nat × Nat) (List Byte) :=
  chunkRows s ctx d c 128

/-- The start of each row of a chunk in memory, for the translations its fill uses (R319). -/
def chunkFirst (d : TileDesc) (c : Nat) : Word :=
  d.base + BitVec.ofNat 64 (128 * (c / 1024)) * d.stride + BitVec.ofNat 64 (128 * (c % 1024))

end Sys2Proof.Machine
end

