-- ==== Sys2Proof/Machine/FloorMem.lean ====
section
/-! DEFINITION. The M class on the floor store, the wells and the tag table (spec/07 R167 to R181, R393),
with the watermarks (spec/08 R194) and the step-shared space (spec/09 R215 to R217). -/

namespace Sys2Proof.Machine

open Sys2Proof.Operands

/-! ### Addresses (R167, R168, R173) -/

/-- The slot of a floor address (R167). -/
def slotOf (a : Nat) : Nat := a / 16384

/-- Whether a floor address lies in the step-shared space (R173). -/
def isShared (x : Tile) (a : Nat) : Bool := 512 - x.sshare ≤ slotOf a && slotOf a < 512

/-- The map entry that covers a step-shared address, if one does (R215). -/
def ssEntry (x : Tile) (a : Nat) : Option SsMap :=
  (x.ssmap.find? fun e =>
    e.2.v && e.2.first ≤ slotOf a - (512 - x.sshare) && slotOf a - (512 - x.sshare) ≤ e.2.first + e.2.cm1).map
    (·.2)

/-- The granule size at a step-shared address (R215). -/
def granBytes (x : Tile) (a : Nat) : Nat :=
  match ssEntry x a with
  | some e => if e.ty = 2 then 8 else 4
  | none => 4

/-- The rank of a tile in the group that its step-shared space serves (R215). -/
def tileRank (s : State) (t : Nat) : Nat :=
  match (tileOf s t).ssGid.bind (groupOf s) with
  | some g => (t / 8 - g.y0) * g.w + (t % 8 - g.x0)
  | none => 0

/-- Whether a 64-bit value is a floor address of an aligned access of `n` bytes (R167). -/
def floorOk (a : Word) (n : Nat) : Bool := decide (a.toNat < 2 ^ 23) && a.toNat % n == 0

/-! ### Watermarks (R194) -/

/-- Whether a channel is armed (R194). -/
def Watermark.armed (c : Watermark) : Bool := c.wm != c.lim

/-- Whether an offset from the first byte of a command is one that it writes: the dimensions, the outermost first,
are taken off it one after another, since such a command's bytes ascend (R189). -/
def offsetHit (row : Nat) : List (Nat × Int) → Int → Bool
  | [], x => decide (0 ≤ x) && decide (x < row)
  | (cnt, stride) :: r, x =>
    if cnt ≤ 1 || stride ≤ 0 then offsetHit row r x
    else offsetHit row r (x - min (x / stride) ((cnt : Int) - 1) * stride)

/-- Whether the command of a channel writes the byte at `a`. -/
def Watermark.writes (c : Watermark) (a : Nat) : Bool := offsetHit c.row c.dims ((a : Int) - c.first)

/-- Whether a byte keeps an access waiting for a channel: it has not landed, or the command never writes it (R194). -/
def Watermark.keeps (c : Watermark) (a : Nat) : Bool :=
  decide (c.base ≤ a) && decide (a < c.lim) && (decide (c.wm ≤ a) || !c.writes a)

/-- Whether an access to `n` bytes at `a` waits for a channel (R194). -/
def Watermark.blocks (c : Watermark) (well : Bool) (a n : Nat) : Bool :=
  c.armed && c.well == well && (List.range n).any fun i => c.keeps (a + i)

/-- Whether an access waits for some watermark channel of its tile, other than those that the engines `own` armed
(R194) (log 36: DEDUCED). -/
def wmBlocked (x : Tile) (own : List Nat) (well : Bool) (a n : Nat) : Bool :=
  x.wm.any fun c => c.2.blocks well a n && !own.contains c.2.eng

/-- The engine that armed a channel on which an access waits. -/
def wmBlocker (x : Tile) (own : List Nat) (well : Bool) (a n : Nat) : Option Nat :=
  (x.wm.find? fun c => c.2.blocks well a n && !own.contains c.2.eng).map fun c => c.2.eng

/-! ### What a load finds -/

/-- One of two bytes, as the manual leaves open (R6). -/
def eitherByte (s : State) (old new : Byte) : Byte × State :=
  if old = new then (old, s)
  else
    let (c, s) := freshBool s
    (if c then new else old, s)

/-- One of several bytes, as an unpredictable value of a location may be: the one there, the one arriving, or the
reset pattern (R6) (log 2: DESIGN CHOICE). -/
def openByte (s : State) (cur : Byte) (arriving : List Byte) : Byte × State :=
  (arriving ++ [0]).foldl (fun r c => eitherByte r.2 r.1 c) (cur, s)

/-- The unpredictable bytes of `n` locations from `a` of a memory (R6). -/
def openRange (s : State) (m : Memory) (a : Nat) : Nat → List (Nat × Byte) × State
  | 0 => ([], s)
  | n + 1 =>
    let (b, s) := openByte s (mread m a) []
    let (r, s) := openRange s m (a + 1) n
    ((a, b) :: r, s)

/-- The bytes of a write that is unpredictable, each location's own (R6). -/
def openWrite (s : State) (m : Memory) : List (Nat × Byte) → List (Nat × Byte) × State
  | [] => ([], s)
  | (a, b) :: r =>
    let (c, s) := openByte s (mread m a) [b]
    let (r, s) := openWrite s m r
    ((a, c) :: r, s)

/-- Whether a slot is being filled with a chunk of memory by the cube or by a hint: it has no watermark channel
(R178, R207). -/
def fillsChunk (x : Tile) (slot : Nat) : Bool :=
  let e : TagEntry := tget {} x.tags slot
  e.st == .filling && wfld e.tag 62 2 == 1 && !(x.cubeOps.any fun o => o.victims.contains slot) &&
  (e.owner == 4 || ((tget ({} : CopyEng) x.cpy e.owner).hint.bind (·.slot)) == some slot)

/-- The byte that a chunk fill is to bring to a floor address, as memory holds it now (R146, R178). -/
def fillRival (s : State) (t a : Nat) : Option Byte :=
  let x := tileOf s t
  if fillsChunk x (slotOf a) then
    let y := (tget ({} : TagEntry) x.tags (slotOf a)).tag
    let c := wfld y 32 30
    match readDesc s t (y.setWidth 32) with
    | some d =>
      let outer := 128 * (c / 1024) + a % 16384 / 128
      if d.d0 ≤ outer then some 0
      else
        let va := d.base + BitVec.ofNat 64 outer * d.stride + BitVec.ofNat 64 (128 * (c % 1024) + a % 128)
        match globalRead s (tileCtx s t) va 1 with
        | .ok bs => bs.head?
        | .error _ => none
    | none => none
  else none

/-- The accesses that are whole or not at all (R255): each byte of a plain copy or a drain, each lane of a vector store, each
scalar store, each element of a copy or an atomic. -/
abbrev FloorUnit := List (Nat × Byte)

/-- Bytes in lanes of four. -/
def fours : FloorUnit → List FloorUnit
  | a :: b :: c :: d :: r => [a, b, c, d] :: fours r
  | [] => []
  | r => [r]

/-- The floor units of a store. -/
def StoreKind.floorUnits : StoreKind → List FloorUnit
  | .floor bs => [bs]
  | .lanes bs => fours bs
  | .well _ | .tag _ _ _ | .sr _ _ | .share _ _ => []

/-- The well units of a store. -/
def StoreKind.wellUnits : StoreKind → List FloorUnit
  | .well bs => fours bs
  | .floor _ | .lanes _ | .tag _ _ _ | .sr _ _ | .share _ _ => []

/-- The units of the stores in flight of the other task slots of a tile: a load of a slot, in another queue than theirs, finds
them or not (R74, R179); none for an engine's read. -/
def unitsAhead (x : Tile) (k : Option Nat) (units : StoreKind → List FloorUnit) : List FloorUnit :=
  match k with
  | some k => (x.stores.filter fun p => p.task != k).flatMap fun p => units p.kind
  | none => []

/-- Whether a unit touches the `n` bytes at `a`. -/
def touches (a n : Nat) (u : FloorUnit) : Bool := u.any fun c => decide (a ≤ c.1) && decide (c.1 < a + n)

/-- The units of which a read of `n` floor bytes at `a` may find the other side: of an engine's access in this hc what stood
before it, of a drain in progress, a chunk being filled and a store in flight of another task slot what it brings (R155, R178,
R179). -/
def floorRivals (s : State) (t : Nat) (k : Option Nat) (a n : Nat) : List FloorUnit :=
  let x := tileOf s t
  ((unitsAhead x k StoreKind.floorUnits ++ (if x.raceHc = s.hc then x.raceOld else []) ++
    (x.cubeOps.filter fun o => o.st == .draining).flatMap fun o => o.out.map fun c => [c]).filter (touches a n)) ++
  (List.range n).filterMap fun i => (fillRival s t (a + i)).map fun b => [(a + i, b)]

/-- The units of which a read of `n` well bytes at `a` may find the other side: bytes that staging is writing (R176), and a
store in flight of another task slot (R74). -/
def wellRivals (s : State) (t : Nat) (k : Option Nat) (a n : Nat) : List FloorUnit :=
  let x := tileOf s t
  (unitsAhead x k StoreKind.wellUnits ++ (x.cubeOps.filter fun o => o.st == .staging).flatMap fun o =>
    o.out.map fun c => [c]).filter (touches a n)

/-- Bytes with those of a unit in place of what they hold. -/
def overlay (m u : FloorUnit) : FloorUnit := m.map fun c => (c.1, ((u.find? fun d => d.1 == c.1).map (·.2)).getD c.2)

/-- Bytes as a read finds them: with or without each unit, whole (R6, R255). -/
def pickUnits (s : State) (m : FloorUnit) : List FloorUnit → FloorUnit × State
  | [] => (m, s)
  | u :: r =>
    let (c, s) := freshBool s
    pickUnits s (if c then overlay m u else m) r

/-- A read of `n` floor bytes at `a`, for a task slot or an engine (R178). -/
def readFloor (s : State) (t : Nat) (k : Option Nat) (a n : Nat) : List Byte × State :=
  let r := pickUnits s (addrBytes a (mbytes (tileOf s t).floor a n)) (floorRivals s t k a n)
  (r.1.map (·.2), r.2)

/-- A read of `n` well bytes at `a` (R176). -/
def readWell (s : State) (t : Nat) (k : Option Nat) (a n : Nat) : List Byte × State :=
  let r := pickUnits s (addrBytes a (mbytes (tileOf s t).wells a n)) (wellRivals s t k a n)
  (r.1.map (·.2), r.2)

/-- `n` bytes read one after another, as a copy reads them (R255). -/
def readBytes (rd : State → Nat → List Byte × State) (s : State) (a : Nat) : Nat → List Byte × State
  | 0 => ([], s)
  | n + 1 =>
    let (b, s) := rd s a
    let (r, s) := readBytes rd s (a + 1) n
    (b ++ r, s)

/-- The bytes a scalar floor load reads: floor bytes, or the bellows core's own memory (R175, R373). -/
def loadBytes (s : State) (a n : Nat) : List Byte × State :=
  if onBellows s then (mbytes s.bellows.mem a n, s) else readFloor s (curTile s) (some (curSlot s)) a n

/-- The lanes that a vector load reads, the lowest first: a lane with no address reads nothing. -/
def loadLanes (rd : State → Nat → List Byte × State) (addr : Nat → Option Nat) (s : State) : Nat → List Nat × State
  | 0 => ([], s)
  | n + 1 =>
    let (r, s) := loadLanes rd addr s n
    match addr n with
    | some a =>
      let (bs, s) := rd s a
      (r ++ [leNat bs], s)
    | none => (r ++ [0], s)

/-! ### What an access meets before it issues (R393) -/

/-- Whether a floor slot is a replica (R180). -/
def isReplica (x : Tile) (slot : Nat) : Bool :=
  let e := tget {} x.tags slot
  e.tag.toNat / 2 ^ 61 == 5 && (e.st == .valid || e.st == .pinned)

/-- A stretch of bytes that an access touches: its address and its length. -/
abbrev Span := Nat × Nat

/-- Whether a word lies wholly in some of the stretches. -/
def spansCover (sp : List Span) (w : Nat) : Bool := sp.any fun p => decide (p.1 ≤ w) && decide (w + 4 ≤ p.1 + p.2)

/-- Whether stored bytes cover part of a granule only (R216); a store of less than 4 bytes always does. -/
def partGranule (x : Tile) (sp : List Span) : Bool :=
  sp.any fun p => isShared x p.1 &&
    (p.2 % 4 != 0 || (granBytes x p.1 == 8 &&
      !(spansCover sp (p.1 / 8 * 8) && spansCover sp (p.1 / 8 * 8 + 4))))

/-- The aligned words that `n` bytes at `a` touch. -/
def wordsOf (a n : Nat) : List Nat :=
  if n < 4 then [a / 4 * 4] else (List.range (n / 4)).map fun i => a + 4 * i

/-- Whether stores in flight of tasks with pend = 1 overlap a word (R179) (log 30: DEDUCED). -/
def pendingWord (s : State) (well : Bool) (w : Nat) : Bool :=
  let t := curTile s
  (tileOf s t).stores.any fun p =>
    pendModeAt (taskOf s t p.task) p.order &&
    match p.kind with
    | .floor bs | .lanes bs => !well && bs.any fun c => c.1 / 4 * 4 == w / 4 * 4
    | .share _ bs => !well && bs.any fun c => decide (c.1 < w / 4 * 4 + 4) && decide (w / 4 * 4 < c.1 + c.2.1)
    | .well bs => well && bs.any fun c => c.1 / 4 * 4 == w / 4 * 4
    | _ => false

/-- The order of R393 after the registers: faults of the address, replicas and granules, the watermarks and the
banks under repair (R371), the pending words. -/
def accessChecks (s : State) (store well : Bool) (sp : List Span) (go : Verdict) : Verdict :=
  let x := tileOf s (curTile s)
  if store && !well && sp.any (fun p => isReplica x (slotOf p.1)) then .fault 0x22
  else if store && !well && partGranule x sp then .fault 0x39
  else if sp.any (fun p => wmBlocked x [] well p.1 p.2) then
    .stall (noteStall s (4 + ((sp.findSome? fun p => wmBlocker x [] well p.1 p.2).getD 0)))
  else if !well && sp.any (fun p => x.repair.contains (slotOf p.1 / 128)) then .stall s
  else if pendModeAt (curTask s) s.cur.n && sp.any (fun p => (wordsOf p.1 p.2).any (pendingWord s well)) then .fault 0x04
  else go

/-! ### Stores -/

/-- The last value that a list of stores gives a word, or 0. -/
def lastStored (ws : List (Nat × Word32)) (a : Nat) : Word32 :=
  ((ws.filter fun w => w.1 == a).getLast?.map (·.2)).getD 0

/-- The stores of step-shared words as the floor port takes them: 8 bytes where the granule has 8, else 4
(R216, R217). -/
def sharedStores (x : Tile) (ws : List (Nat × Word32)) : List (Nat × Nat × Word) :=
  ws.filterMap fun w =>
    if granBytes x w.1 = 8 then
      (if w.1 % 8 = 0 then some (w.1, 8, lastStored ws (w.1 + 4) ++ w.2) else none)
    else some (w.1, 4, w.2.setWidth 64)

/-- The words of a store, the lowest address first. -/
def wordPairs (a : Nat) (v n : Nat) : List (Nat × Word32) :=
  (List.range (n / 4)).map fun i => (a + 4 * i, BitVec.ofNat 32 (v / 2 ^ (32 * i)))

/-- A floor store of words (R175 to R177), of a scalar or of lanes: to the next plane where they lie in the step-shared space,
to the floor elsewhere. -/
def storeWords (kind : FloorUnit → StoreKind) (s : State) (ws : List (Nat × Word32)) (lat : Nat) : State :=
  let x := tileOf s (curTile s)
  let shared := ws.filter fun w => isShared x w.1
  let plain := ws.filter fun w => !isShared x w.1
  let s := if shared.isEmpty then s
    else storeLater s (.share (tileRank s (curTile s)) (sharedStores x shared)) lat
  if plain.isEmpty then s
  else storeLater s (kind (plain.flatMap fun w => addrBytes w.1 (leBytes 4 w.2.toNat))) lat

/-! ### Scalar forms (R175, R373) -/

/-- The address of a scalar form: x + sext(off) (R175). -/
def scalarAddr (s : State) (sa : BitVec 6) (off : BitVec 12) (l : Lend) : Word := srcS s sa + sextImm off l

/-- fld.z: `n` zero-extended bytes to sd at 4 hc. -/
def floorLoad (n : Nat) (o : MSl) (s : State) : Verdict :=
  let a := scalarAddr s o.sa o.off o.lend
  let go : Verdict :=
    let (bs, s) := loadBytes s a.toNat n
    .issue (writeLaterS s o.sd (BitVec.ofNat 64 (leNat bs)) 4)
  if onBellows s then (if 2 ^ 22 ≤ a.toNat then .fault 0x20 else go)
  else if !floorOk a n then .fault 0x20
  else accessChecks s false false [(a.toNat, n)] go

/-- fst.z: the low `n` bytes of sc, visible to floor loads at 3 hc. -/
def floorStore (n : Nat) (o : MSs) (s : State) : Verdict :=
  let a := scalarAddr s o.sa o.off o.lend
  let v := srcS s o.sc
  if onBellows s then
    (if 2 ^ 22 ≤ a.toNat then .fault 0x20
     else .issue (storeLater s (.floor (addrBytes a.toNat (leBytes n v.toNat))) 3))
  else if !floorOk a n then .fault 0x20
  else accessChecks s true false [(a.toNat, n)]
    (.issue (if n < 4 then storeLater s (.floor (addrBytes a.toNat (leBytes n v.toNat))) 3
      else storeWords .floor s (wordPairs a.toNat v.toNat n) 3))

/-- fld.b (R175). -/
def execFldB (o : MSl) (s : State) : Host.Outcome State Fault Refusal := gate (.fldB o) s (floorLoad 1 o)
/-- fld.h (R175). -/
def execFldH (o : MSl) (s : State) : Host.Outcome State Fault Refusal := gate (.fldH o) s (floorLoad 2 o)
/-- fld.w (R175). -/
def execFldW (o : MSl) (s : State) : Host.Outcome State Fault Refusal := gate (.fldW o) s (floorLoad 4 o)
/-- fld.d (R175). -/
def execFldD (o : MSl) (s : State) : Host.Outcome State Fault Refusal := gate (.fldD o) s (floorLoad 8 o)
/-- fst.b (R175). -/
def execFstB (o : MSs) (s : State) : Host.Outcome State Fault Refusal := gate (.fstB o) s (floorStore 1 o)
/-- fst.h (R175). -/
def execFstH (o : MSs) (s : State) : Host.Outcome State Fault Refusal := gate (.fstH o) s (floorStore 2 o)
/-- fst.w (R175). -/
def execFstW (o : MSs) (s : State) : Host.Outcome State Fault Refusal := gate (.fstW o) s (floorStore 4 o)
/-- fst.d (R175). -/
def execFstD (o : MSs) (s : State) : Host.Outcome State Fault Refusal := gate (.fstD o) s (floorStore 8 o)

/-! ### Vector forms (R176, R177) -/

/-- The address of a vector form: x + sext(off10) × 512, off10 with its lend bits (R51, R57, R176). -/
def vectorAddr (s : State) (sa : BitVec 6) (off : BitVec 10) (l : Lend) : Word := srcS s sa + (sextImm off l <<< 9)

/-- The address of each active lane of a row of 512 bytes at `a`. -/
def rowLanes (p : PWord) (a : Nat) (i : Nat) : Option Nat := if p.getLsbD i then some (a + 4 * i) else none

/-- The words of the active lanes. -/
def laneSpans (addr : Nat → Option Nat) : List Span := (List.range 128).filterMap fun i => (addr i).map fun a => (a, 4)

/-- The words that the active lanes of a vector store. -/
def laneStores (addr : Nat → Option Nat) (v : VWord) : List (Nat × Word32) :=
  (List.range 128).filterMap fun i => (addr i).map fun a => (a, lane v i)

/-- A vector load from the floor or a well: the active lanes of vd after `lat` hc. -/
def vectorLoad (well : Bool) (lat : Nat) (vd : BitVec 5) (p : PWord) (addr : Nat → Option Nat) (s : State) :
    Verdict :=
  accessChecks s false well (laneSpans addr)
    (let t := curTile s
     let k := some (curSlot s)
     let (ls, s) := loadLanes (fun s a => if well then readWell s t k a 4 else readFloor s t k a 4) addr s 128
     .issue (writeLaterV s vd p (BitVec.ofNat 4096 (packNat 32 ls)) lat))

/-- vld (R176). -/
def execVld (o : MVl) (s : State) : Host.Outcome State Fault Refusal :=
  gate (.vld o) s fun s =>
    let a := vectorAddr s o.sa o.off o.lend
    if !floorOk a 512 then .fault 0x20
    else vectorLoad false 4 o.vd (srcP s o.p) (rowLanes (srcP s o.p) a.toNat) s

/-- vst (R176). -/
def execVst (o : MVs) (s : State) : Host.Outcome State Fault Refusal :=
  gate (.vst o) s fun s =>
    let a := vectorAddr s o.sa o.off o.lend
    let addr := rowLanes (srcP s o.p) a.toNat
    if !floorOk a 512 then .fault 0x20
    else if isReplica (tileOf s (curTile s)) (slotOf a.toNat) then .fault 0x22
    else accessChecks s true false (laneSpans addr)
      (.issue (storeWords .lanes s (laneStores addr (srcV s o.vc)) 3))

/-- The address of each active lane of a gather or scatter: x + zext(vb[i]) (R177). -/
def gatherAddr (p : PWord) (x : Word) (vb : VWord) (i : Nat) : Option Word :=
  if p.getLsbD i then some (x + (lane vb i).setWidth 64) else none

/-- Whether every active lane's address keeps R167. -/
def gatherOk (addr : Nat → Option Word) : Bool :=
  (List.range 128).all fun i => match addr i with
    | some a => floorOk a 4
    | none => true

/-- vgath (R177). -/
def execVgath (o : MGl) (s : State) : Host.Outcome State Fault Refusal :=
  gate (.vgath o) s fun s =>
    let addr := gatherAddr (srcP s o.p) (srcS s o.sa) (srcV s o.vb)
    if !gatherOk addr then .fault 0x20
    else vectorLoad false 12 o.vd (srcP s o.p) (fun i => (addr i).map (·.toNat)) s

/-- vscat: ascending lanes, so the highest lane of an address remains (R177). -/
def execVscat (o : MGs) (s : State) : Host.Outcome State Fault Refusal :=
  gate (.vscat o) s fun s =>
    let addr := gatherAddr (srcP s o.p) (srcS s o.sa) (srcV s o.vb)
    let na := fun i => (addr i).map (·.toNat)
    if !gatherOk addr then .fault 0x20
    else accessChecks s true false (laneSpans na)
      (.issue (storeWords .lanes s (laneStores na (srcV s o.vc)) 12))

/-! ### Wells (R168, R176, R151) -/

/-- The layer of a well address (R168). -/
def wellLayer (a : Nat) : Nat := a / 2 ^ 20

/-- Whether the hold line of a layer of a tile is asserted in this hc (R151). -/
def layerHeld (s : State) (t l : Nat) : Bool :=
  (tileOf s t).cubeOps.any fun o => o.heldHc == s.hc + 1 && o.layers.contains l

/-- Whether a well address names a layer that exists (R364). -/
def layerExists (s : State) (l : Nat) : Bool := decide (l < s.layermap.length)

/-- wld (R176). -/
def execWld (o : MVl) (s : State) : Host.Outcome State Fault Refusal :=
  gate (.wld o) s fun s =>
    let a := vectorAddr s o.sa o.off o.lend
    if !floorOk a 512 || !layerExists s (wellLayer a.toNat) then .fault 0x20
    else if layerHeld s (curTile s) (wellLayer a.toNat) then .stall s
    else vectorLoad true 6 o.vd (srcP s o.p) (rowLanes (srcP s o.p) a.toNat) s

/-- wst (R176). -/
def execWst (o : MVs) (s : State) : Host.Outcome State Fault Refusal :=
  gate (.wst o) s fun s =>
    let a := vectorAddr s o.sa o.off o.lend
    let addr := rowLanes (srcP s o.p) a.toNat
    if !floorOk a 512 || !layerExists s (wellLayer a.toNat) then .fault 0x20
    else if layerHeld s (curTile s) (wellLayer a.toNat) then .stall s
    else accessChecks s true true (laneSpans addr)
      (.issue (storeLater s (.well ((laneStores addr (srcV s o.vc)).flatMap fun w =>
        addrBytes w.1 (leBytes 4 w.2.toNat))) 4))

/-! ### The tag table (R169 to R174) -/

/-- Whether a tag is valid (R171); an address tag's rep bit is the device's own. -/
def tagOk (y : Word) : Bool :=
  match y.toNat / 2 ^ 62 with
  | 0 => y == 0
  | 1 => wfld y 48 14 == 0
  | 2 => wfld y 50 11 == 0
  | _ => true

/-- Whether a tag is an address tag with rep = 1 (R171). -/
def tagRep (y : Word) : Bool := wfld y 61 3 == 5

/-- The slots of a tag table that hold a tag, valid or pinned, other than `slot` (R172). -/
def holders (tags : Table TagEntry) (slot : Nat) (y : Word) : List (Nat × TagEntry) :=
  tags.filter fun e => e.1 != slot && e.2.tag == y && (e.2.st == .valid || e.2.st == .pinned)

/-- A slot takes a tag under software's hand: another valid holder loses it (R172, R174); tag 0 empties the
slot. -/
def applyTag (tags : Table TagEntry) (slot : Nat) (y : Word) (pin : Bool) : Table TagEntry :=
  if y = 0 then tset tags slot {}
  else
    let tags := tags.map fun e =>
      if e.1 != slot && e.2.tag == y && e.2.st == .valid then (e.1, { e.2 with st := .empty, tag := 0 }) else e
    tset tags slot { st := if pin then .pinned else .valid, tag := y, owner := 7 }

/-- The table with every tag operation in flight applied (R174). -/
def judgedTags (x : Tile) : Table TagEntry :=
  x.stores.foldl (fun t p => match p.kind with
    | .tag slot y pin => applyTag t slot y pin
    | _ => t) x.tags

/-- The tags that a change of a slot to a tag acts on: the one it takes and the one it holds (R174). -/
def tagsAt (x : Tile) (slot : Nat) (y : Word) : List Word := [y, (tget ({} : TagEntry) x.tags slot).tag].filter (· != 0)

/-- Whether a store in flight is a tag operation on a slot, or on a tag that a change of the slot acts on. -/
def PendStore.clashes (p : PendStore) (x : Tile) (slot : Nat) (y : Word) : Bool :=
  match p.kind with
  | .tag slot' y' _ => slot' == slot || (tagsAt x slot y).any fun z => (tagsAt x slot' y').contains z
  | .floor _ | .lanes _ | .well _ | .sr _ _ | .share _ _ => false

/-- The hc until which a claim, a completion or an eviction of a slot and tag waits for a tag operation in
flight, if one is (R174). -/
def tagWait (x : Tile) (slot : Nat) (y : Word) : Option Nat := (x.stores.find? fun p => p.clashes x slot y).map (·.due)

/-- Whether another task's tag operation in flight acts on a slot or a tag: a tag change waits until it is visible
(R174). -/
def tagBusy (s : State) (slot : Nat) (y : Word) : Bool :=
  let x := tileOf s (curTile s)
  x.stores.any fun p => p.task != curSlot s && p.clashes x slot y

/-- The slot that holds a tag: valid or pinned, else filling under it (R146, R174). -/
def findTag (x : Tile) (y : Word) : Option (Nat × TagEntry) :=
  if y = 0 then none
  else
    let ok := fun (e : Nat × TagEntry) => e.2.tag == y && !isShared x (e.1 * 16384)
    match x.tags.find? fun e => ok e && (e.2.st == .valid || e.2.st == .pinned) with
    | some e => some e
    | none => x.tags.find? fun e => ok e && e.2.st == .filling

/-- The value lookup writes (R174). -/
def lookupValue (x : Tile) (y : Word) : Word :=
  match findTag x y with
  | none => 0x8000000000000000
  | some (slot, e) =>
    if e.st = .filling then 0x4000000000000000 ||| BitVec.ofNat 64 slot else BitVec.ofNat 64 slot

/-- lookup (R174). -/
def execLookup (o : SR1) (s : State) : Host.Outcome State Fault Refusal :=
  gate (.lookup o) s fun s =>
    .issue (writeLaterS s o.sd (lookupValue (tileOf s (curTile s)) (srcS s o.sa)) 4)

/-- Whether a tagset raises a tag fault (R172, R174). -/
def tagsetBad (x : Tile) (a y : Word) : Bool :=
  let slot := wfld a 0 9
  let e := tget {} (judgedTags x) slot
  wfld a 17 47 != 0 || wfld a 9 7 != 0 || isShared x (slot * 16384) || e.st == .filling || e.st == .evicting ||
  !tagOk y || tagRep y || (y != 0 && (holders (judgedTags x) slot y).any fun e => e.2.st == .pinned)

/-- tagset (R174). -/
def execTagset (o : SS) (s : State) : Host.Outcome State Fault Refusal :=
  gate (.tagset o) s fun s =>
    let a := srcS s o.sa
    if tagBusy s (wfld a 0 9) (srcS s o.sb) then .stall s
    else if tagsetBad (tileOf s (curTile s)) a (srcS s o.sb) then .fault 0x21
    else .issue (storeLater s (.tag (wfld a 0 9) (srcS s o.sb) (wbitAt a 16)) 3)

/-- taginv: an empty slot stays as it is (R174). -/
def execTaginv (o : S1) (s : State) : Host.Outcome State Fault Refusal :=
  gate (.taginv o) s fun s =>
    let a := srcS s o.sa
    let slot := wfld a 0 9
    let x := tileOf s (curTile s)
    let e := tget {} (judgedTags x) slot
    if tagBusy s slot 0 then .stall s
    else if wfld a 9 55 != 0 || isShared x (slot * 16384) || e.st == .filling || e.st == .evicting then .fault 0x21
    else if e.st == .empty then .issue s
    else .issue (storeLater s (.tag slot 0 false) 3)

/-- The code of a slot's state (R174). -/
def SlotSt.code : SlotSt → Nat
  | .empty => 0 | .filling => 1 | .valid => 2 | .pinned => 3 | .evicting => 4

/-- The value tagrd writes (R174); a slot in filling state has no tag yet, since R170 sets it with the last byte:
with x[16] = 0 it reads as 0 (log 89: DESIGN CHOICE). -/
def tagrdValue (x : Tile) (a : Word) : Word :=
  let slot := wfld a 0 9
  let e := tget {} x.tags slot
  let shared := isShared x (slot * 16384)
  if wbitAt a 16 then BitVec.ofNat 64 ((if shared then 5 else e.st.code) + 16 * e.owner)
  else if shared || e.st == .filling then 0 else e.tag

/-- tagrd (R174). -/
def execTagrd (o : SR1) (s : State) : Host.Outcome State Fault Refusal :=
  gate (.tagrd o) s fun s =>
    let a := srcS s o.sa
    if wfld a 17 47 != 0 || wfld a 9 7 != 0 then .fault 0x21
    else .issue (writeLaterS s o.sd (tagrdValue (tileOf s (curTile s)) a) 4)

/-! ### Arrivals at the floor port (R217) -/

/-- The seed of a granule (R217). -/
def granSeed (x : Tile) (a n : Nat) : Word :=
  match ssEntry x a with
  | some e => if e.carry then BitVec.ofNat 64 (mword x.floor a n) else 0
  | none => BitVec.ofNat 64 (mword x.floor a n)

/-- The sum of the sum rule (R217): fp32_add_rne, or a wrapping sum. -/
def granAdd (ty : Nat) (a b : Word) : Word :=
  match ty with
  | 0 => (BitVec.ofNat 32 (fAdd f32F false a.toNat b.toNat)).setWidth 64
  | 1 => (a.setWidth 32 + b.setWidth 32 : Word32).setWidth 64
  | _ => a + b

/-- One store performed at a granule (R217). -/
def granStore (x : Tile) (a n rank : Nat) (v : Word) : Tile :=
  let g := tget {} x.gran a
  let (rule, ty) := match ssEntry x a with
    | some e => (e.rule, e.ty)
    | none => (0, 1)
  let lower := { g with next := v, writer := rank }
  let g' : Granule :=
    match rule with
    | 0 => if !g.written || rank ≤ g.writer then lower else g
    | 1 => if !g.written || g.writer ≤ rank then lower else g
    | 2 => { g with next := granAdd ty (if g.written then g.next else granSeed x a n) v,
                    writer := if !g.written || g.writer == rank then rank else 0x7F }
    | _ =>
      let g := if g.written && g.writer != rank then { g with col := true } else g
      if !g.written || rank ≤ g.writer then { g with next := v, writer := rank } else g
  { x with gran := tset x.gran a { g' with written := true } }

/-- SSHARE_STORE_ARRIVAL: a store to the step-shared space arrives at the floor port; 8 bytes cover two
granules of 4 (R217). -/
def execSshareStoreArrival (t addr rank bytes : Nat) (v : Word) (s : State) :
    Host.Outcome State Fault Refusal :=
  whenever (isShared (tileOf s t) addr) s fun s =>
    updTile s t fun x =>
      if granBytes x addr = 8 && bytes == 8 then granStore x addr 8 rank v
      else
        let x := granStore x addr 4 rank ((v.setWidth 32 : Word32).setWidth 64)
        if bytes = 8 then granStore x (addr + 4) 4 rank (v >>> 32) else x

end Sys2Proof.Machine
end

