-- ==== Sys2Proof/Machine/Remote.lean ====
section
/-! DEFINITION. Remote accesses: messages and their causal clocks (spec/12 R260, R261; spec/17 R335 to R340),
page walks and remote translations as their users wait for them (spec/16 R319, R322). -/

namespace Sys2Proof.Machine

/-! ### Peers -/

/-- What the package keeps for peer index `p`, or for Ethernet entry `p - 16`. -/
def peerOf (s : State) (p : Nat) : PeerState := tget {} s.peers p
/-- Changes peer `p`. -/
def updPeer (s : State) (p : Nat) (f : PeerState → PeerState) : State :=
  { s with peers := tset s.peers p (f (peerOf s p)) }

/-! ### The message on the wire (R338, R339) -/

/-- An empty message. -/
def Msg.blank : Msg :=
  { eth := false, src := 0, dst := 0, via := 0, sctx := 0, rctx := 0, retry := false, uncomb := false,
    status := 0, seq := 0, rack := 0, recs := [], gen := 0, va := 0, id := 0, payload := [], ts := 0, tile := 0,
    eng := 0, tx := 0, tag := 0, ok := true }

/-- The 48 bytes of a header (R338). -/
def headerBytes (kind : Nat) (m : Msg) : List Byte :=
  leBytes 4 (kind + 2 ^ 4 * m.src + 2 ^ 8 * m.dst + (if m.eth then 0 else 2 ^ 12 * m.via) + 2 ^ 16 * m.sctx + 2 ^ 22 * m.rctx +
    2 ^ 28 * m.retry.toNat + 2 ^ 29 * m.uncomb.toNat + 2 ^ 30 * m.status) ++
  leBytes 4 m.seq.toNat ++ leBytes 4 m.rack.toNat ++ leBytes 4 (m.recs.length + 2 ^ 16 * m.gen.toNat) ++
  leBytes 8 m.va.toNat ++ leBytes 8 (m.id + 2 ^ 32 * m.payload.length) ++ leBytes 8 m.ts.toNat ++
  leBytes 8 (m.tile + 2 ^ 6 * m.eng + 2 ^ 8 * m.tx)

/-- The nonce of a message (R339). -/
def msgNonce (m : Msg) : BitVec 96 :=
  BitVec.ofNat 96 (m.tx + 2 ^ 56 * m.src + 2 ^ 60 * m.dst + 2 ^ 64 * m.sctx + 2 ^ 70 * m.rctx)

/-- The tag of a message under the pair secret kept for peer `p` (R339). -/
def msgTag (s : State) (p kind : Nat) (m : Msg) : BitVec 128 :=
  Config.gcmTag (Config.linkKey (peerOf s p).secret m.src m.dst m.sctx m.rctx) (msgNonce m)
    (headerBytes kind m ++ m.recs.flatMap fun w => leBytes 4 w.toNat) m.payload

/-- The flits of a message (R338). -/
def msgFlits (m : Msg) : Nat := ceilDiv (64 + 4 * m.recs.length + m.payload.length) 128

/-! ### Clock records (R260, R261) -/

/-- Entry K[q][d] of the causal clock. -/
def clockAt (s : State) (q d : Nat) : Word32 := tget 0 s.clockK (16 * q + d)

/-- The increases of one entry, in records of at most 0xFFFFFF. -/
def incPieces (n : Nat) : List Nat :=
  List.replicate (n / 0xFFFFFF) 0xFFFFFF ++ (if n % 0xFFFFFF = 0 then [] else [n % 0xFFFFFF])

/-- The records of every entry that has risen since the last message to peer `p`, in order of q, then d. -/
def clockRecords (s : State) (p : Nat) : List Word32 :=
  (List.range 256).flatMap fun i =>
    let inc := (tget 0 s.clockK i - tget 0 (peerOf s p).clockSent i).toNat
    (incPieces inc).map fun n => BitVec.ofNat 32 (i % 16 + 16 * (i / 16) + 256 * n)

/-! ### Queueing a message (R335, R336, R338 to R340) -/

/-- Whether circuit-table entry `i` is one that connects its ports (R334). -/
def circuitOk (c : Circuit) : Bool := c.v && decide (500 ≤ c.g.toNat) && decide (10000 ≤ c.l.toNat)

/-- The number of entries of a cycle (R334): sr.csctl.nm1 + 1, while the table runs. -/
def cycleLen (s : State) : Nat :=
  let w := srWord s 0x246
  if wbitAt w 0 then wfld w 1 6 + 1 else 0

/-- The peer index of port `k` in an entry (R334). -/
def circuitPeer (c : Circuit) (k : Nat) : Nat := wfld c.peers (4 * k) 4

/-- The entries of a cycle as they are written. -/
def circuitEntries (s : State) : List Circuit := (List.range (cycleLen s)).map fun i => tget {} s.circuit i

/-- The entries of the cycle that runs; before the first one, as they are written (R334). -/
def runEntries (s : State) : List Circuit :=
  if s.circuitRun.live.isEmpty then circuitEntries s else s.circuitRun.live

/-- Whether some slot of the cycle connects some port to peer `p` (R336). -/
def hasSlot (s : State) (p : Nat) : Bool :=
  p != selfIdx s && (runEntries s).any fun c => circuitOk c && (List.range 16).any fun k => circuitPeer c k == p

/-- The next hop of a message to peer index `p`: itself, an intermediate, or none (R336). -/
def routeOf (s : State) (p : Nat) : Option Nat :=
  if 16 ≤ p then some p
  else if hasSlot s p then some p
  else
    let via := wfld (srWord s 0x24B) (4 * p) 4
    if via = selfIdx s || via == p then none else some via

/-- The next hop of a message that stands in the list of peer `p`: an Ethernet entry, or an index of the group; a message on
its way through this package goes to its destination (R336). -/
def hopOf (s : State) (p : Nat) (m : Sent) : Nat := if 16 ≤ p || m.msg.via = selfIdx s then p else m.msg.via

/-- The flits queued for next hop `p` (R335). -/
def queuedFlits (s : State) (p : Nat) : Nat :=
  (s.peers.map fun x =>
    ((x.2.sent.filter fun m => hopOf s x.1 m == p).map fun m => m.left).sum).sum

/-- The next transmission number of a traffic key is taken; at 2⁵⁵ the pair secrets are to be agreed anew (R339). -/
def takeTx (s : State) (p key : Nat) : Nat × State :=
  let tx := tget 1 (peerOf s p).txNext key
  let s := updPeer s p fun x => { x with txNext := tset x.txNext key (tx + 1) }
  (tx, if 2 ^ 55 ≤ tx then scheduleOnce s (s.hc + 1) .keyReagreement else s)

/-- The frame of a message to an Ethernet entry: untagged, of the EtherType of messages (R345). -/
def framed (s : State) (p : Nat) (m : Msg) : Msg :=
  if 16 ≤ p then
    { m with etype := (srWord s 0x250).setWidth 16, mac := (tget ({} : EthPeer) s.ethPeers (p - 16)).mac, tags := 0 }
  else m

/-- Puts one message with its records into the queue towards peer `p`: the next seq of the pair, the rack,
the next tx of its traffic key, its tag. -/
def putMessage (s : State) (p kind : Nat) (m : Msg) : State :=
  let (tx, s) := takeTx s p (64 * m.sctx + m.rctx)
  let m := { framed s p m with seq := (peerOf s p).nextSeq, rack := (peerOf s p).rackIn, tx := tx }
  let m := { m with tag := msgTag s p kind m }
  let s := updPeer s p fun x =>
    { x with nextSeq := x.nextSeq + 1, ackDue := none,
             sent := x.sent ++
               [{ kind := kind, msg := m, left := msgFlits m, lastSent := s.ts, tries := 0, pass := false }] }
  scheduleOnce s (s.hc + 1) (.messageSend (if 16 ≤ p then p else m.via))

/-- Clock-only messages for records beyond the last 32 (R261); the rest goes with the message itself. -/
def clockOnlyFirst (s : State) (p : Nat) (m : Msg) : Nat → List Word32 → State × List Word32
  | 0, rs => (s, rs)
  | fuel + 1, rs =>
    if rs.length ≤ 32 then (s, rs)
    else clockOnlyFirst (putMessage s p 0xC { Msg.blank with
      eth := m.eth, src := m.src, dst := m.dst, via := m.via, ts := tsWord s, recs := rs.take 32 }) p m fuel
      (rs.drop 32)

/-- The write or atomic of kind `kind` counts in the sender's clock (R260). -/
def countSend (s : State) (p kind : Nat) : State :=
  if p < 16 && isMember s p && (kind == 1 || kind == 4) then
    { s with clockK := tset s.clockK (16 * selfIdx s + p) (clockAt s (selfIdx s) p + 1) }
  else s

/-- The records that a message to peer `p` brings: none on Ethernet, or outside the group (R261, R263). -/
def sendRecords (s : State) (p : Nat) : List Word32 := if 16 ≤ p || !isMember s p then [] else clockRecords s p

/-- Sends a message to peer `p`, whose answer `sender` awaits (R260, R261, R338). The sequence number it takes
is that of the peer after its clock-only messages (log 18: DESIGN CHOICE). -/
def postMessage (s : State) (p kind : Nat) (m : Msg) (sender : Sender) : State :=
  let self := selfIdx s
  let eth := decide (16 ≤ p)
  let s := countSend s p kind
  let m := { m with eth := eth, src := if eth then 0 else self, dst := if eth then 0 else p,
                    via := if eth then p - 16 else (routeOf s p).getD p }
  let recs := sendRecords s p
  let s := updPeer s p fun x => { x with clockSent := if eth then x.clockSent else s.clockK }
  let (s, recs) := clockOnlyFirst s p m recs.length recs
  let seq := (peerOf s p).nextSeq
  let s := putMessage s p kind { m with recs := recs }
  match sender with
  | .device => s
  | _ => updPeer s p fun x =>
      { x with waiting := x.waiting ++ [{ kind := kind, msg := { m with recs := recs, seq := seq }, sender := sender }] }

/-- The flits of a message of kind `kind` with `n` payload bytes and of the clock-only messages before it (R261, R338). -/
def postFlits (s : State) (p kind n : Nat) : Nat :=
  let recs := (sendRecords (countSend s p kind) p).length
  let first := ceilDiv recs 32 - 1
  2 * first + ceilDiv (64 + 4 * (recs - 32 * first) + n) 128

/-- Whether that many flits more fit the queue of next hop `p`: 65,536 (R335). -/
def queueTakes (s : State) (p flits : Nat) : Bool := decide (queuedFlits s p + flits ≤ 65536)

/-- Whether a new access with `n` payload bytes fits the queue of its next hop; new accesses wait while a change of the group
is pending (R335, R337). -/
def queueRoom (s : State) (p kind n : Nat) : Bool :=
  s.cgrpPend.isNone && queueTakes s ((routeOf s p).getD p) (postFlits s p kind n)

/-- A message of the device's own to peer `p`, or, `pass`, one on its way there through this package, enters the queue if it fits
(R335, R336). -/
def enterQueue (s : State) (p : Nat) (pass : Bool) (kind : Nat) (m : Msg) : Option State :=
  if pass then
    if queueTakes s p (msgFlits m) then
      some (scheduleOnce
        (updPeer s p fun x => { x with sent := x.sent ++
          [{ kind := kind, msg := m, left := msgFlits m, lastSent := s.ts, tries := 0, pass := true }] })
        (s.hc + 1) (.messageSend p))
    else none
  else if queueTakes s ((routeOf s p).getD p) (postFlits s p kind m.payload.length) then some (postMessage s p kind m .device)
  else none

/-- It enters the queue, or waits behind those that wait for room there already (R335). -/
def enterOrWait (s : State) (p : Nat) (pass : Bool) (kind : Nat) (m : Msg) : State :=
  match (if (peerOf s p).backlog.isEmpty then enterQueue s p pass kind m else none) with
  | some s => s
  | none => updPeer s p fun x => { x with backlog := x.backlog ++ [(pass, kind, m)] }

/-- A message of the device's own to peer `p`. -/
def postDevice (s : State) (p kind : Nat) (m : Msg) : State := enterOrWait s p false kind m

/-- The messages that have waited for room enter the queue of peer `p` in turn, as far as they fit (R335). -/
def drainList (s : State) (p : Nat) : List (Bool × Nat × Msg) → State
  | [] => s
  | e :: r =>
    match enterQueue s p e.1 e.2.1 e.2.2 with
    | some s => drainList (updPeer s p fun x => { x with backlog := r }) p r
    | none => s

/-- The same for every peer. -/
def drainBacklog (s : State) : State := s.peers.foldl (fun s x => drainList s x.1 (peerOf s x.1).backlog) s

/-- The pair of a message: an index of the group, or 16 and the peer-table entry of an Ethernet frame. -/
def msgPeer (m : Msg) : Nat := if m.eth then 16 + m.via else m.src

/-- The number by which a waiting message is named: its pair and its sequence number. -/
def heldName (m : Msg) : Nat := 2 ^ 32 * msgPeer m + m.seq.toNat

/-- The waiting messages look again whether they may be applied (R262). -/
def lookHeld (s : State) : State := s.cwHeld.foldl (fun s h => scheduleOnce s s.hc (.heldMessageApply (heldName h.msg))) s

/-! ### Faults of an access -/

/-- The address of the first bundle that a core has not issued. -/
def nextBundle (s : State) (c : CoreId) : Word :=
  let t := coreTask s c
  match bundleAt t (minPos t) with
  | some b => b.addr
  | none => t.flow.next

/-- An imprecise fault of an access of a task slot, or class 0x05 on the bellows core (R318, R373). -/
def accessFault (s : State) (t k code : Nat) (va : Word) : State :=
  if t = 64 then bellowsEnter s 0x05 0 (nextBundle s .bellows)
  else raiseFault s (coreCtx s (.tile t k)) code (unitId t k) va false

/-! ### Waiting for a translation (R319, R322) -/

/-- The walks that run: the first 512, in arrival order (R319). -/
def walkers : Nat := 512

/-- Walks that come to have a walker set out (R319). -/
def wakeWalks (s : State) : State :=
  ((s.walks.take walkers).filter fun w => !w.remote && !s.events.any fun e => e.ev == .translationWalkEnd w.n).foldl
    (fun s w => scheduleOpen s (.translationWalkEnd w.n)) s

/-- A walk has ended: its walker takes the one that has waited longest. -/
def dropWalk (s : State) (n : Nat) : State := wakeWalks { s with walks := s.walks.filter fun w => w.n != n }

/-- A walk has found its page remote and asks the target, or asks it again. -/
def Walk.asks (w : Walk) (pkg : Nat) : Walk := { w with remote := true, pkg := pkg, tries := w.tries + 1 }

/-- Sends a translation request for a walk that ended at a remote leaf (R322) (log 19: DESIGN CHOICE). -/
def requestXlat (s : State) (w : Walk) (l : Leaf) : State :=
  let s := { s with walks := s.walks.map fun x => if x.n = w.n then w.asks l.pkg else x }
  let s := postMessage s l.pkg 0x8
    { Msg.blank with sctx := w.ctx, rctx := l.rctx, va := w.va, ts := tsWord s, payload := [if w.write then 1 else 0] }
    (.walk w.n)
  schedule s (s.hc + usToHc (wfld (srWord s 0x210) 0 16)) (.remoteTranslationRetry w.n)

/-- Whether a walk of a context has found the page of an address remote and waits for its target. -/
def askedRemote (s : State) (ctx : Nat) (va : Word) : Bool :=
  s.walks.any fun w => w.remote && w.ctx == ctx && samePage s ctx w.va va

/-- A miss starts a page walk, or shares the one of its page (R319). -/
def startWalk (s : State) (t k ctx : Nat) (va : Word) (write far unit : Bool) : State :=
  let miss := fun (s : State) => if t = 64 then s else countMiss s t false
  match s.walks.find? fun w => w.ctx == ctx && samePage s ctx w.va va with
  | some w =>
    if (w.tile, w.task, w.unit) = (t, k, unit) || w.also.contains (t, k, unit) then s
    else miss { s with walks := s.walks.map fun x => if x.n = w.n then { x with also := x.also ++ [(t, k, unit)] } else x }
  | none =>
    let s := miss s
    wakeWalks
      { s with walkSeq := s.walkSeq + 1,
               walks := s.walks ++ [{ n := s.walkSeq, tile := t, task := k, ctx := ctx, va := va, write := write, remote := false,
                                      pkg := 0, tries := 0, far := far, unit := unit }] }

/-- The caches take the leaf that a walk has found, for every tile that waits for it. -/
def endWalk (s : State) (w : Walk) : State :=
  ((w.tile :: w.also.map (·.1)).filter (· < 64)).foldl (fun s t => fillXlat s t w.ctx w.va) s

/-- Whether a tile's micro-TLB holds a translation now, with the state after the look-up: a hit in the hearth
TLB fills the micro-TLB, a miss there starts a walk (R319). An address outside the tables' range starts none (R316); the bellows
core has no micro-TLB. -/
def ensureXlat (s : State) (t k ctx : Nat) (va : Word) (write far : Bool) : Bool × State :=
  if t = 64 || wfld va 48 16 ≠ 0 || inUtlb s t ctx va then (true, s)
  else if inHtlb s ctx va then (true, noteXlat s t ctx va)
  else (false, startWalk s t k ctx va write far false)

/-- The same for a unit that works for task slot `k`: it waits for the walk of a local page; a translation that fails does so at
once (R319, log 126: DESIGN CHOICE). -/
def ensureUnit (s : State) (t k ctx : Nat) (va : Word) (write : Bool) : Bool × State :=
  match translate s (rootOf s ctx) va write with
  | .here _ =>
    if inUtlb s t ctx va || inHtlb s ctx va then (true, noteXlat s t ctx va) else (false, startWalk s t k ctx va write true true)
  | .fault _ | .remote _ => (true, noteXlat s t ctx va)

end Sys2Proof.Machine
end

