-- ==== Sys2Proof/Machine/GlobalMem.lean ====
section
/-! DEFINITION. The global and remote loads and stores, cfence, and the events that perform and answer them
(spec/12 R253 to R257, R268 to R270; spec/16 R318, R321). -/

namespace Sys2Proof.Machine

open Sys2Proof.Operands

/-! ### The accesses of a source in order (R256) -/

/-- The first access of a task that is not yet performed in the package (R256, R257). -/
def firstUnsent (t : Task) : Option GAcc := t.gacc.find? fun a => !a.sent

/-- The event that performs an access. -/
def performEvent (t k : Nat) (a : GAcc) : Instr :=
  if a.load then .globalLoadReply t k a.n else .globalWritePerform t k

/-- The next access of a source sets out for its home; no bound on the time (R268). -/
def kickGlobal (s : State) (t k : Nat) : State :=
  match firstUnsent (coreTask s (nameCore t k)) with
  | some a =>
    if s.events.any (fun p => p.ev == performEvent t k a) then s else scheduleOpen s (performEvent t k a)
  | none => s

/-- Takes an access off its source's list. -/
def dropAccess (s : State) (t k n : Nat) : State :=
  updCore s (nameCore t k) fun x => { x with gacc := x.gacc.filter fun a => a.n != n }

/-- Whether the stop records of a core's context are closed (R303). -/
def recordsClosed (s : State) (c : CoreId) : Bool := (ctxOf s (coreCtx s c)).st == .halted

/-- A load ends with a value: its register is written and full, or, in a stopped task, the value joins the
pending writes with no latency left; one that ends after the records have closed is issued again by a restore (R303). A
bellows core that waits for it goes on (R268). -/
def finishLoad (s : State) (t k : Nat) (a : GAcc) (v : Word) : State :=
  let c := nameCore t k
  if (coreTask s c).st = .stopped && recordsClosed s c then
    updCore s c fun x => { x with gacc := x.gacc.map fun b => if b.n = a.n then { b with sent := false } else b }
  else
  let s := dropAccess s t k a.n
  if (coreTask s c).st = .stopped then
    updCore s c fun x =>
      { x with outst := x.outst.filter (fun o => o.reg != .s a.sd),
               pend := if a.sd = 0 then x.pend else x.pend ++ [⟨0, .s a.sd, v.setWidth 4096, 0, .M⟩] }
  else
    let s := fillReg s c (.s a.sd) fun x => writeS x a.sd v
    if t = 64 && s.bellows.st == .waitingLoad then { s with bellows := { s.bellows with st := .running } } else s

/-- An access ends in a fault: a load gives 0, a store is not performed (R268, R318). -/
def failAccess (s : State) (t k : Nat) (a : GAcc) (code : Nat) : State :=
  let s := if a.load then finishLoad s t k a 0 else dropAccess s t k a.n
  kickGlobal (accessFault s t k code a.va) t k

/-- The access counts as performed in the package (R257); the next one sets out. -/
def markSent (s : State) (t k : Nat) (a : GAcc) (v : Word) : State :=
  kickGlobal (updCore s (nameCore t k) fun x =>
    { x with gacc := x.gacc.map fun b => if b.n = a.n then { b with sent := true, val := v } else b }) t k

/-- The access is looked at again in the next hc. -/
def retryAccess (s : State) (t k : Nat) (a : GAcc) : State :=
  scheduleOnce s (s.hc + 1) (performEvent t k a)

/-- A local access at its home (R255). -/
def performLocal (s : State) (t k ctx : Nat) (a : GAcc) (l : Leaf) : State :=
  if a.remote then failAccess s t k a 0x24
  else if a.load then
    scheduleOpen (markSent s t k a (BitVec.ofNat 64 (leNat (pageBytes s l a.va 8)))) (.globalLoadReply t k a.n)
  else if l.seal then failAccess s t k a 0x22
  else
    let s := writePage s ctx l a.va (leBytes 8 a.val.toNat)
    kickGlobal (dropAccess (if t = 64 then seeQueueStore s (l.writePa a.va) else s) t k a.n) t k

/-- A remote access leaves the package (R257): a write or a read message to the target. -/
def performRemote (s : State) (t k ctx : Nat) (a : GAcc) (l : Leaf) : State :=
  if !a.remote then failAccess s t k a 0x24
  else match remoteXlat s ctx a.va with
    | none => retryAccess (startWalk s t k ctx a.va (!a.load) true false) t k a
    | some r =>
      if !a.load && r.sealed then failAccess s t k a 0x22
      else if !a.load && !r.w then failAccess s t k a 0x2C
      else if (routeOf s l.pkg).isNone then failAccess s t k a 0x48
      else if !queueRoom s l.pkg (if a.load then 2 else 1) (if a.load then 0 else 8) then retryAccess s t k a
      else
        let m := { Msg.blank with
          sctx := ctx % 64, rctx := r.rctx, gen := r.gen, va := a.va, ts := tsWord s, tile := t % 64, eng := k,
          payload := if a.load then [] else leBytes 8 a.val.toNat }
        markSent (postMessage s l.pkg (if a.load then 2 else 1) m (.slot t k a.n)) t k a a.val

/-- The fault of a failed translation: that of an rst to a package outside the connected group is the routing fault (R270,
R318, log 98: DEDUCED). -/
def walkCode (s : State) (ctx : Nat) (va : Word) (code : Nat) (rst : Bool) : Nat :=
  if rst && code == 0x2B && outsideGroup s (rootOf s ctx) va then 0x48 else code

/-- Whether a store stands behind the trigger of a nib request whose x is not read yet: that read comes before it (R164). -/
def behindNib (s : State) (t k : Nat) (a : GAcc) : Bool :=
  !a.load && (tileOf s t).nib.any fun r => r.task == k && r.x.isNone && decide (r.after ≤ a.n)

/-- The translation by which an access is performed: that of a local store was there when it issued (R321, R326). -/
def accessXlat (s : State) (ctx : Nat) (a : GAcc) : Xlat :=
  if a.load || a.remote then translate s (rootOf s ctx) a.va (!a.load) else translateAt s ctx a.va true a.issuedTs

/-- Whether it has its translation now; a store to a page that has been unmapped since it issued has (R319, R326). -/
def accessReady (s : State) (t k ctx : Nat) (a : GAcc) : Bool × State :=
  if !a.load && !a.remote && (oldLeaf s ctx a.va a.issuedTs).isSome then (true, s)
  else ensureXlat s t k ctx a.va (!a.load) a.remote

/-- Performs the first access of a source that is not yet performed (R256, R318). -/
def performHead (s : State) (t k : Nat) : State :=
  match firstUnsent (coreTask s (nameCore t k)) with
  | none => s
  | some a =>
    if behindNib s t k a then retryAccess s t k a else
    let ctx := coreCtx s (nameCore t k)
    if !a.remote && askedRemote s ctx a.va then failAccess s t k a 0x24
    else match accessReady s t k ctx a with
    | (false, s) => retryAccess s t k a
    | (true, s) =>
      match accessXlat s ctx a with
      | .fault code => failAccess s t k a (walkCode s ctx a.va code (a.remote && !a.load))
      | .here l => performLocal s t k ctx a l
      | .remote l => performRemote s t k ctx a l

/-- GLOBAL_WRITE_PERFORM: the next write of a source is performed at its home bank, or leaves the package, in
source order (R255 to R257). -/
def execGlobalWritePerform (t k : Nat) (s : State) : Host.Outcome State Fault Refusal :=
  whenever (match firstUnsent (coreTask s (nameCore t k)) with
    | some a => !a.load
    | none => false) s fun s => performHead s t k

/-- GLOBAL_LOAD_REPLY: a load of a source is performed when its turn comes, and its value then arrives and
fills its register (R256, R268). -/
def execGlobalLoadReply (t k n : Nat) (s : State) : Host.Outcome State Fault Refusal :=
  let x := coreTask s (nameCore t k)
  match x.gacc.find? fun a => a.n == n && a.load with
  | none => .next s
  | some a =>
    if a.sent then whenever (!a.remote) s fun s => finishLoad s t k a a.val
    else whenever ((firstUnsent x).map (·.n) == some n && !(x.st == .stopped && recordsClosed s (nameCore t k))) s
      fun s => performHead s t k

/-! ### The forms (R268, R321) -/

/-- The virtual address of a form: x + sext(off) (R268). -/
def globalAddr (s : State) (sa : BitVec 6) (off : BitVec 12) (l : Lend) : Word := srcS s sa + sextImm off l

/-- The next access of the issuing source. -/
def addAccess (s : State) (load remote : Bool) (va val : Word) (sd : BitVec 6) : State :=
  let name := coreName s.cur.core
  let s := updCur s fun x =>
    { x with gaccNext := x.gaccNext + 1,
             gacc := x.gacc ++ [⟨x.gaccNext, load, remote, va, val, sd, s.ts, false, curEntry s⟩] }
  kickGlobal s name.1 name.2

/-- A load issues: its register is marked empty and the access sets out (R63, R268). -/
def loadIssue (s : State) (remote : Bool) (va : Word) (sd : BitVec 6) : State :=
  let unit := if remote then 10 else 14
  addAccess (startLong s (.s sd) unit (curTask s).gaccNext) true remote va 0 sd

/-- gld (R268). -/
def execGld (o : MSl) (s : State) : Host.Outcome State Fault Refusal :=
  gate (.gld o) s fun s =>
    let va := globalAddr s o.sa o.off o.lend
    if va.toNat % 8 ≠ 0 then .fault 0x23 else .issue (loadIssue s false va o.sd)

/-- rld: the task parks at issue; the bellows core stalls until sd is full (R268). -/
def execRld (o : MSl) (s : State) : Host.Outcome State Fault Refusal :=
  gate (.rld o) s fun s =>
    let va := globalAddr s o.sa o.off o.lend
    if va.toNat % 8 ≠ 0 then .fault 0x23
    else
      let s' := loadIssue s true va o.sd
      if onBellows s then .issue { s' with bellows := { s'.bellows with st := .waitingLoad } }
      else .issuePark s' (.rld (.s o.sd))

/-- Whether the page of a store is sealed as the translation shows it (R321, R322). -/
def storeSealed (s : State) (ctx : Nat) (va : Word) : Bool :=
  match translate s (rootOf s ctx) va false with
  | .here l => l.seal
  | .remote _ => match remoteXlat s ctx va with
    | some r => r.sealed
    | none => false
  | .fault _ => false

/-- Whether a remote store's message does not fit its send queue (R335). -/
def storeNoRoom (s : State) (ctx : Nat) (va : Word) : Bool :=
  match translate s (rootOf s ctx) va false with
  | .remote l => !queueRoom s l.pkg 1 8
  | _ => false

/-- gst and rst: the M queue waits for the micro-TLB, then posts the store (R268, R321, R335). -/
def storeBody (remote : Bool) (va val : Word) (s : State) : Verdict :=
  if va.toNat % 8 ≠ 0 then .fault 0x23
  else
    let ctx := coreCtx s s.cur.core
    let name := coreName s.cur.core
    match ensureXlat s name.1 name.2 ctx va true remote with
    | (false, s) => .stall s
    | (true, s) =>
      if storeSealed s ctx va then .fault 0x22
      else if remote && storeNoRoom s ctx va then .stall s
      else .issue (addAccess s false remote va val 0)

/-- gst (R268). -/
def execGst (o : MSs) (s : State) : Host.Outcome State Fault Refusal :=
  gate (.gst o) s fun s => storeBody false (globalAddr s o.sa o.off o.lend) (srcS s o.sc) s

/-- rst (R268). -/
def execRst (o : MSs) (s : State) : Host.Outcome State Fault Refusal :=
  gate (.rst o) s fun s => storeBody true (globalAddr s o.sa o.off o.lend) (srcS s o.sc) s

/-! ### cfence (R269) -/

/-- Whether a store in flight counts for cfence: every kind but a tag change and a register write. -/
def StoreKind.isData : StoreKind → Bool
  | .floor _ | .lanes _ | .well _ | .share _ _ => true
  | .tag _ _ _ | .sr _ _ => false

/-- Whether something that a cfence of the issuing slot awaits is still open: earlier stores and global
accesses, and the commands accepted before hc `since` (R269). -/
def fenceOpen (s : State) (since : Nat) : Bool :=
  let t := curTask s
  !t.gacc.isEmpty ||
  (if onBellows s then s.bellows.stores.any fun p => p.kind.isData
   else
    let x := tileOf s (curTile s)
    let k := curSlot s
    x.stores.any (fun p => p.task == k && p.kind.isData) ||
    x.cpy.any (fun e => e.2.cmds.any fun c => c.task == k && decide (c.acceptedAt < since)) ||
    x.lnk.any fun c => c.task == k && decide (c.acceptedAt < since))

/-- cfence: the M queue stalls until everything earlier of its slot is performed or has ended (R269). -/
def execCfence (s : State) : Host.Outcome State Fault Refusal :=
  gate .cfence s fun s =>
    let since := match (curTask s).fenceAt with
      | some (n, h) => if n = s.cur.n then h else s.hc
      | none => s.hc
    if fenceOpen s since then .stall (updCur s fun x => { x with fenceAt := some (s.cur.n, since) })
    else .issue (updCur s fun x => { x with fenceAt := none })

/-! ### Page walks (R318, R319, R322) -/

/-- A walk of a task slot ends in a fault: it is raised in the owning context and ends the access that waits for it; a unit finds
it itself (R318). -/
def failWalk (s : State) (w : Walk) (code : Nat) : State :=
  if w.unit then s
  else match firstUnsent (coreTask s (nameCore w.tile w.task)) with
  | some a => if a.va = w.va && a.load == !w.write then failAccess s w.tile w.task a code
      else accessFault s w.tile w.task code w.va
  | none => accessFault s w.tile w.task code w.va

/-- TRANSLATION_WALK_END: a page walk ends: the caches take the leaf, a remote leaf asks its target, once the message fits its
queue (R335), or is a page-kind fault for gld and gst (R268), or a routing fault where the target cannot be reached (R336), and a
fault ends the access that waits for it. -/
def execTranslationWalkEnd (n : Nat) (s : State) : Host.Outcome State Fault Refusal :=
  match s.walks.find? fun w => w.n == n && !w.remote with
  | none => .next s
  | some w =>
    let ended := dropWalk s n
    match translate s (rootOf s w.ctx) w.va w.write with
    | .fault code => .next (failWalk ended w (walkCode s w.ctx w.va code (w.far && w.write)))
    | .here _ => .next (endWalk ended w)
    | .remote l =>
      if !w.far then .next (failWalk ended w 0x24)
      else if (remoteXlat s w.ctx w.va).isSome then .next (endWalk ended w)
      else if (routeOf s l.pkg).isNone then .next (failWalk ended w 0x48)
      else if !queueRoom s l.pkg 8 1 then .next (scheduleOnce s (s.hc + 1) (.translationWalkEnd n))
      else .next (requestXlat s w l)

end Sys2Proof.Machine
end

