-- ==== Sys2Proof/Machine/Transposer.lean ====
section
/-! DEFINITION. The transposer and the T class (spec/05 R127 to R131). -/

namespace Sys2Proof.Machine

open Sys2Proof.Operands

/-- The element width of a mode (R128). -/
def xpWidth (x : Xpose) : Nat := if x.mode = 0 then 32 else if x.mode = 1 then 16 else 8

/-- Whether the transposer is busy (R130): a block is filling or complete, or a pop is outstanding. -/
def Xpose.busy (x : Xpose) : Bool := decide (128 * (x.n / 128) < x.m) || !x.pops.isEmpty

/-- Whether another slot owns a busy transposer (R130). -/
def Xpose.foreign (x : Xpose) (k : Nat) : Bool := x.busy && x.owner != k

/-- Output vector `k` of block `b` (R128): element 128c + r is element g·k + c of row r. -/
def xpOutput (x : Xpose) (b k : Nat) : VWord :=
  let w := xpWidth x
  let g := 32 / w
  fromElems w (128 * g) fun e => elem (tget 0 x.rows (128 * b + e % 128)) w (g * k + e / 128)

/-- The hc at which a pop writes its vector, once its block is complete (R129). -/
def popDue (x : Xpose) (p : Pop) : Option Nat :=
  match p.zeroAt with
  | some h => some h
  | none => (x.done.find? fun d => d.1 == p.n / 128).map fun d => max (p.issued + 2) (d.2 + 8)

/-- Schedules the results of the outstanding pops whose time is known. -/
def schedulePops (s : State) (t : Nat) : List Pop → State
  | [] => s
  | p :: r =>
    let s := match popDue (tileOf s t).xp p with
      | some h => scheduleOnce s (max h s.hc) (.tpopResult t p.id)
      | none => s
    schedulePops s t r

/-- Rows of blocks that are free and awaited by no pop are dropped. -/
def Xpose.tidy (x : Xpose) : Xpose :=
  { x with rows := x.rows.filter fun r =>
      decide (x.n < 128 * (r.1 / 128 + 1)) || x.pops.any fun p => p.zeroAt.isNone && p.n / 128 == r.1 / 128 }

/-- Changes the transposer of the executing tile. -/
def updXp (s : State) (f : Xpose → Xpose) : State := updTile s (curTile s) fun x => { x with xp := f x.xp }

/-- trin: the next row, refused while block b − 2 has pops to issue (R127, R128). The manual does not order the checks of a
T word: empty registers and pending words come before the fault of a foreign slot, as for every word (log 104: DEDUCED). -/
def execTrin (o : TI) (s : State) : Host.Outcome State Fault Refusal :=
  gate (.trin o) s fun s =>
    let x := (tileOf s (curTile s)).xp
    if x.foreign (curSlot s) then .fault 0x15
    else if 2 ≤ x.m / 128 && decide (x.n < 128 * (x.m / 128 - 1)) then .stall s
    else
      let v := srcV s o.va
      let s := updXp s fun x =>
        { x with owner := if x.busy then x.owner else curSlot s, m := x.m + 1, rows := tset x.rows x.m v,
                 done := if x.m % 128 = 127 then tset x.done (x.m / 128) s.hc else x.done }
      .issue (schedulePops s (curTile s) (tileOf s (curTile s)).xp.pops)

/-- tpop: marks vd empty and asks for the next output vector (R128, R129). -/
def execTpop (o : TP) (s : State) : Host.Outcome State Fault Refusal :=
  gate (.tpop o) s fun s =>
    let x := (tileOf s (curTile s)).xp
    if x.foreign (curSlot s) then .fault 0x15
    else
      let s := startLong s (.v o.vd) 11 x.popSeq
      let s := updXp s fun x =>
        { x with owner := if x.busy then x.owner else curSlot s, n := x.n + 1, popSeq := x.popSeq + 1,
                 pops := x.pops ++ [⟨x.popSeq, x.n, o.vd, s.hc, none⟩] }
      .issue (schedulePops s (curTile s) (tileOf s (curTile s)).xp.pops)

/-- What tclr does (R128): the blocks are free, the counts 0, every outstanding pop writes zeros at hc + 1. -/
def clearXp (s : State) (t mode : Nat) : State :=
  let s := updTile s t fun x => { x with xp :=
    { x.xp with mode := mode, m := 0, n := 0, rows := [], done := [],
                pops := x.xp.pops.map fun p => { p with zeroAt := some (p.zeroAt.getD (s.hc + 1)) } } }
  schedulePops s t (tileOf s t).xp.pops

/-- tmode (R128). -/
def execTmode (o : TM) (s : State) : Host.Outcome State Fault Refusal :=
  gate (.tmode o) s fun s =>
    if (tileOf s (curTile s)).xp.foreign (curSlot s) then .fault 0x15
    else .issue (clearXp s (curTile s) o.mode.toNat)

/-- tclr (R128). -/
def execTclr (s : State) : Host.Outcome State Fault Refusal :=
  gate .tclr s fun s =>
    let x := (tileOf s (curTile s)).xp
    if x.foreign (curSlot s) then .fault 0x15 else .issue (clearXp s (curTile s) x.mode)

end Sys2Proof.Machine
end

