-- ==== Sys2Proof/Machine/Latch.lean ====
section
/-! DEFINITION. The latch forms of the E class, ewait and wmwait (spec/08 R186, R195, R196; spec/06 R158,
R164; spec/17 R343), the waits on engines as their work ends, and the transposer's results. -/

namespace Sys2Proof.Machine

open Sys2Proof.Operands

/-! ### The read-only state latches (R137, R161, R185, R342) -/

/-- cpyN.stat: commands not yet ended and the state of the running one (R185). -/
def cpyStat (e : CopyEng) : Nat :=
  e.cmds.length + 16 * (match e.cmds.head? with
    | some c => (match c.st with | .queued => 0 | .fetching => 1 | .landing => 2)
    | none => 0)

/-- The mask of the layers of the operations in some states. -/
def layerBits (ops : List CubeOp) (f : CubeSt → Bool) : Nat :=
  packNat 1 ((List.range 8).map fun l => if ops.any fun o => f o.st && o.layers.contains l then 1 else 0)

/-- cube.stat (R137, R148). -/
def cubeStat (x : Tile) : Nat :=
  layerBits x.cubeOps (fun c => c == .running || c == .rising) +
  2 ^ 8 * layerBits x.cubeOps (fun c => c == .accepted || c == .resolving || c == .staging || c == .staged) +
  2 ^ 16 * layerBits x.cubeOps (fun c => c == .awaiting || c == .draining) + 2 ^ 24 * x.cubeDone.toNat

/-- nib.stat: the request numbers outstanding (R161). -/
def nibStat (x : Tile) : Nat :=
  packNat 1 ((List.range 16).map fun i => if x.nib.any fun r => r.id == i then 1 else 0)

/-- The value of a latch as the executing slot reads it at this hc (R138, R186). -/
def latchValue (s : State) (n : Nat) : Word :=
  let x := tileOf s (curTile s)
  let b := n / 64
  let i := n % 64
  if b < 4 && i == 8 then BitVec.ofNat 64 (cpyStat (tget {} x.cpy b))
  else if n = 0x109 then BitVec.ofNat 64 (cubeStat x)
  else if n = 0x145 then BitVec.ofNat 64 (nibStat x)
  else if n = 0x184 then BitVec.ofNat 64 x.lnk.length
  else shownLatch n (latchIn (curTask s).lat n)

/-! ### Latch forms (R186) -/

/-- A write of a latch at the issue hc: the bits of its width (R62); the read-only latches keep what they hold. -/
def writeLatch (s : State) (n : Nat) (v : Word) : State :=
  let m := latchMask n
  if m = 0 then s
  else updCur s fun x => { x with lat := tset x.lat n (v &&& m) }

/-- mvl: latch ← x (R186). -/
def execMvl (o : EL) (s : State) : Host.Outcome State Fault Refusal :=
  gate (.mvl o) s fun s => .issue (writeLatch s o.latch.toNat (srcS s o.sa))

/-- mvli: latch ← sext(i) (R186). -/
def execMvli (o : EI) (s : State) : Host.Outcome State Fault Refusal :=
  gate (.mvli o) s fun s => .issue (writeLatch s o.latch.toNat (sextImm o.imm o.lend))

/-- mvlh: the top w bits ← i, the lower bits kept (R186). -/
def execMvlh (o : EI) (s : State) : Host.Outcome State Fault Refusal :=
  gate (.mvlh o) s fun s =>
    let w := immWidth 16 o.lend
    let old := latchIn (curTask s).lat o.latch.toNat
    .issue (writeLatch s o.latch.toNat
      (BitVec.ofNat 64 (immNat o.imm o.lend * 2 ^ (64 - w) + old.toNat % 2 ^ (64 - w))))

/-- mvs: sd ← zext(latch) at 2 hc (R186). -/
def execMvs (o : ES) (s : State) : Host.Outcome State Fault Refusal :=
  gate (.mvs o) s fun s => .issue (writeLaterS s o.sd (latchValue s o.latch.toNat) 2)

/-! ### Waits on engines (R158, R195, R196) -/

/-- The layers that a snapshot's operation uses: its mask, or in plane mode the layer that its element chooses
(R134, R135). -/
def snapLayers (c : CubeSnap) : List Nat :=
  let mask := (List.range 8).filter fun l => wbitAt (latchIn c.lat 0x102) l
  let ctl := latchIn c.lat 0x100
  if wbitAt ctl 0 && wbitAt ctl 1 then
    (match mask[(c.elem.getD 0) % mask.length]? with
     | some l => [l]
     | none => [])
  else mask

/-- Whether some layer of a list is named by a join (R158): all of them for 0. -/
def joins (join : Nat) (ls : List Nat) : Bool := join == 0 || ls.any fun l => join / 2 ^ l % 2 == 1

/-- The work of a task slot that an ewait on a unit awaits (R158, R164, R196, R343, R129): pairs of a kind and
a number. A copy's follow-on operation counts from the copy's acceptance on (R197). -/
def openWork (s : State) (t k unit join : Nat) : List (Nat × Nat) :=
  let x := tileOf s t
  let mine := fun (e : CopyEng) => e.cmds.filter fun c => c.task == k
  if unit < 4 then (mine (tget {} x.cpy unit)).map fun c => (unit, c.n)
  else if unit = 4 then
    ((x.cubeOps.filter fun o => o.st != .complete && o.task == k && joins join o.layers).map fun o => (4, o.trig)) ++
    (x.cpy.flatMap fun e =>
      ((mine e.2).filterMap fun c => c.follow.bind fun f => if joins join (snapLayers f) then some (8, c.n) else none) ++
      ((e.2.follow.filter fun f => f.2.1 == k && joins join (snapLayers f.2.2.1)).map fun f => (8, f.1)))
  else if unit = 5 then (x.nib.filter fun r => r.task == k).map fun r => (5, r.id)
  else if unit = 6 then (x.lnk.filter fun c => c.task == k).map fun c => (6, c.n)
  else x.xp.pops.map fun p => (7, p.id)

/-- Whether a piece of work recorded by an ewait of slot `k` has not ended. -/
def workOpen (s : State) (t k : Nat) (w : Nat × Nat) : Bool :=
  let x := tileOf s t
  if w.1 < 4 then (tget {} x.cpy w.1).cmds.any fun c => c.n == w.2
  else if w.1 = 4 then x.cubeOps.any fun o => o.st != .complete && o.trig == w.2
  else if w.1 = 5 then x.nib.any fun r => r.task == k && r.id == w.2
  else if w.1 = 6 then x.lnk.any fun c => c.n == w.2
  else if w.1 = 7 then x.xp.pops.any fun p => p.id == w.2
  else
    x.cpy.any (fun e => e.2.cmds.any (fun c => c.n == w.2) ||
      e.2.follow.any fun f => f.1 == w.2) ||
    x.cubeOps.any fun o => o.st != .complete && o.origin == some w.2

/-- Whether a watermark channel is idle or has reached a level (R195). -/
def wmReached (x : Tile) (ch level : Nat) : Bool :=
  let c : Watermark := tget {} x.wm ch
  !c.armed || decide (level ≤ c.wm)

/-- Whether a wait of a task slot on an engine or a watermark is over. -/
def waitOver (s : State) (t k : Nat) (w : Wait) : Bool :=
  match w with
  | .engine _ => (taskOf s t k).ewait.all fun w => !workOpen s t k w
  | .watermark ch level => wmReached (tileOf s t) ch level
  | _ => false

/-- Ends the waits of task slot `k` of tile `t` that are over. -/
def checkSlot (s : State) (t k : Nat) : State :=
  ((taskOf s t k).wait :: (taskOf s t k).also).foldl (fun s w => if waitOver s t k w then wake s t k w else s) s

/-- Ends the waits of tile `t` that are over (R91, R196). -/
def checkWaits (s : State) (t : Nat) : State := [0, 1, 2, 3].foldl (fun s k => checkSlot s t k) s

/-- Whether a wait is on an engine: a second ewait of a bundle awaits what the first does too (R91). -/
def Wait.onEngine : Wait → Bool
  | .engine _ => true
  | .none | .reg _ | .rld _ | .barrier _ | .watermark _ _ => false

/-- ewait: completes at issue when there is nothing to await, else the task parks (R196). -/
def execEwait (o : EW) (s : State) : Host.Outcome State Fault Refusal :=
  gate (.ewait o) s fun s =>
    let join := (latchIn (curTask s).lat 0x108).toNat
    let w := openWork s (curTile s) (curSlot s) o.unit.toNat join
    if w.isEmpty then .issue s
    else .issuePark (updCur s fun x => { x with ewait := if x.wait.onEngine then x.ewait ++ w else w }) (.engine o.unit.toNat)

/-- wmwait: completes once the channel is idle or has reached x[23:0] (R195). -/
def execWmwait (o : EM) (s : State) : Host.Outcome State Fault Refusal :=
  gate (.wmwait o) s fun s =>
    let level := wfld (srcS s o.sa) 0 24
    if wmReached (tileOf s (curTile s)) o.wm.toNat level then .issue s
    else .issuePark s (.watermark o.wm.toNat level)

/-! ### Results of pops (R129) -/

/-- TPOP_RESULT: an outstanding pop writes its vector, or zeros after a tclr, when its time has come. -/
def execTpopResult (t n : Nat) (s : State) : Host.Outcome State Fault Refusal :=
  let x := (tileOf s t).xp
  match x.pops.find? fun p => p.id == n with
  | none => .next s
  | some p =>
    whenever ((match popDue x p with | some h => decide (h ≤ s.hc) | none => false) &&
        (taskOf s t x.owner).st != .stopped) s fun s =>
      let v := if p.zeroAt.isSome then 0 else xpOutput x (p.n / 128) (p.n % 128)
      let s := updTile s t fun y =>
        { y with xp := ({ y.xp with pops := y.xp.pops.filter fun q => q.id != n } : Xpose).tidy }
      checkWaits (fillReg s (.tile t x.owner) (.v p.vd) fun y => writeV y p.vd (BitVec.allOnes 4096) v) t

end Sys2Proof.Machine
end

