-- ==== Sys2Proof/Machine/Engine.lean ====
section
/-! DEFINITION. What the engines of a tile share: writes at the floor port (spec/07 R178), claims of floor slots (R169
to R172), the error banks (spec/15 R314), the consumption of an error with the rewind of a task (R311 to R313), and copy commands as data
(spec/08 R185 to R188). -/

namespace Sys2Proof.Machine

/-! ### A command's latches (R185), by index within the engine's block -/

def CopyCmd.l (c : CopyCmd) (i : Nat) : Word := latchIn c.lat i
def CopyCmd.ctl (c : CopyCmd) : Word := c.l 0
def CopyCmd.ssp (c : CopyCmd) : Nat := wfld c.ctl 0 2
def CopyCmd.dsp (c : CopyCmd) : Nat := wfld c.ctl 2 2
def CopyCmd.mc (c : CopyCmd) : Bool := wbitAt c.ctl 18
def CopyCmd.tagm (c : CopyCmd) : Nat := wfld c.ctl 19 2
def CopyCmd.evict (c : CopyCmd) : Bool := wbitAt c.ctl 21
def CopyCmd.src (c : CopyCmd) : Word := c.l 1
def CopyCmd.dst (c : CopyCmd) : Word := c.l 2
def CopyCmd.tag (c : CopyCmd) : Word := c.l 3
/-- Count of dimension `d`. -/
def CopyCmd.cnt (c : CopyCmd) (d : Nat) : Nat := wfld (c.l (0x10 + d)) 0 32
/-- Source and destination stride of dimension `d`, signed. -/
def CopyCmd.ss (c : CopyCmd) (d : Nat) : Int := (c.l (0x18 + d)).toInt
def CopyCmd.ds (c : CopyCmd) (d : Nat) : Int := (c.l (0x20 + d)).toInt

/-- The bytes that a command moves: the product of its six counts (R188). -/
def CopyCmd.total (c : CopyCmd) : Nat :=
  c.cnt 0 * c.cnt 1 * c.cnt 2 * c.cnt 3 * c.cnt 4 * c.cnt 5

/-- The offset from its base of the q-th byte in element order (R188). -/
def CopyCmd.offset (c : CopyCmd) (stride : Nat → Int) (q : Nat) : Int :=
  let b := q % c.cnt 0
  let step := fun (acc : Nat × Int) (d : Nat) =>
    (acc.1 / c.cnt d, acc.2 + ((acc.1 % c.cnt d : Nat) : Int) * stride d)
  (([1, 2, 3, 4, 5].foldl step (q / c.cnt 0, 0)).2) + b

/-- The source and destination address of the q-th byte. -/
def CopyCmd.srcAt (c : CopyCmd) (q : Nat) : Nat := (c.src + BitVec.ofInt 64 (c.offset c.ss q)).toNat
def CopyCmd.dstAt (c : CopyCmd) (q : Nat) : Nat := (c.dst + BitVec.ofInt 64 (c.offset c.ds q)).toNat

/-- The lowest and the highest byte that a base and strides reach. -/
def CopyCmd.low (c : CopyCmd) (base : Word) (stride : Nat → Int) : Int :=
  [1, 2, 3, 4, 5].foldl (fun m d => m + min 0 (((c.cnt d : Int) - 1) * stride d)) (base.toNat : Int)
def CopyCmd.high (c : CopyCmd) (base : Word) (stride : Nat → Int) : Int :=
  [1, 2, 3, 4, 5].foldl (fun m d => m + max 0 (((c.cnt d : Int) - 1) * stride d))
    ((base.toNat : Int) + c.cnt 0 - 1)

/-- Whether an offset from the base is reached by the counts and strides of the listed dimensions. -/
def CopyCmd.hits (c : CopyCmd) (stride : Nat → Int) : List Nat → Int → Bool
  | [], x => decide (0 ≤ x) && decide (x < c.cnt 0)
  | d :: r, x => (List.range (c.cnt d)).any fun i => c.hits stride r (x - i * stride d)

/-- Whether the command's destination (or source) bytes take in address `a`. -/
def CopyCmd.hitsAddr (c : CopyCmd) (base : Word) (stride : Nat → Int) (a : Nat) : Bool :=
  c.hits stride [1, 2, 3, 4, 5] ((a : Int) - base.toNat)

/-- Whether the bytes reached are exactly those of one whole slot (R189). -/
def CopyCmd.wholeSlot (c : CopyCmd) (base : Word) (stride : Nat → Int) : Bool :=
  let lo := c.low base stride
  decide (0 ≤ lo) && lo % 16384 == 0 && c.high base stride == lo + 16383 &&
  (List.range 16384).all fun i => c.hitsAddr base stride (lo.toNat + i)

/-- Whether destination bytes ascend strictly in element order (R189). -/
def CopyCmd.ascends (c : CopyCmd) : Bool :=
  ([1, 2, 3, 4, 5].foldl (fun (acc : Bool × Int) d =>
    if c.cnt d ≤ 1 then acc
    else (acc.1 && decide (acc.2 < c.ds d), acc.2 + ((c.cnt d : Int) - 1) * c.ds d)) (true, (c.cnt 0 : Int) - 1)).1

/-- The element size of a command's type (R189): 0 f32, 1 i32, 2 i64. -/
def CopyCmd.esize (c : CopyCmd) : Nat := if c.ty = 2 then 8 else 4

/-- Whether a command is a returning atomic. -/
def CopyCmd.atomic (c : CopyCmd) : Bool := decide (7 ≤ c.op)

/-- The source floor tile (R185). -/
def CopyCmd.srcTile (c : CopyCmd) (t : Nat) : Nat :=
  let n := wfld c.ctl 4 7
  if n = 0x7F then t else n

/-- The destination floor tiles (R193). -/
def CopyCmd.dstTiles (c : CopyCmd) (t : Nat) : List Nat :=
  if c.mc then (List.range 64).filter fun i => wbitAt (c.l 6) i
  else
    let n := wfld c.ctl 11 7
    [if n = 0x7F then t else n]

/-- The tiles whose floors a command names. -/
def CopyCmd.named (c : CopyCmd) (t : Nat) : List Nat :=
  (if c.ssp = 1 && !c.atomic then [c.srcTile t] else []) ++ (if c.dsp = 1 then c.dstTiles t else [])

/-! ### What a trigger waits for (R258) -/

/-- Whether M accesses that a task slot issued before a trigger are still to be performed (R258): global
accesses numbered below `after`, and stores issued before hc `issued`. -/
def earlierGlobal (s : State) (t k after : Nat) : Bool :=
  (taskOf s t k).gacc.any fun a => !a.sent && decide (a.n < after)

/-- Whether stores of a task slot issued before hc `issued` are not yet visible (R258). -/
def earlierStores (s : State) (t k issued : Nat) : Bool :=
  (tileOf s t).stores.any fun p => p.task == k && p.kind.isData && decide (p.issued < issued)

/-! ### Floor writes of an engine (R178) -/

/-- The bytes of a well or floor write that drains in progress were to write too: either value stays (R155). -/
def drainRace (s : State) (t : Nat) : List (Nat × Byte) → State
  | [] => s
  | (a, _) :: r =>
    let hit := fun (o : CubeOp) => o.st == .draining && o.out.any fun c => c.1 == a
    if (tileOf s t).cubeOps.any hit then
      let (wins, s) := freshBool s
      drainRace (if wins then updTile s t fun x =>
        { x with cubeOps := x.cubeOps.map fun o =>
            if hit o then { o with out := o.out.filter fun c => c.1 != a } else o } else s) t r
    else drainRace s t r

/-- The bytes of an engine's write as they land: where an M store became visible in this hc, either byte
(R178). -/
def storeRace (s : State) (t : Nat) : List (Nat × Byte) → List (Nat × Byte) × State
  | [] => ([], s)
  | (a, b) :: r =>
    let x := tileOf s t
    let (b, s) := if x.raceHc = s.hc && x.raceSt.any (fun u => u.any fun c => c.1 == a) then eitherByte s (mread x.floor a) b
      else (b, s)
    let (r, s) := storeRace s t r
    ((a, b) :: r, s)

/-- An engine's accesses take effect at the floor port of tile `t`, each noted with what stood before it. -/
def writeUnits (s : State) (t : Nat) (us : List FloorUnit) : State :=
  updTile s t fun x =>
    { x with raceHc := s.hc,
             raceOld := (us.map fun u => u.map fun c => (c.1, mread x.floor c.1)) ++
               (if x.raceHc = s.hc then x.raceOld else []),
             raceSt := if x.raceHc = s.hc then x.raceSt else [],
             floor := mwriteAll x.floor us.flatten }

/-- An engine writes bytes at the floor port of tile `t`; loads and stores of this hc may see either side
(R178). -/
def engineWrite (s : State) (t : Nat) (bytes : List (Nat × Byte)) : State :=
  let (bytes, s) := storeRace s t bytes
  writeUnits s t (bytes.map fun c => [c])

/-- The bytes of an M store as they land: where an engine wrote a byte in this hc, either byte (R178). -/
def portRace (s : State) (t : Nat) : List (Nat × Byte) → List (Nat × Byte) × State
  | [] => ([], s)
  | (a, b) :: r =>
    let x := tileOf s t
    let hit := fun (u : FloorUnit) => match u with
      | [c] => c.1 == a
      | _ => false
    let (b, s) := if x.raceHc = s.hc && x.raceOld.any hit then eitherByte s (mread x.floor a) b else (b, s)
    let (r, s) := portRace s t r
    ((a, b) :: r, s)

/-- A unit of a floor store becomes visible. -/
def landUnit (s : State) (t : Nat) (u : FloorUnit) : State :=
  let (u, s) := portRace (drainRace s t u) t u
  updTile s t fun x =>
    { x with floor := mwriteAll x.floor u, raceHc := s.hc,
             raceOld := if x.raceHc = s.hc then x.raceOld else [],
             raceSt := (u.map fun c => (c.1, mread x.floor c.1, c.2)) :: (if x.raceHc = s.hc then x.raceSt else []) }

/-- The floor units of a store become visible. -/
def landUnits (s : State) (t : Nat) (us : List FloorUnit) : State := us.foldl (fun s u => landUnit s t u) s

/-- Where an element's `n` bytes at `a` meet stores that become visible in this very hc, those have become visible. -/
def landDue (s : State) (t a n : Nat) : State :=
  let mine := fun (p : PendStore) => decide (p.due ≤ s.hc) && !p.kind.floorUnits.isEmpty
  let ps := (tileOf s t).stores.filter mine
  if ps.any fun p => p.kind.floorUnits.any (touches a n) then
    ps.foldl (fun s p => landUnits s t p.kind.floorUnits)
      (updTile s t fun x => { x with stores := x.stores.filter fun p => !mine p })
  else s

/-- What a read-modify-write of an engine does to the `n` bytes at `a` of a floor: it stands before or after the stores that
become visible in this hc, each access whole (R178, R255); `f` is the access itself. -/
def atElement {α : Type} (s : State) (t a n : Nat) (f : State → α × State) : α × State :=
  let s := landDue s t a n
  let x := tileOf s t
  let us := if x.raceHc = s.hc then x.raceSt.filter (fun u => u.any fun c => decide (a ≤ c.1) && decide (c.1 < a + n)) else []
  if us.isEmpty then f s
  else
    let (first, s) := freshBool s
    if !first then f s
    else
      let before := us.foldl (fun m u => mwriteAll m (u.map fun c => (c.1, c.2.1))) (tileOf s t).floor
      let r := f (updTile s t fun x => { x with floor := before })
      let after := us.reverse.foldl (fun m u => mwriteAll m (u.map fun c => (c.1, c.2.2))) (tileOf r.2 t).floor
      (r.1, updTile r.2 t fun x => { x with floor := after })

/-! ### Claims (R146, R169 to R174) -/

/-- Whether a victim search may take a slot (R146, R170). -/
def victimOk (x : Tile) (slot : Nat) : Bool :=
  let e : TagEntry := tget {} x.tags slot
  !isShared x (slot * 16384) && (e.st == .empty || e.st == .valid)

/-- The first slot at or after `v` that a victim search may take, in 512 slots (R146). -/
def findVictim (x : Tile) (v : Nat) : Option Nat :=
  ((List.range 512).map fun i => (v + i) % 512).find? (victimOk x)

/-- A fill claims a slot: it is filling, with its owner and the tag it will take (R170) (log 22: DEDUCED). -/
def claimSlot (x : Tile) (slot owner : Nat) (tag : Word) : Tile :=
  { x with tags := tset x.tags slot { st := .filling, tag := tag, owner := owner } }

/-- A fill of a slot ends: it takes its tag, unless the tag is 0 or a pinned slot holds it, or the slot has become step-shared
(R169, R170, R172). -/
def endClaim (x : Tile) (slot : Nat) (tag : Word) : Tile :=
  if tag = 0 || isShared x (slot * 16384) || (holders x.tags slot tag).any fun e => e.2.st == .pinned then
    { x with tags := tset x.tags slot {} }
  else
    let owner := (tget ({} : TagEntry) x.tags slot).owner
    let tags := applyTag x.tags slot tag false
    { x with tags := tset tags slot { st := .valid, tag := tag, owner := owner } }

/-- A slot becomes empty, its bytes as they stand. -/
def emptySlot (x : Tile) (slot : Nat) : Tile := { x with tags := tset x.tags slot {} }

/-- The bytes of a slot from offset `k` on are unpredictable (R6, R170). -/
def openSlot (s : State) (t slot k : Nat) : State :=
  let (bs, s) := openRange s (tileOf s t).floor (slot * 16384 + k) (16384 - k)
  updTile s t fun x => { x with floor := mwriteAll x.floor bs }

/-- A filling or evicting slot becomes empty at the halt line, its bytes unpredictable (R170) (log 31: DEDUCED). -/
def loseSlot (s : State) (t slot : Nat) : State := updTile (openSlot s t slot 0) t fun x => emptySlot x slot

/-- Loses several slots. -/
def loseSlots (s : State) (t : Nat) (slots : List Nat) : State := slots.foldl (fun s v => loseSlot s t v) s

/-! ### Fills -/

/-- Whether a fill of the cube is open whose operation and chunk, by number, are among those asked for. -/
def fillOpen (x : Tile) (among : Nat → Nat → Bool) : Bool :=
  x.cubeOps.any fun o => o.st == .resolving && o.chunks.zipIdx.any fun u => u.1.own && u.1.tag != 0 && among o.n u.2

/-- Whether a fill of a slot cannot land in this hc: a watermark covers it, a tag operation is in flight on it,
or its bank is under repair (R174, R194, R371). -/
def fillHeld (x : Tile) (slot : Nat) (tag : Word) : Bool :=
  wmBlocked x [] false (slot * 16384) 16384 || (tagWait x slot tag).isSome || x.repair.contains (slot / 128)

/-! ### Error banks (R314, R315) -/

/-- Counts one more, saturating. -/
def satInc16 (n : BitVec 16) : BitVec 16 := if n = 0xFFFF then n else n + 1

/-- The record of a bank after an error (R314). -/
def bankAfter (b : ErrBank) (e : ErrorInfo) (ts : Word) : ErrBank :=
  let rec0 : ErrBank :=
    { b with v := true, ue := e.ue, kind := e.kind, ctx := if e.own then e.ctx else 0, own := e.own, cons := e.cons,
             addr := e.addr, ts := ts }
  if !b.v then rec0
  else if !b.ue then (if e.ue then rec0 else { rec0 with cecnt := satInc16 b.cecnt })
  else if !e.ue then { b with cecnt := satInc16 b.cecnt }
  else { b with ovf := satInc16 b.ovf, ovts := if b.ovf = 0 then ts else b.ovts }

/-- Whether a bank writes the record of an error: it holds none, or that of a corrected one (R314). -/
def bankRecords (b : ErrBank) : Bool := !b.v || !b.ue

/-- A detected error updates its bank; one that is recorded and consumed interrupts the bellows core (R314, R315, R374). -/
def noteError (s : State) (bank : Nat) (e : ErrorInfo) : State :=
  let b : ErrBank := tget {} s.errBanks bank
  let s := { s with errBanks := tset s.errBanks bank (bankAfter b e (tsWord s)) }
  if bankRecords b && e.cons then raiseLine s 1 else s

/-- A failure that a bank records without an access: its ue bit and its address are open values (R314, log 48: DESIGN CHOICE). -/
def noteFailure (s : State) (bank kind : Nat) : State :=
  let (u, s) := freshBool s
  let (a, s) := freshWord s
  noteError s bank { ue := u, kind := kind, ctx := 0, own := false, cons := false, addr := a }

/-! ### The end of commands before their time (R160, R210, R312) -/

/-- A watermark channel goes to its limit (R194). -/
def limitWm (x : Tile) (ch : Option Nat) : Tile :=
  match ch with
  | some n => { x with wm := tset x.wm n { (tget {} x.wm n : Watermark) with wm := (tget {} x.wm n : Watermark).lim } }
  | none => x

/-- The source slot that a started evicting command holds (R192). -/
def evictSlot (c : CopyCmd) : Option Nat :=
  if c.st != .queued && wbitAt (latchIn c.lat 0) 21 then some (slotOf (latchIn c.lat 1).toNat) else none

/-- A started accumulate-on-write that has become the oldest command of its engine goes on (R182, R208). -/
def wakeHead (s : State) (t e : Nat) : State :=
  match (tget ({} : CopyEng) (tileOf s t).cpy e).cmds.head? with
  | some c =>
    if 1 ≤ c.op && !c.atomic && c.st != .queued then
      schedule (unschedule s (.awPortApply t e)) (s.hc + 1) (.awPortApply t e)
    else s
  | none => s

/-- Takes a command off its engine; the next one of the queue may start, the waits on it end. -/
def dropCmd (s : State) (t e n : Nat) : State :=
  let s := updTile s t fun x =>
    { x with cpy := tmod {} x.cpy e fun (g : CopyEng) => { g with cmds := g.cmds.filter fun c => c.n != n } }
  checkWaits (scheduleOnce (wakeHead s t e) (s.hc + 1) (.copyStart t e)) t

/-- The slot that a command of engine `e` keeps evicting: it is no longer so once its last byte has been read, whatever
tag it has taken since (R170, R192). -/
def evictingSlot (x : Tile) (e : Nat) (c : CopyCmd) : Option Nat :=
  (evictSlot c).filter fun v => (tget ({} : TagEntry) x.tags v).st == .evicting && (tget ({} : TagEntry) x.tags v).owner == e

/-- Releases what a command holds that ends without completing: claimed and evicting slots become empty, its
channel goes to its limit (R184, R210). -/
def releaseCmd (s : State) (t e : Nat) (c : CopyCmd) : State :=
  let s := c.claimed.foldl (fun s v => updTile s v.1 fun x => emptySlot x v.2) s
  updTile s t fun x => limitWm (match evictingSlot x e c with | some v => emptySlot x v | none => x) c.wm

/-- The bytes of a claimed slot that a command had still to write are unpredictable (R6, R170). -/
def openRest (s : State) (c : CopyCmd) (d : Nat) : State :=
  let from_ := tget c.landed c.prog d
  let rest := (List.range (min c.total 32768 - from_)).map fun i => (c.dstAt (from_ + i), (0 : Byte))
  let (bs, s) := openWrite s (tileOf s d).floor rest
  updTile s d fun x => { x with floor := mwriteAll x.floor bs }

/-- Cancels one command (R210): of a claimed slot the bytes that had landed stay, the others and those of an evicting slot
are unpredictable (R170). -/
def cancelCmd (s : State) (t e : Nat) (c : CopyCmd) : State :=
  let s := c.claimed.foldl (fun s v => openRest s c v.1) s
  let s := match evictingSlot (tileOf s t) e c with
    | some v => openSlot s t v 0
    | none => s
  dropCmd (releaseCmd s t e c) t e c.n

/-- Cancels the commands of every engine that a test picks, and the follow-on operations they still carry. -/
def cancelCmds (s : State) (t : Nat) (pick : CopyCmd → Bool) (pickFollow : Nat → Nat → Bool) : State :=
  [0, 1, 2, 3].foldl (fun s e =>
    let g : CopyEng := tget {} (tileOf s t).cpy e
    let s := (g.cmds.filter pick).foldl (fun s c => cancelCmd s t e c) s
    updTile s t fun x => { x with cpy := tmod {} x.cpy e fun (g : CopyEng) =>
      { g with follow := g.follow.filter fun f => !pickFollow f.2.1 f.2.2.2.1 } }) s

/-- The slots that an operation is filling, or has claimed for its result. -/
def opSlots (x : Tile) (o : CubeOp) : List Nat :=
  (o.chunks.filter fun c => c.own && c.tag != 0).map (·.slot) ++
  o.victims.filter fun v => (tget ({} : TagEntry) x.tags v).st == .filling

/-- Takes an operation off the cube; the operations that waited for its layers or the flue are looked at. -/
def dropOp (s : State) (t n : Nat) : State :=
  let s := updTile s t fun x => { x with cubeOps := x.cubeOps.filter fun o => o.n != n }
  let s := (tileOf s t).cubeOps.foldl (fun s o =>
    if o.st = .staged then scheduleOnce s s.hc (.cubeRunStart t o.n)
    else if o.st = .awaiting then scheduleOnce s s.hc (.cubeDrainStart t o.n) else s) s
  checkWaits s t

/-- Whether an operation is in a state before draining (R149). -/
def CubeSt.early : CubeSt → Bool
  | .accepted | .resolving | .staging | .staged | .running | .rising | .awaiting => true
  | .draining | .complete | .failed | .abandoned => false

/-- Abandons an operation without a record (R160). -/
def abandonOp (s : State) (t : Nat) (o : CubeOp) : State := dropOp (loseSlots s t (opSlots (tileOf s t) o)) t o.n

/-! ### Rewinds (R312, R313) -/

/-- The task of a rewinding slot: its registers and loop state as the snapshot has them, its queues at the segment's first
bundle (R312). -/
def rewoundTask (t : Task) (sn : Snap) : Task :=
  { t with
    sreg := sn.sreg, vreg := sn.vreg, preg := sn.preg, fmt := sn.fmt, emptyS := sn.emptyS, emptyV := sn.emptyV,
    loops := sn.loops, pend := [], recent := [], outst := [], probes := [], gacc := t.gacc.filter (fun a => !a.load),
    ewait := [], stream := [], qpos := Pos.all.foldl (fun q p => tset q p.idx t.nextSeq) t.qpos, syncOpen := none,
    fenceAt := none, halting := false, stall := none,
    flow := { next := BitVec.ofNat 64 (sn.seg + 16), seg := some sn.seg, entries := sn.entry } }

/-- A link command ends before its messages are acknowledged: the port still knows those that are queued (R344). -/
def endLnk (x : Tile) (c : LnkCmd) : Tile :=
  { x with lnk := x.lnk.filter (fun d => d.n != c.n), lnkTail := x.lnkTail ++ c.pendingSeqs.map fun q => (c.n, q) }

/-- A rewind acts on the rewinding task only (R312, R344) (log 33: DEDUCED). -/
def rewindTask (s : State) (t k : Nat) (sn : Snap) : State :=
  let s := cancelCmds s t (fun c => c.task == k && c.entry == sn.entry) (fun k' entry => k' == k && entry == sn.entry)
  let ops := (tileOf s t).cubeOps.filter fun o => o.task == k && o.entry == sn.entry && o.st.early
  let s := ops.foldl (fun s o => abandonOp s t o) s
  let s := updTile s t fun x =>
    (x.lnk.filter fun c => c.task == k && c.entry == sn.entry).foldl endLnk
      { x with nib := x.nib.filter fun r => !(r.task == k && r.entry == sn.entry) }
  let s := if (tileOf s t).xp.owner = k && (tileOf s t).xp.busy then
      updTile (clearXp s t (tileOf s t).xp.mode) t fun x => { x with xp := { x.xp with pops := [] } }
    else s
  let s := kickGlobal (updTask s t k fun x => rewoundTask x sn) t k
  let s := checkWaits s t
  if (taskOf s t k).st = .parked then makeReady s t k
  else updTask s t k fun x => { x with wait := .none }

/-- The rewinds that one entry may take (R313). -/
def rewindMax (s : State) : Nat := wfld (srWord s 0x235) 0 4

/-- Whether a task is still within the given entry of a rewindable segment (R311). -/
def withinEntry (x : Task) (entry : Nat) : Option Snap :=
  match x.snap with
  | some sn => if sn.entry = entry && x.entry == entry && x.st != .stopped && x.st != .free && x.st != .retired
    then some sn else none
  | none => none

/-- A task consumes a corrupted value: it rewinds, or its context takes the fault (R311, R313). -/
def consumeError (s : State) (t k entry code src : Nat) (addr : Word) : State :=
  match withinEntry (taskOf s t k) entry with
  | some sn =>
    if rewindMax s ≤ (tileOf s t).rwCnt then raiseFault s (tileCtx s t) 0x52 src addr false
    else rewindTask
      (updTile s t fun x => { x with rwCnt := x.rwCnt + 1, rwTot := x.rwTot + 1 }) t k sn
  | none => raiseFault s (tileCtx s t) code src addr false

end Sys2Proof.Machine
end

