-- ==== Sys2Proof/Machine/Cube.lean ====
section
/-! DEFINITION. The cube operation: its trigger and its events (spec/06 R133 to R160), with the sums and the
checksums of spec/02 R40 to R42, R47 and R48. -/

namespace Sys2Proof.Machine

open Sys2Proof.Operands

/-! ### The fmt register and the pairs of R29 -/

/-- The fields of fmt (R28). -/
def fmtA (f : Word32) : Nat := nfld f.toNat 0 4
def fmtB (f : Word32) : Nat := nfld f.toNat 4 4
def fmtO (f : Word32) : Nat := nfld f.toNat 8 4
def fmtBs (f : Word32) : Nat := nfld f.toNat 12 2
def fmtTs (f : Word32) : Bool := f.getLsbD 14
def fmtSat (f : Word32) : Bool := f.getLsbD 15

/-- The classes of operand pairs (R29). -/
inductive PairClass where
  | float4 | float8 | int4 | int8 | float16
  deriving DecidableEq, Repr

/-- The class of a pair of format codes (R29). -/
def pairOf (a b : Nat) : Option PairClass :=
  let f8 := fun (n : Nat) => n == 1 || n == 2
  if a = 3 && (b == 3 || b == 6) then some .float4
  else if (f8 a || a == 3) && (f8 b || b == 3 || b == 6) && (f8 a || f8 b) then some .float8
  else if a = 5 && b == 5 then some .int4
  else if (a == 4 || a == 5) && (b == 4 || b == 5) then some .int8
  else if (a == 7 || a == 8) && b == a then some .float16
  else none

/-- Whether the accumulator of a class is INT32. -/
def PairClass.isInt : PairClass → Bool
  | .int4 | .int8 => true
  | .float4 | .float8 | .float16 => false

/-- Whether a class does two MACs per step (R40). -/
def PairClass.twoMac : PairClass → Bool
  | .float4 | .int4 => true
  | .float8 | .int8 | .float16 => false

/-- Whether a class allows an output format (R29). -/
def PairClass.outOk : PairClass → Nat → Bool
  | .float4, o | .float8, o => [9, 7, 8, 1, 2, 3].contains o
  | .int4, o | .int8, o => [0xA, 4, 9].contains o
  | .float16, o => [9, 7, 8, 1, 2].contains o

/-- The class of a fmt value that a cube operation may use (R29). -/
def fmtClass (f : Word32) : Option PairClass :=
  match pairOf (fmtA f) (fmtB f) with
  | some c => if c.outOk (fmtO f) && !(c.isInt && fmtBs f != 0) && fmtBs f != 3 then some c else none
  | none => none

/-! ### The snapshot's fields (R137) -/

def CubeSnap.ctl (c : CubeSnap) : Word := latchIn c.lat 0x100
def CubeSnap.shape (c : CubeSnap) : Word := latchIn c.lat 0x101
def CubeSnap.mask (c : CubeSnap) : Word := latchIn c.lat 0x102
/-- A handle latch: 0x103 A, 0x104 B, 0x105 addend, 0x106 destination. -/
def CubeSnap.handle (c : CubeSnap) (n : Nat) : Word32 := (latchIn c.lat n).setWidth 32
def CubeSnap.plane (c : CubeSnap) : Bool := wbitAt c.ctl 0
def CubeSnap.lsel (c : CubeSnap) : Bool := wbitAt c.ctl 1
def CubeSnap.dst (c : CubeSnap) : Nat := wfld c.ctl 2 2
def CubeSnap.grp (c : CubeSnap) : Bool := wbitAt c.ctl 4
def CubeSnap.m (c : CubeSnap) : Nat := wfld c.shape 0 11 + 1
def CubeSnap.n (c : CubeSnap) : Nat := wfld c.shape 16 7 + 1
def CubeSnap.k (c : CubeSnap) : Nat := wfld c.shape 32 32
def CubeSnap.drow (c : CubeSnap) : Nat := wfld (latchIn c.lat 0x10E) 0 11
/-- First victim slot of operand `i`: 0 A, 1 B, 2 addend, 3 destination. -/
def CubeSnap.vic (c : CubeSnap) (i : Nat) : Nat := wfld (latchIn c.lat 0x107) (16 * i) 9
/-- Whether the operation delivers a row to a register. -/
def CubeSnap.toReg (c : CubeSnap) : Bool := c.dst == 1 || c.dst == 2
/-- Whether the operation writes floor slots. -/
def CubeSnap.toFloor (c : CubeSnap) : Bool := c.dst == 0 || c.dst == 2

/-- The latches of blocks 4 that a trigger snapshots (R138), of all a task's latches. -/
def cubeLatches (l : Table Word) : Table Word := l.filter fun e => 0x100 ≤ e.1 && e.1 < 0x140

/-- The innermost active level marked L, if one is (R135). -/
def lLevel (ls : Table Loop) : Option Nat :=
  ([5, 4, 3, 2, 1, 0] : List Nat).find? fun l => (loopIn ls l).act && (loopIn ls l).mark == .L

/-- The element that an L level gives a trigger slot of stage number `stage` (R135). -/
def lElement (ls : Table Loop) (stage : Nat) : Option Nat :=
  (lLevel ls).map fun l =>
    let j := (loopIn ls l).idx.toNat
    if innermost ls = some l then j - stage else j

/-- The snapshot that a cube trigger takes at this hc (R138). -/
def takeSnap (s : State) (vd : BitVec 5) : CubeSnap :=
  let t := curTask s
  let b := curBundle s
  let stage := match b with
    | some b => b.stage s.cur.pos
    | none => 0
  { lat := cubeLatches t.lat, fmt := t.fmt, elem := lElement (curLoops s) stage, vd := vd }

/-- The fault that a snapshot meets, in the order of R143; in either mode every layer of the mask must exist (R364). -/
def snapFault (s : State) (c : CubeSnap) : Option Nat :=
  let none32 : Word32 := 0xFFFFFFFF
  if c.dst = 3 || latchBad 0x101 c.shape || latchBad 0x107 (latchIn c.lat 0x107) then some 0x12
  else if c.mask = 0 || (c.plane && !c.lsel && (snapLayers { c with lat := tset c.lat 0x100 0 }).length != 1) then
    some 0x12
  else if c.lsel && (!c.plane || c.elem.isNone) then some 0x12
  else if c.k = 0 || (decide (128 < c.m) && !c.grp) || (c.toReg && decide (c.m ≤ c.drow)) then some 0x12
  else if c.handle 0x103 = none32 || c.handle 0x104 = none32 || (c.handle 0x106 = none32 && c.dst != 1) then some 0x12
  else if (snapLayers { c with lat := tset c.lat 0x100 0 }).any (fun l => !layerExists s l) then some 0x12
  else if (fmtClass c.fmt).isNone then some 0x10
  else none

/-- Whether an operation holds the staged place of its layers (R144). -/
def CubeSt.waiting : CubeSt → Bool
  | .accepted | .resolving | .staging | .staged => true
  | _ => false

/-- Whether the cube refuses a trigger now (R144). -/
def cubeRefuses (x : Tile) (c : CubeSnap) : Bool :=
  x.cubeOps.any fun o => o.st.waiting &&
    ((o.layers.any fun l => (snapLayers c).contains l) || (c.plane && !o.snap.plane))

/-- The cube accepts a trigger: the operation's first pass, the done bits of its layers cleared (R144). -/
def acceptCube (s : State) (t k : Nat) (c : CubeSnap) (origin : Option Nat) (entry : Nat) (addr : Word) : State :=
  let n := (tileOf s t).cubeSeq
  let op : CubeOp :=
    { n := n, trig := n, origin := origin, task := k, snap := c, st := .accepted, pass := 0,
      passes := if c.grp then ceilDiv c.m 128 else 1, layers := snapLayers c,
      marks := c.toReg && origin.isNone, entry := entry, addr := addr, acceptedAt := s.hc,
      after := (taskOf s t k).gaccNext }
  let bits := (snapLayers c).foldl (fun m l => m ||| ((1 : BitVec 8) <<< l)) 0
  schedule (updTile s t fun x =>
    { x with cubeSeq := n + 1, cubeOps := x.cubeOps ++ [op], cubeDone := x.cubeDone &&& ~~~bits })
    (s.hc + 1) (.cubeResolution t n)

/-- What a word that marks vd meets before its own checks (R65, R69, R390). -/
def vdVerdict (s : State) (vd : BitVec 5) (go : Verdict) : Verdict :=
  let t := gateTask s
  if isEmpty t (.v vd) then .park (.reg (.v vd))
  else if pendModeAt t s.cur.n && isPending t (.v vd) then .fault 0x04
  else go

/-- trig.cube (R143, R144, R390). -/
def execTrigCube (o : TP) (s : State) : Host.Outcome State Fault Refusal :=
  gate (.trigCube o) s fun s =>
    let c := takeSnap s o.vd
    let x := tileOf s (curTile s)
    let go : Verdict := match snapFault s c with
      | some code => .fault code
      | none =>
        if cubeRefuses x c then .stall (noteStall s 8)
        else
          let s := if c.toReg then startLong s (.v o.vd) 8 x.cubeSeq else s
          .issue (acceptCube s (curTile s) (curSlot s) c none (curEntry s) s.cur.addr)
    if c.toReg then vdVerdict s o.vd go else go

/-! ### The operations of a tile -/

/-- Operation `n` of tile `t`. -/
def opOf (s : State) (t n : Nat) : Option CubeOp := (tileOf s t).cubeOps.find? fun o => o.n == n
/-- Changes operation `n`. -/
def updOp (s : State) (t n : Nat) (f : CubeOp → CubeOp) : State :=
  updTile s t fun x => { x with cubeOps := x.cubeOps.map fun o => if o.n = n then f o else o }

/-- The layers whose last accepted operation is this one: their done bits are set when it ends (R137). -/
def setDone (x : Tile) (o : CubeOp) : Tile :=
  let bits := (o.layers.filter fun l =>
    !x.cubeOps.any fun p => decide (o.trig < p.trig) && p.layers.contains l).foldl
      (fun m l => m ||| ((1 : BitVec 8) <<< l)) 0
  { x with cubeDone := x.cubeDone ||| bits }

/-- A row arrives in vd, which becomes full (R153, R156). -/
def deliverV (s : State) (t k : Nat) (vd : BitVec 5) (v : VWord) : State :=
  fillReg s (.tile t k) (.v vd) fun x => writeV x vd (BitVec.allOnes 4096) v

/-- An operation fails: the fault of its trigger, zeros in a marked vd, its slots empty (R145, R148, R156). -/
def failOp (s : State) (t : Nat) (o : CubeOp) (code : Nat) (addr : Word) : State :=
  let s := loseSlots s t (opSlots (tileOf s t) o)
  let s := dropOp (updTile s t fun x => setDone x o) t o.n
  let s := if o.marks && o.pass ≤ o.snap.drow / 128 then deliverV s t o.task o.snap.vd 0 else s
  tileFault (checkWaits s t) t 8 code addr

/-! ### Geometry (R134, R136, R141, R147) -/

/-- Whether the operation has an addend. -/
def CubeOp.hasAdd (o : CubeOp) : Bool := o.snap.handle 0x105 != 0xFFFFFFFF

/-- The class of an operation's pair; the trigger has checked it. -/
def CubeOp.cls (o : CubeOp) : PairClass := (fmtClass o.snap.fmt).getD .float8

/-- The length of a slice (R134, R135). -/
def CubeOp.slice (o : CubeOp) : Nat := 32 * ceilDiv o.snap.k (32 * o.layers.length)

/-- The k range of the t-th selected layer: its first index and the one past its last. -/
def CubeOp.range (o : CubeOp) (i : Nat) : Nat × Nat := (min (i * o.slice) o.snap.k, min ((i + 1) * o.slice) o.snap.k)

/-- The chunk numbers, within a row block, of a format that cover k indices `lo` to `hi − 1`. -/
def chunkSpan (code lo hi : Nat) : List Nat :=
  let e := chunkElems code
  if hi ≤ lo then [] else (List.range ((hi - 1) / e + 1 - lo / e)).map fun i => lo / e + i

/-- The run steps of a layer's k steps (R150). -/
def CubeOp.ck (o : CubeOp) : Nat :=
  match o.cls with
  | .float4 | .int4 => ceilDiv o.slice 2
  | .float8 | .int8 => o.slice
  | .float16 => 2 * o.slice

/-- The rows of the operation's row block that exist (R136). -/
def CubeOp.blockRows (o : CubeOp) : Nat := min 128 (o.snap.m - 128 * o.pass)

/-- The tag of a chunk of an operand: 0 A, 1 B, 2 addend, 3 destination. -/
def chunkTag (o : CubeOp) (operand c : Nat) : Word :=
  match operand with
  | 0 => operandTag (o.snap.handle 0x103) c
  | 1 => operandTag o.hb c
  | 2 => operandTag (o.snap.handle 0x105) c
  | _ => operandTag (o.snap.handle 0x106) c

/-! ### Resolution (R139, R145, R146) -/

/-- What resolution finds: the descriptors of A, B, the addend and the destination, the scales of A and B, the handle of B. -/
structure Resolved where
  a : TileDesc
  b : TileDesc
  add : TileDesc
  dst : TileDesc
  scaleA : List Byte
  scaleB : List Byte
  hb : Word32
  deriving DecidableEq, Repr

/-- Whether an operand of a format carries block scales (R35). -/
def scaled (f : Word32) (code : Nat) (d : TileDesc) : Bool :=
  fmtBs f != 0 && [1, 2, 3, 6].contains code && d.hscale != 0xFFFFFFFF

/-- The scale tiles of an operand with `rows` outer indices (R36). -/
def scaleTiles (rows k : Nat) : Nat := ceilDiv rows 128 * ceilDiv k 128

/-- The conditions of R37 on the scales of an operand with `rows` outer indices, those of the operation (log 23: DEDUCED). -/
def scaleBad (rows k : Nat) (d : TileDesc) : Bool :=
  d.base.toNat % 512 != 0 || d.stride.toNat % 512 != 0 || decide (d.stride.toNat / 512 < scaleTiles rows k) || k % 32 != 0

/-- A fault found at resolution, with an address of its own if it is a page's. -/
abbrev Resolution (α : Type) := Except (Nat × Option Nat) α

/-- A condition of R145. -/
def reject (c : Bool) (code : Nat) : Resolution Unit := if c then .error (code, none) else .ok ()

/-- A handle as resolution reads it. -/
def resolveHandle (s : State) (t : Nat) (h : Word32) : Resolution TileDesc := fetchDesc s t h

/-- A scale descriptor, if the operand is scaled; one of another kind is a handle fault, a case that R145's table does not
list (log 95: DEDUCED). -/
def resolveScale (s : State) (t : Nat) (f : Word32) (code : Nat) (d : TileDesc) : Resolution (Option TileDesc) :=
  if scaled f code d then
    match resolveHandle s t d.hscale with
    | .ok x => if x.kind = 2 then .ok (some x) else .error (0x13, none)
    | .error e => .error e
  else .ok none

/-- The scale bytes of an operand, if it has any. -/
def resolveBytes (s : State) (ctx : Nat) (d : Option TileDesc) (rows k : Nat) : Resolution (List Byte) :=
  match d with
  | some d =>
    match readGlobal s ctx d.base.toNat (512 * scaleTiles rows k) with
    | .ok bs => .ok bs
    | .error (code, va) => .error (code, some va)
  | none => .ok []

/-- The scale descriptors of the entries of a table, in order. -/
def resolveEach (s : State) (t : Nat) (f : Word32) : List TileDesc → Resolution (List (Option TileDesc))
  | [] => .ok []
  | d :: r =>
    match resolveScale s t f (fmtB f) d, resolveEach s t f r with
    | .ok x, .ok xs => .ok (x :: xs)
    | .error e, _ => .error e
    | _, .error e => .error e

/-- The entries of a grouped table, resolved in order. -/
def resolveEntries (s : State) (t : Nat) : List Word32 → Resolution (List TileDesc)
  | [] => .ok []
  | h :: r =>
    match resolveHandle s t h, resolveEntries s t r with
    | .ok d, .ok ds => .ok (d :: ds)
    | .error e, _ => .error e
    | _, .error e => .error e

/-- Whether every slice fits half a well (R147). -/
def slicesFit (o : CubeOp) : Bool :=
  (List.range o.layers.length).all fun i =>
    let r := o.range i
    decide ((chunkSpan (fmtA o.snap.fmt) r.1 r.2).length ≤ 16) &&
    decide ((chunkSpan (fmtB o.snap.fmt) r.1 r.2).length ≤ 16)

/-- The resolution of an operation's handles and the conditions of R145 and R147, in their order. R145 does not list an
addend or a destination of another kind than tile: a handle fault here; nor does it say that a destination named with
dst = 0b01, to which nothing is written, is left alone (log 95: DEDUCED). A destination descriptor of layout 1 is taken as a
chunked one (log 114: DESIGN CHOICE). -/
def resolve (s : State) (t : Nat) (o : CubeOp) : Resolution Resolved := do
  let c := o.snap
  let f := c.fmt
  let cls := o.cls
  let ctx := tileCtx s t
  let hasAdd := c.handle 0x105 != 0xFFFFFFFF
  let a ← resolveHandle s t (c.handle 0x103)
  let b0 ← resolveHandle s t (c.handle 0x104)
  reject (a.kind != 0) 0x13
  reject (b0.kind != (if c.grp then 1 else 0)) 0x13
  let bs ← if c.grp then resolveEntries s t b0.handles else pure [b0]
  reject (bs.any fun d => d.kind != 0) 0x13
  let b := (bs.drop o.pass).headD {}
  let sa ← resolveScale s t f (fmtA f) a
  let sbs ← resolveEach s t f bs
  let add ← if hasAdd then resolveHandle s t (c.handle 0x105) else pure {}
  reject (hasAdd && add.kind != 0) 0x13
  let dst ← if c.toFloor then resolveHandle s t (c.handle 0x106) else pure {}
  reject (c.toFloor && dst.kind != 0) 0x13
  reject (a.format != fmtA f || (bs.any fun d => d.format != fmtB f)) 0x10
  reject (c.toFloor && dst.format != fmtO f) 0x10
  reject (hasAdd && !(if cls.isInt then add.format == 0xA else [9, 7, 8].contains add.format)) 0x10
  reject (a.d1 != c.k || (bs.any fun d => d.d1 != c.k) || (bs.any fun d => d.d0 != c.n)) 0x12
  reject (c.toFloor && (dst.d1 != c.n || dst.d0 < c.m)) 0x12
  reject (a.d0 < c.m || (hasAdd && (add.d1 != c.n || add.d0 < c.m))) 0x12
  reject (c.grp && 128 * bs.length < c.m) 0x12
  let operands := (if hasAdd then [add] else []) ++ (a :: bs)
  reject ((operands.any fun d => d.layout == 1) && !c.plane) 0x12
  reject (operands.any fun d => d.layout == 1 && d.base.toNat % 128 != 0) 0x12
  reject (!slicesFit o) 0x12
  reject (sa.any (scaleBad c.m c.k) || sbs.any fun x => x.any (scaleBad c.n c.k)) 0x11
  let bytesA ← resolveBytes s ctx sa c.m c.k
  let bytesB ← resolveBytes s ctx ((sbs.drop o.pass).headD none) c.n c.k
  let hb := if c.grp then (b0.handles.drop o.pass).headD 0xFFFFFFFF else c.handle 0x104
  pure { a := a, b := b, add := add, dst := dst, scaleA := bytesA, scaleB := bytesB, hb := hb }

/-- The chunks that a pass reads: of A and B those that its slices need, of the addend those of its columns. -/
def chunkList (o : CubeOp) : List ChunkUse :=
  let f := o.snap.fmt
  let span := fun (code : Nat) => chunkSpan code 0 o.snap.k
  let block := fun (d : TileDesc) (c : Nat) => if 128 < d.d0 then 1024 * o.pass + c else c
  let use := fun (operand c : Nat) => (⟨operand, c, chunkTag o operand c, 512, false⟩ : ChunkUse)
  (if o.dA.layout = 1 then [] else (span (fmtA f)).map fun c => use 0 (block o.dA c)) ++
  (if o.dB.layout = 1 then [] else (span (fmtB f)).map fun c => use 1 c) ++
  (if o.snap.handle 0x105 = 0xFFFFFFFF || o.dAdd.layout = 1 then []
   else (chunkSpan o.dAdd.format 0 o.snap.n).map fun c => use 2 (block o.dAdd c))

/-- The descriptor of an operand. -/
def CubeOp.desc (o : CubeOp) (operand : Nat) : TileDesc :=
  match operand with
  | 0 => o.dA
  | 1 => o.dB
  | _ => o.dAdd

/-- Changes chunk `i` of an operation. -/
def updChunk (s : State) (t n i : Nat) (f : ChunkUse → ChunkUse) : State :=
  updOp s t n fun o => { o with chunks := o.chunks.set i (f ((o.chunks[i]?).getD ⟨0, 0, 0, 512, false⟩)) }

/-- Looks one chunk up: a hit settles it, a filling slot is awaited, a miss claims a victim and starts its fill;
none where no victim is to be had (R146, R174). A settled chunk has tag 0. -/
def lookChunk (s : State) (t n i : Nat) (u : ChunkUse) : Option State :=
  let x := tileOf s t
  if u.tag = 0 || u.own then some s
  else match findTag x u.tag with
    | some (slot, e) =>
      if e.st = .filling then some s
      else some (updChunk s t n i fun u => { u with slot := slot, tag := 0 })
    | none =>
      match opOf s t n with
      | none => some s
      | some o =>
        let miss := tget 0 o.miss u.operand
        match findVictim x (o.snap.vic u.operand + miss) with
        | none => none
        | some slot =>
          if (tagWait x slot u.tag).isSome then some s
          else
            let s := updTile s t fun x => claimSlot x slot 4 u.tag
            let s := updOp s t n fun o => { o with miss := tset o.miss u.operand (miss + 1) }
            let s := updChunk s t n i fun u => { u with slot := slot, own := true }
            some (scheduleOpen s (.cubeChunkFillEnd t n i))

/-- Looks every chunk of an operation up, in chunk order. -/
def lookChunks (s : State) (t n : Nat) : Nat → List ChunkUse → Option State
  | _, [] => some s
  | i, u :: r =>
    match lookChunk s t n i u with
    | some s => lookChunks s t n (i + 1) r
    | none => none

/-! ### Staging (R144, R147, R370) -/

/-- The bytes of one operand's settled chunks, by chunk within the row block and offset (log 26: DEDUCED). -/
def gather (x : Tile) (us : List ChunkUse) (operand : Nat) : Memory :=
  (us.filter fun u => u.operand == operand).foldl (fun m u =>
    mwriteAll m (addrBytes (16384 * (u.chunk % 1024)) (mbytes x.floor (16384 * u.slot) 16384))) []

/-- The half of its wells that an operation uses on a layer. -/
def CubeOp.half (o : CubeOp) (l : Nat) : Nat := (o.halves.drop (o.layers.findIdx (· == l))).headD 0

/-- The half of a layer's wells that an operation takes: the one that the operation running there does not use; a later
pass the one that the pass before it did not use, since passes alternate (R144). -/
def freeHalf (x : Tile) (o : CubeOp) (l : Nat) : Nat :=
  match x.cubeOps.find? fun p => p.st == .running && p.layers.contains l with
  | some p => 1 - p.half l
  | none => if o.halves.isEmpty then 0 else 1 - o.half l

/-- The well bytes that staging writes on the i-th layer: A to the west face, B to the north one (R147) (log 28: DEDUCED). -/
def stageBytes (o : CubeOp) (i : Nat) : List (Nat × Byte) :=
  let l := (o.layers.drop i).headD 0
  let h := (o.halves.drop i).headD 0
  let r := o.range i
  let one := fun (code face : Nat) (m : Memory) (d : TileDesc) =>
    if d.layout = 1 then []
    else (chunkSpan code r.1 r.2).zipIdx.flatMap fun c =>
      addrBytes (2 ^ 20 * l + 2 ^ 19 * face + 2 ^ 18 * h + 16384 * c.2) (mbytes m (16384 * c.1) 16384)
  one (fmtA o.snap.fmt) 0 o.aBytes o.dA ++ one (fmtB o.snap.fmt) 1 o.bBytes o.dB

/-- The die of a logical layer (R364). -/
def dieOf (s : State) (l : Nat) : Nat := (s.layermap.drop l).headD l

/-- The live flues of a tile at a boundary (R369). -/
def liveFlues (x : Tile) (b : Nat) : Nat :=
  4 - ((List.range 4).filter fun k => x.fluert.getLsbD (4 * b + k)).length

/-- The tile that lends a flue to one that has none left at a boundary (R369). -/
def lender (t : Nat) : Nat := if t % 8 = 0 then t + 1 else t - 1

/-- Whether a tile has no flue at some boundary from `a` to `b` and can borrow none: nothing moves across it (R365). -/
def pathLost (s : State) (t a b : Nat) : Bool :=
  (List.range (b + 1 - a)).any fun i => liveFlues (tileOf s t) (a + i) == 0 && liveFlues (tileOf s (lender t)) (a + i) == 0

/-- The fewest live flues over the boundaries `a` to `b` (R370). -/
def fewestFlues (x : Tile) (a b : Nat) : Nat :=
  (List.range (b + 1 - a)).foldl (fun m i => min m (liveFlues x (a + i))) 4

/-- A count at `f` live flues: at 0 the count of 1 is a lower bound and the time is open (R370). -/
def flueTime (s : State) (f : Nat) (count : Nat → Nat) : Nat × State :=
  if f = 0 then
    let (d, s) := popDelay s
    (count 1 + d, s)
  else (count f, s)

/-- The hc that staging takes, the layers one after another (R147, R370). -/
def stageTime (s : State) (t : Nat) (o : CubeOp) : Nat → Nat × State
  | 0 => (0, s)
  | i + 1 =>
    let (d, s) := stageTime s t o i
    let (e, s) := flueTime s (fewestFlues (tileOf s t) 0 (dieOf s ((o.layers.drop i).headD 0)))
      fun f => ceilDiv (stageBytes o i).length (512 * f)
    (d + e, s)

/-- Every chunk is valid: staging begins as soon as the flues are free, with the bytes as they stand. -/
def startStaging (s : State) (t n : Nat) : State :=
  let s := updOp s t n fun o =>
    let x := tileOf s t
    { o with st := .staging, aBytes := gather x o.chunks 0, bBytes := gather x o.chunks 1,
             addBytes := gather x o.chunks 2, halves := o.layers.map (freeHalf x o) }
  match opOf s t n with
  | none => s
  | some o =>
    let (d, s) := stageTime s t o o.layers.length
    let done := max (tileOf s t).stageFree s.hc + d
    let s := updTile s t fun x => { x with stageFree := done }
    schedule (updOp s t n fun o =>
        { o with stepsLeft := done, out := (List.range o.layers.length).flatMap (stageBytes o) })
      done (.cubeStagingEnd t n)

/-- Whether a store in flight that the task of an operation issued before the trigger writes a slot (R258). -/
def storesAt (x : Tile) (o : CubeOp) (slot : Nat) : Bool :=
  x.stores.any fun p => p.task == o.task && decide (p.issued < o.acceptedAt) &&
    p.kind.floorUnits.any (touches (16384 * slot) 16384)

/-- Whether a store in flight of the triggering task, or a watermark, keeps an operation from reading its
chunks (R194, R258). -/
def chunksHeld (s : State) (t : Nat) (o : CubeOp) : Bool :=
  let x := tileOf s t
  o.chunks.any fun u =>
    wmBlocked x [] false (16384 * u.slot) 16384 || x.repair.contains (u.slot / 128) || storesAt x o u.slot

/-- Whether every chunk of a resolving operation is valid in its slot and may be read. -/
def chunksValid (s : State) (t : Nat) (o : CubeOp) : Bool := (o.chunks.all fun u => u.tag == 0) && !chunksHeld s t o

/-- Whether an operation, or a pass, accepted before this one is ready to stage (R384) (log 40: DEDUCED). -/
def stagesBefore (s : State) (t : Nat) (o : CubeOp) : Bool :=
  (tileOf s t).cubeOps.any fun p =>
    p.st == .resolving && (decide (p.trig < o.trig) || (p.trig == o.trig && decide (p.pass < o.pass))) && chunksValid s t p

/-- One look at a resolving operation: its chunks, then staging, else another look in the next hc. -/
def advanceOp (s : State) (t n : Nat) : State :=
  match opOf s t n with
  | none => s
  | some o =>
    match lookChunks s t n 0 o.chunks with
    | none => failOp s t o 0x14 o.addr
    | some s =>
      match opOf s t n with
      | none => s
      | some o =>
        if !(chunksValid s t o) then scheduleOnce s (s.hc + 1) (.cubeResolution t n)
        else if s.hc < (tileOf s t).stageFree then scheduleOnce s (tileOf s t).stageFree (.cubeResolution t n)
        else if stagesBefore s t o then scheduleOnce s (s.hc + 1) (.cubeResolution t n)
        else startStaging s t n

/-- The descriptors of a pass are fetched and checked (R145). -/
def beginResolve (s : State) (t n : Nat) (o : CubeOp) : State :=
  match resolve s t o with
  | .error (code, va) => failOp s t o code (match va with | some a => BitVec.ofNat 64 a | none => o.addr)
  | .ok r =>
    let s := updOp s t n fun o =>
      { o with st := .resolving, dA := r.a, dB := r.b, dAdd := r.add, dDst := r.dst, scaleA := r.scaleA, scaleB := r.scaleB,
               hb := r.hb }
    advanceOp (updOp s t n fun o => { o with chunks := chunkList o }) t n

/-- The cube's private cache takes the descriptors of the handles that an operation names (R139); those that it fetches are
translated (R319). -/
def keepDescs (s : State) (t : Nat) (o : CubeOp) : State :=
  let x := tileOf s t
  let hs := (([0x103, 0x104, 0x105, 0x106] : List Nat).map o.snap.handle).filter fun h => decide (h.toNat < x.tdtlen.toNat)
  let at_ := (hs.map fun h => (x.tdtbase + BitVec.ofNat 64 (64 * h.toNat)).toNat).eraseDups.filter fun a => !x.tdCache.contains a
  let s := at_.foldl (fun s a => noteXlat s t (tileCtx s t) (BitVec.ofNat 64 a)) s
  updTile s t fun x => { x with tdCache := at_ ++ x.tdCache }

/-- CUBE_RESOLUTION: in the hc after acceptance the handles are resolved and checked; the chunks are then
looked for until all are valid. The engine reads nothing before the accesses that happen before it (R258). -/
def execCubeResolution (t n : Nat) (s : State) : Host.Outcome State Fault Refusal :=
  match opOf s t n with
  | none => .next s
  | some o =>
    match o.st with
    | .accepted =>
      if earlierGlobal s t o.task o.after then .next (scheduleOnce s (s.hc + 1) (.cubeResolution t n))
      else .next (beginResolve (keepDescs s t o) t n o)
    | .resolving => .next (advanceOp s t n)
    | _ => .next s

/-- Whether some read of the cube source stands before a fill: fills of earlier operations and chunks, and those of hints
claimed before the operation was accepted (R253, R256, R266) (log 108: DEDUCED). -/
def fillBefore (x : Tile) (n i : Nat) : Bool :=
  fillOpen x (fun m j => decide (m < n) || (m == n && decide (j < i))) ||
  x.cpy.any fun g => g.2.hint.any fun h => h.slot.isSome && decide (h.after ≤ n)

/-- CUBE_CHUNK_FILL_END: a missing chunk's bytes land in its slot, which becomes valid (R146, R170), after the stores that
the task issued before the trigger (R258, R259) (log 13: DESIGN CHOICE), and once its page is translated (R319). -/
def execCubeChunkFillEnd (t n c : Nat) (s : State) : Host.Outcome State Fault Refusal :=
  match opOf s t n with
  | none => .next s
  | some o =>
    match o.chunks[c]? with
    | none => .next s
    | some u =>
      if !(o.st == .resolving && u.own && u.tag != 0) then .next s
      else if fillBefore (tileOf s t) n c || fillHeld (tileOf s t) u.slot u.tag || storesAt (tileOf s t) o u.slot then
        .next (scheduleOnce s (s.hc + 1) (.cubeChunkFillEnd t n c))
      else match ensureUnit s t o.task (tileCtx s t) (chunkFirst (o.desc u.operand) u.chunk) false with
      | (false, s) => .next (scheduleOnce s (s.hc + 1) (.cubeChunkFillEnd t n c))
      | (true, s) => match chunkBytes s (tileCtx s t) (o.desc u.operand) u.chunk with
        | .error (code, va) => .next (failOp s t o code (BitVec.ofNat 64 va))
        | .ok bs =>
          let s := engineWrite s t (addrBytes (16384 * u.slot) bs)
          let s := updTile s t fun x => endClaim x u.slot u.tag
          .next (advanceOp (updChunk s t n c fun u => { u with tag := 0 }) t n)

/-- An operation is held in this hc: counted once per tile and hc (R151). -/
def holdOp (s : State) (t n : Nat) : State :=
  let counted := (tileOf s t).cubeOps.any fun o => o.heldHc == s.hc + 1
  let s := updOp s t n fun o => { o with heldHc := s.hc + 1, holdLeft := o.holdLeft - 1 }
  if counted then s else updTile s t fun x => { x with held := x.held + 1 }

/-- A staging operation is held in this hc: its end and the end of the flues' use come one hc later (R151). -/
def holdStaging (s : State) (t n : Nat) (o : CubeOp) : State :=
  let s := updTile (holdOp s t n) t fun x => { x with stageFree := max x.stageFree (o.stepsLeft + 1) }
  scheduleOnce (updOp s t n fun o => { o with stepsLeft := o.stepsLeft + 1 }) (s.hc + 1) (.cubeStagingEnd t n)

/-- CUBE_STAGING_END: the last chunk is in its well half (R147, R149), or a held hc of staging (R151). -/
def execCubeStagingEnd (t n : Nat) (s : State) : Host.Outcome State Fault Refusal :=
  match opOf s t n with
  | none => .next s
  | some o =>
    whenever (o.st == .staging) s fun s =>
      if 0 < o.holdLeft then holdStaging s t n o
      else if s.hc < o.stepsLeft then scheduleOnce s o.stepsLeft (.cubeStagingEnd t n)
      else if o.layers.any (fun l => pathLost s t 0 (dieOf s l)) then schedule s (s.hc + 1) (.cubeStagingEnd t n)
      else
      let s := updTile s t fun x => { x with wells := mwriteAll x.wells o.out }
      schedule (updOp s t n fun o => { o with st := .staged, out := [] }) s.hc (.cubeRunStart t n)

/-! ### The run (R149 to R152) -/

/-- The address in the wells of chunk `c` of a well-resident operand, on the plane's layer (R147); chunks past the layer's wells
are read where the addresses lead (log 115: DESIGN CHOICE). -/
def wellChunk (o : CubeOp) (d : TileDesc) (c : Nat) : Nat := 2 ^ 20 * o.layers.headD 0 + d.base.toNat % 2 ^ 20 + 16384 * c

/-- The bytes of a well-resident operand with the given inner extent (R147). -/
def wellOperand (x : Tile) (o : CubeOp) (d : TileDesc) (extent : Nat) : Memory :=
  (chunkSpan d.format 0 extent).foldl (fun m c =>
    mwriteAll m (addrBytes (16384 * c) (mbytes x.wells (wellChunk o d c) 16384))) []

/-- The chunks of the well-resident operands of an operation, by address. -/
def wellChunks (o : CubeOp) : List Nat :=
  let of := fun (d : TileDesc) (extent : Nat) =>
    if d.layout = 1 then (chunkSpan d.format 0 extent).map (wellChunk o d) else []
  of o.dA o.snap.k ++ of o.dB o.snap.k ++ of o.dAdd o.snap.n

/-- Whether a store in flight that was issued before the trigger, or a watermark, keeps an operation from reading its
well-resident operands (R194, R258). -/
def wellsHeld (x : Tile) (o : CubeOp) : Bool :=
  (wellChunks o).any fun a =>
    wmBlocked x [] true a 16384 ||
    x.stores.any fun p => p.task == o.task && decide (p.issued < o.acceptedAt) &&
      match p.kind with
      | .well bs => bs.any fun c => decide (a ≤ c.1) && decide (c.1 < a + 16384)
      | _ => false

/-- Whether every layer of a staged operation has left its running state and it waits there longest (R149). -/
def mayRun (x : Tile) (o : CubeOp) : Bool :=
  x.cubeOps.all fun p =>
    !(p.layers.any fun l => o.layers.contains l) ||
    (p.st != .running && !(p.st.waiting && decide (p.n < o.n)))

/-- The next pass of a grouped operation is accepted when its predecessor starts to run (R136); the counts of missing
chunks go on from pass to pass (R383). -/
def nextPass (s : State) (t : Nat) (o : CubeOp) : State :=
  if o.pass + 1 < o.passes then
    let n := (tileOf s t).cubeSeq
    let p : CubeOp :=
      { n := n, trig := o.trig, origin := o.origin, task := o.task, snap := o.snap, st := .accepted,
        pass := o.pass + 1, passes := o.passes, layers := o.layers, marks := o.marks, entry := o.entry,
        addr := o.addr, acceptedAt := o.acceptedAt, after := o.after, miss := o.miss, dstMiss := o.dstMiss,
        halves := o.halves }
    schedule (updTile s t fun x => { x with cubeSeq := n + 1, cubeOps := x.cubeOps ++ [p] })
      (s.hc + 1) (.cubeResolution t n)
  else s

/-- CUBE_RUN_START: the skewed start of a staged operation whose layers are free (R149, R150). -/
def execCubeRunStart (t n : Nat) (s : State) : Host.Outcome State Fault Refusal :=
  match opOf s t n with
  | none => .next s
  | some o =>
    whenever (o.st == .staged && mayRun (tileOf s t) o) s fun s =>
      if wellsHeld (tileOf s t) o then scheduleOnce s (s.hc + 1) (.cubeRunStart t n)
      else
      let x := tileOf s t
      let s := updOp s t n fun o =>
        { o with st := .running, stepsLeft := o.ck + 254,
                 aBytes := if o.dA.layout = 1 then wellOperand x o o.dA o.snap.k else o.aBytes,
                 bBytes := if o.dB.layout = 1 then wellOperand x o o.dB o.snap.k else o.bBytes,
                 addBytes := if o.hasAdd && o.dAdd.layout = 1 then wellOperand x o o.dAdd o.snap.n else o.addBytes }
      schedule (nextPass s t o) s.hc (.cubeRunEnd t n)

/-- Whether the damper has a layer off in this hc (R152). -/
def layerOff (s : State) (l : Nat) : Bool :=
  decide (16 - (tget ({} : Layer) s.layers l).d ≤ s.hc % 16)

/-- Whether an earlier operation on a layer of this one has ended its run and is not complete (R144). -/
def earlierHere (x : Tile) (o : CubeOp) : Bool :=
  x.cubeOps.any fun p => decide (p.n < o.n) && (p.layers.any fun l => o.layers.contains l) &&
    (p.st == .rising || p.st == .awaiting || p.st == .draining)

/-- Whether the hold line of a running operation is asserted in this hc (R151). -/
def runHeld (s : State) (t : Nat) (o : CubeOp) : Bool :=
  (o.layers.any (layerOff s)) || decide (0 < o.holdLeft) || (o.stepsLeft == 1 && earlierHere (tileOf s t) o)

/-- An operation is ready to drain (R154). -/
def readyOp (s : State) (t n : Nat) : State :=
  schedule (updOp s t n fun o => { o with st := .awaiting, readyAt := s.hc }) s.hc (.cubeDrainStart t n)

/-- The hc that rising takes (R153, R370): for each selected layer above the lowest, the count of the fewest live
flues between their dies. -/
def riseTime (s : State) (t : Nat) : List Nat → Nat × State
  | a :: b :: r =>
    let lo := min (dieOf s a) (dieOf s b)
    let hi := max (dieOf s a) (dieOf s b)
    let (d, s) := riseTime s t (b :: r)
    let (e, s) := flueTime s (fewestFlues (tileOf s t) (lo + 1) hi) fun f => ceilDiv 92 f + 1
    (d + e, s)
  | _ => (0, s)

/-- The run of an operation ends (R149). -/
def endRun (s : State) (t n : Nat) (o : CubeOp) : State :=
  let s :=
    if o.snap.plane then readyOp s t n
    else
      let (d, s) := riseTime s t o.layers
      schedule (updOp s t n fun o => { o with st := .rising, stepsLeft := d }) s.hc (.cubeRiseEnd t n)
  (tileOf s t).cubeOps.foldl (fun s p =>
    if p.st = .staged then scheduleOnce s s.hc (.cubeRunStart t p.n) else s) s

/-- CUBE_RUN_END: one run step, or a held hc; after the last step the run ends (R150, R151). -/
def execCubeRunEnd (t n : Nat) (s : State) : Host.Outcome State Fault Refusal :=
  match opOf s t n with
  | none => .next s
  | some o =>
    whenever (o.st == .running) s fun s =>
      if o.stepsLeft = 0 then endRun s t n o
      else
        let s := if runHeld s t o then holdOp s t n
          else updOp s t n fun o => { o with stepsLeft := o.stepsLeft - 1 }
        schedule s (s.hc + 1) (.cubeRunEnd t n)

/-- CUBE_RISE_END: one hc of the rising flue; at its end the operation is ready to drain (R153). -/
def execCubeRiseEnd (t n : Nat) (s : State) : Host.Outcome State Fault Refusal :=
  match opOf s t n with
  | none => .next s
  | some o =>
    whenever (o.st == .rising) s fun s =>
      let dies := o.layers.map (dieOf s)
      if pathLost s t (dies.foldl min 8 + 1) (dies.foldl max 0) then schedule s (s.hc + 1) (.cubeRiseEnd t n)
      else if o.stepsLeft = 0 then readyOp s t n
      else
        let s := if 0 < o.holdLeft then holdOp s t n
          else updOp s t n fun o => { o with stepsLeft := o.stepsLeft - 1 }
        schedule s (s.hc + 1) (.cubeRiseEnd t n)

/-! ### The product (R40 to R42, R157) -/

/-- The code of inner element `k` of outer index `r` among an operand's bytes (R33, R141). -/
def elemCode (m : Memory) (code r k : Nat) : Nat :=
  let e := chunkElems code
  let base := 16384 * (k / e) + 128 * r
  let i := k % e
  match codeWidth code with
  | 4 => nfld (mread m (base + i / 2)).toNat (4 * (i % 2)) 4
  | w => mword m (base + i * w / 8) (w / 8)

/-- The exact value of an element (R30, R34). -/
def elemNum (m : Memory) (code r k : Nat) : Num :=
  if code = 6 then
    let i := k % 512
    glyphNum (mword m (16384 * (k / 512) + 128 * r + 2 * (i / 8)) 2) (i % 8)
  else match fmtOfCode code with
    | some F => decodeF F (elemCode m code r k)
    | none => .fin false 0 0

/-- The integer value of an element. -/
def elemInt (m : Memory) (code r k : Nat) : Int := signedOf (codeWidth code) (elemCode m code r k)

/-- The value of a block-scale code (R32, R35). -/
def scaleNum (bs x : Nat) : Num :=
  if bs = 1 then (if x = 0xFF then .nan false 0 else .fin false 1 ((x : Int) - 127)) else decodeF e4m3F x

/-- The block scale of outer index `j` at `k` in an operand's scale tiles of `rows` outer indices (R36); 1 where
the operand has none. -/
def scaleAt (bs : Nat) (bytes : List Byte) (rows j k : Nat) : Num :=
  match bytes with
  | [] => .fin false 1 0
  | _ =>
    let kb := k / 32
    let tile := kb / 4 * ceilDiv rows 128 + j / 128
    let i := j % 128
    scaleNum bs ((bytes.drop (512 * tile + 128 * (kb % 4) + 4 * (i % 32) + i / 32)).headD 0).toNat

/-- a[i][k] × sa(i,k), for row `i` of the row block. -/
def CubeOp.aNum (o : CubeOp) (i k : Nat) : Num :=
  mulNum (elemNum o.aBytes (fmtA o.snap.fmt) i k)
    (scaleAt (fmtBs o.snap.fmt) o.scaleA o.snap.m (128 * o.pass + i) k)

/-- b[k][j] × sb(k,j). -/
def CubeOp.bNum (o : CubeOp) (k j : Nat) : Num :=
  mulNum (elemNum o.bBytes (fmtB o.snap.fmt) j k) (scaleAt (fmtBs o.snap.fmt) o.scaleB o.snap.n j k)

/-- One FP32 addition of R40 on codes, rounded once under fmt.sat. -/
def addRne (sat : Bool) (acc : Nat) (p : Num) : Nat := packNum f32F sat (addNum (decodeF f32F acc) p)

/-- One FP32 multiplication of R40 on codes. -/
def mulRne (sat : Bool) (a b : Nat) : Nat := packNum f32F sat (mulNum (decodeF f32F a) (decodeF f32F b))

/-- −0 in FP32. -/
def negZero : Nat := 0x80000000

/-- The partial sum of row `i` and column `j` on the t-th selected layer, as FP32 bits. -/
def CubeOp.partialF (o : CubeOp) (t i j : Nat) : Nat :=
  let sat := fmtSat o.snap.fmt
  let r := o.range t
  let p := fun k => if k < o.snap.k then mulNum (o.aNum i k) (o.bNum k j) else .fin false 0 0
  if o.cls.twoMac then
    (List.range (ceilDiv (r.2 - r.1) 2)).foldl (fun acc q =>
      addRne sat acc (addNum (p (r.1 + 2 * q)) (p (r.1 + 2 * q + 1)))) negZero
  else (List.range (r.2 - r.1)).foldl (fun acc q => addRne sat acc (p (r.1 + q))) negZero

/-- One INT32 addition of R42, with whether it wrapped. -/
def addInt (sat : Bool) (acc : Int × Bool) (p : Int) : Int × Bool :=
  let v := acc.1 + p
  let w : Int := signedOf 32 ((v % 2 ^ 32).toNat)
  if sat then (satInt 32 v, acc.2) else (w, acc.2 || w != v)

/-- The partial sum of an integer pair on the t-th selected layer, and whether it wrapped (R42). -/
def CubeOp.partialI (o : CubeOp) (t i j : Nat) : Int × Bool :=
  let sat := fmtSat o.snap.fmt
  let r := o.range t
  let p := fun k => if k < o.snap.k then
      elemInt o.aBytes (fmtA o.snap.fmt) i k * elemInt o.bBytes (fmtB o.snap.fmt) j k else 0
  if o.cls.twoMac then
    (List.range (ceilDiv (r.2 - r.1) 2)).foldl (fun acc q =>
      addInt sat acc (p (r.1 + 2 * q) + p (r.1 + 2 * q + 1))) (0, false)
  else (List.range (r.2 - r.1)).foldl (fun acc q => addInt sat acc (p (r.1 + q))) (0, false)

/-- y of R40 before the tensor scale, of a float pair. -/
def CubeOp.sumF (o : CubeOp) (i j : Nat) : Nat :=
  let sat := fmtSat o.snap.fmt
  let y := (List.range (o.layers.length - 1)).foldl (fun y t =>
    addRne sat y (decodeF f32F (o.partialF (t + 1) i j))) (o.partialF 0 i j)
  if o.hasAdd then
    addRne sat y (decodeF f32F (toF32 o.dAdd.format (elemCode o.addBytes o.dAdd.format i j)))
  else y

/-- y of R42 before conversion, and whether an addition wrapped. -/
def CubeOp.sumI (o : CubeOp) (i j : Nat) : Int × Bool :=
  let sat := fmtSat o.snap.fmt
  let y := (List.range (o.layers.length - 1)).foldl (fun y t =>
    let p := o.partialI (t + 1) i j
    addInt sat (y.1, y.2 || p.2) p.1) (o.partialI 0 i j)
  if o.hasAdd then addInt sat y (signedOf 32 (elemCode o.addBytes 0xA i j)) else y

/-- The tensor scale ta × tb (R40). -/
def CubeOp.tensor (o : CubeOp) : Nat := mulRne (fmtSat o.snap.fmt) o.dA.tscale.toNat o.dB.tscale.toNat

/-- y as it is delivered to a lane (R156): FP32 bits, or the INT32 sum. -/
def CubeOp.laneValue (o : CubeOp) (i j : Nat) : Nat :=
  let f := o.snap.fmt
  if o.cls.isInt then
    let y := (o.sumI i j).1
    if fmtTs f && fmtO f == 9 then mulRne (fmtSat f) (intToF32 y) o.tensor else (BitVec.ofInt 32 y).toNat
  else
    let y := o.sumF i j
    if fmtTs f then mulRne (fmtSat f) y o.tensor else y

/-- The code of C[i][j] in fmt.fo (R38, R40, R42). -/
def CubeOp.outCode (o : CubeOp) (i j : Nat) : Nat :=
  let f := o.snap.fmt
  if o.cls.isInt then
    let y := (o.sumI i j).1
    if fmtO f = 9 then (if fmtTs f then o.laneValue i j else intToF32 y)
    else if fmtO f = 4 then (BitVec.ofInt 8 (satInt 8 y)).toNat
    else (BitVec.ofInt 32 y).toNat
  else fromF32 (fmtO f) (fmtSat f) (o.laneValue i j)

/-- Whether row `i` of the row block is formed (R157). -/
def CubeOp.rowOn (o : CubeOp) (i : Nat) : Bool :=
  decide (i < o.blockRows) && wbitAt (latchIn o.snap.lat (0x10A + i / 64)) (i % 64)

/-- Whether column `j` is formed (R157). -/
def CubeOp.colOn (o : CubeOp) (j : Nat) : Bool :=
  decide (j < o.snap.n) && wbitAt (latchIn o.snap.lat (0x10C + j / 64)) (j % 64)

/-- The formed rows and columns. -/
def CubeOp.rows (o : CubeOp) : List Nat := (List.range 128).filter o.rowOn
def CubeOp.cols (o : CubeOp) : List Nat := (List.range 128).filter o.colOn

/-! ### Checksums (R47, R48) -/

/-- An FP32 sum in increasing index, rounded at each step. -/
def sumRne (l : List Num) : Nat := l.foldl (addRne false) 0

/-- One column or row passes: |q − c| ≤ τ × u, or both sides NaN or the same infinity (R47) (log 24: DEDUCED). -/
def checkPasses (tol : Word32) (q c u : Nat) : Bool :=
  match decodeF f32F q, decodeF f32F c with
  | .fin a m e, .fin b n g =>
    let diff := packNum f32F false (absNum (addNum (.fin a m e) (negNum (.fin b n g))))
    leNum (decodeF f32F diff) (decodeF f32F (mulRne false tol.toNat u))
  | .nan _ _, .nan _ _ => true
  | .inf a, .inf b => a == b
  | _, _ => false

/-- The value of a partial sum on a layer, in FP32. -/
def CubeOp.partialNum (o : CubeOp) (t i j : Nat) : Num :=
  decodeF f32F (if o.cls.isInt then intToF32 (o.partialI t i j).1 else o.partialF t i j)

/-- The scaled operand values, integers as exact values. -/
def CubeOp.aVal (o : CubeOp) (i k : Nat) : Num :=
  if o.cls.isInt then
    let v := elemInt o.aBytes (fmtA o.snap.fmt) i k
    .fin (decide (v < 0)) v.natAbs 0
  else o.aNum i k
def CubeOp.bVal (o : CubeOp) (k j : Nat) : Num :=
  if o.cls.isInt then
    let v := elemInt o.bBytes (fmtB o.snap.fmt) j k
    .fin (decide (v < 0)) v.natAbs 0
  else o.bNum k j

/-- The k indices of a layer's slice. -/
def CubeOp.ks (o : CubeOp) (t : Nat) : List Nat := (List.range ((o.range t).2 - (o.range t).1)).map ((o.range t).1 + ·)

/-- Whether an integer result has wrapped on the t-th layer; what wraps when the layers are added, or with the addend, is
counted to the topmost one (R42, R47). -/
def CubeOp.wrapped (o : CubeOp) (t i j : Nat) : Bool :=
  o.cls.isInt && ((o.partialI t i j).2 || (t + 1 == o.layers.length && (o.sumI i j).2))

/-- Whether column `j` passes on the t-th layer. -/
def CubeOp.colPasses (o : CubeOp) (tol : Word32) (t j : Nat) : Bool :=
  let alpha := fun (f : Num → Num) k => decodeF f32F (sumRne (o.rows.map fun i => f (o.aVal i k)))
  let q := sumRne ((o.ks t).map fun k => mulNum (alpha id k) (o.bVal k j))
  let u := sumRne ((o.ks t).map fun k => mulNum (alpha absNum k) (absNum (o.bVal k j)))
  let c := sumRne (o.rows.map fun i => o.partialNum t i j)
  checkPasses tol q c u && !(o.rows.any fun i => o.wrapped t i j)

/-- Whether row `i` passes on the t-th layer. -/
def CubeOp.rowPasses (o : CubeOp) (tol : Word32) (t i : Nat) : Bool :=
  let beta := fun (f : Num → Num) k => decodeF f32F (sumRne (o.cols.map fun j => f (o.bVal k j)))
  let q := sumRne ((o.ks t).map fun k => mulNum (o.aVal i k) (beta id k))
  let u := sumRne ((o.ks t).map fun k => mulNum (absNum (o.aVal i k)) (beta absNum k))
  let c := sumRne (o.cols.map fun j => o.partialNum t i j)
  checkPasses tol q c u && !(o.cols.any fun j => o.wrapped t i j)

/-- The lowest layer with a failing row or column, and its lowest failing row and column, 255 for none (R48). -/
def CubeOp.mismatch (o : CubeOp) (tol : Word32) : Option (Nat × Nat × Nat) :=
  (List.range o.layers.length).findSome? fun t =>
    let row := o.rows.find? fun i => !o.rowPasses tol t i
    let col := o.cols.find? fun j => !o.colPasses tol t j
    if row.isSome || col.isSome then some ((o.layers.drop t).headD 0, row.getD 255, col.getD 255) else none

/-! ### The drain (R153 to R156) -/

/-- The chunk numbers of the destination that the drain writes. -/
def CubeOp.dstChunks (o : CubeOp) (d0 : Nat) : List Nat :=
  let e := chunkElems (fmtO o.snap.fmt)
  if o.rows.isEmpty || !o.snap.toFloor then []
  else ((List.range (ceilDiv o.snap.n e)).filter fun c => o.cols.any fun j => j / e == c).map fun c =>
    if 128 < d0 then 1024 * o.pass + c else c

/-- The bytes that the drain writes into the slots of the destination chunks, over what stands there (R155). -/
def drainBytes (floor : Memory) (o : CubeOp) (slots : List (Nat × Nat)) : List (Nat × Byte) :=
  let e := chunkElems (fmtO o.snap.fmt)
  let w := codeWidth (fmtO o.snap.fmt)
  o.rows.flatMap fun i => slots.flatMap fun sl =>
    let base := 16384 * sl.2 + 128 * i
    if w = 4 then
      (List.range 128).filterMap fun b =>
        let j := e * (sl.1 % 1024) + 2 * b
        let old := (mread floor (base + b)).toNat
        let lo := if o.colOn j then o.outCode i j else old % 16
        let hi := if o.colOn (j + 1) then o.outCode i (j + 1) else old / 16
        if o.colOn j || o.colOn (j + 1) then some (base + b, BitVec.ofNat 8 (lo + 16 * hi)) else none
    else
      (List.range e).flatMap fun q =>
        let j := e * (sl.1 % 1024) + q
        if o.colOn j then addrBytes (base + q * w / 8) (leBytes (w / 8) (o.outCode i j)) else []

/-- The row that vd receives (R156). -/
def drainRow (o : CubeOp) : VWord :=
  let i := o.snap.drow % 128
  fromLanes fun j => if o.rowOn i && o.colOn j then BitVec.ofNat 32 (o.laneValue i j) else 0

/-- Whether an operation's turn on the falling flue has come (R154). -/
def drainTurn (x : Tile) (o : CubeOp) : Bool :=
  x.cubeOps.all fun p =>
    p.st != .draining &&
    (p.n == o.n || p.st != .awaiting || decide (o.readyAt < p.readyAt) ||
      (o.readyAt == p.readyAt && decide (o.layers.headD 0 ≤ p.layers.headD 0)))

/-- The bytes of an operand as the wells hold them now: chunk by chunk on each layer of the operation (R147). -/
def wellView (x : Tile) (o : CubeOp) (code face : Nat) : Memory :=
  (List.range o.layers.length).foldl (fun m i =>
    let l := (o.layers.drop i).headD 0
    let r := o.range i
    (chunkSpan code r.1 r.2).zipIdx.foldl (fun m c =>
      mwriteAll m (addrBytes (16384 * c.1)
        (mbytes x.wells (2 ^ 20 * l + 2 ^ 19 * face + 2 ^ 18 * o.half l + 16384 * c.2) 16384))) m) []

/-- The bytes of an operand that may be those of one memory or those of another, or 0 (R6). -/
def openOperand (s : State) (m now : Memory) (code k : Nat) : Memory × State :=
  let r := openWrite s m ((List.range (16384 * (chunkSpan code 0 k).length)).map fun a => (a, mread now a))
  (mwriteAll [] r.1, r.2)

/-- The operands of an operation whose well half was written under it are unpredictable: each byte is the one staged, the
one that the well holds, or 0 (R6, R166). -/
def spoilOp (s : State) (t n : Nat) : State :=
  match opOf s t n with
  | none => s
  | some o =>
    let x := tileOf s t
    let k := o.snap.k
    let now := fun (d : TileDesc) (code face : Nat) =>
      if d.layout = 1 then wellOperand x o d k else wellView x o code face
    let (a, s) := openOperand s o.aBytes (now o.dA (fmtA o.snap.fmt) 0) (fmtA o.snap.fmt) k
    let (b, s) := openOperand s o.bBytes (now o.dB (fmtB o.snap.fmt) 1) (fmtB o.snap.fmt) k
    updOp s t n fun o => { o with aBytes := a, bBytes := b, poison := false }

/-- The slots of the destination chunks, claimed where they are missing (R146, R155). -/
inductive DstSlots where
  | got (s : State) (slots : List (Nat × Nat)) (miss : Nat)
  | wait
  | noVictim
  deriving Repr

/-- Finds or claims the destination chunks one after another. -/
def dstSlots (s : State) (t : Nat) (o : CubeOp) (miss : Nat) : List Nat → DstSlots
  | [] => .got s [] miss
  | c :: r =>
    let tag := chunkTag o 3 c
    let x := tileOf s t
    match findTag x tag with
    | some (slot, e) =>
      if e.st = .filling then .wait
      else match dstSlots s t o miss r with
        | .got s l m => .got s ((c, slot) :: l) m
        | other => other
    | none =>
      match findVictim x (o.snap.vic 3 + miss) with
      | none => .noVictim
      | some slot =>
        if (tagWait x slot tag).isSome || wmBlocked x [] false (16384 * slot) 16384 then .wait
        else
          let s := updTile s t fun x => claimSlot x slot 4 tag
          match dstSlots s t o (miss + 1) r with
          | .got s l m => .got s ((c, slot) :: l) m
          | other => other

/-- Whether a copy engine of any tile moves bytes into the floor of tile `t`. -/
def copyLandsAt (s : State) (t : Nat) : Bool :=
  s.tiles.any fun x => x.2.cpy.any fun e => e.2.cmds.any fun c =>
    (c.st == .fetching || c.st == .landing) && c.dsp == 1 && (c.dstTiles x.1).contains t

/-- Whether a copy engine holds the floor port against the drain in this hc: open while one moves bytes to this tile
(R151) (log 27: DESIGN CHOICE). -/
def portHeldNow (s : State) (t : Nat) (o : CubeOp) : Bool × State :=
  if !o.out.isEmpty && copyLandsAt s t then freshBool s else (false, s)

/-- The destination slots that an operation has claimed and that have not taken their tag. -/
def claimedDst (x : Tile) (o : CubeOp) : List (Nat × Nat) :=
  o.dstSlots.filter fun sl => (tget ({} : TagEntry) x.tags sl.2).st == .filling

/-- What a drain writes to the floor: zeros in the slots that it has claimed, and over them the elements formed (R146, R155). -/
def drainOut (x : Tile) (o : CubeOp) : List (Nat × Byte) :=
  let mine := (claimedDst x o).map (·.2)
  let base := mine.foldl (fun m sl => mzero m (16384 * sl) 16384) x.floor
  let bs := drainBytes base o o.dstSlots
  (mine.flatMap fun sl => ((List.range 16384).map fun i => (16384 * sl + i, (0 : Byte))).filter fun c =>
    !bs.any fun b => b.1 == c.1) ++ bs

/-- Begins a drain: destination slots, then the time on the flue (R153, R370, R383). -/
def startDrain (s : State) (t n : Nat) (o : CubeOp) : State :=
  match dstSlots s t o o.dstMiss (o.dstChunks o.dDst.d0) with
  | .noVictim => failOp s t o 0x14 o.addr
  | .wait => schedule s (s.hc + 1) (.cubeDrainStart t n)
  | .got s slots m =>
    let s := updTile s t fun x =>
      { x with cubeOps := x.cubeOps.map fun p => if p.trig = o.trig then { p with dstMiss := m } else p }
    let s := if o.poison then spoilOp s t n else s
    let top := o.layers.foldl (fun m l => max m (dieOf s l)) 0
    let (d, s) := flueTime s (fewestFlues (tileOf s t) 0 top) fun f => ceilDiv 128 f
    let x := tileOf s t
    let s := updOp s t n fun o =>
      { o with st := .draining, stepsLeft := d, victims := slots.map (·.2), dstSlots := slots,
               out := drainOut x { o with dstSlots := slots } }
    schedule s (s.hc + 1) (.cubeDrainEnd t n)

/-- CUBE_DRAIN_START: an operation that is ready takes its turn on the falling flue (R154). -/
def execCubeDrainStart (t n : Nat) (s : State) : Host.Outcome State Fault Refusal :=
  match opOf s t n with
  | none => .next s
  | some o => whenever (o.st == .awaiting && drainTurn (tileOf s t) o) s fun s => startDrain s t n o

/-- Whether nothing comes down from an operation's dies any more (R365). -/
def drainLost (s : State) (t : Nat) (o : CubeOp) : Bool := pathLost s t 0 ((o.layers.map (dieOf s)).foldl max 0)

/-- Whether some byte of a drain waits for a watermark or a bank under repair (R194, R371). -/
def drainHeld (x : Tile) (o : CubeOp) : Bool :=
  o.out.any fun c => wmBlocked x [] false c.1 1 || x.repair.contains (slotOf c.1 / 128)

/-- The claimed slots of an operation whose drain has ended take their tags, after the task slots' words of the hc and once
no tag operation in flight acts on them; then the operation is gone (R170, R174). -/
def endClaims (s : State) (t n : Nat) : State :=
  match opOf s t n with
  | none => s
  | some o =>
    if (claimedDst (tileOf s t) o).isEmpty then dropOp s t n
    else
      let s := (tileOf s t).cubeOps.foldl (fun s p =>
        if p.st = .awaiting then scheduleOnce s s.hc (.cubeDrainStart t p.n) else s) s
      scheduleLate s s.hc 1 (.cubeDrainEnd t n)

/-- The tags of a drained operation's claimed slots are set where no tag operation in flight forbids it (R174). -/
def settleClaims (s : State) (t n : Nat) (o : CubeOp) : State :=
  let tagOf := fun (sl : Nat × Nat) => chunkTag o 3 sl.1
  let held := fun (sl : Nat × Nat) => (tagWait (tileOf s t) sl.2 (tagOf sl)).isSome
  let mine := claimedDst (tileOf s t) o
  let s' := (mine.filter fun sl => !held sl).foldl (fun s sl => updTile s t fun x => endClaim x sl.2 (tagOf sl)) s
  if mine.any held then scheduleLate s' (s.hc + 1) 1 (.cubeDrainEnd t n) else dropOp s' t n

/-- The drain has come to its last hc: floor slots and vd are written, the checksums are compared, the next pass
or the end of the operation follows (R48, R149, R153, R155, R156). A mismatch is recorded with its layer, row and column
in the address of the error record (log 94: DESIGN CHOICE). -/
def endDrain (s : State) (t n : Nat) (o : CubeOp) : State :=
  let x := tileOf s t
  let bytes := (drainOut x o).filter fun c => o.out.any fun d => d.1 == c.1
  let s := engineWrite s t bytes
  let s := if o.marks && o.snap.drow / 128 == o.pass then deliverV s t o.task o.snap.vd (drainRow o) else s
  let bad := o.mismatch x.chktol
  let last := o.pass + 1 == o.passes
  let s := updOp (if last then updTile s t fun x => setDone x o else s) t n fun o => { o with st := .complete, out := [] }
  let s := endClaims (checkWaits s t) t n
  match bad with
  | some (l, i, j) =>
    let addr : Word := BitVec.ofNat 64 (2 ^ 16 * l + 2 ^ 8 * i + j)
    let s := noteError s t { ue := true, kind := 3, ctx := tileCtx s t, own := true, cons := true, addr := addr }
    consumeError s t o.task o.entry 0x51 (unitId t 8) o.addr
  | none => s

/-- CUBE_DRAIN_END: one hc of the drain; its last one writes the result (R153). -/
def execCubeDrainEnd (t n : Nat) (s : State) : Host.Outcome State Fault Refusal :=
  match opOf s t n with
  | none => .next s
  | some o =>
    if o.st = .complete then .next (settleClaims s t n o)
    else whenever (o.st == .draining) s fun s =>
      let (held, s) := portHeldNow s t o
      if held || 0 < o.holdLeft then schedule (holdOp s t n) (s.hc + 1) (.cubeDrainEnd t n)
      else if 1 < o.stepsLeft then
        schedule (updOp s t n fun o => { o with stepsLeft := o.stepsLeft - 1 }) (s.hc + 1) (.cubeDrainEnd t n)
      else if drainHeld (tileOf s t) o || drainLost s t o then schedule s (s.hc + 1) (.cubeDrainEnd t n)
      else endDrain s t n o

end Sys2Proof.Machine
end

