-- ==== Sys2Proof/Machine/Nib.lean ====
section
/-! DEFINITION. Nib requests (spec/06 R161 to R164). -/

namespace Sys2Proof.Machine

open Sys2Proof.Operands

/-! ### The latches of a request (R161) -/

def nibW (l : Table Word) : Word32 := (latchIn l 0x140).setWidth 32
def nibX (l : Table Word) : Word := latchIn l 0x141
def nibRows (l : Table Word) : Nat := wfld (latchIn l 0x142) 0 7 + 1
def nibK (l : Table Word) : Nat := wfld (latchIn l 0x142) 32 32
def nibRow0 (l : Table Word) : Nat := wfld (latchIn l 0x143) 0 32
def nibXts (l : Table Word) : Nat := wfld (latchIn l 0x144) 0 32

/-- The formats of x (R29). -/
def nibFmtOk (f : Word32) : Bool := [1, 2, 3, 7].contains (fmtA f) && fmtBs f != 3

/-- The lowest free request number of a tile's port (R162). -/
def nibFree (x : Tile) : Option Nat := (List.range 16).find? fun i => !x.nib.any fun r => r.id == i

/-- trig.nib (R162, R390). -/
def execTrigNib (o : TP) (s : State) : Host.Outcome State Fault Refusal :=
  gate (.trigNib o) s fun s =>
    let t := curTask s
    let l := t.lat.filter fun e => 0x140 ≤ e.1 && e.1 < 0x180
    if latchBad 0x142 (latchIn l 0x142) || nibK l = 0 || (nibX l).toNat % 64 != 0 then .fault 0x12
    else if !nibFmtOk t.fmt then .fault 0x10
    else match nibFree (tileOf s (curTile s)) with
      | none => .stall (noteStall s 9)
      | some id =>
        let s := startLong s (.v o.vd) 9 id
        let r : NibReq :=
          { id := id, task := curSlot s, lat := l, fmt := t.fmt, vd := o.vd, ts := s.ts, resolved := false,
            entry := curEntry s, addr := s.cur.addr, poison := false, issued := s.hc, after := t.gaccNext, flips := [] }
        let s := updTile s (curTile s) fun x => { x with nib := x.nib ++ [r] }
        .issue (schedule s (s.hc + 1) (.nibResolution (curTile s) id))

/-- Request `n` of tile `t`. -/
def nibOf (s : State) (t n : Nat) : Option NibReq := (tileOf s t).nib.find? fun r => r.id == n

/-- A request ends with a vector for vd (R164). -/
def endNib (s : State) (t : Nat) (r : NibReq) (v : VWord) : State :=
  let s := updTile s t fun x => { x with nib := x.nib.filter fun q => q.id != r.id }
  checkWaits (deliverV s t r.task r.vd v) t

/-- A request ends in a fault; vd becomes full with zeros (R162, R164). -/
def failNib (s : State) (t : Nat) (r : NibReq) (code : Nat) (addr : Word) : State :=
  tileFault (endNib s t r 0) t 9 code addr

/-- The conditions of resolution (R162): the fault code of the first that holds. R162's bound d0 + 1 is the outer extent, the
field d0m1 of R140 plus 1 (log 93: DEDUCED). -/
def nibFault (r : NibReq) (d : TileDesc) : Option Nat :=
  if d.kind ≠ 0 || d.layout ≠ 0 then some 0x13
  else if d.format ≠ 6 then some 0x10
  else if d.d1 ≠ nibK r.lat || d.d0 < nibRow0 r.lat + nibRows r.lat || d.base.toNat % 256 ≠ 0 ||
      d.stride.toNat % 256 ≠ 0 then some 0x12
  else none

/-- The width of x in bytes. -/
def nibXBytes (r : NibReq) : Nat := ceilDiv (nibK r.lat * codeWidth (fmtA r.fmt)) 8

/-- Notes what the resolution of a request has found. -/
def markResolved (s : State) (t n : Nat) (d : TileDesc) (sc : Option TileDesc) : State :=
  scheduleOpen
    (updTile s t fun x => { x with nib := x.nib.map fun r =>
      if r.id = n then { r with resolved := true, w := d, sc := sc } else r })
    (.nibRequestComplete t n)

/-- A page of W or of its scales as the request reads it: in a weight-bank pair, the half that was active at its trigger
(R164, R222). -/
def nibLeaf (r : NibReq) (l : Leaf) : Leaf :=
  if l.pp && (r.flips.filter (rangesMeet (l.base, l.bytes))).length % 2 = 1 then { l with bits := setBit l.bits 7 (!l.cur) } else l

/-- Bytes of W or of its scales at an address, within a block of 64 KiB. -/
def nibBytes (s : State) (c : Nat) (r : NibReq) (va n : Nat) : Except Nat (List Byte) :=
  match translate s (rootOf s c) (BitVec.ofNat 64 va) false with
  | .here l => .ok (pageBytes s (nibLeaf r l) (BitVec.ofNat 64 va) n)
  | .remote _ => .error 0x24
  | .fault code => .error code

/-- `n` bytes of W or of its scales from an address. -/
def nibRange (s : State) (c : Nat) (r : NibReq) (va n : Nat) : Except (Nat × Nat) (List Byte) :=
  readBlocks (nibBytes s c r) (n / 65536 + 2) va n

/-- The descriptors of W and of its scales, checked (R37, R139, R162). -/
def nibDescs (s : State) (t : Nat) (r : NibReq) : Resolution (TileDesc × Option TileDesc) := do
  let d ← fetchDesc s t (nibW r.lat)
  match nibFault r d with
  | some code => .error (code, none)
  | none =>
    if scaled r.fmt 6 d then
      let x ← fetchDesc s t d.hscale
      reject (x.kind != 2) 0x13
      reject (scaleBad d.d0 (nibK r.lat) x) 0x11
      pure (d, some x)
    else pure (d, none)

/-- The bytes of x of a request whose earlier accesses are performed: read as a load of the task would read them, once, with
the fault where they cannot be (R164). -/
def nibXRead (s : State) (t : Nat) (r : NibReq) : Except (Nat × Nat) (List Byte) :=
  match r.x with
  | some (b :: bs) => .ok (b :: bs)
  | _ => readGlobal s (tileCtx s t) (nibX r.lat).toNat (nibXBytes r)

/-- The port keeps the bytes of x; none of them where they could not be read. -/
def keepX (s : State) (t n : Nat) (x : List Byte) : State :=
  updTile s t fun y => { y with nib := y.nib.map fun r => if r.id = n then { r with x := some x } else r }

/-- NIB_RESOLUTION: the port reads x, resolves the handle of W and checks the request, after the accesses of the task that
happen before it (R162, R164, R258); of a task that has stopped it reads x only (log 123: DEDUCED). Where kindling skipped the
nib groups it raises a handle fault (R381). -/
def execNibResolution (t n : Nat) (s : State) : Host.Outcome State Fault Refusal :=
  match nibOf s t n with
  | none => .next s
  | some r =>
    if r.resolved then .next s
    else if earlierGlobal s t r.task r.after then .next (scheduleOnce s (s.hc + 1) (.nibResolution t n))
    else if (taskOf s t r.task).st == .stopped then .next (keepX s t n ((nibXRead s t r).toOption.getD []))
    else if (tget ({} : BootEntry) s.bootRec 9).st = 4 then .next (failNib s t r 0x13 r.addr)
    else match ensureUnit s t r.task (tileCtx s t) (nibX r.lat) false with
    | (false, s) => .next (scheduleOnce s (s.hc + 1) (.nibResolution t n))
    | (true, s) =>
      match nibDescs s t r, nibXRead s t r with
      | .error (code, va), _ => .next (failNib s t r code ((va.map (BitVec.ofNat 64)).getD r.addr))
      | .ok _, .error (code, va) => .next (failNib s t r code (BitVec.ofNat 64 va))
      | .ok (d, sc), .ok x =>
        .next (markResolved (keepX s t n x) t n d sc)

/-- Element `k` of x, whose bytes are given (R29, R33). -/
def nibXNum (r : NibReq) (x : List Byte) (k : Nat) : Num :=
  let code := fmtA r.fmt
  let w := codeWidth code
  let raw := leNat (((x.drop (k * w / 8)).take (ceilDiv w 8)))
  match fmtOfCode code with
  | some F => decodeF F (if w = 4 then nfld raw (4 * (k % 2)) 4 else raw)
  | none => .fin false 0 0

/-- y of R163 for one row of weights. -/
def nibDot (r : NibReq) (x row : List Byte) (scale : Nat → Num) : Nat :=
  let K := nibK r.lat
  let sat := fmtSat r.fmt
  let p := fun k =>
    let g := leNat ((row.drop (2 * (k / 8))).take 2)
    mulNum (mulNum (glyphNum g (k % 8)) (scale k)) (nibXNum r x k)
  (List.range (ceilDiv K 1024)).foldl (fun y g =>
    let n := min 1024 (K - 1024 * g)
    let a := (List.range n).foldl (fun a q => addRne sat a (p (1024 * g + q))) negZero
    addRne sat y (decodeF f32F a)) negZero

/-- The lanes of the result, row by row; or the fault a weight's page gives. -/
def nibLanes (s : State) (c : Nat) (r : NibReq) (x scales : List Byte) : Nat → Except (Nat × Nat) (List Nat)
  | 0 => .ok []
  | i + 1 =>
    let u := nibRow0 r.lat + i
    let va := (r.w.base + BitVec.ofNat 64 u * r.w.stride).toNat
    match nibLanes s c r x scales i, nibRange s c r va (16 * ceilDiv (nibK r.lat) 64) with
    | .ok ls, .ok row =>
      let y := nibDot r x row (fun k => scaleAt (fmtBs r.fmt) scales r.w.d0 u k)
      let y := if fmtTs r.fmt then
          mulRne (fmtSat r.fmt) y (mulRne (fmtSat r.fmt) r.w.tscale.toNat (nibXts r.lat)) else y
      .ok (ls ++ [y])
    | .error e, _ => .error e
    | _, .error e => .error e

/-- Whether an earlier request of a tile's port is outstanding: the port reads in the order of its requests (R253,
R256). -/
def nibBefore (x : Tile) (n : Nat) : Bool := (x.nib.head?.map (·.id)) != some n

/-- The vector of a resolved request: x, the scales and the weights it reads, or the fault met with its address (R163, R164).
A weight granule with an uncorrectable error makes it zeros. -/
def nibVector (s : State) (t : Nat) (r : NibReq) : Except (Nat × Nat) VWord := do
  let c := tileCtx s t
  let scales ← match r.sc with
    | some x => nibRange s c r x.base.toNat (512 * scaleTiles r.w.d0 (nibK r.lat))
    | none => pure []
  let ls ← nibLanes s c r (r.x.getD []) scales (nibRows r.lat)
  pure (if r.poison then 0 else fromLanes fun i => BitVec.ofNat 32 ((ls.drop i).headD 0))

/-- Whether a physical address lies among the first `n` blocks, of at most 64 KiB, of the bytes from `va`. -/
def blocksHit (s : State) (c : Nat) (r : NibReq) (pa : Nat) : Nat → Nat → Nat → Bool
  | 0, _, _ => false
  | fuel + 1, va, n =>
    if n = 0 then false
    else
      let k := min n (65536 - va % 65536)
      (match translate s (rootOf s c) (BitVec.ofNat 64 va) false with
       | .here l => let p := (nibLeaf r l).readPa (BitVec.ofNat 64 va); decide (p ≤ pa) && decide (pa < p + k)
       | _ => false) || blocksHit s c r pa fuel (va + k) (n - k)

/-- The descriptor of a request's W, if it is resolved or can be. -/
def nibDesc (s : State) (t : Nat) (r : NibReq) : Option TileDesc := if r.resolved then some r.w else readDesc s t (nibW r.lat)

/-- Whether a request reads weights at a physical address. -/
def nibReads (s : State) (t : Nat) (r : NibReq) (pa : Nat) : Bool :=
  match nibDesc s t r with
  | none => false
  | some d =>
    let n := 16 * ceilDiv (nibK r.lat) 64
    (List.range (nibRows r.lat)).any fun i =>
      blocksHit s (tileCtx s t) r pa (n / 65536 + 2) (d.base + BitVec.ofNat 64 (nibRow0 r.lat + i) * d.stride).toNat n

/-- The requests of a task that read weights at a corrupted address of an HBM channel give zeros (R164). -/
def poisonNibs (s : State) (t k bank : Nat) (addr : Word) : State :=
  if 64 ≤ bank && bank < 320 then
    let hit := fun (r : NibReq) => r.task == k && nibReads s t r addr.toNat
    updTile s t fun x => { x with nib := x.nib.map fun r => if hit r then { r with poison := true } else r }
  else s

/-- NIB_REQUEST_COMPLETE: the scales and the weights are read, and the result vector of the nib groups is written to vd (R163,
R164); the requests of a port end in the order of their issue (log 96: DESIGN CHOICE). -/
def execNibRequestComplete (t n : Nat) (s : State) : Host.Outcome State Fault Refusal :=
  match nibOf s t n with
  | none => .next s
  | some r =>
    if !r.resolved || (taskOf s t r.task).st == .stopped then .next s
    else if nibBefore (tileOf s t) n then .next (scheduleOnce s (s.hc + 1) (.nibRequestComplete t n))
    else match nibVector s t r with
      | .error (code, va) => .next (failNib s t r code (BitVec.ofNat 64 va))
      | .ok v => .next (endNib s t r v)

end Sys2Proof.Machine
end

