-- ==== Sys2Proof/Machine/Atomic.lean ====
section
/-! DEFINITION. The routes of the mesh (spec/01 R11, R391), the ends of commands, and the returning atomics with their
records and the combining routers (spec/08 R199 to R206). -/

namespace Sys2Proof.Machine

/-! ### Routes (R11, R356, R391) -/

/-- The next tile on the x-then-y route from `a` to `b`. -/
def hop (a b : Nat) : Nat :=
  if a % 8 < b % 8 then a + 1
  else if b % 8 < a % 8 then a - 1
  else if a / 8 < b / 8 then a + 8
  else if b / 8 < a / 8 then a - 8 else a

/-- The tiles of the route after `a`, `b` included. -/
def routeFrom : Nat → Nat → Nat → List Nat
  | 0, _, _ => []
  | fuel + 1, a, b => if a = b then [] else hop a b :: routeFrom fuel (hop a b) b

/-- The tiles that a packet from `a` to `b` enters. -/
def route (a b : Nat) : List Nat := routeFrom 14 a b

/-- Whether a tile is closed to routing: fenced, on its way back, or retired (R11, R356). -/
def closedTile (s : State) (t : Nat) : Bool :=
  match (tileOf s t).health.st with
  | .fenced | .appealing | .retired => true
  | .free | .bound | .running | .sweeping | .accused => false

/-- Whether the route between two tiles is open (R11). -/
def routeOpen (s : State) (a b : Nat) : Bool := (route a b).all fun t => !closedTile s t

/-- The perimeter tiles of a side: 0 west, 1 north, 2 east, 3 south. -/
def sideTiles (side : Nat) : List Nat :=
  (List.range 8).map fun i =>
    match side with
    | 0 => 8 * i
    | 1 => i
    | 2 => 8 * i + 7
    | _ => 56 + i

/-- How far along its side an attachment stands from a tile. -/
def sideDist (side t a : Nat) : Nat :=
  let d := fun (x y : Nat) => (x - y) + (y - x)
  if side % 2 = 0 then d (t / 8) (a / 8) else d (t % 8) (a % 8)

/-- The first of a list with the least measure. -/
def leastBy (f : Nat → Nat) : List Nat → Option Nat
  | [] => none
  | a :: r =>
    match leastBy f r with
    | some b => if f b < f a then some b else some a
    | none => some a

/-- The attachment that a tile's traffic to a side uses (R391). -/
def attachment (s : State) (t side : Nat) : Option Nat :=
  let ok := fun a => routeOpen s t a
  match leastBy (sideDist side t) ((sideTiles side).filter ok) with
  | some a => some a
  | none => leastBy (fun a => (route t a).length) (([0, 1, 2, 3].flatMap sideTiles).filter ok)

/-- The side of the home stack of a physical address (R14, R391). -/
def homeSide (pa : Nat) : Nat := if homeChannel pa / 32 < 4 then 0 else 2

/-! ### How commands end -/

/-- Command `n` of engine `e`. -/
def cmdOf (s : State) (t e n : Nat) : Option CopyCmd := (tget {} (tileOf s t).cpy e).cmds.find? fun c => c.n == n
/-- Changes command `n`. -/
def updCmd (s : State) (t e n : Nat) (f : CopyCmd → CopyCmd) : State :=
  updTile s t fun x => { x with cpy := tmod {} x.cpy e fun (g : CopyEng) =>
    { g with cmds := g.cmds.map fun c => if c.n = n then f c else c } }

/-- A returning atomic writes sd and cpyN.out (R185, R199, R200). -/
def writeAtomic (s : State) (t e : Nat) (c : CopyCmd) (res : Nat) (old : Word) (comb : Bool) : State :=
  let out : Word := BitVec.ofNat 64 (res + 4 * comb.toNat + 2 ^ 8 * c.id)
  let s := updTask s t c.task fun x => { x with lat := tset x.lat (64 * e + 7) out }
  if c.sd = 0 then s else fillReg s (.tile t c.task) (.s c.sd) fun x => writeS x c.sd old

/-- A returning atomic ends, its channel with nothing left to cover; or, after the halt line, its answer goes into the stop
record (R194, R200, R209). -/
def endAtomic (s : State) (t e : Nat) (c : CopyCmd) (res : Nat) (old : Word) (comb : Bool) : State :=
  if (taskOf s t c.task).st = .stopped then
    updCmd s t e c.n fun d => { d with answered := some (res, old, comb) }
  else dropCmd (updTile (writeAtomic s t e c res old comb) t fun x => limitWm x c.wm) t e c.n

/-- A command fails: what it holds is released, a marked sd gets 0 with the given outcome, no follow-on issues
(R184, R200). -/
def endFailed (s : State) (t e : Nat) (c : CopyCmd) (res : Nat) : State :=
  let s := releaseCmd s t e c
  if c.atomic then endAtomic s t e c res 0 false else dropCmd s t e c.n

/-- A command fails with a fault (R184, R191). -/
def failCmd (s : State) (t e : Nat) (c : CopyCmd) (code : Nat) (addr : Word) : State :=
  tileFault (endFailed s t e c 3) t e code addr

/-- The last router on the way from `t` to `d` before a closed tile: the one that drops the packet (R11, R356). -/
def dropRouter (s : State) (t d : Nat) : Nat := ((route t d).takeWhile fun x => !closedTile s x).getLast?.getD t

/-- A notice to an agent of tile `t` for its command: a router has dropped its packet (R356, R357). -/
def noteNotice (s : State) (t : Nat) (c : CopyCmd) : State :=
  let s := match (c.named t).find? fun d => !routeOpen s t d with
    | some d => updTile s (dropRouter s t d) fun x => { x with orphDrop := x.orphDrop + 1 }
    | none => s
  updTile s t fun x => { x with orphNtc := x.orphNtc + 1 }

/-- A command ends by notice, without a fault: an atomic that was never sent with outcome 1, else with 2 (R357, R385). -/
def noticeCmd (s : State) (t e : Nat) (c : CopyCmd) : State :=
  let s := noteNotice s t c
  endFailed s t e c (if c.sent then 2 else 1)

/-- The address that a fault of a command's start records: its trigger's bundle. -/
def failStart (s : State) (t e : Nat) (c : CopyCmd) (code : Nat) : State := failCmd s t e c code c.addr

/-! ### Ports and their records (R199 to R202) -/

/-- The room of a port for records (R201). -/
def portRoom : Port → Nat
  | .floor _ => 256
  | .hbm _ => 2048

/-- The records of a port. -/
def portRecs (s : State) : Port → List AtomRec
  | .floor t => (tileOf s t).atomRecs
  | .hbm g => tget [] s.hbmRecs g

/-- Changes the records of a port. -/
def setRecs (s : State) (p : Port) (l : List AtomRec) : State :=
  match p with
  | .floor t => updTile s t fun x => { x with atomRecs := l }
  | .hbm g => { s with hbmRecs := tset s.hbmRecs g l }

/-- The word at an atomic's address. -/
def portRead (s : State) (q : AtomReq) : Nat :=
  let n := if q.wide then 8 else 4
  match q.port with
  | .floor t => mword (tileOf s t).floor q.addr n
  | .hbm _ => mword s.hbm q.addr n

/-- A read-modify-write of the word at an atomic's address, indivisible at its port, and what stood there (R199, R255). -/
def portApply (s : State) (q : AtomReq) (f : Nat → Nat) : Nat × State :=
  let n := if q.wide then 8 else 4
  let bytes := fun (old : Nat) => addrBytes q.addr (leBytes n (f old))
  match q.port with
  | .floor t => atElement (drainRace s t (bytes 0)) t q.addr n fun s =>
      (portRead s q, writeUnits s t [bytes (portRead s q)])
  | .hbm _ => (portRead s q, { s with hbm := mwriteAll s.hbm (bytes (portRead s q)) })

/-- The old value that each component sees, in list order (R204); one that a record answers sees the recorded value and adds
nothing (R201). -/
def oldValues (w : Nat) (known : Component → Option Word) : Nat → List Component → List (Component × Word)
  | _, [] => []
  | v, c :: r =>
    match known c with
    | some old => (c, old) :: oldValues w known v r
    | none => (c, BitVec.ofInt 64 (signedOf w (v % 2 ^ w))) :: oldValues w known (v + c.inc.toNat) r

/-- The word after the operation (R199, R204), of the components that are performed. -/
def atomResult (q : AtomReq) (comps : List Component) (old : Nat) : Nat :=
  let w := if q.wide then 64 else 32
  match q.op with
  | .fadd => (old + (comps.map fun c => c.inc.toNat).sum) % 2 ^ w
  | .swap => q.opa.toNat % 2 ^ w
  | .cas => if old = q.opa.toNat % 2 ^ w then q.opb.toNat % 2 ^ w else old

/-- Whether a record is that of a component's request. -/
def AtomRec.isOf (r : AtomRec) (c : Component) : Bool := r.tile == c.tile && r.eng == c.eng && r.id == c.id

/-- Whether a record is younger than 1 ms (R201). -/
def AtomRec.young (s : State) (r : AtomRec) : Bool := decide (s.ts < r.ts + 1000000)

/-- The record window in ns (R202). -/
def recordWindow (s : State) : Nat := 1000 * wfld (srWord s 0x210) 20 12

/-! ### Replies on their way back (R205) -/

/-- The different decombining records that stand next on the way of some answers. -/
def nextRecords (l : List (Component × Word)) : List (Nat × Nat) :=
  (l.filterMap fun c => c.1.via.head?).eraseDups

/-- A write or read-modify-write of a peer counts as applied (R260). -/
def countApplied (s : State) (p : Nat) : State :=
  if 16 ≤ p then s else { s with clockA := tset s.clockA p (tget 0 s.clockA p + 1) }

/-- The tile of a floor port. -/
def portTile : Port → Option Nat
  | .floor t => some t
  | .hbm _ => none

/-- Whether the way of a reply is closed, from a tile or from the mantel, of which no tile is named: a router drops it
(R11, R356) (log 90: DEDUCED). -/
def replyLost (s : State) (from_ : Option Nat) (to_ : Nat) : Option Nat :=
  match from_ with
  | some f => if f < 64 && to_ < 64 && !routeOpen s f to_ then some (dropRouter s f to_) else none
  | none => none

/-- A router drops a reply: it is counted, and no agent that a notice would end sent it. -/
def dropReply (s : State) (router : Nat) : State := updTile s router fun x => { x with orphDrop := x.orphDrop + 1 }

/-- Sends the answers of a port or a router on, from a tile where one is named: those that have a decombining record before
them go there together, the others each to its engine; the request of a peer counts as applied, and what waits for it looks
again (R260, R262). -/
def sendReply (s : State) (from_ : Option Nat) (r : AtomReply) : State :=
  let s := (nextRecords r.olds).foldl (fun s k =>
    match replyLost s from_ k.1 with
    | some d => dropReply s d
    | none => scheduleOpen s (.decombineReplyArrival k.1 k.2
        { r with olds := r.olds.filter fun c => c.1.via.head? == some k })) s
  (r.olds.filter fun c => c.1.via.isEmpty).foldl (fun s c =>
    let s := if 64 ≤ c.1.tile then lookHeld (countApplied s (c.1.tile / 64 - 1)) else s
    match replyLost s from_ c.1.tile with
    | some d => dropReply s d
    | none => scheduleOpen s (.atomicReplyArrival { r with olds := [c] })) s

/-- The engines of tile `t` that take part in a request. -/
def reqEngines (q : AtomReq) (t : Nat) : List Nat := (q.comps.filter fun c => c.tile == t).map (·.eng)

/-- The record of a component, at whichever channel its request was performed: an exchange of planes may have moved its
word since (R201). -/
def recordOf (s : State) (p : Port) (c : Component) : Option AtomRec :=
  match p with
  | .floor _ => (portRecs s p).find? fun r => r.isOf c
  | .hbm _ => s.hbmRecs.findSome? fun g => g.2.find? fun r => r.isOf c

/-- The components of a request that no record answers. -/
def unrecorded (s : State) (q : AtomReq) : List Component := q.comps.filter fun c => (recordOf s q.port c).isNone

/-- The requests that are on their way, wait at a port, or stand in an open combining entry. -/
def awaitedReqs (s : State) : List AtomReq :=
  (s.events.filterMap fun p => match p.ev with
    | .atomicPortArrival q => some q
    | .combineRequestArrival _ q => some q
    | _ => none) ++
  ((s.mantelComb ++ s.tiles.flatMap fun x => x.2.comb).filter fun e => e.isOpen).map (·.req)

/-- Whether an engine sent an earlier request to the port of a request, and it has yet to be performed there (R208). -/
def earlierReq (s : State) (q : AtomReq) : Bool :=
  (awaitedReqs s).any fun r => r.port == q.port && decide (r.firstTs < q.firstTs) &&
    (unrecorded s r).any fun d => q.comps.any fun c => d.tile == c.tile && d.eng == c.eng && d.id != c.id

/-- The ports at which a request of an engine has yet to be performed although its command has ended as unknown: R202 ends the
command and takes no request from its port, and R208 keeps the engine's later writes behind it (log 122: DEDUCED). -/
def portsAhead (s : State) (t e : Nat) : List Port :=
  let live := fun (d : Component) => (tget ({} : CopyEng) (tileOf s t).cpy e).cmds.any fun c => c.atomic && c.id == d.id
  ((awaitedReqs s).filter fun r => (unrecorded s r).any fun d => d.tile == t && d.eng == e && !live d).map (·.port)

/-- Whether a port cannot take a request in this hc: its bank is under repair, a watermark covers the word, or an earlier
request of an engine of its list is still to be performed (R194, R208, R371). -/
def portHeld (s : State) (q : AtomReq) : Bool :=
  earlierReq s q || match q.port with
  | .floor t =>
    let x := tileOf s t
    x.repair.contains (slotOf q.addr / 128) || wmBlocked x (reqEngines q t) false q.addr (if q.wide then 8 else 4)
  | .hbm _ => false

/-- A component's element has landed: its engine's command is landing and its channel has nothing left to cover (R183,
R194). -/
def landComponent (s : State) (c : Component) : State :=
  if 64 ≤ c.tile then s
  else
    let mine := fun (d : CopyCmd) => d.atomic && d.id == c.id && d.sent
    match (tget ({} : CopyEng) (tileOf s c.tile).cpy c.eng).cmds.find? mine with
    | some d => checkWaits (updTile (updCmd s c.tile c.eng d.n fun d => { d with st := .landing }) c.tile fun x => limitWm x d.wm) c.tile
    | none => s

/-- A port performs the components of a request that no record answers, records them, and answers the whole list (R201,
R204). -/
def performAtomic (s : State) (q : AtomReq) (recs : List AtomRec) : State :=
  let w := if q.wide then 64 else 32
  let new := unrecorded s q
  let r := portApply s q (atomResult q new)
  let olds := oldValues w (fun c => (recordOf s q.port c).map (·.old)) r.1 q.comps
  let s := r.2
  let s := setRecs s q.port (recs ++ (olds.filter fun c => new.contains c.1).map fun c => ⟨c.1.tile, c.1.eng, c.1.id, c.2, s.ts⟩)
  let s := new.foldl landComponent s
  sendReply s (portTile q.port) { status := 0, olds := olds, combined := false }

/-- Answers every component of a request alike, with no old value. -/
def answerAll (s : State) (q : AtomReq) (status : Nat) : State :=
  sendReply s none { status := status, olds := q.comps.map fun c => (c, 0), combined := false }

/-- A router drops a request: a notice goes to each of its agents, whose atomic was sent (R11, R356, R357). -/
def dropAtomic (s : State) (router : Nat) (q : AtomReq) : State :=
  let s := updTile s router fun x => { x with orphDrop := x.orphDrop + 1 }
  let s := (q.comps.filter fun c => decide (c.tile < 64)).foldl (fun s c =>
    updTile s c.tile fun x => { x with orphNtc := x.orphNtc + 1 }) s
  answerAll s q 2

/-- The tile at which a request leaves the mesh or reaches its port, where it crosses the mesh. -/
def meshEnd (q : AtomReq) : Option Nat :=
  match q.port with
  | .floor t => some t
  | .hbm _ => q.att

/-- The router that drops a request on its way: one to a closed floor is dropped; one that no router combines may have
passed a tile of its route before that tile closed, or not; a combinable one has been judged at each router that it met (R11,
R356) (log 90: DEDUCED). -/
def droppedAt (s : State) (q : AtomReq) : Option Nat × State :=
  match q.comps, meshEnd q with
  | c :: _, some d =>
    if 64 ≤ c.tile || routeOpen s c.tile d then (none, s)
    else if q.port == .floor d && closedTile s d then (some (dropRouter s c.tile d), s)
    else if q.op = .fadd && !q.uncomb then (none, s)
    else
      let (b, s) := freshBool s
      (if b then some (dropRouter s c.tile d) else none, s)
  | _, _ => (none, s)

/-- The port that a request meets when it is performed, with its address there: the page is judged in that hc, and a
pair's planes as they then stand (R219, R221 to R223, R267). -/
def meetPort (s : State) (q : AtomReq) : Except Nat (AtomReq × State) :=
  match q.port with
  | .floor _ => .ok (q, s)
  | .hbm _ =>
    match translateAt s q.ctx q.va true q.firstTs with
    | .fault code => .error code
    | .remote _ => .error 1
    | .here l =>
      if l.seal then .error 0x22
      else
        let pa := l.writePa q.va
        .ok ({ q with port := .hbm (homeChannel pa), addr := pa }, seedPage s q.ctx l)

/-- A request with a component that no record answers: it is performed, refused, or waits for the port (R201, R202). -/
def freshAtomic (s : State) (q0 : AtomReq) : State :=
  match meetPort s q0 with
  | .error code => answerAll s q0 code
  | .ok (q, s') =>
    let recs := portRecs s' q.port
    let young := recs.filter fun r => r.young s'
    let kept := if portRoom q.port < recs.length + (unrecorded s q).length then young else recs
    if portRoom q.port < kept.length + (unrecorded s q).length || portHeld s q0 then schedule s (s.hc + 1) (.atomicPortArrival q0)
    else performAtomic s' q kept

/-- ATOMIC_PORT_ARRIVAL: a returning atomic is answered from its record, performed, refused or answered as unknown
(R201, R357); it waits where the port has no room or cannot take it. -/
def execAtomicPortArrival (q : AtomReq) (s : State) : Host.Outcome State Fault Refusal :=
  let (drop, s) := droppedAt s q
  match drop with
  | some r => .next (dropAtomic s r q)
  | none =>
    if (unrecorded s q).isEmpty then
      .next (sendReply s (portTile q.port) { status := 0, combined := false, olds := q.comps.map fun c =>
        (c, ((recordOf s q.port c).map (·.old)).getD 0) })
    else
      if q.retry && decide (q.firstTs + recordWindow s < s.ts) then .next (answerAll s q 2)
      else .next (freshAtomic s q)

/-- ATOMIC_RECORD_AGING: the records older than 1 ms free their room (R201). -/
def execAtomicRecordAging (p : Port) (s : State) : Host.Outcome State Fault Refusal :=
  .next (setRecs s p ((portRecs s p).filter fun r => r.young s))

/-! ### Combining (R203 to R205) -/

/-- The combining table of a router; router 64 is the mantel's. -/
def combTable (s : State) (r : Nat) : List CombEntry := if r = 64 then s.mantelComb else (tileOf s r).comb
/-- Changes the combining table of a router. -/
def setComb (s : State) (r : Nat) (l : List CombEntry) : State :=
  if r = 64 then { s with mantelComb := l } else updTile s r fun x => { x with comb := l }
/-- The hold time of a router (R206). -/
def combWin (s : State) (r : Nat) : Nat := if r = 64 then wfld (srWord s 0x211) 0 4 else (tileOf s r).combwin
/-- The entries a router's table holds (R203). -/
def combRoom (r : Nat) : Nat := if r = 64 then 256 else 32
/-- Counts one request appended. -/
def countComb (s : State) (r : Nat) : State :=
  if r = 64 then { s with mantelCombComb := s.mantelCombComb + 1 }
  else updTile s r fun x => { x with combComb := x.combComb + 1 }
/-- Counts one request passed on uncombined. -/
def countOvf (s : State) (r : Nat) : State :=
  if r = 64 then { s with mantelCombOvf := s.mantelCombOvf + 1 }
  else updTile s r fun x => { x with combOvf := x.combOvf + 1 }

/-- The router after `r` on the way of a request to its port; none where the port follows (R11, R391). The attachment is
the one that the source chose; R391 does not say what happens where none on any side qualifies: the request then goes
straight to its port and meets no other router (log 91: DESIGN CHOICE). -/
def nextRouter (r : Nat) (q : AtomReq) : Option Nat :=
  if r = 64 then none
  else match q.port with
    | .floor t => if r = t then none else some (hop r t)
    | .hbm _ =>
      match q.att with
      | some a => if r = a then some 64 else some (hop r a)
      | none => none

/-- A combinable request moves on from a router; a router that is closed drops it (R203, R356). -/
def forwardAtomic (s : State) (r : Nat) (q : AtomReq) : State :=
  match nextRouter r q with
  | some n =>
    if n < 64 && closedTile s n then dropAtomic s r q
    else scheduleOpen s (.combineRequestArrival n q)
  | none => scheduleOpen s (.atomicPortArrival q)

/-- Whether an open entry has the key of a request (R203). -/
def CombEntry.sameKey (e : CombEntry) (q : AtomReq) : Bool :=
  e.isOpen && e.req.ctx == q.ctx && e.req.port == q.port && e.req.addr == q.addr && e.req.wide == q.wide

/-- The lowest source tile among the components of a request (R204). -/
def lowTile (q : AtomReq) : Nat := q.comps.foldl (fun m c => min m c.tile) 64

/-- Whether another request that reaches the same router in this hc comes first (R204). -/
def laterHere (s : State) (r : Nat) (q : AtomReq) : Bool :=
  s.events.any fun p => decide (p.due ≤ s.hc) &&
    match p.ev with
    | .combineRequestArrival r' q' => r' == r && decide (lowTile q' < lowTile q)
    | _ => false

/-- Forwards an entry: its list goes on as one request, and the entry becomes a decombining record (R203). -/
def closeEntry (s : State) (r : Nat) (e : CombEntry) : State :=
  let s := setComb s r ((combTable s r).map fun x =>
    if x.id = e.id then { x with isOpen := false, deadline := s.hc + nsToHc (recordWindow s) } else x)
  let q := { e.req with comps := e.req.comps.map fun c => { c with via := (r, e.id) :: c.via } }
  schedule (forwardAtomic s r q) (s.hc + nsToHc (recordWindow s)) (.decombineRecordTimeout r e.id)

/-- Appends a request to an open entry, or opens one, or passes the request on (R203). -/
def combineAt (s : State) (r : Nat) (q : AtomReq) : State :=
  match (combTable s r).find? fun e => e.sameKey q with
  | some e =>
    if e.req.comps.length + q.comps.length ≤ 8 then
      let e' := { e with req := { e.req with comps := e.req.comps ++ q.comps } }
      let s := countComb (setComb s r ((combTable s r).map fun x => if x.id = e.id then e' else x)) r
      if e'.req.comps.length = 8 then closeEntry s r e' else s
    else forwardAtomic (countOvf s r) r q
  | none =>
    if (combTable s r).length < combRoom r then
      let e : CombEntry :=
        { id := s.combSeq, req := q, opened := s.hc, deadline := s.hc + combWin s r, isOpen := true }
      let s := setComb { s with combSeq := s.combSeq + 1 } r (combTable s r ++ [e])
      if e.req.comps.length = 8 then closeEntry s r e
      else schedule s e.deadline (.combineWindowExpiry r e.id)
    else forwardAtomic (countOvf s r) r q

/-- COMBINE_REQUEST_ARRIVAL: a combinable fetch-and-add reaches a router: appended, a new entry, or passed on
(R203, R204). -/
def execCombineRequestArrival (router : Nat) (q : AtomReq) (s : State) : Host.Outcome State Fault Refusal :=
  if laterHere s router q then .next (schedule s s.hc (.combineRequestArrival router q))
  else if combWin s router = 0 then .next (forwardAtomic s router q)
  else .next (combineAt s router q)

/-- COMBINE_WINDOW_EXPIRY: the hold time of an entry is over: it is forwarded (R203). A request that arrives in
the same hc is appended first (R206, example). -/
def execCombineWindowExpiry (router id : Nat) (s : State) : Host.Outcome State Fault Refusal :=
  match (combTable s router).find? fun e => e.id == id && e.isOpen && decide (e.deadline ≤ s.hc) with
  | none => .next s
  | some e =>
    if s.events.any fun p => decide (p.due ≤ s.hc) &&
        (match p.ev with
         | .combineRequestArrival r q => r == router && e.sameKey q
         | _ => false) then
      .next (schedule s s.hc (.combineWindowExpiry router id))
    else .next (closeEntry s router e)

/-- Removes a decombining record. -/
def dropRecord (s : State) (r id : Nat) : State :=
  setComb s r ((combTable s r).filter fun e => !(e.id == id && !e.isOpen))

/-- DECOMBINE_REPLY_ARRIVAL: a reply reaches its router and each component gets its own value; a router that has
lost the record discards the reply (R205). The share of a fenced tile is dropped (R356). -/
def execDecombineReplyArrival (router id : Nat) (r : AtomReply) (s : State) :
    Host.Outcome State Fault Refusal :=
  if (combTable s router).any fun e => e.id == id && !e.isOpen then
    let olds := (r.olds.filter fun c => !closedTile s c.1.tile).map fun c => ({ c.1 with via := c.1.via.drop 1 }, c.2)
    .next (sendReply (dropRecord s router id) (some router)
      { r with olds := olds, combined := r.combined || decide (1 < r.olds.length) })
  else .next s

/-- DECOMBINE_RECORD_TIMEOUT: a record whose reply has not come within the record window is discarded (R205). -/
def execDecombineRecordTimeout (router id : Nat) (s : State) : Host.Outcome State Fault Refusal :=
  whenever ((combTable s router).any fun e => e.id == id && !e.isOpen && decide (e.deadline ≤ s.hc)) s fun s =>
    dropRecord s router id

/-- COMBINING_RECORD_LOST: a soft error or a router reset destroys a decombining record (R205). -/
def execCombiningRecordLost (router id : Nat) (s : State) : Host.Outcome State Fault Refusal :=
  .next (dropRecord s router id)

/-! ### The engine's side (R199, R200, R202) -/

/-- The request of a returning atomic whose destination is at home here. -/
def atomReqOf (t e : Nat) (c : CopyCmd) (ctx : Nat) (p : Port) (addr : Nat) (att : Option Nat) (retry : Bool) :
    AtomReq :=
  { op := if c.op = 7 then .fadd else if c.op = 8 then .swap else .cas, wide := c.ty == 2, port := p, addr := addr,
    ctx := ctx, opa := c.l 4, opb := c.l 5, comps := [⟨t, e, c.id, c.l 4, []⟩], retry := retry, uncomb := retry,
    firstTs := c.firstTs, va := c.dst, att := att }

/-- The retry interval in hc (R202). -/
def retryHc (s : State) : Nat := usToHc (wfld (srWord s 0x210) 0 16)
/-- The number of retries (R202). -/
def retryMax (s : State) : Nat := wfld (srWord s 0x210) 16 4

/-- The interval after which an ID is sent again begins anew (R202). -/
def armRetry (s : State) (t e id : Nat) : State :=
  schedule (unschedule s (.atomicRetryExpiry t e id)) (s.hc + retryHc s) (.atomicRetryExpiry t e id)

/-- A request leaves its engine: combinable ones meet the routers on their way, the first of them its own
(R202, R203). -/
def launchAtomic (s : State) (t e : Nat) (q : AtomReq) (id : Nat) : State :=
  let s := if q.op = .fadd && !q.uncomb then scheduleOpen s (.combineRequestArrival t q)
    else scheduleOpen s (.atomicPortArrival q)
  armRetry s t e id

/-- The message of a returning atomic, or of an accumulate element, to another package (R338). -/
def atomMsg (s : State) (t e : Nat) (c : CopyCmd) (r : RemoteXlat) (va : Word) (retry : Bool) (a b : Word)
    (id : Nat) : Msg :=
  { Msg.blank with sctx := tileCtx s t % 64, rctx := r.rctx, gen := r.gen, va := va, id := id, retry := retry,
                   uncomb := retry, ts := BitVec.ofNat 64 c.firstTs, tile := t, eng := e,
                   payload := leBytes 8 a.toNat ++ leBytes 8 b.toNat }

/-- Where a global destination stands, after the checks of a write (R191, R318). -/
inductive Where where
  | here (l : Leaf)
  | there (l : Leaf) (r : RemoteXlat)
  | wait (s : State)
  | fault (code : Nat)
  deriving Repr

/-- Looks a global address of an engine up: it waits for the walk of a page that no cache holds, and a remote page needs the
target's translation (R187, R319, R322). -/
def locate (s : State) (t k : Nat) (va : Word) (write : Bool) : Where :=
  let ctx := tileCtx s t
  match translate s (rootOf s ctx) va write with
  | .fault code => .fault code
  | .here l =>
    if write && l.seal then .fault 0x22
    else match ensureUnit s t k ctx va write with
      | (true, _) => .here l
      | (false, s) => .wait s
  | .remote l =>
    match remoteXlat s ctx va with
    | none =>
      if (routeOf s l.pkg).isNone then .fault 0x48 else .wait (startWalk s t k ctx va write true true)
    | some r =>
      if write && r.sealed then .fault 0x22
      else if write && !r.w then .fault 0x2C
      else if (routeOf s l.pkg).isNone then .fault 0x48
      else .there l r

/-- A returning atomic goes to its port, or to the package of its page (R191, R199, R202); one that waits for a
translation or for room in its queue looks again in the next hc, and a retry that waits so is no try. -/
def sendAtomic (s : State) (t e : Nat) (c : CopyCmd) (retry : Bool) : State :=
  let mark := fun (s : State) => scheduleOnce (updCmd s t e c.n fun d => { d with sent := true }) (s.hc + 1) (.copyStart t e)
  let ctx := tileCtx s t
  if c.dsp = 1 then
    match c.dstTiles t with
    | [d] =>
      if !routeOpen s t d then endFailed (noteNotice s t c) t e c (if retry then 2 else 1)
      else launchAtomic (mark s) t e (atomReqOf t e c ctx (.floor d) c.dst.toNat none retry) c.id
    | _ => s
  else
    let wait := fun (s : State) =>
      if retry then
        scheduleOnce (updCmd s t e c.n fun d => { d with tries := d.tries - 1 }) (s.hc + 1) (.atomicRetryExpiry t e c.id)
      else scheduleOnce s (s.hc + 1) (.copyLanding t e c.n)
    match locate s t c.task c.dst true with
    | .fault code => failCmd (noteXlat s t ctx c.dst) t e c code c.dst
    | .wait s => wait s
    | .here l =>
      let pa := l.writePa c.dst
      let q := atomReqOf t e c ctx (.hbm (homeChannel pa)) pa (attachment s t (homeSide pa)) retry
      launchAtomic (mark (noteXlat s t ctx c.dst)) t e q c.id
    | .there l r =>
      if !queueRoom s l.pkg 4 16 then wait s else
      let s := postMessage (mark (noteXlat s t ctx c.dst)) l.pkg 0x4 (atomMsg s t e c r c.dst retry (c.l 4) (c.l 5) c.id) (.engine t e c.n)
      armRetry s t e c.id

/-- The outstanding atomic of an engine with an ID. -/
def atomOf (s : State) (t e id : Nat) : Option CopyCmd :=
  (tget {} (tileOf s t).cpy e).cmds.find? fun c =>
    c.atomic && c.id == id && c.sent && c.answered.isNone && !c.unanswered

/-- The answer to an atomic of another package goes back to it as an atomic reply, or as a notice where it was refused when
it was performed (R223, R341); the name of such a request has the tile number 64 × (package + 1) + tile. -/
def remoteAtomReply (s : State) (c : Component) (status : Nat) (old : Word) : State :=
  let p := c.tile / 64 - 1
  match (peerOf s p).replies.find? fun r => r.2.1 == 4 && r.2.2.tile == c.tile % 64 && r.2.2.eng == c.eng && r.2.2.id == c.id with
  | none => s
  | some r =>
    let m := r.2.2
    let s := updPeer s p fun x => { x with replies := x.replies.filter fun q => q != r }
    let back : Msg :=
      { Msg.blank with sctx := m.rctx, rctx := m.sctx, id := m.id, va := BitVec.ofNat 64 m.seq.toNat, tile := m.tile,
                       eng := m.eng, ts := tsWord s }
    if 0x20 ≤ status then
      postDevice s p 0x7 { back with status := 1, va := BitVec.ofNat 64 (m.seq.toNat + 2 ^ 32 * (if status = 0x22 then 2 else 1)) }
    else postDevice s p 0x5 { back with status := if status = 2 then 3 else status, payload := leBytes 8 old.toNat }

/-- ATOMIC_REPLY_ARRIVAL: the answer to a returning atomic ends it; an ID that is not outstanding is discarded
(R200). A status of 0x20 and more is the code of the fault that the port met (R191). -/
def execAtomicReplyArrival (r : AtomReply) (s : State) : Host.Outcome State Fault Refusal :=
  match r.olds with
  | (comp, old) :: _ =>
    if 64 ≤ comp.tile then .next (remoteAtomReply s comp r.status (if r.status = 0 then old else 0))
    else match atomOf s comp.tile comp.eng comp.id with
    | some c =>
      if 0x20 ≤ r.status then .next (failCmd s comp.tile comp.eng c r.status c.dst)
      else .next (endAtomic s comp.tile comp.eng c r.status (if r.status = 0 then old else 0) r.combined)
    | none => .next s
  | [] => .next s

/-- ATOMIC_RETRY_EXPIRY: no reply within the interval: the request is sent again as a retry, or after the last
retry ends as OUTCOME_UNKNOWN (R202). -/
def execAtomicRetryExpiry (t e id : Nat) (s : State) : Host.Outcome State Fault Refusal :=
  match atomOf s t e id with
  | none => .next s
  | some c =>
    if c.tries < retryMax s then
      let s := updCmd s t e c.n fun d => { d with tries := d.tries + 1 }
      .next (sendAtomic s t e { c with tries := c.tries + 1 } true)
    else .next (endAtomic s t e c 2 0 false)

end Sys2Proof.Machine
end

