-- ==== Sys2Proof/Machine/Copy.lean ====
section
/-! DEFINITION. The copy engines: the triggers, the steps of a command, accumulate-on-write, follow-on cube
operations and prefetch hints (spec/08 R182 to R198, R207 to R211; spec/22 R385). -/

namespace Sys2Proof.Machine

open Sys2Proof.Operands

/-! ### Triggering (R189, R190) -/

/-- The latches of engine `e` in a task's table, by index within the block. -/
def engineLatches (l : Table Word) (e : Nat) : Table Word :=
  (l.filter fun x => x.1 / 64 == e).map fun x => (x.1 % 64, x.2)

/-- Whether a shape latch breaks R188 or R189: counts, bytes, element alignment. -/
def shapeBad (c : CopyCmd) : Bool :=
  let n := c.esize
  let aw := 1 ≤ c.op
  c.total == 0 || decide (2 ^ 40 < c.total) ||
  (aw && (c.cnt 0 % n != 0 || c.src.toNat % n != 0 || c.dst.toNat % n != 0 ||
    [1, 2, 3, 4, 5].any fun d => c.ss d % n != 0 || c.ds d % n != 0))

/-- Whether a tile field of cpyN.ctl is reserved. -/
def tileFieldBad (n : Nat) : Bool := decide (64 ≤ n) && n != 0x7F

/-- The copy-shape conditions of R189, for a trigger on tile `t`. -/
def copyShapeBad (c : CopyCmd) (t : Nat) : Bool :=
  let st := wfld c.ctl 4 7
  let dt := wfld c.ctl 11 7
  c.ssp == 3 || c.dsp == 3 || tileFieldBad st || tileFieldBad dt || decide (2 ≤ c.tagm) ||
  (!c.atomic && shapeBad c) ||
  (c.ssp == 2 && st != 0x7F) || (c.dsp == 2 && (dt != 0x7F || c.op != 0)) ||
  (c.mc && (c.dsp != 1 || c.atomic || c.l 6 == 0)) ||
  (c.tagm == 1 && !(!c.atomic && c.dsp == 1 && c.dst.toNat % 16384 == 0 && c.wholeSlot c.dst c.ds &&
    c.low c.dst c.ds == (c.dst.toNat : Int))) ||
  (c.evict && !(!c.atomic && c.ssp == 1 && st == 0x7F && c.wholeSlot c.src c.ss)) ||
  (wbitAt c.ctl 22 &&
    !((c.dsp == 2 || (c.dsp == 1 && (c.dstTiles t).contains t)) && (c.atomic || c.ascends))) ||
  (c.atomic && (c.dst.toNat % c.esize != 0 || c.dsp == 2 || c.ssp != 0))

/-- The watermark channel that a command arms (R194). -/
def CopyCmd.armsWm (c : CopyCmd) : Option Nat :=
  if wbitAt c.ctl 22 then some (wfld c.ctl 23 4) else none

/-- Whether the engine refuses a trigger now (R190, R197). -/
def copyRefuses (x : Tile) (e : Nat) (c : CopyCmd) : Bool :=
  let g : CopyEng := tget {} x.cpy e
  decide (8 ≤ g.cmds.length) || !g.follow.isEmpty ||
  (match c.armsWm with | some n => (tget ({} : Watermark) x.wm n).armed | none => false) ||
  (c.atomic && g.cmds.any fun d => d.atomic && d.task == c.task)

/-- Arms a channel at acceptance (R194). -/
def armWm (x : Tile) (e : Nat) (c : CopyCmd) : Tile :=
  match c.armsWm with
  | some n =>
    let lo := if c.atomic then c.dst.toNat else (c.low c.dst c.ds).toNat
    let lim := if c.atomic then lo + c.esize else (c.high c.dst c.ds).toNat + 1
    let w : Watermark :=
      { base := lo, well := c.dsp == 2, lim := lim, wm := lo, eng := e, first := c.dst.toNat,
        row := if c.atomic then c.esize else c.cnt 0,
        dims := if c.atomic then [] else [5, 4, 3, 2, 1].map fun d => (c.cnt d, c.ds d) }
    { x with wm := tset x.wm n w }
  | none => x

/-- The command that a trigger of engine `e` snapshots. -/
def takeCmd (s : State) (e op ty : Nat) (sd : BitVec 6) (follow : Option CubeSnap) : CopyCmd :=
  let t := curTask s
  let x := tileOf s (curTile s)
  { n := x.cpySeq + 1, task := curSlot s, op := op, ty := ty, sd := sd, lat := engineLatches t.lat e,
    follow := follow, id := ((tget ({} : CopyEng) x.cpy e).nextId + 1).toNat, st := .queued, fetched := 0, landed := 0,
    wm := none, rank := tileRank s (curTile s), entry := curEntry s, claimed := [], rep := true, bytes := [],
    sent := false, prog := [], part := [], eid := none, firstTs := s.ts, tries := 0, answered := none, unanswered := false, noticed := false, poison := false,
    acceptedAt := s.hc, after := t.gaccNext, addr := s.cur.addr }

/-- The engine accepts a command (R184, R190) (log 7: DESIGN CHOICE). -/
def acceptCopy (s : State) (t e : Nat) (c : CopyCmd) : State :=
  let c' : CopyCmd := { c with wm := c.armsWm }
  let s := updTile s t fun x =>
    let y := armWm x e c
    { y with cpySeq := c.n, cpy := tmod {} y.cpy e fun (g : CopyEng) =>
        { g with cmds := g.cmds ++ [c'], nextId := g.nextId + 1 } }
  scheduleOnce s (s.hc + 1) (.copyStart t e)

/-- A copy trigger, after the rules of its registers: its checks, the refusal, the issue (R189, R190, R390). -/
def copyTrigger (e op ty : Nat) (sd : BitVec 6) (follow : Option CubeSnap) (s : State) : Verdict :=
  let c := takeCmd s e op ty sd follow
  let t := curTile s
  if copyShapeBad c t then .fault 0x30
  else if (match follow with | some f => (snapFault s f).isSome || f.toReg | none => false) then .fault 0x12
  else if copyRefuses (tileOf s t) e c then .stall (noteStall s (4 + e))
  else
    let s := if 7 ≤ op then startLong s (.s sd) (4 + e) c.n else s
    .issue (acceptCopy s t e c)

/-- trig.cpy (R189). -/
def execTrigCpy (o : ECp) (s : State) : Host.Outcome State Fault Refusal :=
  gate (.trigCpy o) s fun s => copyTrigger o.eng.toNat 0 0 0 (if o.fo then some (takeSnap s 0) else none) s
/-- trig.cpy.aw.add (R198). -/
def execTrigCpyAwAdd (o : ECa) (s : State) : Host.Outcome State Fault Refusal :=
  gate (.trigCpyAwAdd o) s (copyTrigger o.eng.toNat 1 o.ty.toNat 0 none)
/-- trig.cpy.aw.min (R198). -/
def execTrigCpyAwMin (o : ECa) (s : State) : Host.Outcome State Fault Refusal :=
  gate (.trigCpyAwMin o) s (copyTrigger o.eng.toNat 2 o.ty.toNat 0 none)
/-- trig.cpy.aw.max (R198). -/
def execTrigCpyAwMax (o : ECa) (s : State) : Host.Outcome State Fault Refusal :=
  gate (.trigCpyAwMax o) s (copyTrigger o.eng.toNat 3 o.ty.toNat 0 none)
/-- trig.cpy.aw.and (R198). -/
def execTrigCpyAwAnd (o : ECa) (s : State) : Host.Outcome State Fault Refusal :=
  gate (.trigCpyAwAnd o) s (copyTrigger o.eng.toNat 4 o.ty.toNat 0 none)
/-- trig.cpy.aw.or (R198). -/
def execTrigCpyAwOr (o : ECa) (s : State) : Host.Outcome State Fault Refusal :=
  gate (.trigCpyAwOr o) s (copyTrigger o.eng.toNat 5 o.ty.toNat 0 none)
/-- trig.cpy.aw.xor (R198). -/
def execTrigCpyAwXor (o : ECa) (s : State) : Host.Outcome State Fault Refusal :=
  gate (.trigCpyAwXor o) s (copyTrigger o.eng.toNat 6 o.ty.toNat 0 none)
/-- trig.cpy.fadd (R199). -/
def execTrigCpyFadd (o : ECr) (s : State) : Host.Outcome State Fault Refusal :=
  gate (.trigCpyFadd o) s (copyTrigger o.eng.toNat 7 o.ty.toNat o.sd none)
/-- trig.cpy.swap (R199). -/
def execTrigCpySwap (o : ECr) (s : State) : Host.Outcome State Fault Refusal :=
  gate (.trigCpySwap o) s (copyTrigger o.eng.toNat 8 o.ty.toNat o.sd none)
/-- trig.cpy.cas (R199). -/
def execTrigCpyCas (o : ECr) (s : State) : Host.Outcome State Fault Refusal :=
  gate (.trigCpyCas o) s (copyTrigger o.eng.toNat 9 o.ty.toNat o.sd none)

/-! ### The start of a command (R182, R191, R192) -/

/-- The base offsets of the rows of a command: every combination of its outer indices. -/
def rowOffsets (c : CopyCmd) (stride : Nat → Int) : List Nat → List Int
  | [] => [0]
  | d :: r =>
    let inner := rowOffsets c stride r
    (List.range (c.cnt d)).flatMap fun i : Nat => inner.map fun o : Int => o + Int.ofNat i * stride d

/-- The rows of a command's destination, or source, as address and length. -/
def rowsOf (c : CopyCmd) (base : Word) (stride : Nat → Int) : List (Nat × Nat) :=
  (rowOffsets c stride [1, 2, 3, 4, 5]).map fun o => ((base + BitVec.ofInt 64 o).toNat, c.cnt 0)

/-- Whether a destination byte of a plain copy is also a source byte of it (R188): in a plane pair writes go to
another frame than reads. -/
def selfOverlap (s : State) (t : Nat) (c : CopyCmd) : Bool :=
  let meets := (rowsOf c c.dst c.ds).any fun a => (rowsOf c c.src c.ss).any fun b => rangesMeet a b
  c.ssp == c.dsp &&
  (if c.ssp = 0 then
     meets && (match translate s (rootOf s (tileCtx s t)) c.dst false with
       | .here l => !l.pp
       | _ => true)
   else if c.ssp = 1 then
     (c.dstTiles t).contains (c.srcTile t) && meets && !isShared (tileOf s (c.srcTile t)) c.dst.toNat
   else meets)

/-- Whether a command's floor or well addresses break R167 or R168, or name a layer that does not exist. -/
def spaceBad (s : State) (c : CopyCmd) (space : Nat) (base : Word) (stride : Nat → Int) : Bool :=
  let lo := c.low base stride
  let hi := c.high base stride
  space != 0 && (decide (lo < 0) || decide (2 ^ 23 ≤ hi) || (space == 2 && !layerExists s (hi.toNat / 2 ^ 20)))

/-- Whether tile `t` lies outside the group that the step-shared space of tile `d` serves (R216). -/
def outsider (s : State) (t d : Nat) : Bool :=
  t != d && (match (tileOf s d).ssGid.bind (groupOf s) with
    | some g => !(decide (g.x0 ≤ t % 8) && decide (t % 8 < g.x0 + g.w) && decide (g.y0 ≤ t / 8) && decide (t / 8 < g.y0 + g.h))
    | none => true)

/-- Whether a floor destination of a command of tile `t` breaks the rules of replicas and of step-shared space (R191, R216,
R252). -/
def dstSlotBad (s : State) (t : Nat) (c : CopyCmd) (d : Nat) : Bool :=
  let x := tileOf s d
  let rows := rowsOf c c.dst c.ds
  let claimed := fun slot => c.tagm == 1 && slot == slotOf c.dst.toNat
  let touches := fun slot => rows.any fun r => rangesMeet r (slot * 16384, 16384)
  ((List.range 512).any fun slot => isReplica x slot && !claimed slot && touches slot) ||
  rows.any fun r =>
    let a := r.1
    let b := r.1 + r.2 - 1
    (isShared x a || isShared x b) &&
    (c.op != 0 || outsider s t d ||
      [a, b].any fun y =>
        let g := granBytes x y
        isShared x y && (List.range g).any fun i => !c.hitsAddr c.dst c.ds (y / g * g + i))

/-- Whether a tile stands fenced out of a group of the context (R385). -/
def fencedOut (s : State) (ctx d : Nat) : Bool :=
  closedTile s d && s.groups.any fun g =>
    g.ctx == ctx && decide (g.x0 ≤ d % 8) && decide (d % 8 < g.x0 + g.w) && decide (g.y0 ≤ d / 8) &&
    decide (d / 8 < g.y0 + g.h)

/-- The copy-address and tag conditions of R191 at the start (log 37: DEDUCED). -/
def startFault (s : State) (t : Nat) (c : CopyCmd) : Option Nat :=
  let ctx := tileCtx s t
  let dsts := if c.dsp = 1 then (c.dstTiles t).filter fun d => !fencedOut s ctx d else []
  let slot := slotOf c.dst.toNat
  let claimBad := fun (d : Nat) =>
    let e : TagEntry := tget {} (tileOf s d).tags slot
    e.st == .pinned || e.st == .filling || e.st == .evicting || isShared (tileOf s d) c.dst.toNat
  if (c.named t).any (fun d => !fencedOut s ctx d && (tileOf s d).ctx != some ctx) then some 0x31
  else if (!c.atomic && (spaceBad s c c.ssp c.src c.ss || spaceBad s c c.dsp c.dst c.ds)) ||
      (c.atomic && c.dsp == 1 && decide (2 ^ 23 ≤ c.dst.toNat)) then some 0x31
  else if !c.atomic && dsts.any (dstSlotBad s t c) then some 0x31
  else if c.atomic && dsts.any (fun d => isReplica (tileOf s d) slot || isShared (tileOf s d) c.dst.toNat) then
    some 0x31
  else if !c.atomic && c.tagm == 1 && (dsts.any claimBad || !tagOk c.tag || tagRep c.tag) then some 0x21
  else if !c.atomic && c.evict && (tget ({} : TagEntry) (tileOf s t).tags (slotOf c.src.toNat)).st != .valid then
    some 0x21
  else none

/-- Whether a tag operation in flight keeps a command's claims waiting (R174). -/
def claimHeld (s : State) (t : Nat) (c : CopyCmd) : Bool :=
  (c.tagm == 1 && (c.dstTiles t).any fun d => (tagWait (tileOf s d) (slotOf c.dst.toNat) c.tag).isSome) ||
  (c.evict && (tagWait (tileOf s t) (slotOf c.src.toNat) 0).isSome)

/-- Applies a command's claims and eviction (R192, R193). -/
def applyClaims (s : State) (t e : Nat) (c : CopyCmd) : State :=
  let tiles := if c.tagm = 1 then (c.dstTiles t).filter fun d => !closedTile s d else []
  let slot := slotOf c.dst.toNat
  let s := tiles.foldl (fun s d => updTile s d fun x => claimSlot x slot e c.tag) s
  let s := updCmd s t e c.n fun d => { d with claimed := tiles.map fun y => (y, slot) }
  if c.evict then updTile s t fun x =>
    { x with tags := tset x.tags (slotOf c.src.toNat) { st := .evicting, tag := 0, owner := e } }
  else s

/-- The first queued command of an engine that may leave that state: all before it have read or sent their last
(R182). -/
def nextCmd (g : CopyEng) : Option CopyCmd :=
  match g.cmds.find? fun c => c.st == .queued with
  | some c =>
    let out := fun (d : CopyCmd) => d.st != .queued && (if d.atomic then d.sent else decide (d.total ≤ d.fetched))
    if g.cmds.all fun d => decide (c.n ≤ d.n) || out d then some c else none
  | none => none

/-- Whether some tile whose floor a command reads from is closed, or the way to it, or the way of its bytes back (R11, R357,
R385). -/
def sourceClosed (s : State) (t : Nat) (c : CopyCmd) : Bool :=
  c.ssp == 1 && !c.atomic && !(routeOpen s t (c.srcTile t) && routeOpen s (c.srcTile t) t)

/-- The destination tiles that a command can still reach. -/
def reachable (s : State) (t : Nat) (c : CopyCmd) : List Nat := (c.dstTiles t).filter (routeOpen s t)

/-- The event that moves a command on. -/
def moveEvent (t e : Nat) (c : CopyCmd) : Instr :=
  if 1 ≤ c.op && c.op < 7 then .awPortApply t e else .copyLanding t e c.n

/-- A started command sets out: its first piece, element, or request. -/
def setOut (s : State) (t e : Nat) (c : CopyCmd) : State := scheduleOpen s (moveEvent t e c)

/-- Starts a command whose checks pass; a command back from a restore goes on at its resume offset (R209). -/
def startCmd (s : State) (t e : Nat) (c : CopyCmd) : State :=
  if sourceClosed s t c || (c.dsp == 1 && (reachable s t c).isEmpty) then noticeCmd s t e c
  else match startFault s t c with
    | some code => failStart s t e c code
    | none =>
      let s := applyClaims s t e c
      let s := updCmd s t e c.n fun d =>
        { d with st := .fetching, fetched := d.landed + d.bytes.length, firstTs := if d.tries = 0 then s.ts else d.firstTs,
                 poison := d.poison || (d.op == 0 && selfOverlap s t d),
                 noticed := d.noticed || (d.dsp == 1 && (reachable s t d).length < (d.dstTiles t).length) }
      match cmdOf s t e c.n with
      | some c => setOut s t e c
      | none => s

/-! ### Prefetch hints (R207) -/

/-- Counts a dropped hint. -/
def dropHint (s : State) (t : Nat) : State := updTile s t fun x => { x with pfhDrop := x.pfhDrop + 1 }

/-- Changes the hint that an engine runs. -/
def setHint (s : State) (t e : Nat) (h : Option HintRun) : State :=
  updTile s t fun x => { x with cpy := tmod {} x.cpy e fun (g : CopyEng) => { g with hint := h } }

/-- The chunk numbers of a tile, block by block (R141). -/
def allChunks (d : TileDesc) : List Nat :=
  (List.range (ceilDiv d.d0 128)).flatMap fun b =>
    (List.range (ceilDiv d.d1 (chunkElems d.format))).map fun c => 1024 * b + c

/-- Schedules the landing of a chunk of 16 KiB: an engine moves at most 1 KiB in an hc (R394). -/
def scheduleFill (s : State) (ev : Instr) : State :=
  let (d, s) := popDelay s
  scheduleLate s (s.hc + 16 + d) 1 ev

/-- The attachment by which a hint's fill leaves the mesh: towards the home of its first byte (R391). -/
def hintWay (s : State) (t : Nat) (va : Word) : Option Nat :=
  match translate s (rootOf s (tileCtx s t)) va false with
  | .here l => attachment s t (homeSide (l.readPa va))
  | .remote _ | .fault _ => none

/-- The next chunk of a running hint that misses is claimed and its fill set out; a hint that would fault is
dropped, one with no chunk left ends. The engine then looks at its queue. -/
def hintNext (s : State) (t e : Nat) (h : HintRun) (d : TileDesc) : List Nat → State
  | [] => scheduleOnce (setHint s t e none) (s.hc + 1) (.copyStart t e)
  | c :: r =>
    let x := tileOf s t
    let tag := operandTag h.hint.handle c
    if (findTag x tag).isSome then hintNext s t e { h with next := h.next + 1 } d r
    else match findVictim x (h.hint.victim + h.missed) with
      | none => scheduleOnce (setHint (dropHint s t) t e none) (s.hc + 1) (.copyStart t e)
      | some slot =>
        if (tagWait x slot tag).isSome then
          scheduleOnce (setHint s t e (some { h with slot := none })) (s.hc + 1) (.copyStart t e)
        else
          let s := updTile s t fun x => claimSlot x slot e tag
          scheduleFill (setHint s t e (some { h with slot := some slot, missed := h.missed + 1, after := x.cubeSeq, claimedAt := s.hc,
                                                     att := hintWay s t (chunkFirst d c) }))
            (.copyLanding t e 0)

/-- Runs a hint from its next chunk on. -/
def runHint (s : State) (t e : Nat) (h : HintRun) : State :=
  match readDesc s t h.hint.handle with
  | some d =>
    if d.kind = 0 && d.layout == 0 then hintNext s t e h d ((allChunks d).drop h.next)
    else scheduleOnce (setHint (dropHint s t) t e none) (s.hc + 1) (.copyStart t e)
  | none => scheduleOnce (setHint (dropHint s t) t e none) (s.hc + 1) (.copyStart t e)

/-- The lowest-numbered engine whose queue is empty and that runs no hint. -/
def idleEngine (x : Tile) : Option Nat :=
  ([0, 1, 2, 3] : List Nat).find? fun e =>
    let g : CopyEng := tget {} x.cpy e
    g.cmds.isEmpty && g.hint.isNone

/-- While hints are left, the lowest-numbered idle engine looks at them. -/
def wakeHints (s : State) (t : Nat) : State :=
  if (tileOf s t).hints.isEmpty then s
  else match idleEngine (tileOf s t) with
    | some e => scheduleOnce s (s.hc + 1) (.copyStart t e)
    | none => s

/-- The idle engine takes the oldest hint; one whose deadline has passed is dropped. -/
def takeHint (s : State) (t e : Nat) : State :=
  match (tileOf s t).hints with
  | [] => s
  | h :: r =>
    let s := updTile s t fun x => { x with hints := r }
    let s := if h.deadline.toNat < s.ts then scheduleOnce (dropHint s t) (s.hc + 1) (.copyStart t e)
      else runHint s t e ⟨h, 0, none, 0, 0, 0, none⟩
    wakeHints s t

/-- HINT_START: an idle engine takes the oldest hint, the lowest-numbered idle engine first. -/
def execHintStart (t e : Nat) (s : State) : Host.Outcome State Fault Refusal :=
  whenever (idleEngine (tileOf s t) == some e) s fun s => takeHint s t e

/-- Whether some read of the cube source stands before a hint's fill: fills of the operations before its claim, and fills
of hints claimed earlier (R253, R266) (log 108: DEDUCED). -/
def hintWaits (x : Tile) (e : Nat) (h : HintRun) : Bool :=
  fillOpen x (fun n _ => decide (n < h.after)) ||
  x.cpy.any fun g => g.2.hint.any fun k =>
    k.slot.isSome && (decide (k.claimedAt < h.claimedAt) || (k.claimedAt == h.claimedAt && decide (g.1 < e)))

/-- A hint in whose fill something failed is dropped and counted, its slot empty. -/
def failHint (s : State) (t e slot : Nat) : State :=
  scheduleOnce (setHint (dropHint (updTile s t fun x => emptySlot x slot) t) t e none) (s.hc + 1) (.copyStart t e)

/-- The router that has dropped a hint's fill: a tile on its way has closed since (R357) (log 90: DEDUCED). -/
def hintLost (s : State) (t : Nat) (h : HintRun) : Option Nat :=
  match h.att with
  | some a => if routeOpen s t a then none else some (dropRouter s t a)
  | none => none

/-- A notice ends a hint's fill (R357, R361). -/
def noticeHint (s : State) (t e slot r : Nat) : State :=
  let s := updTile s r fun x => { x with orphDrop := x.orphDrop + 1 }
  failHint (updTile s t fun x => { x with orphNtc := x.orphNtc + 1 }) t e slot

/-- The fill of a hint's chunk lands (R207). -/
def landHint (s : State) (t e : Nat) (h : HintRun) (slot : Nat) : State :=
  match hintLost s t h, readDesc s t h.hint.handle with
  | some r, _ => noticeHint s t e slot r
  | none, none => failHint s t e slot
  | none, some d =>
    let c := ((allChunks d).drop h.next).headD 0
    let tag := operandTag h.hint.handle c
    let again := fun (s : State) => scheduleLate s (s.hc + 1) 1 (.copyLanding t e 0)
    if hintWaits (tileOf s t) e h || fillHeld (tileOf s t) slot tag then again s
    else match ensureUnit s t 0 (tileCtx s t) (chunkFirst d c) false with
    | (false, s) => again s
    | (true, s) => match chunkBytes s (tileCtx s t) d c with
      | .error _ => failHint s t e slot
      | .ok bs =>
        let s := engineWrite s t (addrBytes (16384 * slot) bs)
        let s := updTile s t fun x => endClaim x slot tag
        scheduleOnce (setHint s t e (some { h with next := h.next + 1, slot := none })) (s.hc + 1) (.copyStart t e)

/-- HINT_DEADLINE_EXPIRY: a hint whose deadline passes before it starts is dropped and counted. -/
def execHintDeadlineExpiry (t n : Nat) (s : State) : Host.Outcome State Fault Refusal :=
  whenever ((tileOf s t).hints.any fun h => h.id == n && decide (h.deadline.toNat < s.ts)) s fun s =>
    dropHint (updTile s t fun x => { x with hints := x.hints.filter fun h => h.id != n }) t

/-- pfh: places a hint, or drops and counts it; it never faults on its operands (R207). -/
def execPfh (o : SS) (s : State) : Host.Outcome State Fault Refusal :=
  gate (.pfh o) s fun s =>
    let t := curTile s
    let a := srcS s o.sa
    let x := tileOf s t
    let deadline := srcS s o.sb
    if wfld a 41 23 ≠ 0 || 8 ≤ x.hints.length || deadline.toNat < s.ts then .issue (dropHint s t)
    else
      let h : Hint :=
        { id := x.pfhAcc.toNat, ctx := curCtx s, handle := a.setWidth 32, victim := wfld a 32 9, deadline := deadline }
      let s := updTile s t fun x => { x with hints := x.hints ++ [h], pfhAcc := x.pfhAcc + 1 }
      let s := scheduleAt s (deadline.toNat + 1) (.hintDeadlineExpiry t h.id)
      .issue (wakeHints s t)

/-! ### The steps of an engine -/

/-- COPY_START: the next command of an engine starts once its predecessor has released the engine, nothing that
happens before it is open (R258), and no chunk of a hint is in progress; an idle engine looks for a hint. -/
def execCopyStart (t e : Nat) (s : State) : Host.Outcome State Fault Refusal :=
  let g : CopyEng := tget {} (tileOf s t).cpy e
  if g.hint.any fun h => h.slot.isSome then .next s
  else match nextCmd g with
    | some c =>
      if (taskOf s t c.task).st = .stopped then .next s
      else if earlierGlobal s t c.task c.after || earlierStores s t c.task c.acceptedAt || claimHeld s t c then
        .next (scheduleOnce s (s.hc + 1) (.copyStart t e))
      else
        let s := startCmd s t e c
        .next (scheduleOnce s (s.hc + 1) (.copyStart t e))
    | none =>
      if g.cmds.isEmpty then
        match g.hint with
        | some h => .next (runHint s t e h)
        | none => whenever (idleEngine (tileOf s t) == some e && !(tileOf s t).hints.isEmpty) s fun s => takeHint s t e
      else .next s

/-! ### Pieces of a copy (R187, R188, R198, R394) -/

/-- The length of the next piece: one element of an accumulate-on-write; else at most 1 KiB of one row, within a 64 KiB
block of a global source and a 4 KiB block of a global destination; one aligned 8-byte word of a remote source. -/
def pieceLen (c : CopyCmd) (q : Nat) (remoteSrc : Bool) : Nat :=
  if 1 ≤ c.op then c.esize
  else
    let row := c.cnt 0 - q % c.cnt 0
    let n := min 1024 row
    let n := if c.ssp = 0 then min n (65536 - c.srcAt q % 65536) else n
    let n := if c.dsp = 0 then min n (4096 - c.dstAt q % 4096) else n
    if remoteSrc then min n (8 - c.srcAt q % 8) else n

/-- Whether an engine's answer from another package is awaited. -/
def engineWaits (s : State) (t e n : Nat) : Bool :=
  s.peers.any fun p => p.2.waiting.any fun w => w.sender == .engine t e n

/-- Whether the 16 KiB block that an address tag names lies in a sealed region now (R180, R192, R389): the tag's block stands for
the block that the copy reads, from whichever space (log 117: DESIGN CHOICE). -/
def tagBlockSealed (s : State) (ctx : Nat) (tag : Word) : Bool :=
  let va : Word := BitVec.ofNat 64 (wfld tag 0 50 * 16384)
  match translate s (rootOf s ctx) va false with
  | .here l => l.seal && (ctxRegions s ctx).any fun d =>
      d.kind == 0 && d.sealed && rangesMeet (va.toNat, 16384) (d.base.toNat, d.size.toNat)
  | .remote _ => match remoteXlat s ctx va with
    | some r => r.sealed
    | none => false
  | .fault _ => false

/-- A piece has been read: its bytes are on their way with their destinations (R192: an evicted slot is empty once
its last byte is read). -/
def pieceRead (s : State) (t e : Nat) (c : CopyCmd) (bs : List Byte) : State :=
  let sealNow := tagBlockSealed s (tileCtx s t) c.tag
  let q := c.fetched
  let s := updCmd s t e c.n fun d =>
    { d with bytes := d.bytes ++ addrBytes (d.dstAt q) bs, fetched := q + bs.length, rep := d.rep && sealNow }
  let last := c.total ≤ q + bs.length
  let s := if last && c.evict then updTile s t fun x => emptySlot x (slotOf c.src.toNat) else s
  let s := if last then scheduleOnce s (s.hc + 1) (.copyStart t e) else s
  scheduleOpen s (moveEvent t e c)

/-- Whether an access of an engine to floor bytes waits for a watermark or a bank under repair. -/
def floorHeld (x : Tile) (own : List Nat) (a n : Nat) : Bool :=
  wmBlocked x own false a n || x.repair.contains (slotOf a / 128) || x.repair.contains (slotOf (a + n - 1) / 128)

/-- The engines of tile `d` whose channels an access of engine `e` of tile `t` does not wait for: its own (R194). -/
def ownEngine (t e d : Nat) : List Nat := if d = t then [e] else []

/-- Reads the next piece of a command at its source. -/
def fetchPiece (s : State) (t e : Nat) (c : CopyCmd) : State :=
  let q := c.fetched
  let a := c.srcAt q
  let again := fun (s : State) => scheduleOnce s (s.hc + 1) (moveEvent t e c)
  if c.ssp = 1 then
    let st := c.srcTile t
    let n := pieceLen c q false
    if sourceClosed s t c then noticeCmd s t e c
    else if floorHeld (tileOf s st) (ownEngine t e st) a n then again s
    else
      let (bs, s) := readBytes (fun s a => readFloor s st none a 1) s a n
      pieceRead s t e c bs
  else if c.ssp = 2 then
    let n := pieceLen c q false
    if wmBlocked (tileOf s t) [e] true a n then again s
    else
      let (bs, s) := readBytes (fun s a => readWell s t none a 1) s a n
      pieceRead s t e c bs
  else
    let va : Word := BitVec.ofNat 64 a
    match locate s t c.task va false with
    | .fault code => failCmd (noteXlat s t (tileCtx s t) va) t e c code va
    | .wait s => again s
    | .here l =>
      let s := noteXlat s t (tileCtx s t) va
      pieceRead s t e c (pageBytes s l va (pieceLen c q false))
    | .there l r =>
      if !queueRoom s l.pkg 2 0 then again s
      else postMessage (noteXlat s t (tileCtx s t) va) l.pkg 0x2
        { Msg.blank with sctx := tileCtx s t % 64, rctx := r.rctx, gen := r.gen, va := BitVec.ofNat 64 (a / 8 * 8),
                         ts := tsWord s, tile := t, eng := e } (.engine t e c.n)

/-! ### The destinations of a piece (R187, R193, R198, R217) -/

/-- The combination of an old word and an arriving value (R198). -/
def awCombine (op ty old v : Nat) : Nat :=
  let w := if ty = 2 then 64 else 32
  let so := signedOf w old
  let sv := signedOf w v
  match op with
  | 1 => if ty = 0 then fAdd f32F false old v else (old + v) % 2 ^ w
  | 2 => if ty = 0 then fMin f32F old v else if so ≤ sv then old else v
  | 3 => if ty = 0 then fMax f32F old v else if sv ≤ so then old else v
  | 4 => old &&& v
  | 5 => old ||| v
  | _ => old ^^^ v

/-- The bytes of one element combined with what a memory holds (R198). -/
def awBytes (m : Memory) (c : CopyCmd) (bs : List (Nat × Byte)) : List (Nat × Byte) :=
  match bs with
  | [] => []
  | (a, _) :: _ => addrBytes a (leBytes c.esize (awCombine c.op c.ty (mword m a c.esize) (leNat (bs.map (·.2)))))

/-- The places in element order of the bytes that a command writes to the `g` bytes at `base` (R188). -/
def hitsOf (c : CopyCmd) (base g : Nat) : List Nat :=
  (rowOffsets c c.ds [5, 4, 3, 2, 1]).zipIdx.flatMap fun r =>
    let a := (c.dst + BitVec.ofInt 64 r.1).toNat
    (List.range g).filterMap fun i =>
      if a ≤ base + i && base + i < a + c.cnt 0 then some (r.2 * c.cnt 0 + (base + i - a)) else none

/-- The value of a granule from the bytes that a command writes there: of two for one byte the later in element order (R188). -/
def hitsValue (c : CopyCmd) (base g : Nat) (need : List Nat) (here : Nat → Option Byte) : Nat :=
  leNat ((List.range g).map fun i =>
    (here ((need.filter fun q => c.dstAt q == base + i).foldl max 0)).getD 0)

/-- One more byte, by its place in element order, reaches a step-shared granule of a tile: the granule is stored once every byte
that the command writes there has come (R188, R216, R217). -/
def sharePart (c : CopyCmd) (rank d : Nat) (acc : Tile × List (Nat × Nat × Byte)) (b : Nat × Byte) :
    Tile × List (Nat × Nat × Byte) :=
  let x := acc.1
  let a := c.dstAt b.1
  let g := granBytes x a
  let base := a / g * g
  let part := (d, b.1, b.2) :: acc.2.filter fun p => !(p.1 == d && p.2.1 == b.1)
  let here := fun (q : Nat) => (part.find? fun p => p.1 == d && p.2.1 == q).map (·.2.2)
  let need := hitsOf c base g
  if need.all fun q => (here q).isSome then
    (granStore x base g rank (BitVec.ofNat 64 (hitsValue c base g need here)),
     part.filter fun p => !(p.1 == d && need.contains p.2.1))
  else (x, part)

/-- The rank as which a command of tile `t` stores into the step-shared space of tile `d`: the rank of its tile in the group
that this space serves (R215). -/
def rankAt (s : State) (t d : Nat) (c : CopyCmd) : Nat :=
  match (tileOf s d).ssGid.bind (groupOf s) with
  | some g => (t / 8 - g.y0) * g.w + (t % 8 - g.x0)
  | none => c.rank

/-- Bytes of a plain copy, by their places in element order, reach the step-shared space of tile `d`: the next plane (R187). -/
def landShare (s : State) (t e : Nat) (c : CopyCmd) (d : Nat) (bytes : List (Nat × Byte)) : State :=
  if bytes.isEmpty then s
  else
    let had := ((cmdOf s t e c.n).map (·.part)).getD []
    let r := bytes.foldl (sharePart c (rankAt s t d c) d) (tileOf s d, had)
    updCmd (updTile s d fun _ => r.1) t e c.n fun d => { d with part := r.2 }

/-- Bytes of a copy are written into the floor of tile `d`, its own bytes open where its source overlaps them (R188). -/
def landPlain (s : State) (d : Nat) (c : CopyCmd) (bytes : List (Nat × Byte)) : State :=
  let (bytes, s) := if c.poison then openWrite s (tileOf s d).floor bytes else (bytes, s)
  engineWrite (drainRace s d bytes) d bytes

/-- One element after another is applied at the floor port of tile `d`, indivisibly (R198). -/
def landElements (s : State) (d : Nat) (c : CopyCmd) : Nat → List (Nat × Byte) → State
  | 0, _ => s
  | n + 1, bytes =>
    let el := bytes.take c.esize
    let a := (el.head?.map (·.1)).getD 0
    let r := atElement (drainRace s d el) d a c.esize fun s => ((), writeUnits s d [awBytes (tileOf s d).floor c el])
    landElements r.2 d c n (bytes.drop c.esize)

/-- The bytes of a command that have landed at tile `d` (R193). -/
def progAt (c : CopyCmd) (d : Nat) : Nat := tget c.landed c.prog d

/-- Bytes that have been read land at one tile's floor port: the present plane outside the step-shared space, the next
plane within it (R187). -/
def landFloor (s : State) (t e : Nat) (c : CopyCmd) (d : Nat) (bytes : List (Nat × Byte)) : State :=
  if 1 ≤ c.op then landElements s d c (bytes.length / c.esize) bytes
  else
    let x := tileOf s d
    let placed := bytes.zipIdx.map fun b => (b.1.1, progAt c d + b.2, b.1.2)
    let s := landPlain s d c (bytes.filter fun b => !isShared x b.1)
    landShare s t e c d ((placed.filter fun b => isShared x b.1).map (·.2))

/-- Bytes are written into wells: their chunks are marked (R308); operations that stage into or run from a well half
that is written have unpredictable operands (R166). -/
def poisonWells (x : Tile) (addrs : List Nat) : Tile :=
  { x with wellWritten := (addrs.map (· / 16384) ++ x.wellWritten).eraseDups,
           cubeOps := x.cubeOps.map fun o =>
      if (o.st == .staging || o.st == .staged || o.st == .running) && addrs.any fun a =>
          let l := wellLayer a
          let face := a / 2 ^ 19 % 2
          let half := a / 2 ^ 18 % 2
          let d := if face = 0 then o.dA else o.dB
          o.layers.contains l &&
          (if d.layout = 1 then d.base.toNat / 2 ^ 18 % 2 == half
           else (o.halves.drop (o.layers.findIdx (· == l))).headD 0 == half)
      then { o with poison := true } else o }

/-- A command's landed bytes have grown to `landed` everywhere, its own tile's to `own`: the watermark rises past the
prefix landed there, never below what a save had kept of it (R209); the command goes on or completes (R184, R193, R194). -/
def pieceLanded (s : State) (t e : Nat) (c : CopyCmd) (landed own : Nat) : State :=
  let s := updCmd s t e c.n fun d =>
    { d with st := .landing, landed := landed, bytes := d.bytes.drop (landed - c.landed), eid := none }
  let s := match c.wm with
    | some w => if own = 0 then s else updTile s t fun x =>
        let v : Watermark := tget {} x.wm w
        { x with wm := tset x.wm w { v with wm := max v.wm (c.dstAt (own - 1) + 1) } }
    | none => s
  let s := checkWaits s t
  if c.total ≤ landed then
    (if c.claimed.isEmpty then scheduleOnce s s.hc (.copyComplete t e) else scheduleLate s s.hc 1 (.copyComplete t e))
  else setOut s t e c

/-- The bytes read that tile `d` has not taken yet. -/
def lacks (c : CopyCmd) (d : Nat) : List (Nat × Byte) := c.bytes.drop (progAt c d - c.landed)

/-- Whether the next bytes of a command are kept from a tile of its destinations: by a watermark or a repair, or by an
earlier request of its engine (R194, R208, R371). -/
def landHeld (s : State) (t e : Nat) (c : CopyCmd) (d : Nat) : Bool :=
  (portsAhead s t e).contains (.floor d) ||
  (lacks c d).any fun b => floorHeld (tileOf s d) (ownEngine t e d) b.1 1

/-- Lands what has been read at every tile that can take it; each tile's copy lands independently (R193). -/
def landTiles (s : State) (t e : Nat) (c : CopyCmd) (tiles ready : List Nat) : State :=
  let s := ready.foldl (fun s d => landFloor s t e c d (lacks c d)) s
  let prog := ready.foldl (fun p d => tset p d c.fetched) c.prog
  let s := updCmd s t e c.n fun d => { d with prog := prog }
  let at_ := fun d => tget c.landed prog d
  let landed := tiles.foldl (fun m d => min m (at_ d)) c.fetched
  pieceLanded s t e c landed (if tiles.contains t then at_ t else landed)

/-- The engine that armed the channel on which the next access of an engine's oldest command waits: the read of its next
piece, or the landing of one (R249). -/
def engineBlocked (s : State) (t e : Nat) : Option Nat :=
  let x := tileOf s t
  match (tget ({} : CopyEng) x.cpy e).cmds.head? with
  | none => none
  | some c =>
    if c.st = .queued || c.atomic then none
    else
      let dst := if c.dsp = 1 then
          (reachable s t c).findSome? fun d =>
            (lacks c d).findSome? fun b => wmBlocker (tileOf s d) (ownEngine t e d) false b.1 1
        else if c.dsp = 2 then c.bytes.findSome? fun b => wmBlocker x [e] true b.1 1
        else none
      let n := pieceLen c c.fetched false
      let reads := decide (c.fetched < c.total) &&
        (if c.dsp = 1 then (reachable s t c).any fun d => (lacks c d).isEmpty else c.bytes.isEmpty)
      let src := if !reads || c.ssp = 0 then none
        else if c.ssp = 1 then wmBlocker (tileOf s (c.srcTile t)) (ownEngine t e (c.srcTile t)) false (c.srcAt c.fetched) n
        else wmBlocker x [e] true (c.srcAt c.fetched) n
      dst.orElse fun _ => src

/-- Moves a command with floor destinations on: what has been read lands where it can; where some tile has all of it, the
next piece is read. -/
def moveFloor (s : State) (t e : Nat) (c : CopyCmd) : State :=
  let tiles := reachable s t c
  let s := if tiles.length < (c.dstTiles t).length then updCmd s t e c.n fun d => { d with noticed := true } else s
  let ready := tiles.filter fun d => !(lacks c d).isEmpty && !landHeld s t e c d
  if tiles.isEmpty then noticeCmd s t e c
  else if !ready.isEmpty then landTiles s t e c tiles ready
  else if c.fetched < c.total && tiles.any (fun d => (lacks c d).isEmpty) then fetchPiece s t e c
  else scheduleOnce s (s.hc + 1) (moveEvent t e c)

/-- Lands what has been read in the wells of the tile. -/
def landWell (s : State) (t e : Nat) (c : CopyCmd) : State :=
  if c.bytes.any fun b => wmBlocked (tileOf s t) [e] true b.1 1 then scheduleOnce s (s.hc + 1) (moveEvent t e c)
  else
    let (bytes, s) := if c.poison then openWrite s (tileOf s t).wells c.bytes else (c.bytes, s)
    let s := updTile s t fun x => poisonWells { x with wells := mwriteAll x.wells bytes } (bytes.map (·.1))
    pieceLanded s t e c c.fetched c.fetched

/-- The bytes that a page gets from a piece: those read, open ones where the command overlaps its source (R188), or the
combination of an element with what stands where writes land (R198). -/
def globalBytes (s : State) (c : CopyCmd) (l : Leaf) (va : Word) : List Byte × State :=
  let here := addrBytes (l.writePa va) (c.bytes.map (·.2))
  if 1 ≤ c.op then ((awBytes s.hbm c here).map (·.2), s)
  else if c.poison then
    let (bs, s) := openWrite s s.hbm here
    (bs.map (·.2), s)
  else (c.bytes.map (·.2), s)

/-- Sends an element to another package under an ID of its own, from a counter that runs down (log 7: DESIGN CHOICE); one sent
before the command was stopped goes again as a retry (R209). -/
def sendElement (s : State) (t e : Nat) (c : CopyCmd) (l : Leaf) (r : RemoteXlat) (va : Word) : State :=
  let next := (tget ({} : CopyEng) (tileOf s t).cpy e).nextElem - 1
  let id := c.eid.getD next.toNat
  let s := if c.eid.isSome then s else
    updTile s t fun x => { x with cpy := tmod {} x.cpy e fun (g : CopyEng) => { g with nextElem := next } }
  let s := updCmd s t e c.n fun d => { d with eid := some id }
  postMessage s l.pkg 0x4
    (atomMsg s t e c r va c.eid.isSome (BitVec.ofNat 64 (leNat (c.bytes.map (·.2)))) 0 id) (.engine t e c.n)

/-- Whether an earlier request of an engine keeps a piece from its channels of HBM (R208). -/
def channelHeld (s : State) (t e : Nat) (c : CopyCmd) (l : Leaf) : Bool :=
  let ports := portsAhead s t e
  !ports.isEmpty && c.bytes.any fun b => ports.contains (.hbm (homeChannel (l.writePa (BitVec.ofNat 64 b.1))))

/-- Lands what has been read in global memory, or sends it to the package of its page. -/
def landGlobal (s : State) (t e : Nat) (c : CopyCmd) : State :=
  let again := fun (s : State) => scheduleOnce s (s.hc + 1) (moveEvent t e c)
  let va : Word := BitVec.ofNat 64 ((c.bytes.head?.map (·.1)).getD 0)
  match locate s t c.task va true with
  | .fault code => failCmd (noteXlat s t (tileCtx s t) va) t e c code va
  | .wait s => again s
  | .here l =>
    if channelHeld s t e c l then again s
    else
    let s := seedPage (noteXlat s t (tileCtx s t) va) (tileCtx s t) l
    let (bs, s) := globalBytes s c l va
    pieceLanded (writePage s (tileCtx s t) l va bs) t e c c.fetched c.fetched
  | .there l r =>
    if !queueRoom s l.pkg (if 1 ≤ c.op then 4 else 1) (if 1 ≤ c.op then 16 else c.bytes.length) then again s
    else
    let s := noteXlat s t (tileCtx s t) va
    if 1 ≤ c.op then sendElement s t e c l r va
    else postMessage s l.pkg 0x1
      { Msg.blank with sctx := tileCtx s t % 64, rctx := r.rctx, gen := r.gen, va := va, ts := tsWord s, tile := t,
                       eng := e, payload := c.bytes.map (·.2) } (.engine t e c.n)

/-- Moves the oldest command of an engine on by one piece. -/
def moveCmd (s : State) (t e : Nat) (c : CopyCmd) : State :=
  if c.dsp = 1 then moveFloor s t e c
  else if c.bytes.isEmpty then fetchPiece s t e c
  else if c.dsp = 2 then landWell s t e c
  else landGlobal s t e c

/-- Whether a command is the oldest of its engine and its task has not been stopped. -/
def atHead (s : State) (t e : Nat) (c : CopyCmd) : Bool :=
  (tget ({} : CopyEng) (tileOf s t).cpy e).cmds.head?.map (·.n) == some c.n && (taskOf s t c.task).st != .stopped

/-- COPY_LANDING: the next piece of a plain copy is read, or lands at its destination (R184, R188, R194, R208); a
returning atomic is sent; a hint's chunk lands (R207). All this happens once every earlier command of the engine has
ended (R208, R256). -/
def execCopyLanding (t e n : Nat) (s : State) : Host.Outcome State Fault Refusal :=
  if n = 0 then
    match (tget ({} : CopyEng) (tileOf s t).cpy e).hint with
    | some h => match h.slot with
      | some slot => .next (landHint s t e h slot)
      | none => .next s
    | none => .next s
  else
    match cmdOf s t e n with
    | none => .next s
    | some c =>
      if (1 ≤ c.op && !c.atomic) || c.sent || c.st == .queued || (taskOf s t c.task).st == .stopped ||
          engineWaits s t e n then .next s
      else if !atHead s t e c then .next (scheduleOnce s (s.hc + 1) (.copyLanding t e n))
      else if c.atomic then .next (sendAtomic s t e c false)
      else .next (moveCmd s t e c)

/-- AW_PORT_APPLY: the next element of the engine's oldest command, an accumulate-on-write, is read or applied at its
port, indivisibly (R45, R198, R208). -/
def execAwPortApply (t e : Nat) (s : State) : Host.Outcome State Fault Refusal :=
  match (tget ({} : CopyEng) (tileOf s t).cpy e).cmds.head? with
  | none => .next s
  | some c =>
    whenever (decide (1 ≤ c.op) && !c.atomic && c.st != .queued && (taskOf s t c.task).st != .stopped &&
      decide (c.landed < c.total) && !engineWaits s t e c.n) s fun s => moveCmd s t e c

/-! ### Completion (R184, R192, R197) -/

/-- The tag that a claimed slot takes: rep is set for an address tag whose block was sealed when read (R180,
R192). -/
def finalTag (c : CopyCmd) : Word :=
  if c.tag.toNat / 2 ^ 62 = 2 && c.rep then c.tag ||| 0x2000000000000000 else c.tag

/-- COPY_COMPLETE: the oldest command's last byte has landed: the watermark goes to its limit, claimed slots take
their tag, the waits end and the follow-on is presented. A command that met a notice ends failed (R385). -/
def execCopyComplete (t e : Nat) (s : State) : Host.Outcome State Fault Refusal :=
  match (tget ({} : CopyEng) (tileOf s t).cpy e).cmds.head? with
  | none => .next s
  | some c =>
    if c.atomic || c.landed < c.total || (taskOf s t c.task).st == .stopped then .next s
    else if c.noticed then
      .next (endFailed (noteNotice s t c) t e c 2)
    else
      let held := c.claimed.filter fun v => (tagWait (tileOf s v.1) v.2 (finalTag c)).isSome
      let s := (c.claimed.filter fun v => !held.contains v).foldl (fun s v =>
        updTile s v.1 fun x => endClaim x v.2 (finalTag c)) s
      if !held.isEmpty then
        .next (scheduleLate (updCmd s t e c.n fun d => { d with claimed := held }) (s.hc + 1) 1 (.copyComplete t e))
      else
        let s := updTile s t fun x => limitWm x c.wm
        let s := match c.follow with
          | some f =>
            let put := fun (g : CopyEng) => { g with follow := g.follow ++ [(c.n, c.task, f, c.entry, c.addr)] }
            scheduleOnce (updTile s t fun x => { x with cpy := tmod {} x.cpy e put }) s.hc (.followOnCube t e)
          | none => s
        .next (dropCmd s t e c.n)

/-- FOLLOW_ON_CUBE: the snapshot of a completed copy is presented to the cube until it is accepted (R144,
R197). -/
def execFollowOnCube (t e : Nat) (s : State) : Host.Outcome State Fault Refusal :=
  match (tget ({} : CopyEng) (tileOf s t).cpy e).follow with
  | [] => .next s
  | (n, k, f, entry, addr) :: rest =>
    if (taskOf s t k).st = .stopped then .next s
    else if cubeRefuses (tileOf s t) f then .next (scheduleOnce s (s.hc + 1) (.followOnCube t e))
    else
      let s := updTile s t fun x =>
        { x with cpy := tmod {} x.cpy e fun (g : CopyEng) => { g with follow := rest } }
      let s := if rest.isEmpty then s else scheduleOnce s (s.hc + 1) (.followOnCube t e)
      .next (acceptCube s t k f (some n) entry addr)

/-! ### Answers from other packages -/

/-- What a message of another package tells an engine of its command: read bytes (the aligned word), a write
performed, an atomic's outcome with its old value, or a refusal with the fault code it gives (R341). -/
inductive RemoteAnswer where
  | read (bs : List Byte)
  | written
  | atom (status : Nat) (old : Word)
  | refused (code : Option Nat)
  deriving DecidableEq, Repr

/-- The answer to an element of an accumulate-on-write at another package: one answered as unknown is reported in the error
bank of the tile and not applied again; after a stop the answer goes into the record (R209) (log 92: DESIGN CHOICE). -/
def elementDone (s : State) (t e : Nat) (c : CopyCmd) (status : Nat) : State :=
  let s := if 2 ≤ status then
      noteError s t { ue := true, kind := 2, ctx := tileCtx s t, own := true, cons := false, addr := BitVec.ofNat 64 (c.dstAt c.landed) }
    else s
  if (taskOf s t c.task).st = .stopped then
    updCmd s t e c.n fun d => { d with landed := d.landed + d.bytes.length, bytes := [], eid := none }
  else pieceLanded s t e c c.fetched c.fetched

/-- The end of an aw element or a returning atomic at another package. -/
def remoteAtom (s : State) (t e : Nat) (c : CopyCmd) (status : Nat) (old : Word) : State :=
  if c.atomic then
    if c.answered.isSome || c.unanswered then s
    else
      let w := if c.ty = 2 then 64 else 32
      let v : Word := BitVec.ofInt 64 (signedOf w (old.toNat % 2 ^ w))
      let res := if status = 0 then 0 else if status = 1 then 1 else 2
      endAtomic s t e c res (if status = 0 then v else 0) false
  else elementDone s t e c status

/-- An answer reaches the engine. -/
def engineAnswer (s : State) (t e n : Nat) (a : RemoteAnswer) : State :=
  match cmdOf s t e n with
  | none => s
  | some c =>
    match a with
    | .read bs =>
      let q := c.fetched
      let mine := ((bs.drop (c.srcAt q % 8)).take (pieceLen c q true))
      if (taskOf s t c.task).st = .stopped then s else pieceRead s t e c mine
    | .written => if (taskOf s t c.task).st = .stopped then updCmd s t e n fun d =>
        { d with landed := d.landed + d.bytes.length, bytes := [] } else pieceLanded s t e c c.fetched c.fetched
    | .atom status old => remoteAtom s t e c status old
    | .refused code =>
      if c.atomic then
        let s := endFailed s t e c 1
        match code with
        | some k => tileFault s t e k c.dst
        | none => s
      else match code with
        | some k => failCmd s t e c k (BitVec.ofNat 64 (c.dstAt c.landed))
        | none => endFailed s t e c 1

/-! ### Notices (R357) -/

/-- NOTICE_ARRIVAL: a router notice ends an engine's command towards a closed tile without a fault, and drops a
hint's fill. -/
def execNoticeArrival (t e : Nat) (s : State) : Host.Outcome State Fault Refusal :=
  let g : CopyEng := tget {} (tileOf s t).cpy e
  match g.cmds.head?, g.hint with
  | some c, _ =>
    whenever (c.st != .queued && (sourceClosed s t c || (c.named t).any fun d => !routeOpen s t d)) s fun s =>
      if !c.atomic && c.dsp == 1 && !(reachable s t c).isEmpty && !sourceClosed s t c then
        updCmd s t e c.n fun d => { d with noticed := true }
      else noticeCmd s t e c
  | none, some h =>
    match h.slot, hintLost s t h with
    | some slot, some r => .next (noticeHint s t e slot r)
    | _, _ => .next s
  | none, none => .next s

end Sys2Proof.Machine
end

