-- ==== Sys2Proof/Machine/Barrier.lean ====
section
/-! DEFINITION. The barriers of a group, the superstep, the published waits and probe (spec/11 R236 to R251;
spec/09 R218). -/

namespace Sys2Proof.Machine

open Sys2Proof.Operands

/-! ### Members (R236) -/

/-- The tile of a rank of a group (R229). -/
def Group.tile (g : Group) (r : Nat) : Nat := 8 * (g.y0 + r / g.w) + g.x0 + r % g.w
/-- The task slot of a rank. -/
def Group.slot (g : Group) (r : Nat) : Nat := tget 0 g.slots r
/-- Whether a rank is a live member (R231). -/
def Group.isLive (g : Group) (r : Nat) : Bool := g.live.getLsbD r
/-- The live ranks. -/
def Group.liveRanks (g : Group) : List Nat := (List.range (g.w * g.h)).filter g.isLive

/-- The ranks of a barrier's scope. -/
def Group.scope (g : Group) : BarrierId → List Nat
  | .step | .rdv | .barGrp => List.range (g.w * g.h)
  | .barRow r => (List.range g.w).map fun c => r * g.w + c
  | .barCol c => (List.range g.h).map fun r => r * g.w + c

/-- The members of a barrier: live, their tasks not retired (R236). -/
def Group.members (g : Group) (b : BarrierId) : List Nat :=
  (g.scope b).filter fun r => g.isLive r && !g.retiredRanks.contains r

/-- A barrier of a group. -/
def Group.bar (g : Group) (b : BarrierId) : Barrier :=
  match g.bars.find? fun x => x.1 == b with
  | some x => x.2
  | none => {}

/-- Changes a barrier of a group. -/
def Group.setBar (g : Group) (b : BarrierId) (v : Barrier) : Group :=
  { g with bars := (g.bars.filter fun x => x.1 != b) ++ [(b, v)] }

/-- The hops of a scope: W + H − 2 over it (R242). -/
def Group.span (g : Group) : BarrierId → Nat
  | .step | .rdv | .barGrp => g.w + g.h - 2
  | .barRow _ => g.w - 1
  | .barCol _ => g.h - 1

/-! ### Gathering and draining (R237, R238, R241, R242) -/

/-- Whether every member of the scope has arrived. -/
def Group.gathered (g : Group) (b : BarrierId) : Bool :=
  (g.members b).all fun r => (g.bar b).arrived.contains r

/-- Whether a group stands in a save area (R228, R308). -/
def groupSaved (s : State) (g : Group) : Bool := (ctxOf s g.ctx).st == .saved

/-- Whether an access of a slot is that of the task which now stands there. -/
def ownAccess (x : Task) (n : Nat) : Bool :=
  decide (x.gaccFirst ≤ n) && !x.aliens.any fun r => decide (r.1 ≤ n) && decide (n < r.2)

/-- Whether the posted traffic of one member has drained (R241). -/
def memberDrained (s : State) (g : Group) (r : Nat) : Bool :=
  let t := g.tile r
  let k := g.slot r
  let x := tileOf s t
  !(x.stores.any fun p => p.task == k && p.kind.isData && decide ((taskOf s t k).boundAt ≤ p.issued)) &&
  !((taskOf s t k).gacc.any fun a => !a.load && ownAccess (taskOf s t k) a.n) &&
  !(x.cpy.any fun e => e.2.cmds.any fun c => c.task == k) &&
  !(s.events.any fun p => match p.ev with
    | .sshareStoreArrival t' _ r' _ _ => t' == t && r' == r
    | _ => false)

/-- Whether the posted traffic of every live member has drained (R232, R241). -/
def groupDrained (s : State) (g : Group) : Bool := g.liveRanks.all (memberDrained s g)

/-- An instance whose last member has arrived moves on: to draining, or for a bar towards its completion
(R238, R242). -/
def endGather (s : State) (gid : Nat) (b : BarrierId) : State :=
  match groupOf s gid with
  | none => s
  | some g =>
    let v := g.bar b
    match b with
    | .step | .rdv =>
      scheduleOnce (updGroup s gid fun g => g.setBar b { v with st := .draining }) s.hc (.barrierDrainEnd gid b)
    | _ =>
      let due := s.hc + 4 + 2 * g.span b
      schedule (updGroup s gid fun g => g.setBar b { v with st := .releasing, due := due }) due (.barComplete gid b)

/-- Looks whether a gathering instance is complete. -/
def checkGather (s : State) (gid : Nat) (b : BarrierId) : State :=
  match groupOf s gid with
  | some g => if (g.bar b).st = .gathering && g.gathered b then endGather s gid b else s
  | none => s

/-- Every barrier of a group, in the order of R249. -/
def Group.allBars (g : Group) : List BarrierId :=
  [.step, .rdv, .barGrp] ++ (List.range g.h).map .barRow ++ (List.range g.w).map .barCol

/-- Looks at every barrier of a group after a member has left it (R238, R243). -/
def checkGroup (s : State) (gid : Nat) : State :=
  match groupOf s gid with
  | some g => g.allBars.foldl (fun s b => checkGather s gid b) s
  | none => s

/-- The state of a group as a live member's step issues: a placed group is not running yet (R228). -/
def GroupSt.atStep : GroupSt → GroupSt
  | .running | .degraded => .stepping
  | x => x

/-- A member arrives at a barrier with a tag; a tag that differs from the first arrival's is a fault (R239, R246)
(log 34: DEDUCED). -/
def arrive (s : State) (b : BarrierId) (tag : Nat) : State :=
  let t := curTask s
  match t.gid with
  | none => s
  | some gid =>
    match groupOf s gid with
    | none => s
    | some g =>
      let v := g.bar b
      if v.st != .idle && v.tag != tag then
        raiseFault s g.ctx 0x41 (unitId (curTile s) (curSlot s)) s.cur.addr false
      else
        let v := { v with st := if v.st = .idle then .gathering else v.st, tag := tag, arrived := t.rank :: v.arrived }
        let s := updGroup s gid fun g =>
          let g := g.setBar b v
          if b = .step then { g with st := g.st.atStep } else g
        checkGather s gid b

/-- step, bar and rdv: the member arrives and its task parks (R239, R244, R245). -/
def barrierBody (b : BarrierId) (tag : Nat) (s : State) : Verdict := .issuePark (arrive s b tag) (.barrier b)

/-- step (R239). -/
def execStep (s : State) : Host.Outcome State Fault Refusal := gate .step s (barrierBody .step 0)

/-- The barrier that bar names: its row, its column, or the group's (R244). -/
def barId (s : State) (imm : BitVec 16) : BarrierId :=
  let t := curTask s
  let w := match t.gid.bind (groupOf s) with
    | some g => g.w
    | none => 1
  match nfld imm.toNat 8 2 with
  | 0 => .barRow (t.rank / w)
  | 1 => .barCol (t.rank % w)
  | _ => .barGrp

/-- bar (R244). -/
def execBar (o : CI) (s : State) : Host.Outcome State Fault Refusal :=
  gate (.bar o) s fun s =>
    if nfld o.imm.toNat 8 2 = 3 || nfld o.imm.toNat 10 6 ≠ 0 then .fault 0x01
    else barrierBody (barId s o.imm) (nfld o.imm.toNat 0 8) s

/-- rdv (R245). -/
def execRdv (o : CI) (s : State) : Host.Outcome State Fault Refusal :=
  gate (.rdv o) s (barrierBody .rdv o.imm.toNat)

/-- BARRIER_DRAIN_END: the posted traffic has drained: t_a is this hc, and the exchange, or the release, follows
(R241, R242). Traffic still under way is looked at again in the next hc. -/
def execBarrierDrainEnd (g : Nat) (b : BarrierId) (s : State) : Host.Outcome State Fault Refusal :=
  match groupOf s g with
  | none => .next s
  | some x =>
    if (x.bar b).st != .draining then .next s
    else if !groupDrained s x || groupSaved s x then .next (scheduleOnce s (s.hc + 1) (.barrierDrainEnd g b))
    else
      let tx := s.hc + 8 + 2 * (x.w + x.h - 2)
      if b = .step then
        .next (schedule (updGroup s g fun x => x.setBar b { x.bar b with st := .exchanging, due := tx }) tx (.stepExchange g))
      else
        .next (schedule (updGroup s g fun x => x.setBar b { x.bar b with st := .releasing, due := tx + 1 }) (tx + 1)
          (.barrierRelease g b))

/-! ### The exchange (R218, R240) -/

/-- Whether a granule's stores are those of a fenced member (R218). -/
def granReverted (g : Granule) (f : List Nat) : Bool :=
  g.written && (f.contains g.writer || (g.writer == 0x7F && !f.isEmpty))

/-- Zeroes the slots of every region whose seed is ZERO: granules that nothing has written become 0 (R218). -/
def seedZero (x : Tile) : Memory :=
  x.ssmap.foldl (fun m e =>
    if e.2.v && !e.2.carry then mzero m (16384 * (512 - x.sshare + e.2.first)) (16384 * (e.2.cm1 + 1)) else m) x.floor

/-- A tile resolves and exchanges its step-shared space, with the fenced members F (R218). -/
def exchangeTile (x : Tile) (f : List Nat) : Tile :=
  let written := x.gran.filter fun g => g.2.written
  let seeded := seedZero x
  let value := fun (a : Nat) (g : Granule) =>
    if granReverted g f then granSeed x a (granBytes x a) else g.next
  let floor := written.foldl (fun m g =>
    mwriteAll m (addrBytes g.1 (leBytes (granBytes x g.1) (value g.1 g.2).toNat))) seeded
  let col := (written.filter fun g => g.2.col).map (·.1)
  { x with floor := floor, gran := [], ssCol := min 0xFFFF col.length,
           ssRev := min 0xFFFF (written.filter fun g => granReverted g.2 f).length,
           ssAddr := col.headD 0, ssAv := !col.isEmpty }

/-- The exchange in every tile of a group whose space serves it; collisions fault afterwards (R218). -/
def exchangeAll (s : State) (gid ctx : Nat) (f : List Nat) : List Nat → State
  | [] => s
  | t :: r =>
    if (tileOf s t).ssGid = some gid then
      let s := updTile s t fun x => exchangeTile x f
      let x := tileOf s t
      let s := exchangeAll s gid ctx f r
      if x.ssCol = 0 then s else raiseFault s ctx 0x3A (unitId t 13) (BitVec.ofNat 64 x.ssAddr) false
    else exchangeAll s gid ctx f r

/-- The exchange of a group at t_x: every live member's tile resolves and exchanges its step-shared space, and nstep rises;
the release follows in the next hc (R240). -/
def exchangeStep (s : State) (g : Nat) : State :=
  match groupOf s g with
  | none => s
  | some x =>
    if (x.bar .step).st != .exchanging || groupSaved s x then s
    else
      let s := exchangeAll s g x.ctx (x.bar .step).fencedIn (x.liveRanks.map x.tile)
      let s := updGroup s g fun x =>
        { x.setBar .step { x.bar .step with st := .releasing, fencedIn := [], due := s.hc + 1 } with nstep := x.nstep + 1 }
      schedule s (s.hc + 1) (.barrierRelease g .step)

/-- STEP_EXCHANGE (R218, R240). -/
def execStepExchange (g : Nat) (s : State) : Host.Outcome State Fault Refusal := .next (exchangeStep s g)

/-! ### Release (R238) -/

/-- The slot whose TASK_RETIRE looks at a retiring group in every hc: that of its first live member (log 3: DESIGN CHOICE). -/
def lookSlot (g : Group) : Nat × Nat := (g.tile (g.liveRanks.headD 0), g.slot (g.liveRanks.headD 0))

/-- A retiring group is looked at in an hc. -/
def lookRetiring (s : State) (g : Group) (due : Nat) : State :=
  scheduleOnce s due (.taskRetire (lookSlot g).1 (lookSlot g).2)

/-- Whether every live member of a group has retired. -/
def Group.allRetired (g : Group) : Bool := g.liveRanks.all fun r => g.retiredRanks.contains r

/-- A running or degraded group whose last live member has retired begins to retire; a stepping one does so when its step
completes (R228). -/
def checkRetiring (s : State) (gid : Nat) : State :=
  match groupOf s gid with
  | some g =>
    let ok := match g.st with
      | .running | .degraded | .retiring => true
      | .forming | .placed | .stepping | .saved => false
    if ok && g.allRetired && (!g.liveRanks.isEmpty || g.tol && g.minlive == 0) then
      lookRetiring (updGroup s gid fun g => { g with st := .retiring }) g s.hc
    else s
  | none => s

/-- Ends the wait of every member that has arrived, and the instance with it. -/
def releaseBar (s : State) (gid : Nat) (b : BarrierId) : State :=
  match groupOf s gid with
  | none => s
  | some g =>
    let s := (g.bar b).arrived.reverse.foldl (fun s r => wake s (g.tile r) (g.slot r) (.barrier b)) s
    let s := updGroup s gid fun g =>
      let g := g.setBar b { fencedIn := if b = .step then (g.bar b).fencedIn else [] }
      if b = .step && g.st == .stepping then { g with st := if g.everFenced then .degraded else .running } else g
    checkRetiring s gid

/-- BARRIER_RELEASE: a step or rdv instance releases. -/
def execBarrierRelease (g : Nat) (b : BarrierId) (s : State) : Host.Outcome State Fault Refusal :=
  whenever (match groupOf s g with
    | some x => (x.bar b).st == .releasing && !groupSaved s x
    | none => false) s fun s => releaseBar s g b

/-- BAR_COMPLETE: a bar instance completes its count after the last arrival (R242). -/
def execBarComplete (g : Nat) (b : BarrierId) (s : State) : Host.Outcome State Fault Refusal :=
  whenever (match groupOf s g with
    | some x => (x.bar b).st == .releasing && !groupSaved s x
    | none => false) s fun s => releaseBar s g b

/-! ### Published waits (R249) -/

/-- No unit, and memory. -/
def noUnit : Nat := 0x03FF
def memUnit (t : Nat) : Nat := unitId t 14

/-- The unit that an ewait's engine number names. -/
def engineUnit (t u : Nat) : Nat :=
  if u < 4 then unitId t (4 + u) else if u = 4 then unitId t 8 else if u = 5 then unitId t 9
  else if u = 6 then unitId t 10 else unitId t 11

/-- What a task slot publishes. -/
def slotWait (s : State) (t k : Nat) : Nat :=
  let x := taskOf s t k
  match x.wait with
  | .reg r => match x.outst.find? fun o => o.reg == r with
    | some o => unitId t o.unit
    | none => noUnit
  | .rld _ => unitId t 10
  | .barrier _ => match x.gid.bind (groupOf s) with
    | some g => unitId (g.tile 0) 12
    | none => noUnit
  | .engine u => engineUnit t u
  | .watermark ch _ => unitId t (4 + (tget ({} : Watermark) (tileOf s t).wm ch).eng)
  | .none => match x.stall with
    | some (h, u) => if x.st = .issuing && s.hc ≤ h + 1 then u else noUnit
    | none => noUnit

/-- What a copy engine publishes. -/
def copyWait (s : State) (t e : Nat) : Nat :=
  if !(tget ({} : CopyEng) (tileOf s t).cpy e).follow.isEmpty then unitId t 8
  else match engineBlocked s t e with
    | some g => unitId t (4 + g)
    | none => noUnit

/-- What the cube publishes: the engine that armed the channel its fill or staging waits behind, or that fills a chunk it
needs. -/
def cubeWait (s : State) (t : Nat) : Nat :=
  let x := tileOf s t
  match (x.cubeOps.filter fun o => o.st == .resolving).findSome? fun o =>
      o.chunks.findSome? fun u => if u.slot < 512 then wmBlocker x [] false (16384 * u.slot) 16384
        else if u.tag = 0 then none
        else (findTag x u.tag).bind fun e => if e.2.st = .filling && e.2.owner < 4 then some e.2.owner else none with
  | some e => unitId t (4 + e)
  | none => noUnit

/-- The lowest-ranked member missing from the first gathering instance of a group (R249). -/
def missingMember (g : Group) : Option Nat :=
  g.allBars.findSome? fun b =>
    if (g.bar b).st = .gathering then (g.members b).find? fun r => !(g.bar b).arrived.contains r else none

/-- What the barrier unit of a group publishes; of the copy engines that a drain awaits, that of the lowest rank and then of the
lowest number (R249) (log 120: DESIGN CHOICE). -/
def barrierWait (s : State) (g : Group) : Nat :=
  match missingMember g with
  | some r => unitId (g.tile r) (g.slot r)
  | none =>
    if (g.bar .step).st = .draining || (g.bar .rdv).st = .draining then
      match g.liveRanks.findSome? fun r =>
          ([0, 1, 2, 3] : List Nat).findSome? fun e =>
            if (tget ({} : CopyEng) (tileOf s (g.tile r)).cpy e).cmds.any fun c => c.task == g.slot r
            then some (unitId (g.tile r) (4 + e)) else none with
      | some u => u
      | none => memUnit (g.tile 0)
    else noUnit

/-- The unit that unit `u` publishes in this hc (R249); of several groups whose origin tile is the same, the barrier unit is that
of the first that waits (log 119: DESIGN CHOICE). -/
def published (s : State) (u : Nat) : Nat :=
  let t := u % 64
  let kind := u / 64
  if kind < 4 then slotWait s t kind
  else if kind < 8 then copyWait s t (kind - 4)
  else if kind = 8 then cubeWait s t
  else if kind = 11 then
    (let x := (tileOf s t).xp
     if x.pops.isEmpty then noUnit else unitId t x.owner)
  else if kind = 12 then
    (match s.groups.find? fun g =>
        g.tile 0 == t && !groupSaved s g && (tileOf s t).ctx == some g.ctx && barrierWait s g != noUnit with
     | some g => barrierWait s g
     | none => noUnit)
  else noUnit

/-! ### probe (R250) -/

/-- probe: marks sd empty and walks from x[15:0] (log 35: DEDUCED). -/
def execProbe (o : SR1) (s : State) : Host.Outcome State Fault Refusal :=
  gate (.probe o) s fun s =>
    let u := wfld (srcS s o.sa) 0 16
    let n := (curTask s).gaccNext
    let s := startLong s (.s o.sd) 14 n
    let s := updCur s fun x => { x with gaccNext := n + 1, probes := x.probes ++ [⟨n, o.sd, u, u, 0⟩] }
    .issue (schedule s s.hc (.probeWalkEnd (curTile s) (curSlot s) n))

/-- A walk ends with an outcome: sd is written and full. -/
def endProbe (s : State) (t k : Nat) (p : ProbeWalk) (out h : Nat) : State :=
  let s := updTask s t k fun x => { x with probes := x.probes.filter fun q => q.n != p.n }
  let v : Word := BitVec.ofNat 64 (out + 4 * h + 2 ^ 9 * p.cur)
  if (taskOf s t k).st = .stopped then
    updTask s t k fun x =>
      { x with outst := x.outst.filter (fun o => o.reg != .s p.sd),
               pend := if p.sd = 0 then x.pend else x.pend ++ [⟨0, .s p.sd, v.setWidth 4096, 0, .M⟩] }
  else fillReg s (.tile t k) (.s p.sd) fun x => writeS x p.sd v

/-- Whether the edge of a unit leaves the package: a link port with a request or a command outstanding there
(log 35: DEDUCED). -/
def leavesPackage (s : State) (u : Nat) : Bool :=
  u / 64 == 10 && (s.peers.any (fun p => p.2.waiting.any fun w => match w.sender with
      | .slot t _ _ | .port t _ => t == u % 64
      | .engine _ _ _ | .walk _ | .device => false) ||
    (tileOf s (u % 64)).lnk.any fun c => !c.pendingSeqs.isEmpty)

/-- The mesh hops between two tiles. -/
def meshHops (a b : Nat) : Nat := (route a b).length

/-- PROBE_WALK_END: one step of a walk, which takes 4 hc and 1 hc per mesh hop, or its end (R250). A walk whose
`hops` is 128 or more has found its outcome, hops / 128, and ends now. -/
def execProbeWalkEnd (t k n : Nat) (s : State) : Host.Outcome State Fault Refusal :=
  match (taskOf s t k).probes.find? fun p => p.n == n with
  | none => .next s
  | some p =>
    if (taskOf s t k).st = .stopped && recordsClosed s (.tile t k) then .next s
    else if 128 ≤ p.hops then .next (endProbe s t k p (p.hops / 128) (p.hops % 128))
    else if 14 ≤ p.cur / 64 then .next (endProbe s t k p 0 p.hops)
    else if (tileOf s (p.cur % 64)).ctx != (tileOf s t).ctx || leavesPackage s p.cur then .next (endProbe s t k p 3 p.hops)
    else
      let v := published s p.cur
      if v / 64 = 14 || v / 64 = 15 then .next (endProbe s t k p 0 p.hops)
      else
        let h := p.hops + 1
        let cost := 4 + meshHops (p.cur % 64) (v % 64)
        let p' : ProbeWalk :=
          if v = p.start then { p with hops := h + 128 }
          else if h = 64 then { p with hops := h + 256 }
          else { p with cur := v, hops := h }
        let s := updTask s t k fun x => { x with probes := x.probes.map fun q => if q.n = n then p' else q }
        .next (schedule s (s.hc + cost) (.probeWalkEnd t k n))

end Sys2Proof.Machine
end

