-- ==== Sys2Proof/Machine/Page.lean ====
section
/-! DEFINITION. The frames of HBM, the export table and the remote holders of pages (spec/16 R322 to R326), and
the sealing and exchange of pages as their leaves show it (R317, R320). -/

namespace Sys2Proof.Machine

/-! ### Frames (R325) -/

/-- The 64 KiB frame number of a physical address. -/
def frameNo (pa : Nat) : Nat := pa / 65536
/-- What is kept of the page that begins at frame `n`. -/
def frameOf (s : State) (n : Nat) : Frame := tget {} s.frames n
/-- Changes it. -/
def updFrame (s : State) (n : Nat) (f : Frame → Frame) : State :=
  { s with frames := tset s.frames n (f (frameOf s n)) }

/-- The export entries in use (R323): frames with a holder (log 53: DEDUCED). -/
def exportCount (s : State) : Nat := (s.frames.filter fun f => f.2.holders != 0).length
/-- The frames in invalidating state. -/
def invCount (s : State) : Nat := (s.frames.filter fun f => f.2.st == .invalidating).length

/-- The holders of a page as package indices. -/
def holderList (f : Frame) : List Nat := (List.range 16).filter fun q => f.holders.getLsbD q

/-- The next generation: one count of the package, so that a frame put under an address anew has none of those before it; 0 is
that of a frame never granted, and marks an access without a translation (R323, log 43: DEDUCED). -/
def nextGen (s : State) : BitVec 16 × State :=
  let g := if s.genSeq + 1 = 0 then 1 else s.genSeq + 1
  (g, { s with genSeq := g })

/-- A page that has been granted changes for its holders: its generation rises and an invalidation goes to each (R323). -/
def bumpFrame (s : State) (n ctx va : Nat) : State :=
  let f := frameOf s n
  if f.gen = 0 then s
  else
    let (gen, s) := nextGen s
    let s := updFrame s n fun f => { f with gen := gen }
    (holderList f).foldl (fun s q =>
      postDevice s q 0xA { Msg.blank with rctx := ctx % 64, va := BitVec.ofNat 64 va, gen := gen, ts := tsWord s }) s

/-- The leaf's page changes for its holders. -/
def bumpLeaf (s : State) (ctx : Nat) (l : Leaf) : State := bumpFrame s (frameNo l.pa0) ctx l.base

/-- A leaf takes new bits and its holders are told (R320, R323). -/
def changeLeaf (s : State) (ctx : Nat) (l : Leaf) (bits : Word) : State :=
  if bits = l.bits then s else bumpLeaf (writePte s l.pte bits) ctx l

/-- The local leaves that map a range of `n` blocks of 64 KiB from `va`, each once. -/
def leavesFrom (s : State) (root : Word) : Nat → Nat → List Leaf
  | _, 0 => []
  | va, n + 1 =>
    let rest := leavesFrom s root (va + 65536) n
    match translate s root (BitVec.ofNat 64 va) false with
    | .here l => if rest.any (fun m => m.pte == l.pte) then rest else l :: rest
    | _ => rest

/-- The local leaves of a global region. -/
def regionLeaves (s : State) (ctx : Nat) (d : RegionDesc) : List Leaf :=
  leavesFrom s (rootOf s ctx) d.base.toNat (d.size.toNat / 65536)

/-! ### Zeroing and freeing (R326) -/

/-- The address of the leaf entry of `va` for a page of `bytes`, through the pointer entries of a context's
tables; none where a pointer is missing. -/
def leafSlot (s : State) (va : Word) (bytes : Nat) : Nat → Nat → Nat → Option Nat
  | 0, _, _ => none
  | fuel + 1, level, table =>
    let pte := table + 8 * levelIndex va level
    if level ≠ 0 && leafBytes level == bytes then some pte
    else
      let e : Word := BitVec.ofNat 64 (mword s.hbm pte 8)
      if !wbitAt e 0 || wbitAt e 1 || level = 3 || !pointerOk level e then none
      else leafSlot s va bytes fuel (level + 1) (wfld e 8 31 * 2 ^ 8)

/-- The frame entries in a state of which a context is the owner. -/
def ctxFrames (s : State) (c : Nat) (st : FrameSt) : List (Nat × Frame) :=
  s.frames.filter fun f => f.2.ctx == c && f.2.st == st

/-- The frames that a map command put under one leaf. -/
def leafFrames (s : State) (c pte : Nat) : List (Nat × Frame) :=
  s.frames.filter fun f => f.2.ctx == c && f.2.leaf == pte && f.2.st != .free

/-- FRAME_ZEROING_END: the frames mapped at `va` have been written with zeros under their new key, and the leaf
becomes valid (R326). -/
def execFrameZeroingEnd (c : Nat) (va : Word) (s : State) : Host.Outcome State Fault Refusal :=
  let fs := (ctxFrames s c .zeroing).filter fun f =>
    leafSlot s va f.2.bytes 4 0 (rootOf s c).toNat == some f.2.leaf
  whenever (!fs.isEmpty) s fun s =>
    let s := fs.foldl (fun s f =>
      updFrame { s with hbm := mzero s.hbm (65536 * f.1) f.2.bytes } f.1 fun f => { f with st := .mapped }) s
    let s := mgmtSettle s (.zero c va) 0
    match fs.head? with
    | some f => writePte s f.2.leaf (setBit (BitVec.ofNat 64 (mword s.hbm f.2.leaf 8)) 0 true)
    | none => s

/-- The task slots of a context; context 64 is the bellows core's. -/
def ctxCores (s : State) (c : Nat) : List (Nat × Nat) :=
  if c = 64 then [(64, 0)] else (ctxTiles s c).flatMap fun t => [(t, 0), (t, 1), (t, 2), (t, 3)]

/-- The requests of returning atomics on their way to a port. -/
def requestsUnderWay (s : State) : List AtomReq :=
  s.events.filterMap fun e => match e.ev with
    | .atomicPortArrival q | .combineRequestArrival _ q => some q
    | _ => none

/-- Whether an access that was translated before frame `n` was unmapped is still to be performed in it (R326). -/
def frameAwaited (s : State) (n : Nat) : Bool :=
  let f := frameOf s n
  let within := fun (va : Nat) => decide (f.va ≤ va) && decide (va < f.va + f.bytes)
  ((ctxCores s f.ctx).any fun c => (coreTask s (nameCore c.1 c.2)).gacc.any fun a =>
    !a.load && !a.remote && !a.sent && decide (a.issuedTs < f.invTs) && within a.va.toNat) ||
  (requestsUnderWay s).any fun q => q.ctx == f.ctx && (match q.port with
    | .hbm _ => decide (q.firstTs < f.invTs) && within q.va.toNat
    | .floor _ => false)

/-- FRAME_FREED: an invalidating frame becomes free once every access translated before the unmap is performed and no holder is
left (R326). -/
def execFrameFreed (n : Nat) (s : State) : Host.Outcome State Fault Refusal :=
  let f := frameOf s n
  if f.st != .invalidating then .next s
  else if f.holders != 0 || frameAwaited s n then .next (scheduleOnce s (s.hc + 1) (.frameFreed n))
  else .next { s with frames := s.frames.filter fun x => x.1 != n }

/-- The frames under a leaf start to invalidate: the leaf becomes invalid, the caches drop it, the holders are
told (R320, R326). -/
def invalidateLeaf (s : State) (c : Nat) (l : Leaf) : State :=
  let fs := leafFrames s c l.pte
  let s := dropXlat (writePte s l.pte (setBit l.bits 0 false)) c l.base l.bytes
  let s := bumpLeaf s c l
  fs.foldl (fun s f =>
    scheduleOpen (updFrame s f.1 fun f => { f with st := .invalidating, bits := l.bits, invTs := s.ts }) (.frameFreed f.1)) s

/-! ### Remote holders (R322 to R324) -/

/-- The frames of a leaf's page: two where it is ping-pong (R221, R323). -/
def leafPages (l : Leaf) : List Nat := frameNo l.pa0 :: (if l.pp then [frameNo l.pa1] else [])

/-- Whether the export table takes the entries that a grant of a page needs (R323). -/
def exportRoom (s : State) (l : Leaf) : Bool :=
  let n := ((leafPages l).filter fun f => (frameOf s f).holders == 0).length
  n == 0 || decide (exportCount s + n ≤ 4096)

/-- A grant: the requester's bit is set in the entry of each frame, and a mapped frame becomes exported (R323, R326). -/
def grantPage (s : State) (l : Leaf) (q ctx : Nat) : State :=
  let f := frameOf s (frameNo l.pa0)
  let (gen, s) := if f.gen = 0 then nextGen s else (f.gen, s)
  (leafPages l).foldl (fun s n => updFrame s n fun f =>
    { f with st := .exported, gen := gen, granted := tset f.granted q gen, holders := f.holders ||| (1 <<< q), ctx := if f.st = .free then ctx else f.ctx,
             bytes := if f.st = .free then l.bytes else f.bytes, leaf := if f.st = .free then l.pte else f.leaf,
             va := if f.st = .free then l.base else f.va }) s

/-- A holder's bit is cleared; an export entry whose mask is zero is freed (R324, R326). -/
def dropHolder (s : State) (n q : Nat) : State :=
  updFrame s n fun f =>
    let h := f.holders &&& ~~~((1 : BitVec 16) <<< q)
    { f with holders := h, st := if h = 0 && f.st = .exported then .mapped else f.st }

/-- Whether a remote access that used a translation is neither answered nor bounced as stale. -/
def xlatInUse (s : State) (r : RemoteXlat) : Bool :=
  (peerOf s r.pkg).waiting.any fun w =>
    w.stale == 0 && [1, 2, 4].contains w.kind && w.msg.rctx == r.rctx && w.msg.gen == r.gen && r.va ≤ w.msg.va.toNat && w.msg.va.toNat < r.va + r.bytes

/-- An invalidation is acknowledged under the generation that it brought (R324). -/
def ackInval (s : State) (q rctx va : Nat) (gen : BitVec 16) : State :=
  postDevice s q 0xB { Msg.blank with rctx := rctx, va := BitVec.ofNat 64 va, gen := gen, ts := tsWord s }

/-- The dropped translations that nothing uses any more are acknowledged (R324). -/
def settleDropped (s : State) : State :=
  let done := s.remotes.filter fun r => r.dropped && !xlatInUse s r
  let s := { s with remotes := s.remotes.filter fun r => !(r.dropped && done.contains r) }
  done.foldl (fun s r => ackInval s r.pkg r.rctx r.va r.dropGen) s

/-! ### Failing translations (R318, R322) -/

/-- Whether two addresses lie in one block of 64 KiB. -/
def sameBlock (a b : Word) : Bool := a.toNat / 65536 == b.toNat / 65536

/-- The engine commands of a tile whose next access lies in a block. -/
def cmdsAt (s : State) (t : Nat) (va : Word) : List (Nat × CopyCmd) :=
  [0, 1, 2, 3].filterMap fun e =>
    match (tget ({} : CopyEng) (tileOf s t).cpy e).cmds.head? with
    | some c =>
      if c.st != .queued &&
          ((c.ssp == 0 && !c.atomic && sameBlock (BitVec.ofNat 64 (c.srcAt c.fetched)) va) ||
           (c.dsp == 0 && sameBlock (BitVec.ofNat 64 (c.dstAt c.landed)) va)) then some (e, c) else none
    | none => none

/-- A translation fails for all that wait for it in its context: the accesses end, the commands fail, each with the
fault; where nothing has left its queue yet, the fault alone (R318, R321, R322). -/
def failXlat (s : State) (w : Walk) (code : Nat) : State :=
  let acc := (ctxCores s w.ctx).filterMap fun c =>
    match firstUnsent (coreTask s (nameCore c.1 c.2)) with
    | some a => if a.remote && sameBlock a.va w.va then some (c, a) else none
    | none => none
  let cmds := (ctxTiles s w.ctx).flatMap fun t => (cmdsAt s t w.va).map fun c => (t, c)
  let s' := acc.foldl (fun s x => failAccess s x.1.1 x.1.2 x.2 code) s
  let s' := cmds.foldl (fun s x => failCmd s x.1 x.2.1 x.2.2 code w.va) s'
  if acc.isEmpty && cmds.isEmpty && !w.unit then accessFault s w.tile w.task code w.va else s'

/-- REMOTE_TRANSLATION_RETRY: an unanswered translation request is sent again, and after the last raises 0x2D
(R322). -/
def execRemoteTranslationRetry (n : Nat) (s : State) : Host.Outcome State Fault Refusal :=
  match s.walks.find? fun w => w.n == n && w.remote with
  | none => .next s
  | some w =>
    let end_ := fun (code : Nat) => failXlat (dropWalk s n) w code
    if wfld (srWord s 0x210) 16 4 < w.tries then .next (end_ 0x2D)
    else match translate s (rootOf s w.ctx) w.va w.write with
      | .remote l =>
        if queueRoom s l.pkg 8 1 then .next (requestXlat s w l)
        else .next (scheduleOnce s (s.hc + 1) (.remoteTranslationRetry n))
      | .fault code => .next (end_ code)
      | .here _ => .next (dropWalk s n)

end Sys2Proof.Machine
end

