-- ==== Sys2Proof/Machine/Region.lean ====
section
/-! DEFINITION. The region unit: seal, unseal, pub and wswap, and their taking effect (spec/09 R212, R219 to R226,
R389; spec/16 R317, R320). -/

namespace Sys2Proof.Machine

open Sys2Proof.Operands

/-! ### Requests (R225) -/

/-- The kinds of request of which one region takes one at a time: seal and unseal are one kind. -/
def RegionOp.kind : RegionOp → Nat
  | .seal | .unseal => 0
  | .pub => 1
  | .wswap => 2

/-- The kind of region that a request needs (R225). -/
def RegionOp.needs : RegionOp → Nat
  | .seal | .unseal => 0
  | .pub => 2
  | .wswap => 3

/-- The address of region `n`'s descriptor in a table (R212). -/
def descAddr (table : Word) (n : Nat) : Word := table + BitVec.ofNat 64 (64 * n)

/-- Whether the region unit of a context refuses a request, by the descriptor it names (R225, R274). -/
def regionRefuses (s : State) (c : Nat) (op : RegionOp) (desc : Word) : Bool :=
  let rs := (ctxOf s c).regs
  decide (16 ≤ rs.length) || rs.any fun r => descAddr r.table r.region == desc && r.op.kind == op.kind

/-- Places a request with the region unit of a context. -/
def placeRegion (s : State) (c : Nat) (r : RegionReq) : State :=
  let s := noteTable s c r.table r.len
  let n := (ctxOf s c).regSeq
  scheduleOpen
    (updCtx s c fun x => { x with regSeq := n + 1, regs := x.regs ++ [{ r with n := n }] })
    (.regionDescriptorRead c n)

/-- A region form after the rules of its registers (R225, R226). -/
def regionBody (op : RegionOp) (x ts : Word) (s : State) : Verdict :=
  let t := curTile s
  let tile := tileOf s t
  let c := curCtx s
  let region := wfld x 0 32
  if wfld x 32 32 ≠ 0 || tile.rgtlen.toNat ≤ region then .fault 0x38
  else if regionRefuses s c op (descAddr tile.rgtbase region) then .stall (noteStall s 13)
  else .issue (placeRegion s c
    { n := 0, op := op, region := region, ts := ts, tile := t, task := curSlot s, table := tile.rgtbase,
      len := tile.rgtlen.toNat, mgmt := false, read := false, after := (curTask s).gaccNext, cmds := tile.cpySeq,
      gid := (curTask s).gid })

/-- seal (R223, R225). -/
def execSeal (o : S1) (s : State) : Host.Outcome State Fault Refusal :=
  gate (.seal o) s fun s => regionBody .seal (srcS s o.sa) 0 s
/-- unseal (R224, R225). -/
def execUnseal (o : S1) (s : State) : Host.Outcome State Fault Refusal :=
  gate (.unseal o) s fun s => regionBody .unseal (srcS s o.sa) 0 s
/-- pub (R220, R225). -/
def execPub (o : S1) (s : State) : Host.Outcome State Fault Refusal :=
  gate (.pub o) s fun s => regionBody .pub (srcS s o.sa) 0 s
/-- wswap: y is the timestamp of the exchange (R222, R225). -/
def execWswap (o : SS) (s : State) : Host.Outcome State Fault Refusal :=
  gate (.wswap o) s fun s => regionBody .wswap (srcS s o.sa) (srcS s o.sb) s

/-! ### The unit's work -/

/-- Request `n` of context `c`. -/
def reqOf (s : State) (c n : Nat) : Option RegionReq := (ctxOf s c).regs.find? fun r => r.n == n
/-- A request has ended. -/
def dropReq (s : State) (c n : Nat) : State :=
  updCtx s c fun x => { x with regs := x.regs.filter fun r => r.n != n }
/-- The address of a request's descriptor (R212). -/
def reqAddr (r : RegionReq) : Word := descAddr r.table r.region

/-- The event by which a request takes effect. -/
def effectEvent (op : RegionOp) (c n : Nat) : Instr :=
  match op with
  | .seal => .sealTakesEffect c n
  | .unseal => .unsealTakesEffect c n
  | .pub => .pubExchange c n
  | .wswap => .wswapExchange c n

/-- A tile of a context as it stands, or as the context's save area keeps it (R308). -/
def standingTile (s : State) (c t : Nat) : Tile :=
  match (ctxOf s c).save.find? fun v => v.tile == t with
  | some v => v.image
  | none => tileOf s t

/-- Every tile of a context changes, also as its save area keeps it (R225, R308). -/
def everyTile (s : State) (c : Nat) (f : Tile → Tile) : State :=
  updCtx ((ctxTiles s c).foldl (fun s t => updTile s t f) s) c fun x =>
    { x with save := x.save.map fun v => { v with image := f v.image } }

/-- Whether writes to the region that happen before the request of a context are still to be performed (R220, R222, R223,
R258): the stores its slot issued before it, and the copies its slot triggered before it. -/
def writesOpen (s : State) (c : Nat) (r : RegionReq) (d : RegionDesc) : Bool :=
  let x := standingTile s c r.tile
  !r.mgmt &&
  ((tget ({} : Task) x.tasks r.task).gacc.any (fun a =>
      !a.load && !a.sent && decide (a.n < r.after) && d.covers a.va.toNat) ||
   x.cpy.any fun e => e.2.cmds.any fun c =>
     c.task == r.task && decide (c.n ≤ r.cmds) && c.dsp == 0 &&
     (rowsOf c c.dst c.ds).any fun x => rangesMeet x (d.base.toNat, d.size.toNat))

/-- A request ends without effect, with a fault of its context (R226). -/
def failReq (s : State) (c : Nat) (r : RegionReq) (code : Nat) (addr : Word) : State :=
  raiseFault (mgmtSettle (dropReq s c r.n) (.seal c r.n) 0x02) c code (if r.mgmt then srcBellows else unitId r.tile 13) addr
    false

/-- REGION_DESCRIPTOR_READ: the unit reads the descriptor and the leaves of its pages; a rejected descriptor, one of
the wrong kind, or a plane-pair region with an unpaired leaf is a region fault (R226, R317). -/
def execRegionDescriptorRead (c n : Nat) (s : State) : Host.Outcome State Fault Refusal :=
  match reqOf s c n with
  | none => .next s
  | some r =>
    if r.read then .next s
    else match translate s (rootOf s c) (reqAddr r) false, readRegion s (rootOf s c) (reqAddr r) with
      | .fault code, _ => .next (failReq s c r code (reqAddr r))
      | _, none => .next (failReq s c r 0x24 (reqAddr r))
      | _, some d =>
        let unpaired := (regionLeaves s c d).find? fun l => !l.pp
        if !d.ok || d.kind ≠ r.op.needs then .next (failReq s c r 0x38 (reqAddr r))
        else match (if r.op.needs = 0 then none else unpaired) with
          | some l => .next (failReq s c r 0x38 (BitVec.ofNat 64 l.base))
          | none =>
            let s := updCtx s c fun x =>
              { x with regs := x.regs.map fun q => if q.n = n then { q with read := true } else q }
            .next (schedule s s.hc (effectEvent r.op c n))

/-- The device writes a descriptor's epoch, sealed and tx fields (R212). -/
def markRegion (s : State) (c : Nat) (d : RegionDesc) (epoch : Nat) (sealed : Bool) (tx : Nat) : State :=
  let s := deviceWrite s c (d.addr + 0x20) (leBytes 8 (epoch % 2 ^ 32 + 2 ^ 32 * sealed.toNat))
  deviceWrite s c (d.addr + 0x28) (leBytes 8 tx)

/-- A request whose descriptor has been read takes effect once the writes before it are performed; until then it is
looked at in every hc. -/
def takeEffect (c n : Nat) (op : RegionOp) (s : State) (notYet : RegionReq → RegionDesc → Bool)
    (f : State → RegionReq → RegionDesc → State) : Host.Outcome State Fault Refusal :=
  match reqOf s c n with
  | none => .next s
  | some r =>
    if r.op != op || !r.read then .next s
    else match readRegion s (rootOf s c) (reqAddr r) with
      | none => .next (mgmtSettle (dropReq s c n) (.seal c n) 0x02)
      | some d =>
        if writesOpen s c r d || notYet r d then .next (scheduleOnce s (s.hc + 1) (effectEvent op c n))
        else .next (f (dropReq s c n) r d)

/-- SEAL_TAKES_EFFECT: at Tseal seal is set in every leaf of the region; sealed ← 1, tx ← Tseal (R223, R317). -/
def execSealTakesEffect (c n : Nat) (s : State) : Host.Outcome State Fault Refusal :=
  takeEffect c n .seal s (fun _ _ => false) fun s _ d =>
    let s := (regionLeaves s c d).foldl (fun s l => changeLeaf s c l (setBit l.bits 4 true)) s
    mgmtSettle (markRegion s c d d.epoch true s.ts) (.seal c n) 0

/-- Whether a sealed plain region other than the one at `addr` covers some byte of a range (R389). -/
def otherSealed (rs : List RegionDesc) (addr : Word) (a n : Nat) : Bool :=
  rs.any fun x => x.kind == 0 && x.sealed && x.addr != addr && rangesMeet (a, n) (x.base.toNat, x.size.toNat)

/-- Whether the 16 KiB block of a replica lies in a region that is unsealed and in no other sealed one. -/
def replicaOf (d : RegionDesc) (rs : List RegionDesc) (tag : Word) : Bool :=
  let a := wfld tag 0 50 * 16384
  rangesMeet (a, 16384) (d.base.toNat, d.size.toNat) && !otherSealed rs d.addr a 16384

/-- Every replica of an unsealed region in a tile becomes empty, and the private copies of its descriptors and code
are dropped (R180, R224). -/
def dropReplicas (d : RegionDesc) (rs : List RegionDesc) (x : Tile) : Tile :=
  let keep := fun (a n : Nat) => !rangesMeet (a, n) (d.base.toNat, d.size.toNat) || otherSealed rs d.addr a n
  { x with tags := x.tags.map fun e => if isReplica x e.1 && replicaOf d rs e.2.tag then (e.1, {}) else e,
           tdCache := x.tdCache.filter fun a => keep a 64, codeBuf := x.codeBuf.filter fun a => keep a 16 }

/-- Whether an expansion from a region, and from no other sealed one, is in progress in a tile: it finishes from the copy it has
read, and the unseal waits for it (R278, R389). -/
def expandsFrom (d : RegionDesc) (rs : List RegionDesc) (x : Tile) : Bool :=
  x.halves.any fun h => h.2.v && !h.2.cut && !h.2.todo.isEmpty && d.covers h.2.seg &&
    !otherSealed rs d.addr h.2.seg (16 + h.2.blen)

/-- UNSEAL_TAKES_EFFECT: at Tun the replicas and private copies of the region are gone, seal is cleared in the leaves
that no other sealed plain region covers; sealed ← 0, tx ← Tun (R224, R389). -/
def execUnsealTakesEffect (c n : Nat) (s : State) : Host.Outcome State Fault Refusal :=
  takeEffect c n .unseal s (fun _ d => (ctxTiles s c).any fun t => expandsFrom d (ctxRegions s c) (tileOf s t)) fun s _ d =>
    let rs := ctxRegions s c
    let s := everyTile s c (dropReplicas d rs)
    let s := ((regionLeaves s c d).filter fun l => !otherSealed rs d.addr l.base l.bytes).foldl
      (fun s l => changeLeaf s c l (setBit l.bits 4 false)) s
    markRegion s c d d.epoch false s.ts

/-- The bits of a publish page after an exchange (R317). -/
def pubBits (l : Leaf) (carry : Bool) : Word :=
  if l.nw then setBit (setBit (setBit l.bits 7 (!l.cur)) 8 false) 9 false
  else if carry then l.bits else setBit l.bits 9 true

/-- PUB_EXCHANGE: at T the written pages make their next plane present; epoch rises, tx ← T (R220, R317). -/
def execPubExchange (c n : Nat) (s : State) : Host.Outcome State Fault Refusal :=
  takeEffect c n .pub s (fun _ _ => false) fun s _ d =>
    let s := (regionLeaves s c d).foldl (fun s l => changeLeaf s c l (pubBits l d.carry)) s
    markRegion s c d (d.epoch + 1) d.sealed s.ts

/-- The outstanding nib requests of a tile note an exchange (R164, R222): those triggered before T′ go on reading the old active
halves (log 86: DEDUCED). -/
def flipNibs (d : RegionDesc) (x : Tile) : Tile :=
  { x with nib := x.nib.map fun r => { r with flips := (d.base.toNat, d.size.toNat) :: r.flips } }

/-- The timestamp at the hc before this one: an exchange in the first hc at or after its timestamp has T′ = Ts. -/
def tsBefore (s : State) : Nat := s.ts - ((s.tsPhase + 4) % 7 + 10) / 7

/-- WSWAP_EXCHANGE: at T′ the halves exchange; epoch rises, tx ← T′, a late exchange is counted (R222, R317). -/
def execWswapExchange (c n : Nat) (s : State) : Host.Outcome State Fault Refusal :=
  takeEffect c n .wswap s (fun r _ => decide (s.ts < r.ts.toNat)) fun s r d =>
    let s := everyTile s c (flipNibs d)
    let s := (regionLeaves s c d).foldl (fun s l => changeLeaf s c l (setBit (setBit l.bits 7 (!l.cur)) 8 false)) s
    let tx := if tsBefore s < r.ts.toNat then r.ts.toNat else s.ts
    let s := if r.ts.toNat < tx then { s with wslate := s.wslate + 1 } else s
    markRegion s c d (d.epoch + 1) d.sealed tx

end Sys2Proof.Machine
end

