-- ==== Sys2Proof/Machine/Kernel.lean ====
section
/-! DEFINITION. The prefetch engine and ksync (spec/03 R79; spec/13 R273, R275, R278 to R280). -/

namespace Sys2Proof.Machine

/-! ### Expansion (R79) -/

/-- Changes half `h` of the loop buffer of a core. -/
def setHalf (s : State) (c : CoreId) (h : Nat) (x : Half) : State :=
  setHalves s c (coreExec s c) (tset (coreHalves s c) h x)

/-- Half `h` of the loop buffer of a core. -/
def halfOf (s : State) (c : CoreId) (h : Nat) : Half := tget {} (coreHalves s c) h

/-- The quads that a half's segment takes, as the tile's code buffer keeps them. -/
def segQuads (x : Half) : List Nat := (List.range (1 + x.blen / 16)).map fun i => x.seg + 16 * i

/-- The tile's code buffer takes the quads of a half (R278). -/
def keepCode (s : State) (c : CoreId) (x : Half) : State :=
  match c with
  | .tile t _ => updTile s t fun y => { y with codeBuf := (segQuads x ++ y.codeBuf).eraseDups }
  | .bellows => s

/-- The header of the entry segment of a task's image (R271, R275). -/
def entryHeader (s : State) (c : CoreId) : Option Nat :=
  let k := (coreTask s c).kimg.toNat
  match fetchNat s c k 8 with
  | some w => segEntry s c (segTable s c k).2 (nfld w 48 16)
  | none => none

/-! ### The states of tiles and groups as tasks leave the bound state (R228, R350, R351) -/

/-- The role of a tile by its tasks (R350): a retired task still counts until its group retires. -/
def roleOf (x : Tile) : TileSt :=
  if !x.tasks.any fun k => k.2.st.occupied then .free
  else if x.tasks.all fun k => !k.2.st.occupied || k.2.st == .bound then .bound
  else .running

/-- A tile takes the role that its tasks give it; an accused tile keeps it as its prior state (R350, R351). -/
def refreshRole (s : State) (t : Nat) : State :=
  updTile s t fun x =>
    match x.health.st with
    | .free | .bound | .running => { x with health := { x.health with st := roleOf x } }
    | .accused =>
      { x with health := { x.health with
          prior := if x.health.prior = .sweeping then .sweeping else roleOf x } }
    | .sweeping | .fenced | .appealing | .retired => x

/-- A group all of whose live members' tasks have left the bound state runs (R228). -/
def refreshGroup (s : State) (gid : Nat) : State :=
  match groupOf s gid with
  | some g =>
    let left := fun (x : Task) => x.gid == some gid && x.st != .bound
    if g.st = .placed && g.liveRanks.all fun r => left (taskOf s (g.tile r) (g.slot r)) then
      updGroup s gid fun g => { g with st := .running }
    else s
  | none => s

/-- A task has left the bound state. -/
def leftBound (s : State) (t k : Nat) : State :=
  let s := refreshRole s t
  match (taskOf s t k).gid with
  | some g => refreshGroup s g
  | none => s

/-- A bound task whose first entry bundle is expanded becomes ready; one whose entry segment cannot be fetched
becomes ready too, and its first bundle raises the kernel-format fault (R88, R273, R275). -/
def readyBound (s : State) (t k : Nat) : State :=
  let c := CoreId.tile t k
  let x := taskOf s t k
  if x.st != .bound then s
  else match entryHeader s c with
    | none =>
      leftBound (makeReady (updTask s t k fun x =>
        { x with stream := [faultBundle x x.flow.next], nextSeq := x.nextSeq + 1, flow := { x.flow with hold := .halted } })
        t k) t k
    | some h =>
      if (tileOf s t).halves.any fun y => y.2.holdsSeg (coreCtx s c) x.kimg h && !y.2.entries.isEmpty then
        leftBound
          (makeReady (updTask s t k fun x => { x with flow := { x.flow with next := BitVec.ofNat 64 (h + 16) } }) t k)
          t k
      else s

/-- The prefetch engine turns to the first bound task whose entry segment no half holds, when it is idle (R79,
R88). -/
def expandBound (s : State) (t : Nat) : State :=
  let s := [0, 1, 2, 3].foldl (fun s k => readyBound s t k) s
  if expanding s (.tile t 0) then s
  else
    match ([0, 1, 2, 3] : List Nat).find? fun k => (taskOf s t k).st == .bound with
    | some k =>
      match entryHeader s (.tile t k) with
      | some h => startExpand s (.tile t k) h
      | none => s
    | none => s

/-- The core whose flow the engine of a tile serves: its issuing task (R79). -/
def flowCore (s : State) (t : Nat) : CoreId := if t = 64 then .bellows else .tile t (((tileOf s t).issuing).getD 0)

/-- PREFETCH_EXPANSION: one more bundle of a half is expanded (R79); after the last, the engine turns to the segment after
the executing one. -/
def execPrefetchExpansion (t h : Nat) (s : State) : Host.Outcome State Fault Refusal :=
  let c := nameCore t 0
  let x := halfOf s c h
  match x.todo with
  | [] => .next s
  | e :: r =>
    whenever (x.v && !x.cut) s fun s =>
      let s := if x.entries.isEmpty then keepCode s c x else s
      let s := setHalf s c h { x with entries := x.entries ++ [e], todo := r }
      let s := if r.isEmpty then s else scheduleOnce s (s.hc + 1) (.prefetchExpansion t h)
      let s := if t = 64 then s else expandBound s t
      if r.isEmpty then wantNext s (flowCore s t) else s

/-- A target in no segment gives a kernel-format fault there: at the bundle of the stream that its task awaits in the loop
buffer, or after the stream (R92, R273). -/
def faultAt (x : Task) (target : Word) : Task :=
  if x.needs = some target then
    { x with needs := none, stream := x.stream.map fun b => if b.addr = target then { b with fault := some .kernel } else b }
  else { x with stream := x.stream ++ [faultBundle x target], nextSeq := x.nextSeq + 1, flow := { x.flow with hold := .halted } }

/-- BUFFER_MISS: the target lies in neither half: the current expansion is abandoned and the segment that contains
the target is expanded, or a target in no segment gives a kernel-format fault there (R79, R273). -/
def execBufferMiss (t k : Nat) (target : Word) (s : State) : Host.Outcome State Fault Refusal :=
  let c := nameCore t k
  whenever (look s c target == .miss) s fun s =>
    match findSegment s c (coreTask s c).kimg.toNat target.toNat with
    | some h => startExpand s c h
    | none => updCore s c fun x => faultAt x target

/-! ### ksync (R280) -/

/-- A half goes stale; one that is being expanded and is not the executing one is abandoned. -/
def staleHalf (exec : Nat) (x : Nat × Half) : Nat × Half :=
  if x.1 ≠ exec && !x.2.todo.isEmpty then (x.1, { x.2 with v := false, todo := [], entries := [] })
  else (x.1, { x.2 with stale := true })

/-- Whether some queue of a task has issued a word of bundle `n` or of a later one. -/
def issuedFrom (x : Task) (n : Nat) : Bool :=
  x.stream.any fun b => decide (n ≤ b.n) && b.slots.any fun w => decide (b.n < tget 0 x.qpos w.1.idx)

/-- A task before the bundle that enters a segment: what it had sequenced from there on is sequenced anew. Where that bundle is
a delay bundle its transfer still stands, or has issued and gives the bundle after it. -/
def unsequence (x : Task) (b : SeqBundle) : Task :=
  let after := (x.stream.find? fun c => c.n == b.n + 1).map (·.addr)
  let waits := b.delay && decide (tget 0 x.qpos Pos.A.idx < b.n)
  let hold : FlowHold := if waits then .transfer (b.n - 1) false else if b.delay then .issued else .run
  { x with stream := x.stream.filter (fun c => c.n < b.n), nextSeq := b.n, loops := b.loops,
           qpos := x.qpos.map fun p => (p.1, min p.2 b.n),
           flow := { next := b.addr, hold := hold, entries := b.entry - 1, afterTransfer := b.delay,
                     target := if b.delay && !waits then some (after.getD x.flow.next) else none } }

/-- A ksync of another task slot makes every segment that a task has yet to enter a buffer miss for it (R280). -/
def missAgain (x : Task) : Task :=
  match x.stream.find? fun b => b.enters && !issuedFrom x b.n with
  | some b => unsequence x b
  | none => x

/-- ksync: empties the code buffer and marks both halves of its own core stale, for every task slot that shares them (R280). -/
def execKsync (s : State) : Host.Outcome State Fault Refusal :=
  gate .ksync s fun s =>
    let c := s.cur.core
    let s := setHalves s c (coreExec s c) ((coreHalves s c).map (staleHalf (coreExec s c)))
    .issue (match c with
      | .tile t k =>
        updTile s t fun x =>
          { x with codeBuf := [], tasks := x.tasks.map fun y => if y.1 = k then y else (y.1, missAgain y.2) }
      | .bellows => s)

end Sys2Proof.Machine
end

