-- ==== Sys2Proof/Machine/Group.lean ====
section
/-! DEFINITION. Groups: placement and binding (spec/10 R227 to R230; spec/04 R89; spec/13 R275; spec/09 R215), fenced
members (R231, R243), retirement (R228, R232), and the end of a launch (spec/14 R285, R291). -/

namespace Sys2Proof.Machine

/-! ### Launch ends (R285) -/

/-- cseq rises over every launch that has ended (R281). -/
def riseCseq : Nat → Word32 → List Nat → Word32 × List Nat
  | 0, c, l => (c, l)
  | n + 1, c, l => if l.contains (c + 1).toNat then riseCseq n (c + 1) (l.filter (· != (c + 1).toNat)) else (c, l)

/-- The device's completion word of a launch, or of a rejected record: a global write that may fault unseen. -/
def completion (s : State) (ctx : Nat) (cwa : Word) (seq : Word32) (status : Nat) : State :=
  if cwa = 0 then s
  else match globalWrite s ctx cwa (leBytes 8 (seq.toNat + 2 ^ 32 * status)) with
    | .ok s => s
    | .error _ => s

/-- A launch ends with a status: its completion word, then cseq; an overrun ends with it (R285, R287). -/
def endLaunch (s : State) (g : Group) (status : Nat) : State :=
  let s := completion s g.ctx g.cwa g.seq status
  let s := { s with groups := s.groups.filter fun x => x.gid != g.gid }
  let late := s.groups.any fun x => x.queue == g.queue && x.overran
  updQueue s g.queue fun q =>
    let r := riseCseq (q.ended.length + 1) q.cseq (g.seq.toNat :: q.ended)
    { q with cseq := r.1, ended := r.2, overrun := q.overrun && late,
             dispatching := if g.st = .forming then false else q.dispatching }

/-- The status of a launch whose group ceases to exist otherwise than unplaced (R285). -/
def endStatus (g : Group) (destroyed : Bool) : Nat := if g.faulted then 1 else if destroyed then 3 else 0

/-! ### Tiles free for a group (R229) -/

/-- Whether an island's clocks run. -/
def islandRuns (s : State) (n : Nat) : Bool := (tget ({} : Island) s.islands n).run && (tget ({} : Island) s.islands n).act

/-- Whether a tile's health keeps placement away. -/
def healthBars (x : Tile) : Bool :=
  match x.health.st with
  | .sweeping | .fenced | .appealing | .retired => true
  | .accused => x.health.prior == .sweeping
  | .free | .bound | .running => false

/-- Whether a tile is free for a group of context `c` (R229). -/
def tileFree (s : State) (t c : Nat) (shared : Bool) : Bool :=
  let x := tileOf s t
  (x.ctx.isNone || x.ctx == some c) &&
  (([0, 1, 2, 3] : List Nat).any fun k => !(taskOf s t k).st.occupied) &&
  !healthBars x && islandRuns s t &&
  !(shared && x.tasks.any fun k => k.2.st.occupied)

/-- The tiles of a rectangle. -/
def rectTiles (x0 y0 w h : Nat) : List Nat :=
  (List.range (w * h)).map fun r => 8 * (y0 + r / w) + x0 + r % w

/-- The origins of a W × H rectangle in the mesh, the lowest tile number first. -/
def origins (w h : Nat) : List (Nat × Nat) :=
  (List.range 64).filterMap fun o => if o % 8 + w ≤ 8 && o / 8 + h ≤ 8 then some (o % 8, o / 8) else none

/-- The tile next in the sweep rotation, while the rotation runs (R359). -/
def nextSwept (s : State) : Option Nat := if s.sweep.en then some s.sweep.next else none

/-- The rectangle that the dispatcher chooses for a group (R229) (log 39: DEDUCED). -/
def chooseRect (s : State) (g : Group) : Option (Nat × Nat) :=
  let ok := (origins g.w g.h).filter fun o => (rectTiles o.1 o.2 g.w g.h).all fun t => tileFree s t g.ctx g.ssNeeded
  let clean := ok.find? fun o => (rectTiles o.1 o.2 g.w g.h).all fun t =>
    nextSwept s != some t && (tileOf s t).health.st != .accused
  match clean with
  | some o => some o
  | none => ok.head?

/-- Whether the mesh has a rectangle for a shape whose tiles are neither retired nor stopped by a bond-suspect event
(R291). -/
def shapeFits (s : State) (g : Group) : Bool :=
  (origins g.w g.h).any fun o => (rectTiles o.1 o.2 g.w g.h).all fun t =>
    (tileOf s t).health.st != .retired && !(tileOf s t).health.bond

/-- The tiles of a column that are not free for a group (R289). -/
def occ (s : State) (c : Nat) (shared : Bool) (x : Nat) : Nat :=
  ((List.range 8).filter fun y => !tileFree s (8 * y + x) c shared).length

/-- Whether some column is at or below the dispatch threshold (R289). -/
def columnRoom (s : State) (c : Nat) (shared : Bool) : Bool :=
  (List.range 8).any fun x => occ s c shared x ≤ wfld (srWord s 0x226) 0 4

/-! ### Binding (R88, R89, R215, R275) -/

/-- The fields of a kernel header (R271) that binding takes. -/
structure Header where
  marks : List Mark
  entry : Nat
  tdt : Word
  ntd : Word32
  rgt : Word
  nrg : BitVec 16
  deriving DecidableEq, Repr

/-- A loop mark's code (R271). -/
def markOf (n : Nat) : Mark := if n = 1 then .C else if n = 2 then .L else .T

/-- The header at an address as it reads now, sealed or not (R275). -/
def readHeader (s : State) (c : Nat) (kimg : Word) : Header :=
  let w := fun (i : Nat) => ((readVirtNat s (rootOf s c) (kimg + BitVec.ofNat 64 (8 * i)) 8).getD 0)
  { marks := (List.range 6).map fun l => markOf (nfld (w 0) (16 + 2 * l) 2), entry := nfld (w 0) 48 16,
    tdt := BitVec.ofNat 64 (w 2), ntd := BitVec.ofNat 32 (nfld (w 3) 0 32), rgt := BitVec.ofNat 64 (w 4),
    nrg := BitVec.ofNat 16 (nfld (w 3) 32 16) }

/-- The first bundle of the entry segment (R89, R272). -/
def entryBundle (s : State) (c : Nat) (kimg : Word) (h : Header) : Word :=
  let segt := (readVirtNat s (rootOf s c) (kimg + 8) 8).getD 0
  BitVec.ofNat 64 ((readVirtNat s (rootOf s c) (BitVec.ofNat 64 (segt + 8 * h.entry)) 8).getD 0 + 16)

/-- A newly bound task (R89); the global accesses that the slot's former task posted go on. -/
def boundTask (hc : Nat) (old : Task) (g : Group) (rank : Nat) (marks : List Mark) (entry : Word) : Task :=
  let s1 := rank % g.w + 2 ^ 16 * (rank / g.w) + 2 ^ 32 * g.w + 2 ^ 48 * g.h
  { st := .bound, sreg := [(1, BitVec.ofNat 64 s1), (2, g.args)], kimg := g.kimg &&& 0xFFFFFFFFFFFFFFC0, marks := marks,
    gid := some g.gid, rank := rank, gacc := old.gacc, gaccNext := old.gaccNext, gaccFirst := old.gaccNext, boundAt := hc,
    flow := { next := entry } }

/-- The step-shared descriptors of a region table, with their numbers, and the first at fault (R215): rejected, more
than eight, outside the step-shared slots, or overlapping an earlier one. -/
def sharedMap (s : State) (root : Word) (base : Word) (n sshare : Nat) : Table SsMap × Option Word :=
  (List.range n).foldl (fun acc i =>
    match readRegion s root (base + BitVec.ofNat 64 (64 * i)) with
    | some d =>
      if d.kind ≠ 1 || acc.2.isSome then acc
      else
        let e : SsMap := { v := true, rule := d.rule, carry := d.carry, ty := d.ty, first := d.first, cm1 := d.cm1, rgn := i }
        if !d.ok || 8 ≤ acc.1.length || sshare ≤ d.first + d.cm1 ||
            acc.1.any (fun m => m.2.first ≤ e.first + e.cm1 && e.first ≤ m.2.first + m.2.cm1) then (acc.1, some d.addr)
        else (acc.1 ++ [(acc.1.length, e)], none)
    | none => acc) ([], none)

/-- Whether a region table holds a step-shared descriptor (R229). -/
def holdsShared (s : State) (root base : Word) (n : Nat) : Bool :=
  (List.range n).any fun i =>
    match readRegion s root (base + BitVec.ofNat 64 (64 * i)) with
    | some d => d.kind == 1
    | none => false

/-- A tile as its first task is bound: the tag table is empty, the written bits are clear, and bytes of another
context are gone (R6, R169, R215, R308). -/
def freshTile (x : Tile) (c gid : Nat) : Tile :=
  { x with
    tags := [], gran := [], wellWritten := [], ssGid := some gid, ssmap := [], xp := {}, prev := some c,
    floor := if x.prev = some c then x.floor else [], wells := if x.prev = some c then x.wells else [] }

/-- Binds the task of one rank to the lowest free slot of its tile; the transposer keeps the blocks of another slot's
task (R127, R128; log 32: DEDUCED). -/
def bindMember (s : State) (g : Group) (h : Header) (entry : Word) (rank : Nat) : State :=
  let t := g.tile rank
  let first := !(tileOf s t).tasks.any fun k => k.2.st.occupied
  match ([0, 1, 2, 3] : List Nat).find? fun k => !(taskOf s t k).st.occupied with
  | none => s
  | some k =>
    let map := sharedMap s (rootOf s g.ctx) h.rgt h.nrg.toNat (tileOf s t).sshare
    let s := updTile s t fun x =>
      let x := if first then { freshTile x g.ctx g.gid with ssmap := map.1 } else x
      { x with
        ctx := some g.ctx, tdtbase := h.tdt &&& 0xFFFFFFFFFFFFFFC0, tdtlen := h.ntd,
        rgtbase := h.rgt &&& 0xFFFFFFFFFFFFFFC0, rgtlen := h.nrg,
        xp := { x.xp with mode := 0 },
        tasks := tset x.tasks k (boundTask s.hc (tget {} x.tasks k) g rank h.marks entry) }
    let s := updGroup s g.gid fun g => { g with slots := tset g.slots rank k }
    noteTable (refreshRole (expandBound s t) t) g.ctx h.rgt h.nrg.toNat

/-- The lowest group number that no present group has (R230) (log 41: DESIGN CHOICE). -/
def freeGid (s : State) : Option Nat := (List.range 64).find? fun n => !s.groups.any fun g => g.gid == n

/-- The region fault that the binding of a rank meets: the tile whose map it loads, and the descriptor (R215). -/
def bindFault (s : State) (g : Group) (h : Header) (rank : Nat) : Option (Nat × Word) :=
  let t := g.tile rank
  if (tileOf s t).tasks.any fun k => k.2.st.occupied then none
  else ((sharedMap s (rootOf s g.ctx) h.rgt h.nrg.toNat (tileOf s t).sshare).2).map fun a => (t, a)

/-- The region faults of a binding: the halt line reaches the group's tiles before their first issue (R215). -/
def raiseBindFaults (s : State) (g : Group) (fs : List (Nat × Word)) : State :=
  let s := fs.foldl (fun s f => raiseFault s g.ctx 0x38 (unitId f.1 13) f.2 false) s
  if fs.isEmpty then s
  else g.liveRanks.foldl (fun s r => scheduleOnce s (s.hc + 1) (.haltLineArrival g.ctx (g.tile r))) s

/-- Places a forming group on a rectangle (R228, R229). -/
def placeGroup (s : State) (g : Group) (o : Nat × Nat) (gid : Nat) : State :=
  let h := readHeader s g.ctx g.kimg
  let n := g.w * g.h
  let placed : Group :=
    { g with gid := gid, st := .placed, x0 := o.1, y0 := o.2, live := BitVec.ofNat 64 (2 ^ n - 1), placedNs := s.ts }
  let s := { s with groups := (s.groups.filter fun x => x.gid != g.gid) ++ [placed] }
  let s := updQueue s g.queue fun q => { q with dispatching := false }
  let s := updCtx s g.ctx fun c => { c with st := .running }
  let entry := entryBundle s g.ctx g.kimg h
  let fs := (List.range n).filterMap (bindFault s placed h)
  let s := (List.range n).foldl (fun s r => bindMember s placed h entry r) s
  raiseBindFaults (refreshGroup s gid) placed fs

/-- A group is removed unplaced (R291). -/
def removeUnplaced (s : State) (g : Group) : State := endLaunch s g 4

/-! ### Pre-emption requests (R105, R290, R295, R298) -/

/-- A task takes a pre-emption request; one parked on a barrier, an engine or a watermark is held at once (R88,
R105). -/
def requestTask (s : State) (t k : Nat) : State :=
  updTask s t k fun x =>
    let x := { x with preq := true }
    if x.st = .parked && x.wait.holds then { x with st := .held } else x

/-- The context is pre-empted: every task takes a request; the save is looked for from the next hc on. -/
def requestPreempt (s : State) (c : Nat) : State :=
  if (ctxOf s c).st != .running then s
  else
    let s := updCtx s c fun x => { x with st := .preempting }
    let s := (ctxTiles s c).foldl (fun s t =>
      [0, 1, 2, 3].foldl (fun s k => if (taskOf s t k).st.occupied then requestTask s t k else s) s) s
    scheduleOnce s (s.hc + 1) (.preemptSaveEnd c)

/-- PREEMPTION_REQUEST: the dispatcher requests pre-emption of a running context (R290, R298). -/
def execPreemptionRequest (c : Nat) (s : State) : Host.Outcome State Fault Refusal :=
  whenever ((ctxOf s c).st == .running) s fun s => requestPreempt s c

/-- Whether a group runs, so that its context may be pre-empted for its class (R290). -/
def Group.runs (g : Group) : Bool :=
  match g.st with
  | .running | .stepping | .degraded => true
  | .forming | .placed | .saved | .retiring => false

/-- The running group of lowest class below 3, of those the one placed last (R290). -/
def preemptVictim (s : State) : Option Group :=
  (s.groups.filter fun g => g.runs && g.cls != 3 && (ctxOf s g.ctx).st == .running).foldl
    (fun b g => match b with
      | none => some g
      | some x => if g.cls < x.cls || (g.cls == x.cls && x.placedNs ≤ g.placedNs) then some g else b) none

/-- While a class 3 group forms and every column is above the threshold, one pre-emption is requested at a time
(R290). -/
def pressPreempt (s : State) (g : Group) : State :=
  if g.cls ≠ 3 || columnRoom s g.ctx g.ssNeeded || s.contexts.any fun c => c.2.st == .preempting then s
  else match preemptVictim s with
    | some v => requestPreempt s v.ctx
    | none => s

/-! ### Placement (R229, R291) -/

/-- Whether a forming group's region table, as it reads now, holds a step-shared descriptor (R229, R275). -/
def groupShared (s : State) (g : Group) : Bool :=
  let h := readHeader s g.ctx g.kimg
  holdsShared s (rootOf s g.ctx) h.rgt h.nrg.toNat

/-- GROUP_PLACEMENT: a forming group is placed on the rectangle of R229, or looked at again in the next hc; a shape
that no rectangle can ever take is removed (R291). -/
def execGroupPlacement (g : Nat) (s : State) : Host.Outcome State Fault Refusal :=
  match groupOf s g with
  | none => .next s
  | some x =>
    if x.st != .forming then .next s
    else if !shapeFits s x then .next (removeUnplaced s x)
    else
      let x := { x with ssNeeded := groupShared s x }
      let s := updGroup s g fun _ => x
      let again := fun (s : State) => scheduleOnce s (s.hc + 1) (.groupPlacement g)
      let able := (ctxOf s x.ctx).st == .runnable || (ctxOf s x.ctx).st == .running
      match (if able then chooseRect s x else none), freeGid s with
      | some o, some gid => .next (placeGroup s x o gid)
      | _, _ => .next (again (pressPreempt s x))

/-- PLACEMENT_TIMEOUT: a group still forming sr.dthr.ptmo ms after its acceptance is removed (R291). -/
def execPlacementTimeout (g : Nat) (s : State) : Host.Outcome State Fault Refusal :=
  match groupOf s g with
  | none => .next s
  | some x =>
    let ptmo := wfld (srWord s 0x226) 8 16
    whenever (x.st == .forming && ((ptmo != 0 && decide (x.acceptedNs + ptmo * 1000000 ≤ s.ts)) || !shapeFits s x)) s
      fun s => removeUnplaced s x

/-! ### Leaving a tile -/

/-- The group that the step-shared space of a tile serves after a group has left it: that of the earliest-bound task
now present (R215). -/
def nextShareGroup (s : State) (t : Nat) : Option Nat :=
  ((s.groups.filter fun g => (List.range (g.w * g.h)).any fun r =>
      g.tile r == t && g.isLive r && (taskOf s t (g.slot r)).gid == some g.gid).foldl
    (fun b g => match b with
      | none => some g
      | some x => if g.placedNs < x.placedNs then some g else b) (none : Option Group)).map (·.gid)

/-- The tile after tasks have left it: without a task it belongs to no context (R228, R350). -/
def settleTile (s : State) (t : Nat) : State :=
  let s := refreshRole s t
  let x := tileOf s t
  if x.tasks.any fun k => k.2.st.occupied then
    (match x.ssGid.bind (groupOf s) with
     | some _ => s
     | none => updTile s t fun x => { x with ssGid := nextShareGroup s t, ssmap := [] })
  else updTile s t fun x => { x with ctx := none, ssGid := none, ssmap := [], hints := [] }

/-- A task slot is free again: its registers are zero, what it posted goes on (R88, R89). -/
def freeSlot (s : State) (t k : Nat) : State :=
  let s := if (tileOf s t).issuing = some k then leaveIssue s t else s
  updTask s t k fun x => { ({} : Task) with gacc := x.gacc.filter (fun a => !a.load), gaccNext := x.gaccNext }

/-! ### Retirement (R228, R232) -/

/-- Whether an operation that a member triggered has not ended, or an access it posted has not left its tile (R232)
(log 65: DEDUCED). -/
def memberBusy (s : State) (g : Group) (r : Nat) : Bool :=
  let t := g.tile r
  let k := g.slot r
  let x := tileOf s t
  (tget ({} : Task) x.tasks k).gid == some g.gid &&
  (x.cpy.any (fun e => e.2.cmds.any (fun c => c.task == k) ||
     e.2.follow.any fun f => f.2.1 == k) ||
   (tget ({} : Task) x.tasks k).gacc.any (fun a => !a.sent && ownAccess (tget ({} : Task) x.tasks k) a.n) ||
   x.cubeOps.any (fun o => o.task == k) || x.nib.any (fun q => q.task == k) || x.lnk.any fun c => c.task == k)

/-- Whether an operation that some member of a group triggered has not ended; a region request that a member fenced since
has made counts (R232). -/
def groupBusy (s : State) (g : Group) : Bool :=
  (List.range (g.w * g.h)).any (memberBusy s g) || (ctxOf s g.ctx).regs.any fun q => q.gid == some g.gid && !q.mgmt

/-- A retiring group ceases to exist once every operation has ended: its slots are free, its tiles go back, its launch
ends (R228, R285). -/
def retireGroup (s : State) (g : Group) : State :=
  let ranks := (List.range (g.w * g.h)).filter fun r => (taskOf s (g.tile r) (g.slot r)).gid == some g.gid
  let s := ranks.foldl (fun s r => freeSlot s (g.tile r) (g.slot r)) s
  let s := endLaunch s g (endStatus g false)
  let s := ranks.foldl (fun s r => settleTile s (g.tile r)) s
  if (ctxOf s g.ctx).st = .running && !s.groups.any (fun x => x.ctx == g.ctx && x.st != .forming) then
    updCtx s g.ctx fun c => { c with st := .runnable }
  else s

/-- Whether the tasks of a group stand in their tiles: a halt or a save has not taken them. -/
def groupStands (s : State) (g : Group) : Bool :=
  !groupSaved s g && g.liveRanks.all fun r => (taskOf s (g.tile r) (g.slot r)).st == .retired

/-- The retiring group that is looked at by a slot's TASK_RETIRE. -/
def retiringAt (s : State) (t k : Nat) : Option Group :=
  s.groups.find? fun g => g.st == .retiring && lookSlot g == (t, k) && groupStands s g

/-- GROUP_RETIREMENT: a retiring group is gone once the operations that its members triggered have all ended; until then it
is looked at in every hc (R228, R232). -/
def execGroupRetirement (g : Nat) (s : State) : Host.Outcome State Fault Refusal :=
  match groupOf s g with
  | none => .next s
  | some x =>
    whenever (x.st == .retiring && groupStands s x) s fun s =>
      if groupBusy s x then lookRetiring s x (s.hc + 1) else retireGroup s x

/-- A member's task has retired: it leaves the group's barriers (R232, R236). -/
def memberRetired (s : State) (t k : Nat) : State :=
  let x := taskOf s t k
  match x.gid with
  | none => s
  | some gid => checkRetiring (checkGroup (updGroup s gid fun g => { g with retiredRanks := x.rank :: g.retiredRanks }) gid) gid

/-! ### Fenced members (R231, R243) -/

/-- A barrier as a member is fenced: its arrival is discarded; it is in F of the open superstep (R218, R243). -/
def fenceBar (b : BarrierId) (v : Barrier) (r : Nat) : Barrier :=
  { v with arrived := v.arrived.filter (· != r), fencedIn := if b = .step then r :: v.fencedIn else v.fencedIn }

/-- An exchange that falls in this hc takes place before a fence that is declared in it (R243). -/
def exchangeFirst (s : State) (gid : Nat) : State :=
  if s.events.any fun p => p.ev == .stepExchange gid && decide (p.due ≤ s.hc) then
    exchangeStep (unschedule s (.stepExchange gid)) gid
  else s

/-- A member of a group is fenced (R231, R243): an intolerant group, or one below its fewest live members, faults
(log 58: DEDUCED). -/
def fenceMember (s : State) (gid r : Nat) : State :=
  let s := exchangeFirst s gid
  match groupOf s gid with
  | none => s
  | some g =>
    let live := g.live &&& ~~~(BitVec.ofNat 64 (2 ^ r))
    let st := match g.st with
      | .placed | .running => if g.tol then GroupSt.degraded else g.st
      | x => x
    let bars := (g.allBars.map fun b => (b, fenceBar b (g.bar b) r)).filter fun x => x.2 != ({} : Barrier)
    let g' : Group := { g with live := live, everFenced := true, st := st, bars := bars }
    let s := updGroup s gid fun _ => g'
    let s :=
      if !g.tol || g'.liveRanks.length < g.minlive then raiseFault s g.ctx 0x40 (unitId (g.tile 0) 12) 0 false else s
    checkRetiring (refreshGroup (checkGroup s gid) gid) gid

end Sys2Proof.Machine
end

