-- ==== Sys2Proof/Machine/Queue.lean ====
section
/-! DEFINITION. Queues: the ring and its control page (spec/14 R281, R282), launch records and their checks (R283 to
R285), life cycle (R286, R287), rotation (R288), admission (R289), dependences (R292), the timetable (R293 to R295). -/

namespace Sys2Proof.Machine

/-! ### The ring (R281, R282) -/

/-- The virtual address of record `i` of a ring (R281). -/
def recordAddr (q : Queue) (i : Word32) : Word := q.ring + BitVec.ofNat 64 (128 * (i.toNat % 2 ^ q.lring))

/-- Whether a queue has a head record (R281). -/
def Queue.hasHead (q : Queue) : Bool := q.tail != q.head

/-- The 128 bytes of a queue's head record; none where the ring does not translate. -/
def headRecord (s : State) (q : Queue) : Option (List Byte) :=
  if q.hasHead then readVirt s (rootOf s q.ctx) (recordAddr q q.head) 128 else none

/-- The queues of a context. -/
def ownedQueues (s : State) (c : Nat) : List Nat := (s.queues.filter fun x => x.2.owned && x.2.ctx == c).map (·.1)

/-- Word `i` of a record, 8 bytes each. -/
def recWord (bs : List Byte) (i : Nat) : Nat := leNat ((bs.drop (8 * i)).take 8)

/-- The sequence number of a record (R283). -/
def recSeq (bs : List Byte) : Word32 := BitVec.ofNat 32 (nfld (recWord bs 0) 32 32)
/-- The class of a record (R283). -/
def recClass (bs : List Byte) : Nat := nfld (recWord bs 0) 16 2
/-- The dependences of a record (R283, R292). -/
def recDeps (bs : List Byte) : List (Nat × Word32) :=
  (List.range (min 4 (nfld (recWord bs 0) 24 3))).map fun k =>
    (nfld (recWord bs (4 + k)) 0 12, BitVec.ofNat 32 (nfld (recWord bs (4 + k)) 32 32))

/-- Whether a dependence is met (R292): cseq − s, read as signed, is at least 0. -/
def depMet (s : State) (d : Nat × Word32) : Bool := !((queueOf s d.1).cseq - d.2).msb

/-- Whether the head record of a queue is due, with its dependences met (R286); a record that cannot be read is judged
by the checks. -/
def headDue (s : State) (q : Queue) : Bool :=
  match headRecord s q with
  | some bs => (q.timed || decide (recWord bs 3 ≤ s.ts)) && (recDeps bs).all (depMet s)
  | none => true

/-- The state code of a queue (R282, R286). -/
def queueCode (s : State) (q : Queue) : Nat :=
  if !q.en then 0 else if q.overrun then 6 else if q.dispatching then 4 else if !q.hw then 1
  else if !q.hasHead then 2 else if headDue s q then 3 else 5

/-! ### Admission (R289, R294, R295) -/

/-- The descriptor of the running slot's entry (R293). -/
def slotEntry (s : State) : Word := (s.slotRun.live.drop s.slotRun.idx).headD 0

/-- Whether the running timetable slot lets a timed queue's record in (R294, R295). -/
def slotAdmits (s : State) (n : Nat) : Bool :=
  let r := s.slotRun
  r.running && wfld (slotEntry s) 2 12 == n && !r.accepted && !r.heldBack &&
  (wbitAt (slotEntry s) 1 || !s.groups.any fun g => r.late.contains (g.queue, g.seq))

/-- Whether a record's region table holds a step-shared descriptor (R229). -/
def recShared (s : State) (q : Queue) (bs : List Byte) : Bool :=
  let h := readHeader s q.ctx (BitVec.ofNat 64 (recWord bs 1))
  holdsShared s (rootOf s q.ctx) h.rgt h.nrg.toNat

/-- Whether the dispatcher may admit queue `n` now (R286, R289); not while its previous launch is forming (R287). -/
def admissible (s : State) (n : Nat) : Bool :=
  let q := queueOf s n
  queueCode s q == 3 && (!q.timed || slotAdmits s n) && !(s.groups.any fun g => g.queue == n && g.st == .forming) &&
  (match headRecord s q with
   | some bs => recClass bs == 3 || columnRoom s q.ctx (recShared s q bs)
   | none => true)

/-- The place of a queue in the order of admission (R289): timed first, class 3 down to 0, ascending number. -/
def admitRank (s : State) (n : Nat) : Nat :=
  let q := queueOf s n
  let c := match headRecord s q with
    | some bs => recClass bs
    | none => 0
  4096 * ((if q.timed then 0 else 4) + (3 - c)) + n

/-- The queue that the dispatcher admits next. -/
def bestQueue (s : State) : Option Nat :=
  ((s.queues.map (·.1)).filter (admissible s)).foldl
    (fun b n => match b with
      | none => some n
      | some m => if admitRank s n < admitRank s m then some n else b) none

/-- Whether an event is an admission. -/
def isAdmission : Instr → Bool
  | .queueAdmission _ => true
  | _ => false

/-- The dispatcher looks for a record at the next 250 ns while a queue that holds a slot has one (R289). -/
def kickDispatch (s : State) : State :=
  if s.events.any fun e => isAdmission e.ev then s
  else
    match (match bestQueue s with
      | some n => some n
      | none => (s.queues.find? fun x => x.2.en && x.2.hw && x.2.hasHead).map (·.1)) with
    | some n => scheduleAt s ((s.ts / 250 + 1) * 250) (.queueAdmission n)
    | none => s

/-! ### The checks of a record (R283, R284) -/

/-- Whether a record's tag is that of the owning context's launch key (R284). -/
def tagMatches (s : State) (n : Nat) (q : Queue) (bs : List Byte) : Bool :=
  match (ctxOf s q.ctx).launchKey with
  | some k =>
    Config.gcmTag k (BitVec.ofNat 96 ((recSeq bs).toNat + 2 ^ 32 * n)) (bs.take 112) [] ==
      BitVec.ofNat 128 (leNat (bs.drop 112))
  | none => false

/-- Whether the fields of a record keep the layout of R283 (check 3). -/
def fieldsOk (bs : List Byte) : Bool :=
  let w := recWord bs 0
  let wh := (nfld w 0 3 + 1) * (nfld w 3 3 + 1)
  let ndep := nfld w 24 3
  nfld w 7 1 == 0 && nfld w 15 1 == 0 && nfld w 18 6 == 0 && nfld w 27 5 == 0 &&
  (nfld w 6 1 == 0 || (decide (1 ≤ nfld w 8 7) && decide (nfld w 8 7 ≤ wh))) && decide (ndep ≤ 4) &&
  (([0, 1, 2, 3] : List Nat).all fun k =>
    nfld (recWord bs (4 + k)) 12 20 == 0 && (decide (k < ndep) || recWord bs (4 + k) == 0)) &&
  (([9, 10, 11, 12, 13] : List Nat).all fun i => recWord bs i == 0) && recWord bs 8 % 8 == 0

/-- Whether the 64 KiB blocks from block `b` on are all sealed. -/
def blocksSealed (s : State) (root : Word) : Nat → Nat → Bool
  | _, 0 => true
  | b, n + 1 =>
    (match translate s root (BitVec.ofNat 64 (65536 * b)) false with
     | .here l => l.seal
     | _ => false) && blocksSealed s root (b + 1) n

/-- Whether `n` bytes at `a` are sealed. -/
def rangeSealed (s : State) (root : Word) (a n : Nat) : Bool :=
  n == 0 || (decide (a + n ≤ 2 ^ 48) && blocksSealed s root (a / 65536) ((a + n - 1) / 65536 + 1 - a / 65536))

/-- The bytes of the segment whose header stands at `a` (R272). -/
def segmentSize (s : State) (root : Word) (a : Nat) : Nat :=
  match readVirtNat s root (BitVec.ofNat 64 (a + 8)) 8 with
  | some w => 16 + nfld w 32 32 + (if nfld w 9 1 = 1 then 4 * (nfld w 0 8 + 1) else 0)
  | none => 16

/-- The segments that the segment-table entries from index `i` on name, by address and size (R271); an entry that cannot be
read gives none that lies anywhere. -/
def segmentsFrom (s : State) (root : Word) (segt : Nat) : Nat → Nat → List (Nat × Nat)
  | _, 0 => []
  | i, n + 1 =>
    (match readVirtNat s root (BitVec.ofNat 64 (segt + 8 * i)) 8 with
     | some a => (a, segmentSize s root a)
     | none => (2 ^ 48, 1)) :: segmentsFrom s root segt (i + 1) n

/-- Whether `n` bytes at `a` lie in a region. -/
def RegionDesc.holds (d : RegionDesc) (a n : Nat) : Bool :=
  decide (d.base.toNat ≤ a) && decide (a + n ≤ d.base.toNat + d.size.toNat)

/-- Check 4 of R284: the header keeps R271, its loop table has at most two C marks, and the one plain region that holds the
image is sealed (R276); that region is a descriptor of the image's own region table or of a table that the context has named
(log 55: DEDUCED). -/
def imageOk (s : State) (c : Nat) (kimg : Nat) : Bool :=
  let root := rootOf s c
  let w := fun (i : Nat) => (readVirtNat s root (BitVec.ofNat 64 (kimg + 8 * i)) 8).getD 0
  let marks := (List.range 6).map fun l => nfld (w 0) (16 + 2 * l) 2
  let nseg := nfld (w 0) 32 16
  kimg % 64 == 0 && rangeSealed s root kimg 64 && nfld (w 0) 0 16 == 1 && nfld (w 0) 28 4 == 0 &&
  !marks.contains 3 && decide ((marks.filter (· == 1)).length ≤ 2) && decide (1 ≤ nseg) &&
  decide (nfld (w 0) 48 16 < nseg) && w 1 % 8 == 0 && w 2 % 64 == 0 && w 4 % 64 == 0 && w 7 == 0 &&
  decide (nfld (w 3) 32 32 ≤ 65535) &&
  (let parts := [(kimg, 64), (w 1, 8 * nseg), (w 2, 64 * nfld (w 3) 0 32), (w 4, 64 * nfld (w 3) 32 32), (w 5, w 6)].filter
     (fun p => p.2 != 0) ++ segmentsFrom s root (w 1) 0 nseg
   parts.all (fun p => rangeSealed s root p.1 p.2) &&
   ((regionsFrom s root (BitVec.ofNat 64 (w 4)) 0 (nfld (w 3) 32 32)).map (·.2) ++ ctxRegions s c).any fun d =>
     d.kind == 0 && d.sealed && parts.all fun p => d.holds p.1 p.2)

/-- Whether a dependence names a queue of another context (check 5). -/
def foreignDep (s : State) (q : Queue) (d : Nat × Word32) : Bool := (queueOf s d.1).owned && (queueOf s d.1).ctx != q.ctx

/-- The reason for which the first failing check rejects a record (R284); 0 for none (log 56: DEDUCED). -/
def recordWhy (s : State) (n : Nat) (q : Queue) (bs : List Byte) : Nat :=
  if !tagMatches s n q bs then 1
  else if recSeq bs ≠ q.nseq then 2
  else if !fieldsOk bs then 3
  else if !imageOk s q.ctx (recWord bs 1) then 3
  else if (recDeps bs).any (foreignDep s q) then 4
  else 0

/-- A record is rejected (R284, R285): its queue is disabled, nothing of the record is acted on. -/
def rejectRecord (s : State) (n why : Nat) (bs : List Byte) : State :=
  let q := queueOf s n
  let s := updQueue s n fun q =>
    { q with head := q.head + 1, rej := q.rej + 1, en := false, why := why, hw := false }
  if why ≠ 1 && recWord bs 8 % 8 = 0 then completion s q.ctx (BitVec.ofNat 64 (recWord bs 8)) (recSeq bs) 2 else s

/-- A record is accepted (R284): its group is forming (R227) and the queue leaves its hardware slot (R287). -/
def acceptRecord (s : State) (n : Nat) (bs : List Byte) : State :=
  let q := queueOf s n
  let w := recWord bs 0
  let gid := 64 + n
  let g : Group :=
    { gid := gid, ctx := q.ctx, st := .forming, x0 := 0, y0 := 0, w := nfld w 0 3 + 1, h := nfld w 3 3 + 1,
      tol := nfld w 6 1 == 1, minlive := nfld w 8 7, live := 0, everFenced := false, slots := [], retiredRanks := [],
      nstep := 0, bars := [], queue := n, seq := recSeq bs, cls := recClass bs, kimg := BitVec.ofNat 64 (recWord bs 1),
      args := BitVec.ofNat 64 (recWord bs 2), cwa := BitVec.ofNat 64 (recWord bs 8), acceptedNs := s.ts, placedNs := 0,
      ssNeeded := recShared s q bs, slotIndex := if q.timed then some s.slotRun.idx else none, faulted := false,
      overran := false }
  let s := updQueue s n fun q =>
    { q with head := q.head + 1, nseq := q.nseq + 1, hw := false, dispatching := true }
  let s := { s with groups := s.groups ++ [g],
                    slotRun := if q.timed then { s.slotRun with accepted := true } else s.slotRun }
  let s := scheduleOnce s s.hc (.groupPlacement gid)
  let ptmo := wfld (srWord s 0x226) 8 16
  if ptmo = 0 then s else scheduleAt s (s.ts + 1000000 * ptmo) (.placementTimeout gid)

/-- QUEUE_ADMISSION: the dispatcher takes the head record of the ready queue that is first in order, checks it, and
accepts or rejects it (R284, R289). -/
def execQueueAdmission (q : Nat) (s : State) : Host.Outcome State Fault Refusal :=
  match bestQueue s with
  | none => .next (kickDispatch s)
  | some n =>
    if n ≠ q then .next (scheduleOnce s s.hc (.queueAdmission n))
    else
      let x := queueOf s n
      let bs := (headRecord s x).getD []
      let why := recordWhy s n x bs
      .next (kickDispatch (if why = 0 then acceptRecord s n bs else rejectRecord s n why bs))

/-! ### Commits (R282) -/

/-- The record window after the bytes written to it since the last doorbell, (offset, byte) pairs in their order; the
other bytes keep their values, which are 0 at reset (R282). -/
def fillWindow (q : Queue) (ws : List (Nat × Byte)) : List Byte :=
  ws.foldl (fun w p => w.set p.1 p.2) ((List.range 128).map fun i => q.window.getD i 0)

/-- The words at 0x088 and 0x090 of a queue's control page (R282). -/
def pageWord (s : State) (n off : Nat) : Word :=
  let q := queueOf s n
  if off = 0x088 then q.tail ++ q.head
  else if off = 0x090 then BitVec.ofNat 64 (q.cseq.toNat + 2 ^ 32 * queueCode s q + 2 ^ 35 * q.why) else 0

/-- QUEUE_DOORBELL: a doorbell write commits the record window (R282) (log 57: DEDUCED). -/
def execQueueDoorbell (q : Nat) (window : List (Nat × Byte)) (s : State) : Host.Outcome State Fault Refusal :=
  let x := { queueOf s q with window := fillWindow (queueOf s q) window }
  let room := x.en && decide ((x.tail - x.head).toNat < 2 ^ x.lring)
  whenever (decide (q < 4096)) s fun s =>
    let s := updQueue s q fun _ => x
    let lost := updQueue s q fun x => { x with rej := x.rej + 1 }
    if room then
      match globalWrite s x.ctx (recordAddr x x.tail) x.window with
      | .ok s => kickDispatch (updQueue s q fun x => { x with tail := x.tail + 1 })
      | .error _ => lost
    else lost

/-- NOT_BEFORE_TIME_REACHED: the not-before time of a head record has come, and the dispatcher looks at its queue
again (R286, R287). -/
def execNotBeforeTimeReached (q : Nat) (s : State) : Host.Outcome State Fault Refusal :=
  whenever (queueCode s (queueOf s q) == 3) s kickDispatch

/-! ### Rotation (R288) -/

/-- Whether an untimed queue has work (R288). -/
def hasWork (s : State) (n : Nat) : Bool :=
  let q := queueOf s n
  !q.timed && q.en && q.hasHead && !q.dispatching && headDue s q

/-- An untimed queue leaves its hardware slot (R288). -/
def releaseSlot (q : Queue) : Queue := if q.timed then q else { q with hw := false }

/-- ROTATION_BOUNDARY: the mapper releases the untimed queues' slots and maps up to 256 queues with work (R288). -/
def execRotationBoundary (s : State) : Host.Outcome State Fault Refusal :=
  let held : Table Queue := s.queues.map fun x => (x.1, releaseSlot x.2)
  let s : State := { s with queues := held }
  let work := (s.queues.map (·.1)).filter (hasWork s)
  let chosen := ((work.filter fun n => s.qrot ≤ n) ++ work.filter fun n => n < s.qrot).take 256
  let s := chosen.foldl (fun s n => updQueue s n fun q => { q with hw := true }) s
  let s := match chosen.getLast? with
    | some n => { s with qrot := (n + 1) % 4096 }
    | none => s
  .next (scheduleAt (unschedule (kickDispatch s) .rotationBoundary) ((s.ts / 100000 + 1) * 100000) .rotationBoundary)

/-! ### The timetable (R293 to R295) -/

/-- The entries of a cycle as they are written (R293). -/
def ttEntries (s : State) : List Word :=
  (List.range (wfld (srWord s 0x221) 3 10 + 1)).map fun i => tget 0 s.timetable i

/-- The length of an entry's slot. -/
def ttLen (e : Word) : Nat := wfld e 16 32

/-- Whether the timetable runs (R296). -/
def ttOn (s : State) : Bool := wbitAt (srWord s 0x221) 0

/-- The first slot among entries from index `i` on that starts at or after offset `off`, when entry `i` starts at
`at_`; the cycle's first slot where there is none. -/
def slotAfter (off : Nat) : Nat → Nat → List Word → Nat × Nat
  | _, at_, [] => (0, at_)
  | i, at_, e :: r => if off ≤ at_ then (i, at_) else slotAfter off (i + 1) (at_ + ttLen e) r

/-- Whether an event is a slot start of the timetable. -/
def isSlotStart : Instr → Bool
  | .timetableSlotStart _ => true
  | _ => false

/-- The entries of the running cycle: written ones act from the next cycle on (R293). -/
def runningEntries (s : State) : List Word :=
  let cur := if s.slotRun.nextAt.isSome then s.slotRun.live else []
  cur.take (ttEntries s).length ++ (ttEntries s).drop cur.length

/-- The timetable looks for its next slot start after its registers or the counter change (R293). -/
def retimeTable (s : State) : State :=
  let s := { s with events := s.events.filter fun e => !isSlotStart e.ev }
  let es := runningEntries s
  let p := (es.map ttLen).sum
  let t0 := (srWord s 0x224).toNat
  if !ttOn s || p = 0 then { s with slotRun := { s.slotRun with nextAt := none } }
  else
    let off := if s.ts ≤ t0 then 0 else (s.ts - t0) % p
    let base := if s.ts ≤ t0 then t0 else s.ts - off
    let n := slotAfter off 0 0 es
    scheduleAt { s with slotRun := { s.slotRun with nextAt := some (n.1, base + n.2), live := es } } (base + n.2)
      (.timetableSlotStart n.1)

/-- A count that saturates at 0xFFFF. -/
def satCount (n : BitVec 16) : BitVec 16 := satInc16 n

/-- A launch that has not ended at a slot start overruns (R295) (log 60: DEDUCED). -/
def overrunLaunch (s : State) (hard : Bool) (own : Nat) (g : Group) : State :=
  let s := updGroup s g.gid fun g => { g with overran := true }
  let s := updQueue s g.queue fun q => { q with overrun := true, ovr := q.ovr + 1 }
  let s := raiseLine { s with ttOvr := satCount s.ttOvr } 6
  if hard && g.queue != own then requestPreempt s g.ctx else s

/-- TIMETABLE_SLOT_START: a slot starts: the launches of earlier slots that have not ended overrun, and the entry's
queue takes a hardware slot (R293 to R295) (log 59: DEDUCED), whatever number of untimed queues hold one
(log 110: DESIGN CHOICE). -/
def execTimetableSlotStart (i : Nat) (s : State) : Host.Outcome State Fault Refusal :=
  match s.slotRun.nextAt with
  | none => .next s
  | some (j, t) =>
    if j ≠ i || !ttOn s then .next s
    else if s.ts < t then .next (scheduleAt s t (.timetableSlotStart i))
    else
      let live := if i = 0 then ttEntries s else s.slotRun.live
      let e := (live.drop i).headD 0
      let q := wfld e 2 12
      let empty := !wbitAt e 0 || decide (ttLen e < 1000) || !(queueOf s q).timed
      let hard := wbitAt e 1 && !empty
      let own := if empty then 4096 else q
      let late := s.groups.filter fun g => g.slotIndex.isSome && !g.overran
      let s := late.foldl (fun s g => overrunLaunch s hard own g) s
      let ends := t + ttLen e
      let next := if i + 1 < live.length then i + 1 else 0
      let stuck := (live.map ttLen).sum = 0
      let s := { s with slotRun :=
        { idx := i, running := true, accepted := false, heldBack := empty || (queueOf s q).overrun, ends := ends,
          nextAt := if stuck then none else some (next, ends), live := live,
          late := late.map fun g => (g.queue, g.seq) } }
      let s :=
        if empty then s
        else updQueue s q fun q => { q with hw := q.en && !q.overrun && !q.dispatching }
      let s := scheduleAt s ends (.timetableSlotEnd i)
      let s := if stuck then s else scheduleAt s ends (.timetableSlotStart next)
      .next (kickDispatch s)

/-- TIMETABLE_SLOT_END: the slot's queue leaves its hardware slot, and a slot in which nothing was accepted is counted
(R287, R294). -/
def execTimetableSlotEnd (i : Nat) (s : State) : Host.Outcome State Fault Refusal :=
  let r := s.slotRun
  if !(r.running && r.idx == i) then .next s
  else if s.ts < r.ends then .next (scheduleAt s r.ends (.timetableSlotEnd i))
  else
    let q := wfld (slotEntry s) 2 12
    let s := if (queueOf s q).timed then updQueue s q fun q => { q with hw := false } else s
    let s := { s with slotRun := { r with running := false } }
    .next (if r.accepted then s else raiseLine { s with ttMiss := satCount s.ttMiss } 6)

end Sys2Proof.Machine
end

