-- ==== Sys2Proof/Machine/Context.lean ====
section
/-! DEFINITION. The halt line and the stop records (spec/15 R303 to R305; spec/08 R209; spec/06 R160; spec/17 R344), the
save and the restore of a context (R308, R309; spec/10 R233), its end (R299). -/

namespace Sys2Proof.Machine

/-! ### Fixed-latency results whose write hc has come (R66, R68) -/

/-- Puts a result in order of its write hc, then of its bundle. -/
def insertWrite (w : PendWrite) : List PendWrite → List PendWrite
  | [] => [w]
  | v :: r => if w.due < v.due || (w.due == v.due && decide (w.order < v.order)) then w :: v :: r else v :: insertWrite w r

/-- A result is written; what its register held is noted for the reads that R74 leaves open
(log 12: DESIGN CHOICE). -/
def writeNoted (x : Task) (w : PendWrite) : Task :=
  let y := writeDest x w.dest w.val
  match w.dest.reg with
  | some r => { y with recent := tmod [] x.recent (Reg.key r) ((w.pos, regValue x r) :: ·) }
  | none => y

/-- The task after every result whose write hc has come is written, equal write hc in bundle order (R68). -/
def writeDue (hc : Nat) (x : Task) : Task :=
  let ws := (x.pend.filter fun w => w.due ≤ hc).foldl (fun l w => insertWrite w l) []
  let y := ws.foldl (fun x w => writeNoted x w) x
  { y with pend := x.pend.filter fun w => hc < w.due }

/-! ### The halt line reaches a tile (R303 to R305) -/

/-- A task slot stops: results whose write hc lies later stay in its pending-write list with the latency that remains
(R304); a pre-emption request ends (R305). A bound task leaves the bound state (R228). -/
def stopTask (s : State) (t k : Nat) : State :=
  let x := taskOf s t k
  if !x.st.occupied || x.st == .stopped then s
  else
    let s := if (tileOf s t).issuing = some k then updTile s t fun y => { y with issuing := none, freedAt := s.hc } else s
    let s := updTask s t k fun x =>
      let x := writeDue s.hc x
      { x with st := .stopped, stSave := x.st, preq := false, stall := none,
               pend := x.pend.map fun w => { w with due := w.due - s.hc } }
    match x.gid with
    | some g => refreshGroup s g
    | none => s

/-- The stop record of a copy command (R209): its resume offset, with the bytes on their way to global memory; a returning
atomic that was sent stays outstanding. Slots that it was
filling or evicting are lost, and nothing that landed in one is left (R170). -/
def stopCmd (c : CopyCmd) : CopyCmd :=
  if c.st = .queued || c.sent then c
  else
    let landed := if c.claimed.isEmpty then c.landed else 0
    { c with st := .queued, fetched := landed, landed := landed, bytes := if c.dsp = 0 then c.bytes else [], claimed := [],
             prog := if 1 ≤ c.op && c.claimed.isEmpty then c.prog else [], part := if c.claimed.isEmpty then c.part else [],
             poison := c.poison || c.evict, lat := if c.evict then tset c.lat 0 (setBit (latchIn c.lat 0) 21 false) else c.lat }

/-- The copy engines of a tile stop, and their hints are dropped (R207, R209). -/
def stopCopies (s : State) (t : Nat) : State :=
  [0, 1, 2, 3].foldl (fun s e =>
    let g : CopyEng := tget {} (tileOf s t).cpy e
    let s := g.cmds.foldl (fun s c =>
      let s := c.claimed.foldl (fun s v => loseSlot s v.1 v.2) s
      match evictingSlot (tileOf s t) e c with
      | some v => loseSlot s t v
      | none => s) s
    let s := match g.hint.bind (·.slot) with
      | some slot => loseSlot s t slot
      | none => s
    updTile s t fun x => { x with cpy := tmod {} x.cpy e fun (g : CopyEng) =>
      { g with cmds := g.cmds.map stopCmd, hint := none } }) s

/-- An abandoned cube operation as its record holds it: its trigger's snapshot (R160). -/
def abandonedOp (o : CubeOp) : CubeOp :=
  { n := o.n, trig := o.trig, origin := o.origin, task := o.task, snap := o.snap, st := .abandoned, pass := o.pass,
    passes := o.passes, layers := o.layers, marks := o.marks, entry := o.entry, addr := o.addr,
    acceptedAt := o.acceptedAt, after := o.after }

/-- Whether a halt abandons an operation: one before draining, and a drain whose tile has lost its path (R160, R365). -/
def haltDrops (s : State) (t : Nat) (o : CubeOp) : Bool := o.st.early || o.st == .draining && drainLost s t o

/-- The cube abandons the operations that a halt ends; a later pass comes again from its predecessor (R136, R160). -/
def stopCube (s : State) (t : Nat) : State :=
  let ops := (tileOf s t).cubeOps
  let early := ops.filter (haltDrops s t)
  let keep := ops.filter fun o => !haltDrops s t o || !(early.any (fun p => p.trig == o.trig && decide (p.pass < o.pass)))
  let kept := keep.map fun o => if haltDrops s t o then abandonedOp o else o
  let s := early.foldl (fun s o => loseSlots s t (opSlots (tileOf s t) o)) s
  updTile s t fun x => { x with cubeOps := kept }

/-- The stop records of a tile, by unit kind, are stamped with the timestamp counter at the stop (R303, R306). -/
def stampStops (x : Tile) (ts : Nat) : Tile :=
  { x with stamps := (List.range 12).foldl (fun m u =>
      if (m.any fun e => e.1 == u) || (decide (u < 4) && !(tget ({} : Task) x.tasks u).st.occupied) then m else tset m u ts) x.stamps }

/-- The stamp of a unit's stop record, in the order of R306. -/
def stopStamp (s : State) (t u : Nat) : Nat × Nat := (tget 0 (tileOf s t).stamps u, unitId t u)

/-- Every agent of a tile stops (R303). -/
def stopTile (s : State) (t : Nat) : State :=
  let s := [0, 1, 2, 3].foldl (fun s k => stopTask s t k) s
  let s := stopCube (stopCopies s t) t
  updTile s t fun x => stampStops { x with hints := [] } s.ts

/-- HALT_LINE_ARRIVAL: from this hc on no slot queue of the tile issues a word of the context, and every engine stops
with its record (R303 to R305). -/
def execHaltLineArrival (c t : Nat) (s : State) : Host.Outcome State Fault Refusal :=
  whenever ((ctxOf s c).st == .halting && (ctxOf s c).haltTiles.contains t) s fun s =>
    let s := stopTile s t
    updCtx s c fun x => { x with haltTiles := x.haltTiles.filter (· != t) }

/-! ### Closing the records (R209, R303, R344) -/

/-- The tile of a sender. -/
def Sender.onTile (t : Nat) : Sender → Bool
  | .slot t' _ _ | .engine t' _ _ | .port t' _ => t' == t
  | .walk _ | .device => false

/-- Whether an answer that an agent of a tile awaits is still to come; a load's is not waited for (R303). -/
def answerOpen (s : State) (t : Nat) : Bool := s.peers.any fun p => p.2.waiting.any fun w =>
  w.sender.onTile t && (match w.sender with
    | .slot _ k n => !(taskOf s t k).gacc.any fun a => a.n == n && a.load
    | _ => true)

/-- Whether a returning atomic of a tile is outstanding. -/
def atomOpen (x : Tile) : Bool :=
  x.cpy.any fun e => e.2.cmds.any fun c => c.atomic && c.sent && c.answered.isNone && !c.unanswered

/-- Whether a record of a tile is still open (R303): a drain under way, a store on its way, a reply, an
acknowledgement. -/
def recordOpen (s : State) (t : Nat) : Bool :=
  let x := tileOf s t
  x.cubeOps.any (fun o => o.st == .draining && !drainLost s t o || o.st == .complete) || !x.stores.isEmpty || atomOpen x || answerOpen s t ||
  !x.lnkTail.isEmpty || x.lnk.any (fun c => !c.pendingSeqs.isEmpty) || x.tasks.any fun k => k.2.gacc.any fun a => !a.load

/-- A context is destroyed: its keys are erased, its queues disabled, and the scrub begins (R298, R299). -/
def beginScrub (s : State) (c : Nat) : State :=
  let s := updCtx s c fun x =>
    { x with st := .destroyed, keys := [], save := [], restorePending := false, preempted := false, regs := [] }
  let s := (ownedQueues s c).foldl (fun s q => updQueue s q fun x => { x with en := false, why := 0, hw := false }) s
  scheduleOpen s (.scrubEnd c)

/-- STOP_RECORD_CLOSE: the context is halted once every stop record is closed (R298, R303, log 61: DEDUCED), and line 5
rises (R374); a drain that has lost its path since is abandoned (R365); one that is being destroyed goes on to its scrub and is
never halted (R298). -/
def execStopRecordClose (c : Nat) (s : State) : Host.Outcome State Fault Refusal :=
  let x := ctxOf s c
  if x.st != .halting then .next s
  else if !x.haltTiles.isEmpty || (ctxTiles s c).any (recordOpen s) then
    .next (scheduleOnce s (s.hc + 1) (.stopRecordClose c))
  else
    let s := (ctxTiles s c).foldl stopCube s
    .next (if x.destroyAfter then beginScrub (updCtx s c fun x => { x with closing := false }) c
      else raiseLine (updCtx s c fun x => { x with st := .halted, closing := false }) 5)

/-! ### The save (R308) -/

/-- Whether a floor slot is saved: valid, pinned or step-shared. -/
def slotSaved (x : Tile) (slot : Nat) : Bool :=
  let e : TagEntry := tget {} x.tags slot
  e.st == .valid || e.st == .pinned || decide (512 - x.sshare ≤ slot)

/-- What the save area keeps of a tile (R308). -/
def tileImage (x : Tile) : Tile :=
  { x with
    floor := x.floor.filter fun b => slotSaved x (slotOf b.1), wells := x.wells.filter fun b => x.wellWritten.contains (b.1 / 16384),
    tags := x.tags.filter fun e => e.2.st == .valid || e.2.st == .pinned, stores := [], halves := [], codeBuf := [],
    tdCache := [], utlb := [], hints := [],
    tasks := x.tasks.map fun k => (k.1, { k.2 with gacc := k.2.gacc.filter fun a => a.load }) }

/-- The tile as a saved context leaves it: free, its counters kept; stores on their way to other packages go on. -/
def leftTile (x : Tile) : Tile :=
  { x with
    ctx := none, issuing := none, tags := [], gran := [], ssmap := [], ssGid := none, wm := [], cubeOps := [], nib := [],
    xp := {}, lnk := [], lnkTail := [], hints := [], halves := [], codeBuf := [], tdCache := [], wellWritten := [], stamps := [],
    cpy := x.cpy.map fun e => (e.1, { nextId := e.2.nextId, nextElem := e.2.nextElem }),
    tasks := x.tasks.map fun k => (k.1, { gacc := k.2.gacc.filter fun a => !a.load, gaccNext := k.2.gaccNext }) }

/-- What the package awaits for the loads and the engines of a tile is forgotten: a restore asks again (R209, R309). -/
def forgetAnswers (s : State) (t : Nat) : State :=
  let keep := fun (w : Waiting) => !(w.sender.onTile t) || (match w.sender with
    | .slot _ k n => (taskOf s t k).gacc.any fun a => a.n == n && !a.load
    | _ => false)
  let ps : Table PeerState := s.peers.map fun p => (p.1, { p.2 with waiting := p.2.waiting.filter keep })
  { s with peers := ps }

/-- The state of a group as its context is saved: one whose members have all retired goes on retiring after the restore, and
the tasks of a placed one have left the bound state as they stopped (R227, R228, log 97: DEDUCED). -/
def GroupSt.atSave : GroupSt → GroupSt
  | .running | .stepping | .degraded | .saved => .saved
  | x => x

/-- Whether an event is work of a tile's slots and engines, or of a group's barriers, which a save takes over: the restore sets it
out again (R308, R309). -/
def takenBySave (tiles gids : List Nat) : Instr → Bool
  | .probeWalkEnd t _ _ | .atomicRetryExpiry t _ _ | .copyLanding t _ _ | .awPortApply t _ | .copyStart t _ | .copyComplete t _
  | .followOnCube t _ | .cubeResolution t _ | .cubeChunkFillEnd t _ _ | .cubeStagingEnd t _ | .cubeRunStart t _
  | .cubeRunEnd t _ | .cubeRiseEnd t _ | .cubeDrainStart t _ | .cubeDrainEnd t _ | .nibResolution t _
  | .nibRequestComplete t _ | .tpopResult t _ | .globalLoadReply t _ _ | .linkCommandTake t => tiles.contains t
  | .stepExchange g | .barrierRelease g _ | .barComplete g _ | .barrierDrainEnd g _ => gids.contains g
  | _ => false

/-- The groups that the save of a context has taken. -/
def savedGroups (s : State) (c : Nat) : List Group := s.groups.filter fun g => g.ctx == c && g.st != .forming

/-- A save writes the context's state into its save area and gives the tiles back (R298, R308). -/
def saveContext (s : State) (c : Nat) : State :=
  let tiles := ctxTiles s c
  let s := tiles.foldl stopTile s
  let images := tiles.map fun t => (⟨t, tileImage (tileOf s t)⟩ : SavedTile)
  let s := tiles.foldl (fun s t => refreshRole (updTile (forgetAnswers s t) t leftTile) t) s
  let gids := (savedGroups s c).map (·.gid)
  let gs := s.groups.map fun g => if g.ctx = c then { g with st := g.st.atSave } else g
  updCtx { s with groups := gs, events := s.events.filter fun e => !takenBySave tiles gids e.ev } c fun x => { x with st := .saved, save := images }

/-- Whether a task of a pre-empting context has reached its point (R105, R308). -/
def atPoint (x : Task) : Bool :=
  match x.st with
  | .held | .retired | .free | .stopped => true
  | .bound | .ready | .issuing | .parked => false

/-- Whether a cube operation has not completed: a pre-emption abandons none (R149, R160, R308). -/
def cubeOpen (x : Tile) : Bool := x.cubeOps.any fun o =>
  match o.st with
  | .accepted | .resolving | .staging | .staged | .running | .rising | .awaiting | .draining | .complete => true
  | .failed | .abandoned => false

/-- Whether a tile of a pre-empting context still keeps its save waiting (R308, R344). -/
def saveHeld (s : State) (t : Nat) : Bool :=
  let x := tileOf s t
  x.tasks.any (fun k => !atPoint k.2) || cubeOpen x || !x.stores.isEmpty || atomOpen x ||
  !x.lnkTail.isEmpty || x.lnk.any (fun c => !c.pendingSeqs.isEmpty) || x.tasks.any fun k => k.2.gacc.any fun a => !a.sent

/-- Whether a tile has an outstanding atomic of a held task (R209). -/
def heldAtom (x : Tile) : Bool :=
  x.cpy.any fun e => e.2.cmds.any fun c =>
    c.atomic && c.sent && c.answered.isNone && !c.unanswered && (tget ({} : Task) x.tasks c.task).st == .held

/-- PREEMPT_SAVE_END: a pre-empting context is saved once every task is held and every staged and running cube
operation has completed (R298, R308); its groups are placed again when their tiles are free (R290). -/
def execPreemptSaveEnd (c : Nat) (s : State) : Host.Outcome State Fault Refusal :=
  if (ctxOf s c).st != .preempting then .next s
  else if (ctxTiles s c).any (saveHeld s) then
    let s := if (ctxTiles s c).any fun t => heldAtom (tileOf s t) then
        scheduleOnce s (s.hc + usToHc 100) (.preemptAtomicTimeout c) else s
    .next (scheduleOnce s (s.hc + 1) (.preemptSaveEnd c))
  else
    let s := updCtx (saveContext s c) c fun x => { x with restorePending := true, preempted := true }
    .next (scheduleOnce s (s.hc + 2) (.restorePlacement c))

/-- PREEMPT_ATOMIC_TIMEOUT: an atomic of a held task not answered within 100 µs is saved unanswered (R209). -/
def execPreemptAtomicTimeout (c : Nat) (s : State) : Host.Outcome State Fault Refusal :=
  whenever ((ctxOf s c).st == .preempting) s fun s =>
    (ctxTiles s c).foldl (fun s t => updTile s t fun x =>
      { x with cpy := x.cpy.map fun e => (e.1, { e.2 with cmds := e.2.cmds.map fun c =>
          if c.atomic && c.sent && c.answered.isNone && (tget ({} : Task) x.tasks c.task).st == .held then
            { c with unanswered := true } else c }) }) s

/-! ### The restore (R233, R309) -/

/-- Whether a tile is lost to a saved member (R233). -/
def tileLost (s : State) (t : Nat) : Bool := (tileOf s t).health.st == .fenced || (tileOf s t).health.st == .retired

/-- Whether every tile that a restore needs is free for its group (R233). -/
def tilesFree (s : State) (c : Nat) : Bool :=
  (savedGroups s c).all fun g => g.liveRanks.all fun r => tileLost s (g.tile r) || tileFree s (g.tile r) c g.ssNeeded

/-- Whether a restore that follows a pre-emption leaves the tiles to what pre-empted it (log 42: DEDUCED): a class 3 group or one
of the timetable that forms, or a hard slot under way. -/
def restoreYields (s : State) (c : Nat) : Bool :=
  (ctxOf s c).preempted &&
  (s.groups.any (fun g => g.st == .forming && (g.cls == 3 || g.slotIndex.isSome) &&
      ((ctxOf s g.ctx).st == .runnable || (ctxOf s g.ctx).st == .running)) ||
   (s.slotRun.running && wbitAt (slotEntry s) 0 && wbitAt (slotEntry s) 1 && !s.slotRun.heldBack &&
    (queueOf s (wfld (slotEntry s) 2 12)).ctx != c))

/-- The state a restored slot comes back in (R88): one without a task stays free, retired stays, a wait is resumed, all else is ready. -/
def restoredSt (x : Task) : TaskSt :=
  match x.st, x.stSave with
  | .free, _ => .free
  | _, .retired => .retired
  | _, _ => if x.wait = .none then .ready else .parked

/-- A saved task as it comes back; its queues may issue from hc `at_`. -/
def restoredTask (at_ : Nat) (x : Task) : Task :=
  { x with st := restoredSt x, readyAt := at_ - 2, qlast := [], boundAt := at_,
           gacc := x.gacc.map fun a => { a with sent := false },
           pend := x.pend.map fun w => { w with due := at_ + w.due } }

/-- A saved command as it comes back (R209): an atomic saved unanswered may be sent again (log 62: DEDUCED). -/
def restoredCmd (c : CopyCmd) : CopyCmd := if c.unanswered then { c with unanswered := false, tries := 0 } else c

/-- A tile takes back what was saved of it (log 63: DEDUCED). -/
def restoreTile (s : State) (c at_ : Nat) (v : SavedTile) : State :=
  let y := v.image
  let s := updTile s v.tile fun x =>
    { x with
      ctx := some c, prev := some c, floor := y.floor, wells := y.wells, wellWritten := [], tags := y.tags, gran := y.gran,
      ssmap := y.ssmap, ssGid := y.ssGid, wm := y.wm, cubeOps := y.cubeOps, nib := y.nib, xp := y.xp, lnk := y.lnk,
      cubeDone := y.cubeDone, tdtbase := y.tdtbase, tdtlen := y.tdtlen, rgtbase := y.rgtbase, rgtlen := y.rgtlen,
      tasks := y.tasks.map fun k =>
        (k.1, let z : Task := restoredTask at_ k.2
              let old : Task := tget {} x.tasks k.1
              { z with gacc := old.gacc ++ z.gacc, gaccNext := max old.gaccNext z.gaccNext,
                       aliens := if z.gaccNext < old.gaccNext then (z.gaccNext, old.gaccNext) :: z.aliens else z.aliens }),
      cpy := y.cpy.map fun e =>
        (e.1, { e.2 with nextId := (tget ({} : CopyEng) x.cpy e.1).nextId, nextElem := (tget ({} : CopyEng) x.cpy e.1).nextElem, cmds := e.2.cmds.map restoredCmd }) }
  let s := refreshRole s v.tile
  if (tileOf s v.tile).tasks.any fun k => k.2.st == .ready then scheduleLate s s.hc 2 (.issueSelection v.tile) else s

/-- A restore places the groups on their rectangles and writes everything back; a member whose tile is lost is fenced
(R233, R309). The queues may issue two hc later, the same hc on every tile. -/
def placeRestored (s : State) (c : Nat) : State :=
  let x := ctxOf s c
  let lost := (savedGroups s c).flatMap fun g => (g.liveRanks.filter fun r => tileLost s (g.tile r)).map fun r => (g.gid, r)
  let s := (x.save.filter fun v => !tileLost s v.tile).foldl (fun s v => restoreTile s c (s.hc + 2) v) s
  let gs := s.groups.map fun g =>
    if g.ctx = c && g.st == .saved then
      { g with st := if g.everFenced then .degraded else .running, placedNs := s.ts }
    else g
  let s := updCtx { s with groups := gs } c fun x =>
    { x with st := .running, save := [], restorePending := false, preempted := false, faulted := false, code := 0, trap := 0, src := 0,
             prec := false, addr := 0, fts := 0, more := 0, closing := false }
  let s := lost.foldl (fun s g => fenceMember s g.1 g.2) s
  schedule s (s.hc + 2) (.restoreResume c)

/-- RESTORE_PLACEMENT: a pending restore takes place in the hc in which the last tile that it needs is free (R233,
R298). -/
def execRestorePlacement (c : Nat) (s : State) : Host.Outcome State Fault Refusal :=
  if !((ctxOf s c).st == .saved && (ctxOf s c).restorePending) then .next s
  else if !tilesFree s c || restoreYields s c then .next (scheduleOnce s (s.hc + 1) (.restorePlacement c))
  else .next (placeRestored s c)

/-- Values that arrived in the pending-write list with no latency left are written now, and their registers are full
(R303, R309). -/
def resumeLoads (s : State) (t k : Nat) : State :=
  let due := (taskOf s t k).pend.filter fun w => w.due ≤ s.hc
  due.foldl (fun s w =>
    let s := updTask s t k fun x => { x with pend := x.pend.filter fun v => v != w }
    match w.dest.reg with
    | some r => fillReg s (.tile t k) r fun x => writeDest x w.dest w.val
    | none => updTask s t k fun x => writeDest x w.dest w.val) s

/-- The engines of a restored tile go on (R209, R309); pops of a complete block, for which no remaining latency is kept,
are written at once (log 105: DEDUCED); every abandoned operation is accepted again, whatever its layers (log 113: DESIGN CHOICE). -/
def resumeEngines (s : State) (t : Nat) : State :=
  let s := [0, 1, 2, 3].foldl (fun s e =>
    let g : CopyEng := tget {} (tileOf s t).cpy e
    let atoms := g.cmds.filter fun c => c.atomic && c.sent
    let s := atoms.foldl (fun s c =>
      match c.answered with
      | some (res, old, comb) => endAtomic s t e c res old comb
      | none => sendAtomic s t e c true) s
    let s := scheduleOnce s (s.hc + 1) (.copyStart t e)
    let head := (tget ({} : CopyEng) (tileOf s t).cpy e).cmds.head?
    let s := match head with
      | some c => if !c.atomic && decide (c.total ≤ c.landed) then scheduleOnce s s.hc (.copyComplete t e) else s
      | none => s
    if !g.follow.isEmpty then scheduleOnce s s.hc (.followOnCube t e) else s) s
  let s := updTile s t fun x => { x with cubeOps := x.cubeOps.map fun o =>
    if o.st = .abandoned then { o with st := .accepted, acceptedAt := s.hc } else o }
  let s := (tileOf s t).cubeOps.foldl (fun s o =>
    if o.st = .accepted then scheduleOnce s (s.hc + 1) (.cubeResolution t o.n) else s) s
  let s := updTile s t fun x => { x with nib := x.nib.map fun r => { r with resolved := false } }
  let s := (tileOf s t).nib.foldl (fun s r => scheduleOnce s (s.hc + 1) (.nibResolution t r.id)) s
  let s := schedulePops s t (tileOf s t).xp.pops
  if (tileOf s t).lnk.isEmpty then s else scheduleOnce s (s.hc + 1) (.linkCommandTake t)

/-- A task of a restored context goes on: its loads and probes are issued again, its results are written at their hc, each by an
event of the kind that writes a bundle's results (R304, R309) (log 3: DESIGN CHOICE). -/
def resumeTask (s : State) (t k : Nat) : State :=
  let s := resumeLoads s t k
  let x := taskOf s t k
  let s := x.pend.foldl (fun s w => schedule s w.due (.fixedLatencyWrite t k)) s
  let s := updTask s t k fun x => { x with probes := x.probes.map fun p => { p with cur := p.start, hops := 0 } }
  let s := x.probes.foldl (fun s p => schedule s s.hc (.probeWalkEnd t k p.n)) s
  kickGlobal s t k

/-- The barriers of a restored group go on (R247): one that had gathered and drained exchanges or ends at the hc of R242, at once
where that has passed (log 121: DESIGN CHOICE). -/
def resumeBars (s : State) (g : Group) : State :=
  let s := g.allBars.foldl (fun s b =>
    match (g.bar b).st, b with
    | .draining, _ => scheduleOnce s s.hc (.barrierDrainEnd g.gid b)
    | .exchanging, _ => scheduleOnce s (max s.hc (g.bar b).due) (.stepExchange g.gid)
    | .releasing, .step | .releasing, .rdv => scheduleOnce s (max s.hc (g.bar b).due) (.barrierRelease g.gid b)
    | .releasing, _ => scheduleOnce s (max s.hc (g.bar b).due) (.barComplete g.gid b)
    | .idle, _ | .gathering, _ => s) s
  checkRetiring (checkGroup s g.gid) g.gid

/-- RESTORE_RESUME: at t_r everything of the context goes on, on every tile in the same hc (R309). -/
def execRestoreResume (c : Nat) (s : State) : Host.Outcome State Fault Refusal :=
  whenever ((ctxOf s c).st == .running) s fun s =>
    let tiles := ctxTiles s c
    let s := tiles.foldl (fun s t => [0, 1, 2, 3].foldl (fun s k => resumeTask s t k) s) s
    let s := tiles.foldl resumeEngines s
    let s := (s.groups.filter fun g => g.ctx == c && g.st != .forming).foldl resumeBars s
    tiles.foldl checkWaits s

/-- PENDING_WRITE_APPLY: a pending-write entry with remaining latency r is written at hc t_r + r (R309). -/
def execPendingWriteApply (t k : Nat) (s : State) : Host.Outcome State Fault Refusal :=
  whenever ((taskOf s t k).st.occupied && (taskOf s t k).st != .stopped) s fun s => updTask s t k (writeDue s.hc)

/-! ### The end of a context (R285, R299) -/

/-- Zeroes a tile that a destroyed context held, and frees it. -/
def scrubTile (s : State) (t : Nat) : State :=
  let s := forgetAnswers s t
  let s := updTile s t fun x =>
    let y := leftTile x
    { y with floor := [], wells := [], prev := none, stores := [], raceOld := [], raceSt := [],
             tasks := y.tasks.map fun k => (k.1, { gaccNext := k.2.gaccNext }) }
  refreshRole s t

/-- The bytes that a context left in tiles which are free again are zeroed with it (R6, R299). -/
def scrubLeft (s : State) (c : Nat) : State :=
  { s with tiles := s.tiles.map fun x =>
      if x.2.ctx.isNone && x.2.prev == some c then (x.1, { x.2 with floor := [], wells := [], prev := none }) else x }

/-- The pages of a destroyed context start to go back (R299, R326) (log 64: DEDUCED). -/
def scrubPages (s : State) (c : Nat) : State :=
  let fs := s.frames.filter fun f => f.2.ctx == c && (f.2.st == .mapped || f.2.st == .exported || f.2.st == .zeroing)
  fs.foldl (fun s f =>
    let s := writePte s f.2.leaf (setBit (BitVec.ofNat 64 (mword s.hbm f.2.leaf 8)) 0 false)
    let s := bumpFrame s f.1 c f.2.va
    scheduleOpen (updFrame s f.1 fun f => { f with st := .invalidating }) (.frameFreed f.1)) s

/-- Drops every cached translation of a context. -/
def dropCtxXlat (s : State) (c : Nat) : State :=
  let keep := fun (e : TlbEntry) => e.ctx != c
  let tiles : Table Tile := s.tiles.map fun x => (x.1, { x.2 with utlb := x.2.utlb.filter keep })
  wakeWalks
    { s with htlb := s.htlb.filter keep, tiles := tiles, walks := s.walks.filter fun w => w.ctx != c,
             remotes := s.remotes.map fun r => if r.ctx = c && !r.dropped then { r with dropped := true, dropGen := r.gen + 1 } else r }

/-- SCRUB_END: the tiles are zeroed and free, the completion words of the launches that have not ended are written, and
the context is empty once its pages are free (R285, R298, R299). -/
def execScrubEnd (c : Nat) (s : State) : Host.Outcome State Fault Refusal :=
  if (ctxOf s c).st != .destroyed then .next s
  else
    let s := scrubLeft ((ctxTiles s c).foldl scrubTile s) c
    let s := (s.groups.filter fun g => g.ctx == c).foldl (fun s g => endLaunch s g (endStatus g true)) s
    let s := settleDropped (dropCtxXlat (scrubPages s c) c)
    let qs : Table Queue := s.queues.map fun x =>
      (x.1, if x.2.owned && x.2.ctx == c then { x.2 with dispatching := false, overrun := false } else x.2)
    let s := { s with queues := qs }
    if s.frames.any fun f => f.2.ctx == c && f.2.st != .free then .next (scheduleOnce s (s.hc + 1) (.scrubEnd c))
    else
      let s := { s with ptPool := s.ptPool.filter fun p => p.2 != c }
      .next (mgmtSettle (updCtx s c fun x => { regSeq := x.regSeq }) (.scrub c) 0)

/-! ### Commands on a context (R298) -/

/-- A save command: a halted context is saved; one that came from saved keeps its save area as it is, and its pending restore
(R298). -/
def saveCommand (s : State) (c : Nat) : State :=
  let x := ctxOf s c
  if x.closing then
    let s := updCtx s c fun x => { x with st := .saved, closing := false }
    if x.restorePending then scheduleOnce s s.hc (.restorePlacement c) else s
  else saveContext s c

/-- A restore command: the restore is pending until the tiles are free. -/
def restoreCommand (s : State) (c : Nat) : State :=
  scheduleOnce (updCtx s c fun x => { x with restorePending := true, preempted := false }) s.hc (.restorePlacement c)

/-- A destroy command: a running context is halted first, with fault 0x5F. -/
def destroyCommand (s : State) (c : Nat) : State :=
  match (ctxOf s c).st with
  | .running | .preempting =>
    raiseFault (updCtx s c fun x => { x with destroyAfter := true }) c 0x5F srcBellows 0 false
  | _ => beginScrub s c

end Sys2Proof.Machine
end

