-- ==== Sys2Proof/Machine/Link.lean ====
section
/-! DEFINITION. The links: circuit slots and send queues (spec/17 R334 to R336), messages and their receipt (R338 to R341;
spec/12 R260 to R264), remote translations (spec/16 R322 to R324), the link send port (R342 to R344), resends,
acknowledgements and keys (R337, R339, R340; spec/23 R386). -/

namespace Sys2Proof.Machine

/-! ### Ports and fibres (R328 to R332) -/

/-- Port `k`: 0 to 15 optical, 16 to 27 Ethernet (R348). -/
def portOf (s : State) (k : Nat) : LinkPort := tget {} s.ports k
/-- Changes port `k`. -/
def updPort (s : State) (k : Nat) (f : LinkPort → LinkPort) : State := { s with ports := tset s.ports k (f (portOf s k)) }
/-- Fibre `f` of port `k`. -/
def fibreOf (s : State) (k f : Nat) : Fibre := tget {} (portOf s k).fibres f
/-- Changes a fibre. -/
def updFibre (s : State) (k f : Nat) (g : Fibre → Fibre) : State :=
  updPort s k fun p => { p with fibres := tset p.fibres f (g (fibreOf s k f)) }
/-- Wavelength `l` of a fibre. -/
def waveOf (x : Fibre) (l : Nat) : Wave := tget {} x.waves l
/-- Changes a wavelength of a fibre. -/
def updWave (s : State) (k f l : Nat) (g : Wave → Wave) : State :=
  updFibre s k f fun x => { x with waves := tset x.waves l (g (waveOf x l)) }
/-- The wavelengths of a port's fibre: eight, or the one lane of an Ethernet port (R345). -/
def lanes (k : Nat) : List Nat := if k < 16 then List.range 8 else [0]
/-- The wavelengths of a fibre in a state. -/
def wavesIn (s : State) (k f : Nat) (st : WaveSt) : List Nat := (lanes k).filter fun l => (waveOf (fibreOf s k f) l).st == st
/-- The fibres of a port. -/
def fibresOfPort (k : Nat) : List Nat := if k < 16 then List.range 8 else [0]

/-- The present time in 1/4200 ns (R2: the counter gains 10/7 ns in each hc). -/
def fineNow (s : State) : Nat := 4200 * s.ts + 600 * s.tsPhase

/-- The time a flit occupies a fibre with `a` wavelengths up, in 1/4200 ns (R329); on Ethernet 400 Gb/s (R345). -/
def flitTime (k a : Nat) : Nat := if k < 16 then 16 * 4200 / a else 10752

/-- sr.lnkpark: wavelengths kept, idle ns, wake depth, latency budget (R332, R348). -/
def parkKeep (s : State) : Nat := wfld (srWord s 0x244) 0 4
def parkIdle (s : State) : Nat := 100 * wfld (srWord s 0x244) 16 16
def parkDepth (s : State) : Nat := wfld (srWord s 0x244) 32 16
def parkBudget (s : State) : Nat := wfld (srWord s 0x244) 48 16

/-- The wavelength whose park a change announces. -/
def LinkChange.park : LinkChange → Option Nat
  | .leave l false => some l
  | .leave _ true | .join _ => none


/-- The changes of a fibre that are decided and have not applied, in order. -/
def Fibre.pending (x : Fibre) : List LinkChange := x.changes.map (·.2) ++ x.unsaid

/-- The multiple of 16 ns at or after a time: a flit boundary of a fibre that sends nothing (R387) (log 66: DEDUCED). -/
def boundary (t : Nat) : Nat := ceilDiv t 16 * 16

/-- A port has had no flit to send since now: each fibre looks whether to park when the idle time has passed (R332). -/
def noteIdle (s : State) (k : Nat) : State :=
  let s := updPort s k fun p => { p with idleSince := s.ts }
  if parkBudget s < 400 || 16 ≤ k then s
  else (fibresOfPort k).foldl (fun s f =>
    scheduleAt (unschedule s (.parkDecision k f)) (boundary (s.ts + parkIdle s)) (.parkDecision k f)) s

/-! ### Sending (R329, R335, R386) -/

/-- The ports that may send to next hop `p` now. -/
def portsTo (s : State) (p : Nat) : List Nat :=
  if p < 16 then (List.range 16).filter fun k => (portOf s k).enabled && (portOf s k).peer == some p
  else
    let e : EthPeer := tget {} s.ethPeers (p - 16)
    if e.v && (portOf s (16 + e.port.toNat)).enabled then [16 + e.port.toNat] else []

/-- The messages that wait for next hop `p`, with the peer in whose list they stand. -/
def waitingFor (s : State) (p : Nat) : List (Nat × Sent) :=
  s.peers.flatMap fun x => (x.2.sent.filter fun m => decide (0 < m.left) && hopOf s x.1 m == p && decide (m.msg.tx < 2 ^ 56 - 1)).map
    fun m => (x.1, m)

/-- The place of a message in its queue (R335, R386): the one under way, then resends, then by the time it was queued. -/
def sendRank (m : Sent) : Nat :=
  if m.left < msgFlits m.msg then 0 else if 0 < m.tries || m.again then 1 else 2 + m.lastSent

/-- The next message for a hop. -/
def nextSend (s : State) (p : Nat) : Option (Nat × Sent) :=
  (waitingFor s p).foldl (fun b x => match b with
    | none => some x
    | some y => if sendRank x.2 < sendRank y.2 then some x else b) none

/-- A fibre that may take a flit: port, fibre, the time at which the flit would start and end. -/
structure Lane where
  port : Nat
  fib : Nat
  start : Nat
  ends : Nat
  deriving DecidableEq, Repr

/-- The wavelengths up after the changes that apply by a time in 1/4200 ns (R387). -/
def upAt (x : Fibre) (k start : Nat) : Nat :=
  let due := x.changes.filter fun c => 4200 * c.1 ≤ start
  ((lanes k).filter fun l => due.foldl (fun u c => match c.2 with
    | .join ls => u || ls.contains l
    | .leave m _ => u && m != l) ((waveOf x l).st == .up)).length

/-- The time at which a flit starts that may start from time `t` on: that time if it lies after the hc before this one,
else now. -/
def startFrom (s : State) (t : Nat) : Nat := if t + 6000 ≤ fineNow s then fineNow s else t

/-- The ns at which the present data window opened (R334). -/
def windowOpen (s : State) : Nat :=
  match (s.circuitRun.live.drop s.circuitRun.idx).head? with
  | some c => s.circuitRun.ends - c.l.toNat
  | none => 0

/-- The fibres that can carry a flit that is there from time `avail`, within the data window (R334, R335). -/
def lanesTo (s : State) (p avail : Nat) : List Lane :=
  let avail := if p < 16 then max avail (4200 * windowOpen s) else avail
  ((portsTo s p).flatMap fun k => (fibresOfPort k).filterMap fun f =>
    let start := startFrom s (max (fibreOf s k f).busy avail)
    let a := upAt (fibreOf s k f) k start
    if a = 0 then none else some (⟨k, f, start, start + flitTime k a⟩ : Lane)).filter fun l =>
      16 ≤ p || (s.circuitRun.data && decide (l.ends ≤ 4200 * s.circuitRun.ends))

/-- The fibre that takes the next flit: the lowest-numbered of those free first (R329). -/
def bestLane (ls : List Lane) : Option Lane :=
  ls.foldl (fun b l => match b with
    | none => some l
    | some x => if l.start < x.start then some l else b) none

/-- Changes a message in the list of peer `q`. -/
def updSent (s : State) (q : Nat) (m : Sent) (f : Sent → Option Sent) : State :=
  updPeer s q fun x => { x with sent := x.sent.filterMap fun y => if y = m then f y else some y }

/-- The resend interval in ns (R340, R348). -/
def resendNs (s : State) : Nat := 1000 * wfld (srWord s 0x245) 0 16

/-- One flit of a message is sent on a lane; after the last the resend interval runs (R386). -/
def sendFlit (s : State) (q : Nat) (m : Sent) (l : Lane) : State :=
  let s := updFibre s l.port l.fib fun x => { x with started := l.start, busy := l.ends }
  let done := ceilDiv l.ends 4200
  if 1 < m.left then updSent s q m fun y => some { y with left := y.left - 1 }
  else if m.pass then updSent s q m fun _ => none
  else
    scheduleAt (updSent s q m fun y => some { y with left := 0, lastSent := done }) (done + resendNs s)
      (.linkResendExpiry q m.msg.seq.toNat)

/-- The flits that can start now; then the next start is an event (R335). -/
def sendFlits (s : State) (p : Nat) : Nat → State
  | 0 => s
  | fuel + 1 =>
    match nextSend s p with
    | none => (portsTo s p).foldl noteIdle s
    | some (q, m) =>
      match bestLane (lanesTo s p (4200 * m.lastSent)) with
      | none => s
      | some l =>
        if fineNow s < l.start then scheduleOnce s (max (s.hc + 1) (hcOfTs s (ceilDiv l.start 4200))) (.messageSend p)
        else sendFlits (sendFlit s q m l) p fuel


/-! ### Circuit slots (R334) -/

/-- The length of a slot. -/
def Circuit.len (c : Circuit) : Nat := c.g.toNat + c.l.toNat

/-- The first slot among entries from index `i` on that starts at or after offset `off`. -/
def circuitAfter (off : Nat) : Nat → Nat → List Circuit → Nat × Nat
  | _, at_, [] => (0, at_)
  | i, at_, e :: r => if off ≤ at_ then (i, at_) else circuitAfter off (i + 1) (at_ + e.len) r

/-- Whether an event is a slot start of the circuit table. -/
def isCircuitStart : Instr → Bool
  | .circuitSlotStart _ _ => true
  | _ => false

/-- The start of the first cycle, of the entries as they are written, that begins at or after time `t`; none where the table
is off (R334). -/
def cycleFrom (s : State) (t : Nat) : Option Nat :=
  let p := ((circuitEntries s).map Circuit.len).sum
  let t0 := (srWord s 0x24A).toNat
  if p = 0 then none else some (if t ≤ t0 then t0 else t0 + ceilDiv (t - t0) p * p)

/-- A slot's start is the next thing the table waits for; its ports look 400 ns before whether to wake (R332). -/
def awaitSlot (s : State) (i t : Nat) : State :=
  scheduleAt { s with circuitRun := { s.circuitRun with nextAt := some (i, false, t) } } (max s.ts (t - 400))
    (.circuitSlotStart i false)

/-- The registers of the circuit table change: a table that runs takes them at its next cycle, one that does not begins with
its next cycle (R334) (log 107: DEDUCED). -/
def startCircuit (s : State) : State :=
  match s.circuitRun.nextAt, cycleFrom s s.ts with
  | none, some t => awaitSlot s 0 t
  | _, _ => s

/-- After the counter has moved the running table goes on with the first slot that starts from now on. -/
def retimeCircuit (s : State) : State :=
  match s.circuitRun.nextAt with
  | none => s
  | some _ =>
    let s := { s with events := s.events.filter fun e => !isCircuitStart e.ev }
    let es := s.circuitRun.live
    let p := (es.map Circuit.len).sum
    let t0 := (srWord s 0x24A).toNat
    if p = 0 then (match cycleFrom s s.ts with
      | some t => awaitSlot s 0 t
      | none => { s with circuitRun := {} })
    else
      let off := if s.ts ≤ t0 then 0 else (s.ts - t0) % p
      let n := circuitAfter off 0 0 es
      awaitSlot s n.1 ((if s.ts ≤ t0 then t0 else s.ts - off) + n.2)

/-- The peer that a slot connects to port `k`, if it connects one. -/
def slotPeer (s : State) (c : Circuit) (k : Nat) : Option Nat :=
  if circuitOk c && circuitPeer c k != selfIdx s then some (circuitPeer c k) else none

/-! ### Changes of a fibre (R331, R387) -/

/-- Whether the circuit table that runs connects a port in some slot (R334). -/
def everConnected (s : State) (k : Nat) : Bool :=
  s.circuitRun.nextAt.isSome && (runEntries s).any fun c => (slotPeer s c k).isSome

/-- A change is announced in a control flit, the fibre's next flit, and applies at the first multiple of 16 ns that is not
earlier than the flit's end (R387). A control flit is a flit: it is sent in a data window that connects the port, and ends in
it (R334, R335); until then the change waits behind those decided before it. A fibre with no wavelength up, or of a port that no
slot connects, has no flit to send: its change applies at the next multiple of 16 ns (log 129: DEDUCED). -/
def announce (s : State) (k f : Nat) (ch : LinkChange) (from_ : Nat) : State :=
  let x := fibreOf s k f
  let start := max x.busy (4200 * from_)
  let a := upAt x k start
  let ends := start + flitTime k a
  let apply := fun (s : State) (t : Nat) =>
    let effect := boundary (ceilDiv t 4200)
    scheduleAt (updFibre s k f fun x => { x with changes := x.changes ++ [(effect, ch)] }) effect (.linkChangeEffect k f)
  if a = 0 || (k < 16 && !everConnected s k) then apply s (4200 * from_)
  else if k < 16 && !(x.unsaid.isEmpty && (portOf s k).peer.isSome && s.circuitRun.data && decide (ends ≤ 4200 * s.circuitRun.ends))
  then updFibre s k f fun x => { x with unsaid := x.unsaid ++ [ch] }
  else apply (updFibre s k f fun x => { x with started := start, busy := ends }) ends

/-- The control flits that waited for a data window go first in it, as far as they end in it. -/
def sayChanges (s : State) (k f : Nat) : State :=
  (fibreOf s k f).unsaid.foldl (fun s ch => announce s k f ch s.ts) (updFibre s k f fun x => { x with unsaid := [] })

/-- A fibre's parked wavelengths wake for 400 ns from now, and a control flit says so (R331, R387); one whose park is decided
wakes when the park takes effect (R349). -/
def wakeFibre (s : State) (k f : Nat) : State :=
  let parking := (fibreOf s k f).pending.filterMap LinkChange.park
  let s := parking.foldl (fun s l => updWave s k f l fun w => { w with wake := true }) s
  match wavesIn s k f .parked with
  | [] => s
  | ls =>
    let s := ls.foldl (fun s l => updWave s k f l fun w => { w with st := .waking, since := s.ts }) s
    scheduleAt (announce s k f (.join []) s.ts) (s.ts + 400) (.wakeEnd k f)

/-- A port wakes all of its parked wavelengths (R332). -/
def wakePort (s : State) (k : Nat) : State := (fibresOfPort k).foldl (fun s f => wakeFibre s k f) s

/-- Whether a port must wake (R332): its peer's queue holds wdepth flits, or a slot that starts within 400 ns connects
it to a peer whose queue holds flits. -/
def wakeDue (s : State) (k : Nat) : Bool :=
  (match (portOf s k).peer with
    | some p => decide (parkDepth s ≤ queuedFlits s p)
    | none => false) ||
  (match s.circuitRun.nextAt with
    | some (i, false, t) => decide (t ≤ s.ts + 400) && (match ((if i = 0 then circuitEntries s else s.circuitRun.live).drop i).head? with
        | some c => (match slotPeer s c k with
            | some p => decide (0 < queuedFlits s p)
            | none => false)
        | none => false)
    | _ => false)

/-- The optical ports that must wake do (R332). -/
def wakeDuePorts (s : State) : State := (List.range 16).foldl (fun s k => if wakeDue s k then wakePort s k else s) s

/-- MESSAGE_SEND: the ports connected to a next hop take the flits that fit the data window (R335); the queue may wake
ports (R332), and messages that have waited for room enter it. An empty queue leaves its ports as idle as they are. -/
def execMessageSend (peer : Nat) (s : State) : Host.Outcome State Fault Refusal :=
  if (nextSend s peer).isNone then .next s
  else .next (drainBacklog (sendFlits (wakeDuePorts s) peer (queuedFlits s peer + 1)))

/-- A guard begins: every port is left unconnected; a port whose queue held flits was not idle until now (R332, R334). -/
def beginGuard (s : State) : State :=
  (List.range 16).foldl (fun s k =>
    let s := match (portOf s k).peer with
      | some p => if 0 < queuedFlits s p then noteIdle s k else s
      | none => s
    updPort s k fun x => { x with peer := none }) s

/-- The guard of slot `i` begins at time `t` (R334). -/
def slotGuard (s : State) (live : List Circuit) (i t : Nat) : State :=
  let opens := t + ((live.drop i).headD ({} : Circuit)).g.toNat
  let s := beginGuard { s with circuitRun := { live := live, idx := i, data := false, ends := opens, nextAt := some (i, true, opens) } }
  scheduleAt s opens (.circuitSlotStart i true)

/-- The data window of slot `i` opens at time `t`: each port is connected to its peer, the changes decided before are announced,
and the queues send (R334, R335, R387). -/
def slotWindow (s : State) (i t : Nat) : State :=
  let c := (s.circuitRun.live.drop i).headD ({} : Circuit)
  let next := if i + 1 < s.circuitRun.live.length then i + 1 else 0
  let s := (List.range 16).foldl (fun s k => updPort s k fun x => { x with peer := slotPeer s c k }) s
  let s := awaitSlot { s with circuitRun := { s.circuitRun with idx := i, data := true, ends := t + c.l.toNat } } next (t + c.l.toNat)
  let s := (List.range 16).foldl (fun s k => (fibresOfPort k).foldl (fun s f => sayChanges s k f) s) s
  (List.range 16).foldl (fun s p => if 0 < queuedFlits s p then scheduleOnce s s.hc (.messageSend p) else s) s

/-- A cycle begins at time `t` with the entries as they are written; a table that is off connects nothing any more (R334). -/
def beginCycle (s : State) (t : Nat) : State :=
  match cycleFrom s t with
  | none => beginGuard { s with circuitRun := {} }
  | some b => if b = t then slotGuard s (circuitEntries s) 0 t else awaitSlot (beginGuard s) 0 b

/-- CIRCUIT_SLOT_START: a slot's guard or its data window begins (R334). -/
def execCircuitSlotStart (i : Nat) (data : Bool) (s : State) : Host.Outcome State Fault Refusal :=
  match s.circuitRun.nextAt with
  | none => .next s
  | some (j, d, t) =>
    if j ≠ i || d != data then .next s
    else if s.ts < t then .next (scheduleAt (wakeDuePorts s) t (.circuitSlotStart i data))
    else if data then .next (slotWindow s i t)
    else .next (if i = 0 then beginCycle s t else slotGuard s s.circuitRun.live i t)

/-! ### Receipt (R329, R338 to R340) -/

/-- A message that breaks R338 or R339 is counted at the port of its pair (log 44: DESIGN CHOICE). -/
def countBadMessage (s : State) (p : Nat) : State :=
  let k := (portsTo s p).headD (if p < 16 then 0 else 16)
  updFibre s k 0 fun x => { x with ucf := satCount x.ucf }

/-- Whether a message keeps the layout and its tag (R338, R339), from a member of the group or from the address of a valid
entry (R345). -/
def msgValid (s : State) (kind : Nat) (m : Msg) : Bool :=
  m.ok && decide (m.recs.length ≤ 32) && decide (m.payload.length ≤ 4096) &&
  (if m.eth then (tget ({} : EthPeer) s.ethPeers m.via).v && (tget ({} : EthPeer) s.ethPeers m.via).mac == m.mac && m.recs.isEmpty
   else isMember s m.src && m.src != selfIdx s && m.dst == selfIdx s) &&
  m.tag == msgTag s (msgPeer m) kind m

/-- The messages that a rack covers are released (R340); an access sent again after a stale answer, whose number the rack
covers already, is kept until it is answered (R323). -/
def takeRack (s : State) (p : Nat) (rack : Word32) : State :=
  updPeer s p fun x => { x with sent := x.sent.filter fun m => m.pass || m.again || (rack - m.msg.seq).msb }

/-- A link acknowledgement is due within 2 µs unless something else goes to the peer (R340, log 4: DESIGN CHOICE). -/
def oweAck (s : State) (p : Nat) : State :=
  if (peerOf s p).ackDue.isSome then s
  else
    let (d, s) := popDelay s
    schedule (updPeer s p fun x => { x with ackDue := some (s.ts + 2000) }) (s.hc + min (nsToHc 2000 - 1) (1 + d))
      (.linkAckTimer p)

/-- The clock of a sender after the records of one more message (R261). -/
def addRecords (t : Table Word32) : List Word32 → Table Word32
  | [] => t
  | r :: rs =>
    let i := 16 * wfld (r.setWidth 64) 4 4 + wfld (r.setWidth 64) 0 4
    addRecords (tset t i (tget 0 t i + (r >>> 8))) rs

/-- Whether a message may be applied: every other sender's writes to this package that it knows of are (R262). -/
def causalOk (s : State) (p : Nat) (clock : Table Word32) : Bool :=
  16 ≤ p || (List.range 16).all fun q =>
    q == p || !(tget 0 s.clockA q - tget 0 clock (16 * q + selfIdx s)).msb

/-- The package's clock is raised to that of a message it applies (R260). -/
def raiseClock (s : State) (clock : Table Word32) : State :=
  { s with clockK := clock.foldl (fun k e => if (tget 0 k e.1 - e.2).msb then tset k e.1 e.2 else k) s.clockK }

/-- Answers a request of peer `p` (R341). -/
def answerMessage (s : State) (p kind : Nat) (m : Msg) (status reason : Nat) (payload : List Byte) (gen : BitVec 16) : State :=
  postDevice s p kind
    { Msg.blank with sctx := m.rctx, rctx := m.sctx, status := status, id := m.id, gen := gen, tile := m.tile, eng := m.eng,
                     va := BitVec.ofNat 64 (m.seq.toNat + 2 ^ 32 * reason), ts := tsWord s, payload := payload }

/-! ### The target's side (R322, R323, R341) -/

/-- Whether the target context of an access is there. -/
def targetThere (s : State) (m : Msg) : Bool :=
  match (ctxOf s m.rctx).st with
  | .empty | .loading | .destroyed => false
  | _ => true

/-- The page of an access as the target finds it, or the reason of its refusal (R341). -/
def targetOf (s : State) (m : Msg) (write : Bool) : Except Nat Leaf :=
  if !targetThere s m then .error 5
  else match translate s (rootOf s m.rctx) m.va false with
    | .here l =>
      if write && !wbitAt l.bits 2 then .error 1
      else if write && l.seal then .error 2
      else if !l.x then .error 3
      else .ok l
    | _ => .error 1

/-- Whether the generation of an access is not that of its page; generation 0 marks an access without a translation (R323,
log 43: DEDUCED). -/
def accessStale (s : State) (m : Msg) : Bool :=
  targetThere s m && m.gen != 0 && (match translate s (rootOf s m.rctx) m.va false with
    | .here l => (frameOf s (frameNo l.pa0)).gen != m.gen
    | _ => true)

/-- A stale access is answered so, and its sender's later messages wait for it; it keeps the clock it came with (R323). -/
def answerStale (s : State) (p kind : Nat) (m : Msg) (clock : Table Word32) : State :=
  let s := updPeer s p fun x => { x with stale := some m.seq, staleClock := clock }
  answerMessage s p (if kind = 1 then 0x6 else if kind = 2 then 0x3 else 0x5) m 2 0 [] 0

/-- The translation fault that an access meets in its target context, if it meets one, is raised there: the mantel walks for it
(R318, log 127: DEDUCED). -/
def targetFault (s : State) (m : Msg) (write : Bool) : State :=
  if !targetThere s m then s
  else match translate s (rootOf s m.rctx) m.va write with
    | .fault code => raiseFault s m.rctx code srcMantel m.va false
    | .here _ | .remote _ => s

/-- A write is performed at its home and acknowledged, or refused with a notice (R341). -/
def applyWrite (s : State) (p : Nat) (m : Msg) : State :=
  match targetOf s m true with
  | .error r => answerMessage (countApplied (targetFault s m true) p) p 0x7 m 1 r [] 0
  | .ok l => answerMessage (countApplied (writePage s m.rctx l m.va m.payload) p) p 0x6 m 0 0 [] 0

/-- A read is performed and answered (log 17: DEDUCED). -/
def applyRead (s : State) (p : Nat) (m : Msg) : State :=
  match targetOf s m false with
  | .error r => answerMessage (targetFault s m false) p 0x7 m 1 r [] 0
  | .ok l => answerMessage s p 0x3 m 0 0 (pageBytes s l m.va 8) 0

/-- What a message's atomic does with its operands: the header does not name the operation, so that it is any of R199, or
leaves any word, as those of R198 do (R338, log 45: DESIGN CHOICE). -/
def atomChoice (s : State) (opa : Word) : (AtomOp × Word) × State :=
  let (n, s) := freshWord s
  match n.toNat % 4 with
  | 0 => ((.fadd, opa), s)
  | 1 => ((.swap, opa), s)
  | 2 => ((.cas, opa), s)
  | _ =>
    let (w, s) := freshWord s
    ((.swap, w), s)

/-- An atomic is handled under its record at the home channel with the operands of its payload (R201, R338, R341); the width of
an aligned one is not in the header either (log 45: DESIGN CHOICE). -/
def applyAtomic (s : State) (p : Nat) (m : Msg) : State :=
  match targetOf s m true with
  | .error r => answerMessage (countApplied (targetFault s m true) p) p 0x7 m 1 r [] 0
  | .ok l =>
    let ((op, opa), s) := atomChoice s (BitVec.ofNat 64 (leNat (m.payload.take 8)))
    let (b, s) := freshBool s
    let pa := l.writePa m.va
    let q : AtomReq :=
      { op := op, wide := b && pa % 8 == 0, port := .hbm (homeChannel pa), addr := pa / 4 * 4, ctx := m.rctx, opa := opa,
        opb := BitVec.ofNat 64 (leNat ((m.payload.drop 8).take 8)), comps := [⟨64 * (p + 1) + m.tile, m.eng, m.id, 0, []⟩], retry := m.retry, uncomb := true,
        firstTs := m.ts.toNat, va := m.va &&& ~~~3#64, att := none }
    schedule (updPeer s p fun x => { x with replies := x.replies ++ [(m.seq, 4, m)] }) s.hc (.atomicPortArrival q)

/-- A translation request is granted or refused; a grant that needs a new entry of a full export table waits (R322,
R323). -/
def applyRequest (s : State) (p : Nat) (m : Msg) : State :=
  let write := m.payload.head? == some 1
  let s := updPeer s p fun x => { x with replies := x.replies.filter fun r => !(r.1 == m.seq && r.2.1 == 8) }
  let refuse := answerMessage s p 0x9 m 1 0 [] 0
  match translate s (rootOf s m.rctx) m.va write with
  | .here l =>
    if !l.x || !isMember s p || 16 ≤ p then refuse
    else if !exportRoom s l then updPeer s p fun x => { x with replies := x.replies ++ [(m.seq, 8, m)] }
    else
      let s := grantPage s l p m.rctx
      answerMessage s p 0x9 m 0 0 (leBytes 8 l.bits.toNat ++ leBytes 8 l.bytes) (frameOf s (frameNo l.pa0)).gen
  | _ => refuse

/-- The waiting grants are looked at again when an export entry frees. -/
def serveGrants (s : State) : State :=
  (s.peers.flatMap fun x => (x.2.replies.filter fun r => r.2.1 == 8).map fun r => (x.1, r.2.2)).foldl
    (fun s x => applyRequest s x.1 x.2) s

/-- An invalidation: the holder drops its entry and acknowledges once nothing uses it; without one it acknowledges at once
(R324). -/
def applyInvalidation (s : State) (p : Nat) (m : Msg) : State :=
  let hit := fun (r : RemoteXlat) => r.pkg == p && r.rctx == m.rctx && r.va ≤ m.va.toNat && m.va.toNat < r.va + r.bytes
  let gone := s.remotes.filter fun r => hit r && !r.dropped
  let s := gone.foldl (fun s r => dropXlat s r.ctx r.va r.bytes) s
  if s.remotes.any hit then
    settleDropped
      { s with remotes := s.remotes.map fun r => if hit r then { r with dropped := true, dropGen := m.gen } else r }
  else ackInval s p m.rctx m.va.toNat m.gen

/-- An invalidation acknowledgement clears the holder's bit (R324), unless the holder has been granted the page anew since that
invalidation. -/
def applyInvalAck (s : State) (p : Nat) (m : Msg) : State :=
  let fs := s.frames.filter fun f => f.2.ctx == m.rctx && f.2.va == m.va.toNat && f.2.holders.getLsbD p &&
    (tget 0 f.2.granted p - m.gen).msb
  serveGrants (fs.foldl (fun s f => dropHolder s f.1 p) s)

/-! ### The source's side (R200, R255, R268, R341) -/

/-- An agent's access that has met a refusal or an unreachable peer ends (R268, R340, R341). -/
def failWaiting (s : State) (w : Waiting) (code : Nat) : State :=
  match w.sender with
  | .slot t k n =>
    match (coreTask s (nameCore t k)).gacc.find? fun a => a.n == n with
    | some a => failAccess s t k a code
    | none => s
  | .engine t e n => engineAnswer s t e n (.refused (some code))
  | .port t n =>
    let s := updTile s t fun x => { x with lnkTail := x.lnkTail.filter fun e => e != (n, w.msg.seq.toNat) }
    match (tileOf s t).lnk.find? fun c => c.n == n with
    | some c =>
      let s := tileFault s t 10 code w.msg.va
      checkWaits (updTile s t fun x => endLnk x { c with pendingSeqs := c.pendingSeqs.filter (· != w.msg.seq.toNat) }) t
    | none => s
  | .walk n =>
    match s.walks.find? fun x => x.n == n with
    | some x => failXlat (dropWalk s n) x code
    | none => s
  | .device => s

/-- The command of the link port whose message has been acknowledged may be complete (R343). -/
def portAcked (s : State) (t n : Nat) (seq : Word32) : State :=
  let s := updTile s t fun x => { x with lnkTail := x.lnkTail.filter (fun e => e != (n, seq.toNat)), lnk := x.lnk.map fun c =>
    if c.n = n then { c with pendingSeqs := c.pendingSeqs.filter (· != seq.toNat) } else c }
  let ovr := fun (c : LnkCmd) => c.n == n && c.pendingSeqs.isEmpty && decide (wfld (latchIn c.lat 0x183) 0 32 ≤ c.offset)
  checkWaits (updTile s t fun x => { x with lnk := x.lnk.filter fun c => !ovr c }) t

/-- A grant is cached as a remote entry (R322). -/
def takeGrant (s : State) (p : Nat) (req : Msg) (m : Msg) (w : Walk) : State :=
  let bits : Word := BitVec.ofNat 64 (leNat (m.payload.take 8))
  let bytes := max 1 (leNat (m.payload.drop 8))
  let r : RemoteXlat :=
    { ctx := w.ctx, va := w.va.toNat / bytes * bytes, bytes := bytes, pkg := p, rctx := req.rctx, w := wbitAt bits 2,
      sealed := wbitAt bits 4, gen := m.gen, dropped := false }
  endWalk (dropWalk { s with remotes := s.remotes ++ [r] } w.n) w

/-- An access answered stale: its entry is dropped and it is translated and sent again with its sequence number
(R323). -/
def retryStale (s : State) (p : Nat) (w : Waiting) : State :=
  let old := s.remotes.filter fun r => r.pkg == p && r.rctx == w.msg.rctx && r.va ≤ w.msg.va.toNat && w.msg.va.toNat < r.va + r.bytes
  let s := old.foldl (fun s r => dropXlat s r.ctx r.va r.bytes) s
  let s := { s with remotes := s.remotes.filter fun r => !(old.contains r && !r.dropped) }
  let s := updPeer s p fun x => { x with waiting := x.waiting ++ [{ w with stale := 1 }] }
  scheduleOnce s (s.hc + 1) (.linkResendExpiry p w.msg.seq.toNat)

/-- What an answer means for the agent that awaits it. -/
def giveAnswer (s : State) (p kind : Nat) (m : Msg) (w : Waiting) : State :=
  if kind = 0x7 then
    let reason := wfld m.va 32 8
    failWaiting s w (if reason = 2 then 0x22 else if reason = 0 then 0x48 else 0x4A)
  else if m.status = 2 then retryStale s p w
  else match w.sender with
    | .slot t k n =>
      match (coreTask s (nameCore t k)).gacc.find? fun a => a.n == n with
      | some a =>
        if a.load then finishLoad s t k a (BitVec.ofNat 64 (leNat m.payload)) else kickGlobal (dropAccess s t k n) t k
      | none => s
    | .engine t e n =>
      if kind = 0x3 then engineAnswer s t e n (.read m.payload)
      else if kind = 0x5 then engineAnswer s t e n (.atom m.status (BitVec.ofNat 64 (leNat m.payload)))
      else engineAnswer s t e n .written
    | .port t n => portAcked s t n w.msg.seq
    | .walk n =>
      match s.walks.find? fun x => x.n == n with
      | some x => if m.status = 0 then takeGrant s p w.msg m x
        else failXlat (dropWalk s n) x 0x2C
      | none => s
    | .device => s

/-- The kinds of request that an answer of a kind ends. -/
def answers (kind : Nat) : List Nat :=
  if kind = 3 then [2] else if kind = 5 then [4] else if kind = 6 then [1] else if kind = 9 then [8] else [1, 2, 4]

/-- An answer of peer `p` reaches the agent that awaits it; one that nothing awaits is discarded. A notice of an
intermediate names a request that went through it (R336). -/
def applyAnswer (s : State) (p kind : Nat) (m : Msg) : State :=
  let seq : Word32 := m.va.setWidth 32
  let fits := fun (w : Waiting) => (answers kind).contains w.kind && w.msg.seq == seq && w.stale == 0
  let routed := s.peers.find? fun x => x.1 != p && x.2.waiting.any fun w => fits w && w.msg.via == p
  let q := if (peerOf s p).waiting.any fits then p else match routed with
    | some x => if kind = 0x7 then x.1 else p
    | none => p
  match (peerOf s q).waiting.find? fits with
  | none => s
  | some w =>
    let s := updPeer s q fun x =>
      { x with sent := x.sent.filter (fun y => !(y.again && y.msg.seq == seq)), waiting := x.waiting.filter fun v =>
          v != w && !(match w.sender, v.sender with | .walk a, .walk b => a == b | _, _ => false) }
    settleDropped (giveAnswer s q kind m w)

/-- A message is applied, and first raises the package's clock; an access that is answered stale is not applied yet (R260,
R323, R341). -/
def applyMessage (s : State) (p kind : Nat) (m : Msg) (clock : Table Word32) : State :=
  if [1, 2, 4].contains kind && accessStale s m then answerStale s p kind m clock
  else
  let s := if 16 ≤ p then s else raiseClock s clock
  match kind with
  | 0x1 => applyWrite s p m
  | 0x2 => applyRead s p m
  | 0x4 => applyAtomic s p m
  | 0x8 => applyRequest s p m
  | 0xA => applyInvalidation s p m
  | 0xB => applyInvalAck s p m
  | 0xC => s
  | _ => applyAnswer s p kind m

/-! ### Order of application (R262) -/

/-- Whether an atomic of peer `p` has been taken and not yet performed. -/
def atomicUnderWay (s : State) (p : Nat) : Bool :=
  s.events.any fun e => match e.ev with
    | .atomicPortArrival q => q.comps.any fun c => c.tile / 64 == p + 1
    | _ => false

/-- Whether a message carries the translation anew that a stale access waits for: a request, a grant (R322, R323). -/
def renews (kind : Nat) : Bool := kind == 0x8 || kind == 0x9

/-- Whether a message of peer `p` must wait now: for a stale access of the pair, but for what its translation anew needs
(log 128: DEDUCED), for an atomic of the pair that is not performed yet, or for its causes (R262, R264, R323). -/
def mustWait (s : State) (p kind : Nat) (clock : Table Word32) : Bool :=
  (!renews kind && (peerOf s p).stale.isSome) || atomicUnderWay s p || ([1, 2, 4].contains kind && !causalOk s p clock)

/-- The messages that wait: for their causes, or for an earlier one of their pair (R262, R335). -/
def waitingMsgs (s : State) : List HeldMsg := s.cwHeld ++ s.peers.flatMap fun p => p.2.held

/-- The time that a message may wait before it is reported, in ns (R265). -/
def waitLimit (s : State) : Nat := 1000 * wfld (srWord s 0x215) 16 16

/-- A message that waits is reported once it has waited longer than the limit. -/
def watchWait (s : State) (h : HeldMsg) : State := scheduleAt s (h.at_ + waitLimit s + 1) (.causalWaitLimit (heldName h.msg))

/-- The waiting messages are watched under a limit that has changed. -/
def watchWaits (s : State) : State := ((waitingMsgs s).filter fun h => !h.reported).foldl watchWait s

/-- A message in its pair's order is applied, or waits in arrival order at the mantel (R262). -/
def deliverMessage (s : State) (p : Nat) (h : HeldMsg) : State :=
  if (!renews h.kind && s.cwHeld.any fun x => msgPeer x.msg == p) || mustWait s p h.kind h.clock then
    watchWait { s with cwHeld := s.cwHeld ++ [h] } h
  else lookHeld (applyMessage s p h.kind h.msg h.clock)

/-- HELD_MESSAGE_APPLY: a waiting message is applied once its condition holds (R262). -/
def execHeldMessageApply (n : Nat) (s : State) : Host.Outcome State Fault Refusal :=
  match s.cwHeld.find? fun h => heldName h.msg == n with
  | none => .next s
  | some h =>
    let p := msgPeer h.msg
    if (!renews h.kind && (s.cwHeld.find? fun x => msgPeer x.msg == p) != some h) || mustWait s p h.kind h.clock then .next s
    else
      let s := { s with cwHeld := s.cwHeld.filter fun x => x != h }
      .next (lookHeld (applyMessage s p h.kind h.msg h.clock))

/-- CAUSAL_WAIT_LIMIT: a message that has waited longer than sr.cwait.lim is reported and keeps waiting (R262). -/
def execCausalWaitLimit (n : Nat) (s : State) : Host.Outcome State Fault Refusal :=
  let note := fun (h : HeldMsg) => if heldName h.msg == n then { h with reported := true } else h
  whenever ((waitingMsgs s).any fun h => heldName h.msg == n && !h.reported && decide (h.at_ + waitLimit s < s.ts)) s fun s =>
    { s with cwLate := satCount s.cwLate, cwHeld := s.cwHeld.map note,
             peers := s.peers.map fun p => (p.1, { p.2 with held := p.2.held.map note }) }

/-- The messages of a pair that now follow its contiguous point are taken in turn (R340). -/
def takeHeld (s : State) (p : Nat) : Nat → State
  | 0 => s
  | fuel + 1 =>
    match (peerOf s p).held.find? fun h => h.msg.seq == (peerOf s p).rackIn + 1 with
    | none => s
    | some h =>
      let clock := addRecords (peerOf s p).clockSeen h.msg.recs
      let s := updPeer s p fun x =>
        { x with rackIn := h.msg.seq, clockSeen := clock, held := x.held.filter fun y => y.msg.seq != h.msg.seq }
      takeHeld (deliverMessage s p { h with clock := clock }) p fuel

/-- A kept message takes the next transmission number and the current rack, and goes to the head of its queue (R339,
R386). -/
def queueAgain (s : State) (p : Nat) (m : Sent) (msg : Msg) (kind tries : Nat) : State :=
  let (tx, s) := takeTx s p (64 * msg.sctx + msg.rctx)
  let msg := { framed s p msg with rack := (peerOf s p).rackIn, tx := tx }
  let msg := { msg with tag := msgTag s p kind msg }
  let s := updPeer s p fun x =>
    { x with ackDue := none,
             sent := x.sent.filter (fun y => y.pass || y.msg.seq != msg.seq) ++
               [{ m with kind := kind, msg := msg, left := msgFlits msg, lastSent := s.ts, tries := tries }] }
  scheduleOnce s (s.hc + 1) (.messageSend (if 16 ≤ p then p else msg.via))

/-- The reply to a request whose sequence number comes again, if no rack covers it, is sent again (R340). -/
def resendReply (s : State) (p : Nat) (seq : Word32) : State :=
  match (peerOf s p).sent.find? fun m => [3, 5, 6, 7, 9].contains m.kind && m.msg.va.setWidth 32 == seq && m.left == 0 with
  | some m => queueAgain (unschedule s (.linkResendExpiry p m.msg.seq.toNat)) p m m.msg m.kind m.tries
  | none => s

/-- A message on its way through this package goes to its destination's queue, or is answered with a notice (R336). -/
def passOn (s : State) (kind : Nat) (m : Msg) : State :=
  if hasSlot s m.dst then enterOrWait s m.dst true kind m
  else answerMessage s m.src 0x7 m 1 0 [] 0

/-- Whether an Ethernet frame is discarded: it is of another EtherType, or has more than one tag (R345). -/
def strayFrame (s : State) (m : Msg) : Bool := m.eth && (m.etype != (srWord s 0x250).setWidth 16 || decide (1 < m.tags))

/-- A message arrives (R329, R336, R338 to R340, R345). -/
def receiveMessage (s : State) (kind : Nat) (m : Msg) : State :=
  let p := msgPeer m
  if strayFrame s m then s
  else if !m.eth && m.dst != selfIdx s && m.via == selfIdx s && isMember s m.src && m.ok then passOn s kind m
  else if !msgValid s kind m then countBadMessage s p
  else
    let s := takeRack s p m.rack
    if kind = 0xD then s
    else
      let x := peerOf s p
      let s := oweAck s p
      let ahead := m.seq - x.rackIn
      if x.stale = some m.seq then
        let s := updPeer s p fun x => { x with stale := none, staleClock := [] }
        lookHeld (applyMessage s p kind m x.staleClock)
      else if ahead = 0 || ahead.msb then resendReply s p m.seq
      else
        let h : HeldMsg := { kind := kind, msg := m, clock := [], at_ := s.ts, reported := false }
        let s := updPeer s p fun x =>
          { x with held := if x.held.any fun y => y.msg.seq == m.seq then x.held else x.held ++ [h] }
        let s := takeHeld s p ((peerOf s p).held.length + 1)
        if (peerOf s p).held.contains h then watchWait s h else s

/-- WRITE_MESSAGE (R341). -/
def execWriteMessage (m : Msg) (s : State) : Host.Outcome State Fault Refusal := .next (receiveMessage s 0x1 m)
/-- READ_MESSAGE (R341). -/
def execReadMessage (m : Msg) (s : State) : Host.Outcome State Fault Refusal := .next (receiveMessage s 0x2 m)
/-- READ_REPLY (R268, R341). -/
def execReadReply (m : Msg) (s : State) : Host.Outcome State Fault Refusal := .next (receiveMessage s 0x3 m)
/-- ATOMIC_MESSAGE (R341). -/
def execAtomicMessage (m : Msg) (s : State) : Host.Outcome State Fault Refusal := .next (receiveMessage s 0x4 m)
/-- ATOMIC_REPLY (R200). -/
def execAtomicReply (m : Msg) (s : State) : Host.Outcome State Fault Refusal := .next (receiveMessage s 0x5 m)
/-- WRITE_ACKNOWLEDGEMENT (R255, R343). -/
def execWriteAcknowledgement (m : Msg) (s : State) : Host.Outcome State Fault Refusal := .next (receiveMessage s 0x6 m)
/-- NOTICE_MESSAGE (R336, R341). -/
def execNoticeMessage (m : Msg) (s : State) : Host.Outcome State Fault Refusal := .next (receiveMessage s 0x7 m)
/-- TRANSLATION_REQUEST (R322, R323). -/
def execTranslationRequest (m : Msg) (s : State) : Host.Outcome State Fault Refusal := .next (receiveMessage s 0x8 m)
/-- TRANSLATION_REPLY (R322). -/
def execTranslationReply (m : Msg) (s : State) : Host.Outcome State Fault Refusal := .next (receiveMessage s 0x9 m)
/-- INVALIDATION (R324). -/
def execInvalidation (m : Msg) (s : State) : Host.Outcome State Fault Refusal := .next (receiveMessage s 0xA m)
/-- INVALIDATION_ACKNOWLEDGEMENT (R324). -/
def execInvalidationAcknowledgement (m : Msg) (s : State) : Host.Outcome State Fault Refusal :=
  .next (receiveMessage s 0xB m)
/-- CLOCK_ONLY (R261). -/
def execClockOnly (m : Msg) (s : State) : Host.Outcome State Fault Refusal := .next (receiveMessage s 0xC m)
/-- LINK_ACKNOWLEDGEMENT (R340). -/
def execLinkAcknowledgement (m : Msg) (s : State) : Host.Outcome State Fault Refusal := .next (receiveMessage s 0xD m)

/-! ### Resends and acknowledgements (R340, R386) -/

/-- The peer is unreachable (R340): what was outstanding to it ends with fault 0x49, and the messages are dropped. -/
def peerLost (s : State) (p : Nat) : State :=
  let ws := (peerOf s p).waiting
  let s := updPeer s p fun x => { x with waiting := [], sent := [], replies := [], backlog := [] }
  let s := raiseLine s 7
  settleDropped (ws.foldl (fun s w => match w.sender with
    | .engine t e n =>
      match cmdOf s t e n with
      | some c => if c.atomic then endAtomic (tileFault s t e 0x49 c.dst) t e c 2 0 false else failWaiting s w 0x49
      | none => s
    | _ => failWaiting s w 0x49) s)

/-- The access that was answered stale is sent again once its translation is granted anew; without one, an empty message
takes its place in the pair's order (R323, log 46: DEDUCED). -/
def stepStale (s : State) (p : Nat) (w : Waiting) : State :=
  let ctx := match w.sender with
    | .slot t k _ => coreCtx s (nameCore t k)
    | .engine t _ _ => tileCtx s t
    | .port t _ => tileCtx s t
    | .walk _ | .device => w.msg.sctx
  let who := match w.sender with
    | .slot t k _ => (t, k)
    | .engine t _ _ => (t, 0)
    | .port t _ => (t, 0)
    | .walk _ | .device => (64, 0)
  let blank : Sent := { kind := w.kind, msg := w.msg, left := 0, lastSent := s.ts, tries := 0, pass := false, again := true }
  let rest := fun (s : State) (v : Option Waiting) => updPeer s p fun x =>
    { x with waiting := x.waiting.filter (fun y => y != w) ++ v.toList }
  let again := fun (s : State) => scheduleOnce s (s.hc + 1) (.linkResendExpiry p w.msg.seq.toNat)
  match remoteXlat s ctx w.msg.va with
  | some r =>
    let msg := { w.msg with gen := r.gen, recs := [] }
    queueAgain (rest s (some { w with msg := msg, stale := 0 })) p blank msg w.kind 0
  | none =>
    if s.walks.any fun x => x.ctx == ctx && samePage s ctx x.va w.msg.va then again s
    else if w.stale = 1 then
      again (rest (startWalk s who.1 who.2 ctx w.msg.va (w.kind != 2) true true) (some { w with stale := 2 }))
    else
      let s := queueAgain (rest s none) p blank { w.msg with recs := [], payload := [] } 0xC 0
      settleDropped (failWaiting s w 0x2C)

/-- LINK_RESEND_EXPIRY: an uncovered message is sent again once the interval has passed since its last flit, up to cnt times;
after the last its peer is unreachable (R340, R386). An access answered stale is sent again here (R323); the empty message in the
place of one is dropped after the last. -/
def execLinkResendExpiry (peer seq : Nat) (s : State) : Host.Outcome State Fault Refusal :=
  match (peerOf s peer).waiting.find? fun w => w.msg.seq.toNat == seq && w.stale != 0 with
  | some w => .next (stepStale s peer w)
  | none =>
    match (peerOf s peer).sent.find? fun m => !m.pass && m.msg.seq.toNat == seq && m.left == 0 with
    | none => .next s
    | some m =>
      if s.ts < m.lastSent + resendNs s then .next (scheduleAt s (m.lastSent + resendNs s) (.linkResendExpiry peer seq))
      else if m.tries < wfld (srWord s 0x245) 16 4 then
        if queueTakes s (if 16 ≤ peer then peer else m.msg.via) (msgFlits m.msg) then
          .next (queueAgain s peer m m.msg m.kind (m.tries + 1))
        else .next (scheduleOnce s (s.hc + 1) (.linkResendExpiry peer seq))
      else if m.again && m.kind == 0xC then .next (updSent s peer m fun _ => none)
      else .next (peerLost s peer)

/-- LINK_ACK_TIMER: with nothing else to send to a peer since a message arrived, a link acknowledgement goes to it (R339,
R340). -/
def execLinkAckTimer (peer : Nat) (s : State) : Host.Outcome State Fault Refusal :=
  whenever ((peerOf s peer).ackDue.isSome) s fun s =>
    let hop := (routeOf s peer).getD peer
    if !queueTakes s hop 1 then scheduleOnce s (s.hc + 1) (.linkAckTimer peer)
    else
      let (tx, s) := takeTx s peer 0
      let m := framed s peer { Msg.blank with
        eth := decide (16 ≤ peer), src := if peer < 16 then selfIdx s else 0, dst := if peer < 16 then peer else 0,
        via := if peer < 16 then hop else peer - 16, rack := (peerOf s peer).rackIn, tx := tx, ts := tsWord s }
      let m := { m with tag := msgTag s peer 0xD m }
      let s := updPeer s peer fun x =>
        { x with ackDue := none,
                 sent := x.sent ++ [{ kind := 0xD, msg := m, left := msgFlits m, lastSent := s.ts, tries := 0, pass := true }] }
      scheduleOnce s (s.hc + 1) (.messageSend hop)

/-! ### The link send port (R342 to R344) -/

/-- lnk.peer, lnk.src, lnk.dst and lnk.len of a table of latches (R342). -/
def lnkPeerWord (l : Table Word) : Word := latchIn l 0x180
def lnkLen (l : Table Word) : Nat := wfld (latchIn l 0x183) 0 32

/-- The pair that a command names: an index of the group, or 16 and an Ethernet entry. -/
def lnkPair (l : Table Word) : Nat :=
  let w := lnkPeerWord l
  if wbitAt w 4 then 16 + wfld w 5 6 else wfld w 0 4

/-- Whether a trigger breaks R342 or names the package itself (R343). -/
def lnkBad (s : State) (l : Table Word) : Bool :=
  let w := lnkPeerWord l
  let n := lnkLen l
  latchBad 0x180 w ||
  (latchIn l 0x181).toNat % 8 != 0 || (latchIn l 0x182).toNat % 8 != 0 || n % 8 != 0 || decide (n < 8) ||
  decide (2 ^ 24 < n) || (!wbitAt w 4 && wfld w 0 4 == selfIdx s)

/-- trig.lnk: the port takes a snapshot of the latches (R343). -/
def execTrigLnk (s : State) : Host.Outcome State Fault Refusal :=
  gate .trigLnk s fun s =>
    let t := curTile s
    let lat := (curTask s).lat.filter fun e => 0x180 ≤ e.1
    if lnkBad s lat then .fault 0x30
    else if 16 ≤ (tileOf s t).lnk.length then .stall (noteStall s 10)
    else
      let n := (tileOf s t).lnkSeq
      let c : LnkCmd :=
        { n := n, task := curSlot s, lat := lat, offset := 0, taken := false, pendingSeqs := [], peer := lnkPair lat,
          eth := wbitAt (lnkPeerWord lat) 4, failed := false, entry := curEntry s, acceptedAt := s.hc,
          after := (curTask s).gaccNext }
      let s := updTile s t fun x => { x with lnkSeq := n + 1, lnk := x.lnk ++ [c] }
      .issue (scheduleOnce s (s.hc + 1) (.linkCommandTake t))

/-- A link command fails with a fault; its queued messages go on (R343, R344). -/
def failLnk (s : State) (t : Nat) (c : LnkCmd) (code : Nat) (addr : Word) : State :=
  let s := updTile s t fun x => endLnk x c
  scheduleOnce (checkWaits (tileFault s t 10 code addr) t) (s.hc + 1) (.linkCommandTake t)

/-- Whether the pair of a command can be reached (R343). -/
def lnkRoutes (s : State) (c : LnkCmd) : Bool :=
  if c.eth then (tget ({} : EthPeer) s.ethPeers (c.peer - 16)).v else isMember s c.peer && (routeOf s c.peer).isSome

/-- The next piece of a command is read and its write message queued (R343). -/
def sendPiece (s : State) (t : Nat) (c : LnkCmd) : State :=
  let dst := (latchIn c.lat 0x182).toNat + c.offset
  let src := (latchIn c.lat 0x181).toNat + c.offset
  let n := min (lnkLen c.lat - c.offset) (4096 - dst % 4096)
  let again := fun (s : State) => scheduleOnce s (s.hc + 1) (.linkCommandTake t)
  if !lnkRoutes s c then failLnk s t c 0x48 (BitVec.ofNat 64 dst)
  else if !queueRoom s c.peer 1 n then again s
  else match ensureUnit s t c.task (tileCtx s t) (BitVec.ofNat 64 src) false with
  | (false, s) => again s
  | (true, s) => match readGlobal s (tileCtx s t) src n with
    | .error (code, va) => failLnk s t c code (BitVec.ofNat 64 va)
    | .ok bs =>
      let s := postMessage s c.peer 0x1
        { Msg.blank with sctx := tileCtx s t % 64, rctx := wfld (lnkPeerWord c.lat) 16 6, va := BitVec.ofNat 64 dst,
                         ts := tsWord s, tile := t, payload := bs } (.port t c.n)
      let seq := ((peerOf s c.peer).nextSeq - 1).toNat
      let s := updTile s t fun x => { x with lnk := x.lnk.map fun d =>
        if d.n = c.n then { d with taken := true, offset := d.offset + n, pendingSeqs := d.pendingSeqs ++ [seq] } else d }
      scheduleOpen s (.linkCommandTake t)

/-- LINK_COMMAND_TAKE: the port takes the first command with bytes to queue, once the accesses before its trigger are
performed (R258, R343); a stopped task's commands wait (R344). -/
def execLinkCommandTake (t : Nat) (s : State) : Host.Outcome State Fault Refusal :=
  match (tileOf s t).lnk.find? fun c => decide (c.offset < lnkLen c.lat) with
  | none => .next s
  | some c =>
    if (taskOf s t c.task).st = .stopped then .next s
    else if earlierGlobal s t c.task c.after || earlierStores s t c.task c.acceptedAt then
      .next (scheduleOnce s (s.hc + 1) (.linkCommandTake t))
    else .next (sendPiece s t c)

/-! ### The connected group and its keys (R263, R337, R339) -/

/-- Whether no remote message is outstanding and every send queue is empty (R263, R337). -/
def linksQuiet (s : State) : Bool :=
  (waitingMsgs s).isEmpty && s.peers.all fun p =>
    p.2.waiting.isEmpty && p.2.sent.isEmpty && p.2.backlog.isEmpty && p.2.replies.isEmpty && p.2.stale.isNone && !atomicUnderWay s p.1

/-- A pair agrees a new secret, and its sequences restart (R337). -/
def freshPair (secret : Nat) : PeerState := { secret := secret }

/-- Every pair of members agrees a pair secret; a peer whose check fails is left out of mem; sequence numbers,
acknowledgements and causal clocks restart (R263, R337). -/
def agreeGroup (s : State) (word : Word) : State :=
  let self := wfld word 0 4
  let n := s.free
  let s := { s with free := s.free + 1 }
  let good := (List.range 16).filter fun q => wbitAt word (16 + q) && (q == self || Config.pairOk q n)
  let mem := good.foldl (fun m q => m + 2 ^ q) 0
  let eth := s.peers.filter fun p => 16 ≤ p.1
  let peers : Table PeerState := (good.filter (· != self)).map fun q => (q, freshPair (Config.pairSecret self q n))
  { s with sr := tset s.sr 0x214 (BitVec.ofNat 64 (self + 2 ^ 16 * mem)), peers := peers ++ eth, clockK := [], clockA := [],
           cgrpPend := none }

/-- Whether some traffic key of a pair has sent its message 2⁵⁵ (R339). -/
def PeerState.worn (x : PeerState) : Bool := x.txNext.any fun k => decide (2 ^ 55 < k.2)

/-- Whether the group's keys, or those of an Ethernet entry, are worn (R339). -/
def groupWorn (s : State) : Bool := s.peers.any fun p => decide (p.1 < 16) && p.2.worn
def ethWorn (s : State) : Bool := s.peers.any fun p => decide (16 ≤ p.1) && p.2.worn

/-- The pair secrets of the Ethernet entries whose keys are worn are agreed anew (R339). -/
def agreeEth (s : State) : State :=
  let n := s.free
  let ps : Table PeerState := s.peers.map fun p =>
    (p.1, if 16 ≤ p.1 && p.2.worn then freshPair (Config.pairSecret (selfIdx s) p.1 n) else p.2)
  { s with free := s.free + 1, peers := ps }

/-- KEY_REAGREEMENT: at the first quiet moment a pending change of the group is made, or worn pair secrets are agreed
anew (R337, R339). -/
def execKeyReagreement (s : State) : Host.Outcome State Fault Refusal :=
  let worn := groupWorn s
  let eth := ethWorn s
  if s.cgrpPend.isNone && !worn && !eth then .next s
  else if !linksQuiet s then .next (scheduleOnce s (s.hc + 1) .keyReagreement)
  else
    let s := match s.cgrpPend with
      | some w => agreeGroup s w
      | none => if worn then agreeGroup s (srWord s 0x214) else s
    .next (if eth then agreeEth s else s)

/-- A write of sr.cgrp: one that leaves mem as it is takes effect as any other; a change of mem is made at once where the links
are quiet, else it waits (R265, R337). -/
def writeCgrp (s : State) (x : Word) : State :=
  let w := x &&& 0xFFFF000F
  if wfld w 16 16 = wfld (srWord s 0x214) 16 16 && s.cgrpPend.isNone then { s with sr := tset s.sr 0x214 w }
  else if linksQuiet s then agreeGroup s w else scheduleOnce { s with cgrpPend := some w } (s.hc + 1) .keyReagreement

end Sys2Proof.Machine
end

