-- ==== Sys2Proof/Machine/Wave.lean ====
section
/-! DEFINITION. The wavelengths of the ports: training, parking, waking, hand-outs and retraining (spec/17 R330 to R333;
spec/23 R387, R388), and flits that their code cannot correct (R329). -/

namespace Sys2Proof.Machine

/-- sr.berlimit: corrected bits per window, retrain failures before dark (R333, R348). -/
def berLim (s : State) : Nat := wfld (srWord s 0x243) 0 16
def berRmax (s : State) : Nat := wfld (srWord s 0x243) 16 4

/-- Whether a port, a fibre and a wavelength exist (R328, R345). -/
def laneOk (k f l : Nat) : Bool := decide (k < 28) && (fibresOfPort k).contains f && (lanes k).contains l

/-- The wavelengths of a fibre that a decided change is to bring into the active set. -/
def joining (x : Fibre) : List Nat :=
  x.pending.flatMap fun c => match c with
    | .join ls => ls
    | .leave _ _ => []

/-- The wavelengths that a decided change is to take out of the active set. -/
def leaving (x : Fibre) : List Nat :=
  x.pending.filterMap fun c => match c with
    | .leave l _ => some l
    | .join _ => none

/-- TRAINING_END: training of a wavelength passes, and it joins the active set, or fails (R331). -/
def execTrainingEnd (port fib lam : Nat) (pass : Bool) (s : State) : Host.Outcome State Fault Refusal :=
  whenever (laneOk port fib lam && (waveOf (fibreOf s port fib) lam).st == .training &&
      !(joining (fibreOf s port fib)).contains lam) s fun s =>
    if pass then announce s port fib (.join [lam]) s.ts
    else
      let s := updWave s port fib lam fun w => { w with st := .dark }
      noteFailure s (321 + port) 2

/-- Whether a fibre may decide to park now (R332, R387). -/
def mayPark (s : State) (k f : Nat) : Bool :=
  let p := portOf s k
  decide (k < 16) && p.enabled && decide (400 ≤ parkBudget s) &&
  (match p.peer with
    | some q => queuedFlits s q == 0
    | none => true) &&
  decide (p.idleSince + parkIdle s ≤ s.ts) && decide (parkKeep s < (wavesIn s k f .up).length) &&
  (fibreOf s k f).pending.all fun c => c.park.isNone

/-- PARK_DECISION: an idle fibre parks its highest-numbered up wavelength (R332, R387). -/
def execParkDecision (port fib : Nat) (s : State) : Host.Outcome State Fault Refusal :=
  whenever (mayPark s port fib) s fun s =>
    let ls := (wavesIn s port fib .up).filter fun l => !(leaving (fibreOf s port fib)).contains l
    match ls.getLast? with
    | some l => if parkKeep s < ls.length then announce s port fib (.leave l false) (s.ts / 16 * 16) else s
    | none => s

/-- WAKE_TRIGGER: queue depth or an upcoming slot wakes a port's parked wavelengths (R332). -/
def execWakeTrigger (port : Nat) (s : State) : Host.Outcome State Fault Refusal :=
  whenever (decide (port < 16) && wakeDue s port) s fun s => wakePort s port

/-- WAKE_END: 400 ns after the trigger the waking wavelengths are announced to join (R330, R387). -/
def execWakeEnd (port fib : Nat) (s : State) : Host.Outcome State Fault Refusal :=
  let x := fibreOf s port fib
  let ls := (wavesIn s port fib .waking).filter fun l =>
    decide ((waveOf x l).since + 400 ≤ s.ts) && !(joining x).contains l
  whenever (!ls.isEmpty) s fun s => announce s port fib (.join ls) s.ts

/-- An announced change applies at time `at_`. -/
def applyChange (s : State) (k f at_ : Nat) (ch : LinkChange) : State :=
  match ch with
  | .join ls => ls.foldl (fun s l => updWave s k f l fun w => { w with st := .up, fails := 0 }) s
  | .leave l true => updWave s k f l fun w => { w with st := .retraining, since := at_, fails := 0 }
  | .leave l false =>
    if (waveOf (fibreOf s k f) l).wake then
      let s := updWave s k f l fun w => { w with st := .waking, since := at_, wake := false }
      scheduleAt s (at_ + 400) (.wakeEnd k f)
    else updWave s k f l fun w => { w with st := .parked }

/-- LINK_CHANGE_EFFECT: the announced changes whose boundary has come apply; a flit in progress at the boundary ends
first (R330, R331, R387). The next park decision may follow at the same boundary. -/
def execLinkChangeEffect (port fib : Nat) (s : State) : Host.Outcome State Fault Refusal :=
  let x := fibreOf s port fib
  let spans := fun (c : Nat × LinkChange) =>
    decide (x.started < 4200 * c.1) && decide (4200 * c.1 < x.busy) && decide (fineNow s < x.busy)
  let due := x.changes.filter fun c => decide (c.1 ≤ s.ts) && !spans c
  let late := x.changes.filter fun c => decide (c.1 ≤ s.ts) && spans c
  let s := if late.isEmpty then s else scheduleAt s (ceilDiv x.busy 4200) (.linkChangeEffect port fib)
  whenever (!due.isEmpty) s fun s =>
    let s := updFibre s port fib fun x => { x with changes := x.changes.filter fun c => !due.contains c }
    let s := due.foldl (fun s c => applyChange s port fib c.1 c.2) s
    let s := scheduleOnce s s.hc (.parkDecision port fib)
    match (portOf s port).peer with
    | some p => if wakeDue s port then wakePort (scheduleOnce s s.hc (.messageSend p)) port else scheduleOnce s s.hc (.messageSend p)
    | none => s

/-- BER_WINDOW_CLOSE: of a wavelength that is up the receiver adds a window's corrected bits to cbits and, over the limit,
orders a hand-out or counts a width-1 crossing; the bits of any other are not counted (R333, R348, R349) (log 67: DEDUCED). -/
def execBerWindowClose (port fib lam : Nat) (bits : BerWindow) (s : State) : Host.Outcome State Fault Refusal :=
  whenever (laneOk port fib lam && bits.up) s fun s =>
    updFibre s port fib fun x =>
      { x with cbits := x.cbits + BitVec.ofNat 32 bits.bits, hout := if berLim s < bits.bits then satCount x.hout else x.hout }

/-- HAND_OUT: a hand-out order reaches the sender: an up wavelength that is not the fibre's last leaves the active set to
be retrained; any other order is discarded (R333). -/
def execHandOut (port fib lam : Nat) (s : State) : Host.Outcome State Fault Refusal :=
  let x := fibreOf s port fib
  let stay := (wavesIn s port fib .up).filter fun l => l != lam && !(leaving x).contains l
  whenever (laneOk port fib lam && (waveOf x lam).st == .up && !(leaving x).contains lam && !stay.isEmpty) s fun s =>
    announce s port fib (.leave lam true) s.ts

/-- RETRAIN_ATTEMPT_END: at the receiver (`rx`) a retrain window's corrected bits join cbits. At the sender an attempt,
42,768 ns long, passes against the receiver's limit `lim` and the wavelength is handed back, or it fails: the next
attempt begins, or after rmax failures the wavelength goes dark, which a control flit announces (R331, R333, R388). -/
def execRetrainAttemptEnd (port fib lam bits lim : Nat) (rx : Bool) (s : State) : Host.Outcome State Fault Refusal :=
  let x := fibreOf s port fib
  let w := waveOf x lam
  if rx then
    whenever (laneOk port fib lam) s fun s => updFibre s port fib fun x => { x with cbits := x.cbits + BitVec.ofNat 32 bits }
  else
    whenever (laneOk port fib lam && w.st == .retraining && decide (w.since + 42768 ≤ s.ts) && !(joining x).contains lam) s
      fun s =>
        if bits ≤ max (lim / 8) 1 then announce s port fib (.join [lam]) s.ts
        else if berRmax s ≤ w.fails + 1 then
          announce (updWave s port fib lam fun w => { w with st := .dark, fails := w.fails + 1 }) port fib (.join []) s.ts
        else updWave s port fib lam fun w => { w with fails := w.fails + 1, since := s.ts }

/-- UNCORRECTABLE_FLIT: a received flit that its code cannot correct is discarded and counted (R329, R348). -/
def execUncorrectableFlit (port fib : Nat) (s : State) : Host.Outcome State Fault Refusal :=
  whenever (laneOk port fib 0) s fun s => updFibre s port fib fun x => { x with ucf := satCount x.ucf }

end Sys2Proof.Machine
end

