-- ==== Sys2Proof/Machine/Time.lean ====
section
/-! DEFINITION. The discipline of the global timestamp counter: the IEEE 1588 slave (spec/17 R346) and the 1PPS input
(R347); the times of the dampers' evaluations (spec/19 R367). -/

namespace Sys2Proof.Machine

/-- The source that sr.ttctl selects: 0 IEEE 1588, 1 1PPS, 2 free-running (R296). -/
def timeSource (s : State) : Nat := wfld (srWord s 0x221) 1 2

/-- The slew adds 1 ns, or takes it back, at most once in 2,000 ns of the counter: 500 ppm (R346). The rate within that
bound is the device's (log 4: DESIGN CHOICE). -/
def slewStep (s : State) : State :=
  let d := s.disc
  if d.slew = 0 || s.hc < d.slewFrom then s
  else
    let (n, s) := popDelay s
    let ts := if 0 < d.slew then s.ts + 1 else s.ts - 1
    let slew := if 0 < d.slew then d.slew - 1 else d.slew + 1
    retime { s with ts := ts, disc := { d with slew := slew, slewFrom := s.hc + 1400 + n } }

/-! ### What multiples of the counter set (R288, R289, R352, R367) -/

/-- Logical layer `l`. -/
def layerOf (s : State) (l : Nat) : Layer := tget {} s.layers l
/-- Changes a layer. -/
def updLayer (s : State) (l : Nat) (f : Layer → Layer) : State := { s with layers := tset s.layers l (f (layerOf s l)) }
/-- The mapped layers, lowest first. -/
def mappedLayers (s : State) : List Nat := List.range s.layermap.length

/-- The next multiple of a layer's interval on the timestamp counter after the last one that it was evaluated at. -/
def nextEval (s : State) (l : Nat) : Nat :=
  let n := 1000 * max 1 (layerOf s l).ivl
  ((layerOf s l).evalTs / n + 1) * n

/-- The next evaluation of any mapped layer is an event. -/
def watchDamper (s : State) : State :=
  match (mappedLayers s).map (nextEval s) with
  | [] => s
  | a :: r => scheduleAt (unschedule s .damperEvaluation) (r.foldl min a) .damperEvaluation

/-- The dampers of the layers evaluate from the counter's value on (R367). -/
def startDampers (s : State) : State :=
  (mappedLayers s).foldl (fun s l => updLayer s l fun x => { x with evalTs := s.ts }) s

/-- The interval at whose multiples a step falls. -/
def periodOf : Instr → Option Nat
  | .rotationBoundary => some 100000
  | .queueAdmission _ => some 250
  | .heartbeatSend _ => some 1000
  | _ => none

/-- What falls at multiples of an interval falls at the first one at or above the counter's new value. -/
def atMultiple (ts : Nat) (e : Pend) : Pend :=
  match e.ts, periodOf e.ev with
  | some t, some p => { e with ts := some (min t (ceilDiv ts p * p)) }
  | _, _ => e

/-- The counter is moved to a value: what global times set moves with it (R346, R347) (log 68: DEDUCED); where it goes back, what
multiples of an interval set comes again at those below the old value (R288, R352, R367). -/
def moveCounter (s : State) (ts : Nat) : State :=
  let s := retime { s with ts := ts, tsPhase := 0, events := s.events.map (atMultiple ts) }
  let s := (mappedLayers s).foldl (fun s l => updLayer s l fun x => { x with evalTs := min x.evalTs (ts - 1) }) s
  retimeCircuit (retimeTable (watchDamper s))

/-- Whether a message of the protocol is the slave's to use: the selected source, domain, port and transport (R346). -/
def ptpHeard (s : State) (p : PtpMsg) : Bool :=
  timeSource s == 0 && p.domain == wfld (srWord s 0x24C) 0 8 && p.port == wfld (srWord s 0x24C) 8 4 &&
  p.udp == wbitAt (srWord s 0x24C) 12

/-- Whether it comes from the selected master. -/
def fromMaster (s : State) (p : PtpMsg) : Bool :=
  ptpHeard s p && (match s.disc.master with
    | some m => m.2 == p.master
    | none => false)

/-- A delay request goes to the master; its time is that of the offset just taken (R346, log 131: DESIGN CHOICE). -/
def askDelay (s : State) : State :=
  { s with disc := { s.disc with reqSeq := some s.disc.reqNext, reqNext := (s.disc.reqNext + 1) % 65536, reqSent := s.ts } }

/-- A measured offset from the master: the first steps the counter forward only; from then on the counter is slewed. Lock
is 16 consecutive offsets within 100 ns (R346). -/
def takeOffset (s : State) (origin received : Int) : State :=
  let d := s.disc
  let off := received - origin - d.pathDelay
  let near := decide (off ≤ 100) && decide (-100 ≤ off)
  let good := if near then d.good + 1 else 0
  let d := { d with good := good, syncOrigin := some origin, syncRecv := received }
  let s := { s with locked := decide (16 ≤ good), disc := d }
  askDelay (if d.stepped then { s with disc := { d with slew := -off } }
    else if off < 0 then moveCounter { s with disc := { d with stepped := true, slew := 0 } } (s.ts + (-off).toNat)
    else { s with disc := { d with stepped := true, slew := -off } })

/-- PTP_SYNC: a one-step master's sync gives its offset; a two-step master's awaits its follow-up (R346). -/
def execPtpSync (p : PtpMsg) (s : State) : Host.Outcome State Fault Refusal :=
  whenever (fromMaster s p) s fun s =>
    if p.twoStep then { s with disc := { s.disc with syncSeq := p.seq, syncRecv := s.ts, syncOrigin := none } }
    else takeOffset { s with disc := { s.disc with syncSeq := p.seq } } p.origin s.ts

/-- PTP_FOLLOW_UP: the origin time of the sync that awaits it (R346). -/
def execPtpFollowUp (p : PtpMsg) (s : State) : Host.Outcome State Fault Refusal :=
  whenever (fromMaster s p && p.seq == s.disc.syncSeq && s.disc.syncOrigin.isNone) s fun s =>
    takeOffset s p.origin s.disc.syncRecv

/-- PTP_DELAY_RESP: the delay request under way, sent at a time of this counter, reached the master at `origin`: the mean of the
two ways is the path delay (R346). -/
def execPtpDelayResp (p : PtpMsg) (s : State) : Host.Outcome State Fault Refusal :=
  match s.disc.syncOrigin with
  | none => .next s
  | some o =>
    whenever (fromMaster s p && s.disc.reqSeq == some p.seq) s fun s =>
      { s with disc := { s.disc with
          reqSeq := none, pathDelay := ((s.disc.syncRecv - o) + (p.origin - s.disc.reqSent)) / 2 } }

/-- The hc in one announcement interval, 2 s, as the default profile of IEEE 1588 has it (R346, log 130: PRESUMED). -/
def announceHc : Nat := 1400000000

/-- The masters heard after an announcement: one whose last is older than four intervals is forgotten. -/
def hear (s : State) (p : PtpMsg) : List ForeignMaster :=
  let live := fun (h : Nat) => decide (s.hc ≤ h + 4 * announceHc)
  let before := ((s.disc.heard.find? fun f => f.num == p.master).map (·.seen)).getD []
  ⟨p.master, p.priority, (s.hc :: before).filter live |>.take 2⟩ ::
    s.disc.heard.filter fun f => f.num != p.master && f.seen.any live

/-- The best of the masters that take part: those announced twice within four intervals, and the one selected: the lowest rank,
then the lowest number (R346, log 130: PRESUMED). -/
def bestMaster (fs : List ForeignMaster) (cur : Option (Nat × Nat)) : Option (Nat × Nat) :=
  (fs.filter fun f => decide (2 ≤ f.seen.length) || cur.map (·.2) == some f.num).foldl (fun b f => match b with
    | none => some (f.rank, f.num)
    | some x => if f.rank < x.1 || (f.rank == x.1 && decide (f.num < x.2)) then some (f.rank, f.num) else b) none

/-- The slave follows a master, or none: a new one is measured anew. -/
def selectMaster (s : State) (m : Option (Nat × Nat)) : State :=
  if m.map (·.2) = s.disc.master.map (·.2) then { s with disc := { s.disc with master := m } }
  else { s with locked := false,
                disc := { s.disc with master := m, good := 0, syncOrigin := none, pathDelay := 0, reqSeq := none } }

/-- PTP_ANNOUNCE: a master is heard, and the best one selected (R346). -/
def execPtpAnnounce (p : PtpMsg) (s : State) : Host.Outcome State Fault Refusal :=
  whenever (ptpHeard s p) s fun s =>
    let s := { s with disc := { s.disc with heard := hear s p } }
    selectMaster s (bestMaster s.disc.heard s.disc.master)

/-- A master that has not announced itself for three intervals is given up for the best of the others (R346, log 130:
PRESUMED). -/
def watchMaster (s : State) : State :=
  match s.disc.master with
  | none => s
  | some m =>
    let lost := fun (f : ForeignMaster) => f.num == m.2 && f.seen.all fun h => decide (h + 3 * announceHc < s.hc)
    if s.disc.heard.any lost then
      let s := { s with disc := { s.disc with heard := s.disc.heard.filter fun f => !lost f } }
      selectMaster s (bestMaster s.disc.heard none)
    else s

/-- The number of hc in 1 s (R2). -/
def secondHc : Nat := 700000000

/-- PPS_EDGE: the counter takes the value of sr.todnext and is slewed until the next edge by an amount that the manual
leaves open (log 47: DEDUCED); lock holds while edges come 1 s ± 1 µs apart (R347). Line 8 interrupts the bellows core (R374). -/
def execPpsEdge (s : State) : Host.Outcome State Fault Refusal :=
  let s := raiseLine s 8
  whenever (timeSource s == 1) s fun s =>
    let ok := match s.disc.lastEdge with
      | some h => decide (h + secondHc ≤ s.hc + 700) && decide (s.hc ≤ h + secondHc + 700)
      | none => false
    let (w, s) := freshWord s
    let drift := Int.ofNat (w.toNat % 1000001) - 500000
    let s := { s with locked := ok, disc := { s.disc with lastEdge := some s.hc, slew := drift, slewFrom := s.hc + 1400 } }
    let s := schedule (unschedule s .ppsLockLost) (s.hc + secondHc + 701) .ppsLockLost
    moveCounter s (srWord s 0x24D).toNat

/-- PPS_LOCK_LOST: no edge has come within 1 s and 1 µs of the last one (R347). -/
def execPpsLockLost (s : State) : Host.Outcome State Fault Refusal :=
  let due := match s.disc.lastEdge with
    | some h => decide (h + secondHc + 700 < s.hc)
    | none => false
  whenever (timeSource s == 1 && due) s fun s => { s with locked := false }

end Sys2Proof.Machine
end

