-- ==== Sys2Proof/Machine/Health.lean ====
section
/-! DEFINITION. The tiles' health: heartbeats, votes, fences, sweeps and appeals (spec/18 R350 to R361). -/

namespace Sys2Proof.Machine

/-! ### Neighbours (R10, R361) -/

/-- The neighbour of a tile in a direction: 0 west, 1 north, 2 east, 3 south. -/
def neighbour (t dir : Nat) : Option Nat :=
  match dir with
  | 0 => if t % 8 = 0 then none else some (t - 1)
  | 1 => if t < 8 then none else some (t - 8)
  | 2 => if t % 8 = 7 then none else some (t + 1)
  | 3 => if 56 ≤ t then none else some (t + 8)
  | _ => none

/-- The other way round. -/
def opposite (dir : Nat) : Nat := (dir + 2) % 4

/-- A tile's neighbours with their directions. -/
def neighbours (t : Nat) : List (Nat × Nat) := ([0, 1, 2, 3] : List Nat).filterMap fun d => (neighbour t d).map fun n => (d, n)

/-- The neighbours that are neither fenced nor retired; a tile that appeals is still fenced (R350, R361). -/
def liveNeighbours (s : State) (t : Nat) : List (Nat × Nat) := (neighbours t).filter fun x => !closedTile s x.2

/-- A tile's quorum (R354). -/
def quorum (s : State) (t : Nat) : Nat := (liveNeighbours s t).length / 2 + 1

/-- Changes a tile's health. -/
def updHealth (s : State) (t : Nat) (f : Health → Health) : State := updTile s t fun x => { x with health := f x.health }
/-- A tile's health. -/
def healthOf (s : State) (t : Nat) : Health := (tileOf s t).health
/-- What a tile keeps for its neighbour in a direction. -/
def nbOf (h : Health) (dir : Nat) : Neighbour := tget {} h.nb dir
/-- Changes what a tile keeps for a neighbour. -/
def updNb (s : State) (t dir : Nat) (f : Neighbour → Neighbour) : State :=
  updHealth s t fun h => { h with nb := tset h.nb dir (f (nbOf h dir)) }

/-- The directions from which neighbours accuse a tile: sr.tilest.acc (R361). -/
def accusers (s : State) (t : Nat) : List Nat :=
  ((liveNeighbours s t).filter fun x => (nbOf (healthOf s x.2) (opposite x.1)).accused).map (·.1)

/-! ### Votes (R354) -/

/-- Whether two vote messages are of one series: the later one by its timestamp stands. -/
def sameSeries (a b : Vote) : Bool :=
  let say := fun (k : VoteKind) => k == .accuse || k == .withdraw
  a.accuser == b.accuser && a.accused == b.accused && say a.kind == say b.kind && (say a.kind || a.kind == b.kind)

/-- Whether a tile has seen a vote message. -/
def seenVote (h : Health) (v : Vote) : Bool := h.votes.any fun u => sameSeries u v && decide (v.ts ≤ u.ts)

/-- A tile keeps a vote message. -/
def keepVote (h : Health) (v : Vote) : Health := { h with votes := (h.votes.filter fun u => !sameSeries u v) ++ [v] }

/-- A vote message goes to every live neighbour but the accused. Each hop takes at most 11 hc, so that every live tile
has it within 1,000 ns (R354, log 4: DESIGN CHOICE). -/
def floodVote (s : State) (t : Nat) (v : Vote) : State :=
  (liveNeighbours s t).foldl (fun s x =>
    if x.2 = v.accused && v.kind != .appeal then s
    else
      let (d, s) := popDelay s
      schedule s (s.hc + 1 + min 10 d) (.voteMessage x.2 v)) s

/-- The n-th smallest of a list of numbers, from 1 on: fewer than n are below it, at least n are not above it. -/
def nthLeast (l : List Nat) (n : Nat) : Option Nat :=
  l.find? fun a => decide ((l.filter (· < a)).length < n) && decide (n ≤ (l.filter (· ≤ a)).length)

/-- The timestamps of the accusations, or the votes to accept, of a tile that a tile holds and that count
(log 69: DEDUCED). -/
def countedVotes (s : State) (viewer x : Nat) (k : VoteKind) : List Nat :=
  ((healthOf s viewer).votes.filter fun v =>
    v.accused == x && v.kind == k && (liveNeighbours s x).any fun n => n.2 == v.accuser).map (·.ts)

/-- The time of the vote that completed the quorum of a tile, as a viewer counts (R354). -/
def quorumAt (s : State) (viewer x : Nat) (k : VoteKind) : Option Nat :=
  if (liveNeighbours s x).isEmpty then none else nthLeast (countedVotes s viewer x k) (quorum s x)

/-- Whether a completing vote is earlier than the one that a declaration stands on: votes that reach a tile late can show that an
earlier one completed the quorum (R354). -/
def earlierThan (ts : Nat) : Option (Nat × Nat) → Bool
  | some d => decide (ts < d.2)
  | none => true

/-- A count that has reached its quorum is declared: a fence 2,000 ns after the completing accusation (R354), or the
return of an appealing tile (R360). -/
def judge (s : State) (viewer x : Nat) : State :=
  let h := healthOf s x
  if closedTile s x then
    if h.st = .appealing then
      match quorumAt s viewer x .accept, h.appealAt with
      | some ts, some a => if a ≤ ts && ts ≤ a + 100000 && earlierThan ts h.acceptAt then
          scheduleAt (updHealth s x fun h => { h with acceptAt := some (ts + 2000, ts) }) (ts + 2000) (.appealAccept x) else s
      | _, _ => s
    else s
  else match quorumAt s viewer x .accuse with
    | some ts =>
      if earlierThan ts h.fenceAt then
        scheduleAt (updHealth s x fun h => { h with fenceAt := some (ts + 2000, ts) }) (ts + 2000) (.fenceDeclaration x)
      else s
    | none => s

/-- A tile issues a vote message of its own: it keeps it, floods it and judges. -/
def issueVote (s : State) (t : Nat) (v : Vote) : State :=
  judge (floodVote (updHealth s t fun h => keepVote h v) t v) t v.accused

/-- A tile against which nothing is held any more returns to its prior state (R350, R351). -/
def refreshAccused (s : State) (t : Nat) : State :=
  let h := healthOf s t
  if h.st = .accused && (accusers s t).isEmpty then
    refreshRole (updHealth s t fun h => { h with st := h.prior, prior := .free }) t
  else s

/-- A tile accuses its neighbour (R353): the accused keeps its role as `prior` (R351). -/
def accuse (s : State) (t dir n : Nat) : State :=
  if (nbOf (healthOf s t) dir).accused || closedTile s n || closedTile s t then s
  else
    let s := updNb s t dir fun x => { x with accused := true, run := 0 }
    let s := updHealth s t fun h => { h with accd := satCount h.accd }
    let s := updHealth s n fun h => if h.st = .accused then h else { h with st := .accused, prior := h.st }
    issueVote s t { kind := .accuse, accuser := t, accused := n, ts := s.ts }

/-- An accuser withdraws (R353). -/
def withdraw (s : State) (t dir n : Nat) : State :=
  let s := updNb s t dir fun x => { x with accused := false }
  let s := issueVote s t { kind := .withdraw, accuser := t, accused := n, ts := s.ts }
  refreshAccused s n

/-- Whether a vote message no longer counts: its accuser has been fenced since (R355). -/
def voidVote (s : State) (v : Vote) : Bool := v.kind != .appeal && closedTile s v.accuser

/-- VOTE_MESSAGE: a tile that has not seen the message keeps it, forwards it, and judges (R354). -/
def execVoteMessage (t : Nat) (v : Vote) (s : State) : Host.Outcome State Fault Refusal :=
  whenever (decide (t < 64) && !closedTile s t && !seenVote (healthOf s t) v && !voidVote s v) s fun s => issueVote s t v

/-! ### Heartbeats (R352, R353) -/

/-- The state code of a tile (R350). -/
def TileSt.code : TileSt → Nat
  | .free => 0 | .bound => 1 | .running => 2 | .sweeping => 3 | .accused => 4 | .fenced => 5 | .appealing => 6 | .retired => 7

/-- The signed bits of a beat (R352). -/
def beatBits (b : Beat) : Word :=
  BitVec.ofNat 64 (b.seq.toNat + 2 ^ 16 * b.tile.toNat + 2 ^ 22 * b.st.toNat + 2 ^ 32 * b.stamp.toNat)

/-- The beat that a tile sends now. -/
def makeBeat (s : State) (t : Nat) (seq : BitVec 16) : Beat :=
  let b : Beat := { seq := seq, tile := BitVec.ofNat 6 t, st := BitVec.ofNat 3 (healthOf s t).st.code,
                    stamp := BitVec.ofNat 32 s.ts, sig := 0 }
  { b with sig := Config.beatSig s.beatKey (beatBits b) }

/-- Whether a tile beats (R352). -/
def beats (h : Health) : Bool := h.beating && h.st != .fenced && h.st != .retired

/-- A tile's beats leave in every direction; they cross a link in a few hc (log 4: DESIGN CHOICE). -/
def sendBeats (s : State) (t : Nat) : State :=
  (neighbours t).foldl (fun s x =>
    let seq := (nbOf (healthOf s t) x.1).sent + 1
    let b := makeBeat s t seq
    let s := updNb s t x.1 fun n => { n with sent := seq }
    let (d, s) := popDelay s
    schedule s (s.hc + 1 + min 3 d) (.heartbeatReceive x.2 (opposite x.1) b)) s

/-- HEARTBEAT_SEND: at each multiple of 1,000 ns a beating tile beats to each neighbour (R352), and counts the neighbours
of which no good beat has come in the period that ends (R361). -/
def execHeartbeatSend (t : Nat) (s : State) : Host.Outcome State Fault Refusal :=
  let s := scheduleAt (unschedule s (.heartbeatSend t)) ((s.ts / 1000 + 1) * 1000) (.heartbeatSend t)
  let late := (liveNeighbours s t).filter fun x => decide ((nbOf (healthOf s t) x.1).lastGood + 1000 < s.ts)
  let s := if closedTile s t then s
    else late.foldl (fun s _ => updHealth s t fun h => { h with miss := satCount h.miss }) s
  .next (if beats (healthOf s t) then sendBeats s t else s)

/-- Whether a scheduled beat is one that a tile sent in this ns. -/
def beatOf (t : Nat) (stamp : Word32) : Instr → Bool
  | .heartbeatReceive _ _ b => b.tile.toNat == t && b.stamp == stamp
  | _ => false

/-- A tile stops beating on all links at once; a stop at a beat's own instant comes before the beat (R352). -/
def stopBeating (s : State) (t : Nat) : State :=
  let now : Word32 := BitVec.ofNat 32 s.ts
  let sent := s.events.any fun e => beatOf t now e.ev
  let s := { s with events := s.events.filter fun e => !beatOf t now e.ev }
  let s := if sent then (neighbours t).foldl (fun s x => updNb s t x.1 fun n => { n with sent := n.sent - 1 }) s else s
  updHealth s t fun h => { h with beating := false }

/-- A babble event: the second within 8,000 ns accuses (R353). -/
def babble (s : State) (t dir n : Nat) : State :=
  let before := (nbOf (healthOf s t) dir).babbles.filter fun b => decide (s.ts ≤ b + 8000)
  let s := updNb s t dir fun x => { x with babbles := before ++ [s.ts], run := 0 }
  let s := updHealth s t fun h => { h with bab := satCount h.bab }
  if before.isEmpty then s else accuse s t dir n

/-- A good beat that is no babble event: sixteen in a row withdraw an accusation (R353), or vote to accept an appeal
(R360). -/
def goodBeat (s : State) (t dir n : Nat) : State :=
  let x := nbOf (healthOf s t) dir
  let gap := s.ts - x.lastGood
  let run := if 900 ≤ gap && gap ≤ 1100 then x.run + 1 else 1
  let s := updNb s t dir fun y => { y with lastGood := s.ts, run := run }
  if run < 16 then s
  else if x.accused then withdraw s t dir n
  else
    let v : Vote := { kind := .accept, accuser := t, accused := n, ts := s.ts }
    let done := (healthOf s t).votes.any fun u => u.kind == .accept && u.accuser == t && u.accused == n
    if (healthOf s n).st = .appealing && !done then issueVote s t v else s

/-- HEARTBEAT_RECEIVE: a beat is judged (R353); a tile that is closed only keeps the place in the series. -/
def execHeartbeatReceive (t dir : Nat) (b : Beat) (s : State) : Host.Outcome State Fault Refusal :=
  match (if t < 64 then neighbour t dir else none) with
  | none => .next s
  | some n =>
    let x := nbOf (healthOf s t) dir
    let true_ := b.tile.toNat == n && b.sig == Config.beatSig s.beatKey (beatBits b)
    let good := true_ && b.seq == x.expect + 1
    let s := if true_ then updNb s t dir fun y => { y with expect := b.seq } else s
    whenever (!closedTile s t) s fun s =>
      let s := scheduleOnce s (s.hc + 1) (.heartbeatSilence t dir)
      if !good then babble s t dir n
      else if s.ts < x.lastGood + 900 then babble (updNb s t dir fun y => { y with lastGood := s.ts }) t dir n
      else goodBeat s t dir n

/-- HEARTBEAT_SILENCE: a neighbour with no good beat for 4,050 ns is accused (R353). -/
def execHeartbeatSilence (t dir : Nat) (s : State) : Host.Outcome State Fault Refusal :=
  match (if t < 64 then neighbour t dir else none) with
  | none => .next s
  | some n =>
    let due := (nbOf (healthOf s t) dir).lastGood + 4050
    if s.ts < due then .next (scheduleAt s due (.heartbeatSilence t dir))
    else .next (accuse s t dir n)

/-- A tile begins to watch its neighbours (R353, R380): silence is counted from now. -/
def startWatch (s : State) (t : Nat) : State :=
  (neighbours t).foldl (fun s x =>
    scheduleAt (updNb s t x.1 fun y => { y with lastGood := s.ts }) (s.ts + 4050) (.heartbeatSilence t x.1)) s

/-- The live neighbours of a tile that rejoins judge its silence again (R353). -/
def watchTile (s : State) (t : Nat) : State :=
  (liveNeighbours s t).foldl (fun s x => scheduleOnce s (s.hc + 1) (.heartbeatSilence x.2 (opposite x.1))) s

/-! ### Fences (R355, R356) -/

/-- Whether a request on its way is dropped with the fenced tile `t`: its own single request, or a combined one that its router
was the last to forward as a list (R356). -/
def droppedReq (t : Nat) (q : AtomReq) : Bool :=
  (q.comps.length == 1 && q.comps.any fun c => c.tile == t) ||
  (decide (2 ≤ q.comps.length) && q.comps.any fun c => (c.via.head?.map (·.1)) == some t)

/-- The steps in flight that end with a fenced tile: its packets that have not been performed, what its agents would do,
replies owed to it (R356). -/
def diesWith (t : Nat) : Instr → Bool
  | .atomicPortArrival q | .combineRequestArrival _ q => droppedReq t q
  | .combineWindowExpiry r _ | .decombineReplyArrival r _ _ | .decombineRecordTimeout r _ => r == t
  | .globalWritePerform t' _ | .globalLoadReply t' _ _ | .fixedLatencyWrite t' _ | .issueSelection t'
  | .sshareStoreArrival t' _ _ _ _ | .atomicRetryExpiry t' _ _ | .sweepStart t' | .sweepWaitExpiry t' => t' == t
  | _ => false

/-- The packets that a fenced tile has sent and that have not been performed, dropped by routers that the manual does not
name (R356). -/
def dropSent (s : State) (t : Nat) : State :=
  let n := (s.events.filter fun e => match e.ev with
    | .atomicPortArrival q | .combineRequestArrival _ q => droppedReq t q
    | .decombineReplyArrival r _ _ => r == t
    | _ => false).length +
    ((tileOf s t).tasks.map fun k => (k.2.gacc.filter fun a => a.sent && !a.remote).length).sum
  let s := { s with events := s.events.filter fun e => !diesWith t e.ev }
  (List.range n).foldl (fun s _ =>
    let (w, s) := freshWord s
    updTile s (w.toNat % 64) fun x => { x with orphDrop := x.orphDrop + 1 }) s

/-- The requests that were on their way to the router of a fenced tile: the router before it drops each, with a notice to its
agents (R11, R356, R357). -/
def dropBound (s : State) (t : Nat) : State :=
  let bound := s.events.filter fun e => match e.ev with
    | .combineRequestArrival r _ => r == t
    | _ => false
  let s := { s with events := s.events.filter fun e => match e.ev with
    | .combineRequestArrival r _ => r != t
    | _ => true }
  bound.foldl (fun s e => match e.ev with
    | .combineRequestArrival _ q => dropAtomic s (dropRouter s ((q.comps.head?.map (·.tile)).getD t) t) q
    | _ => s) s

/-- A walk goes on for the other tiles that wait for it. -/
def Walk.without (w : Walk) (t : Nat) : Option Walk :=
  let also := w.also.filter fun u => u.1 != t
  if w.tile ≠ t then some { w with also := also }
  else match also with
    | u :: r => some { w with tile := u.1, task := u.2.1, unit := u.2.2, also := r }
    | [] => none

/-- A fenced tile's core issues nothing more, its slots are free, its engines' work ends, its floor, wells and registers
are zeroed, and it belongs to no context (R356). -/
def zeroTile (s : State) (t : Nat) : State :=
  let x := tileOf s t
  let s := cancelCmds s t (fun _ => true) (fun _ _ => true)
  let s := forgetAnswers (updTile s t fun x => { x with tasks := [] }) t
  let s := wakeWalks { s with walks := s.walks.filterMap fun w => w.without t }
  updTile s t fun _ =>
    { sshare := x.sshare, combwin := x.combwin, combComb := x.combComb, combOvf := x.combOvf, pfhAcc := x.pfhAcc,
      pfhDrop := x.pfhDrop, umiss := x.umiss, hmiss := x.hmiss, rwTot := x.rwTot, orphNtc := (tileOf s t).orphNtc,
      orphDrop := (tileOf s t).orphDrop, fluert := x.fluert, replays := x.replays, repair := x.repair, cpySeq := x.cpySeq, cubeSeq := x.cubeSeq,
      lnkSeq := x.lnkSeq, atomRecs := x.atomRecs, chktol := x.chktol, health := x.health }

/-- sr.swstat shows a sweep that runs, if one does (R359): the one that it showed last, else the lowest tile's. -/
def showSweep (s : State) : State :=
  if (healthOf s s.sweep.cur).testing then { s with sweep := { s.sweep with act := true } }
  else match (List.range 64).find? fun t => (healthOf s t).testing with
    | some t => { s with sweep := { s.sweep with cur := t, act := true } }
    | none => { s with sweep := { s.sweep with act := false } }

/-- The members that stand on a tile: group and rank. -/
def membersOn (s : State) (t : Nat) : List (Nat × Nat) :=
  s.groups.flatMap fun g => if g.st == .forming || g.st == .saved then [] else
    (g.liveRanks.filter fun r => g.tile r == t && (taskOf s t (g.slot r)).gid == some g.gid).map fun r => (g.gid, r)

/-- A tile is fenced (R355, R356): its beats stop, its accusations and those against it no longer count, its groups lose
their members, it is zeroed, and, unless a bond-suspect event stopped it, its appeal sweep begins (R360). -/
def fenceTile (s : State) (t : Nat) : State :=
  let ms := membersOn s t
  let s := stopBeating (ms.foldl (fun s m => exchangeFirst s m.1) s) t
  let s := updHealth s t fun h =>
    { h with st := .fenced, prior := .free, fenceAt := none, appealAt := none, acceptAt := none, testing := false,
             nb := h.nb.map fun n => (n.1, { n.2 with accused := false, babbles := [], run := 0 }) }
  let tiles : Table Tile := s.tiles.map fun x =>
    (x.1, { x.2 with health := { x.2.health with votes := x.2.health.votes.filter fun v => v.accuser != t && v.accused != t } })
  let s := { s with tiles := tiles }
  let s := (neighbours t).foldl (fun s x => updNb s x.2 (opposite x.1) fun y => { y with accused := false, babbles := [], run := 0 }) s
  let s := showSweep s
  let s := if s.sweep.waiting = some t then { s with sweep := { s.sweep with waiting := none } } else s
  let s := zeroTile (dropBound (dropSent s t) t) t
  let s := ms.foldl (fun s m => fenceMember s m.1 m.2) s
  let s := (neighbours t).foldl (fun s x => refreshAccused s x.2) s
  if (healthOf s t).bond then s else scheduleOnce s (s.hc + 1) (.sweepStart t)

/-- A tile without a live neighbour fences itself (R355). -/
def fenceIsolated (s : State) : State :=
  (List.range 64).foldl (fun s t =>
    if !closedTile s t && (liveNeighbours s t).isEmpty then fenceTile s t else s) s

/-- A live tile that sees the votes: every live tile holds the same ones by the time they are judged (R354). -/
def viewerOf (s : State) (x : Nat) : Nat :=
  (((liveNeighbours s x).map (·.2)).head?).getD x

/-- Every open count is judged again; a pending declaration whose quorum no longer holds is cancelled (R355). -/
def rejudge (s : State) : State :=
  (List.range 64).foldl (fun s x =>
    let v := viewerOf s x
    if closedTile s x then s
    else if (healthOf s x).fenceAt.isSome && (quorumAt s v x .accuse).isNone then updHealth s x fun h => { h with fenceAt := none }
    else judge s v x) s

/-- The pending declarations whose time has come, in the order of their ts, then of the accused (R355). -/
def dueFence (s : State) : Option Nat :=
  ((List.range 64).filter fun x => match (healthOf s x).fenceAt with
    | some (td, _) => decide (td ≤ s.ts) && !closedTile s x
    | none => false).foldl (fun b x => match b with
      | none => some x
      | some y => match (healthOf s x).fenceAt, (healthOf s y).fenceAt with
        | some (_, a), some (_, c) => if a < c then some x else b
        | _, _ => b) none

/-- The due declarations are applied one after the other. -/
def applyFences : Nat → State → State
  | 0, s => s
  | fuel + 1, s =>
    match dueFence s with
    | none => s
    | some x =>
      if (quorumAt s (viewerOf s x) x .accuse).isNone then
        applyFences fuel (updHealth s x fun h => { h with fenceAt := none })
      else applyFences fuel (rejudge (fenceIsolated (fenceTile s x)))

/-- FENCE_DECLARATION: at td the declarations that are due are applied (R354, R355). -/
def execFenceDeclaration (t : Nat) (s : State) : Host.Outcome State Fault Refusal :=
  match (healthOf s t).fenceAt with
  | none => .next s
  | some (td, _) => if s.ts < td then .next (scheduleAt s td (.fenceDeclaration t)) else .next (applyFences 64 s)

/-! ### Sweeps (R358 to R360) -/

/-- The tile next in turn after `t`: neither fenced nor retired; `t` itself where there is no other. -/
def nextInTurn (s : State) (t : Nat) : Nat :=
  (((List.range 64).map fun i => (t + 1 + i) % 64).find? fun x => !closedTile s x).getD t

/-- The fenced tiles that the rotation passes on its way from `t` to `n`. -/
def passed (t n : Nat) : List Nat := (((List.range 64).map fun i => (t + 1 + i) % 64).takeWhile (· != n))

/-- The rotation moves on; a fenced tile whose appeal was refused, or whose sweep failed, sweeps again at its turn
(R360). -/
def advanceTurn (s : State) (t : Nat) : State :=
  let n := nextInTurn s t
  let again := (passed t n).filter fun x =>
    (healthOf s x).st == .fenced && !(healthOf s x).testing && !(healthOf s x).bond
  again.foldl (fun s x => scheduleOnce s (s.hc + 1) (.sweepStart x)) { s with sweep := { s.sweep with next := n, waiting := none } }

/-- SWEEP_ROTATION: every ivl ms the tile next in turn is to be swept as soon as it is free (R359). -/
def execSweepRotation (s : State) : Host.Outcome State Fault Refusal :=
  let s := scheduleAt (unschedule s .sweepRotation) (s.ts + 1000000 * s.sweep.ivl) .sweepRotation
  whenever (s.sweep.en && s.sweep.waiting.isNone) s fun s =>
    let t := s.sweep.next
    let s := if closedTile s t then advanceTurn s t else s
    let t := s.sweep.next
    if closedTile s t then s
    else
      let s := { s with sweep := { s.sweep with waiting := some t } }
      scheduleAt (scheduleOnce s s.hc (.sweepStart t)) (s.ts + 1000000 * s.sweep.wait) (.sweepWaitExpiry t)

/-- A stopped island's clocks are to run again, within 2 µs (R21, log 4: DESIGN CHOICE). -/
def restartIsland (s : State) (n : Nat) : State :=
  let x : Island := tget {} s.islands n
  if x.run then s
  else
    let (d, s) := popDelay s
    schedule { s with islands := tset s.islands n { x with run := true } } (s.hc + min (usToHc 2) (1 + d)) (.islandRestartEnd n)

/-- A sweep of a tile begins; it takes at most 2.2 ms, and what its patterns find is open (R359) (log 124: DESIGN CHOICE). -/
def beginSweep (s : State) (t : Nat) : State :=
  let s := updHealth s t fun h => { h with testing := true, sweepStart := tsWord s }
  let s := { s with sweep := { s.sweep with cur := t, act := true } }
  let (pass, s) := freshBool s
  let (pat, s) := freshByte s
  let (d, s) := popDelay s
  schedule s (s.hc + min (usToHc 2200) (1 + d)) (.sweepEnd t pat.toNat pass)

/-- SWEEP_START: the tile in turn begins its sweep once it is free (R359); a fenced tile begins its appeal sweep
(R360). -/
def execSweepStart (t : Nat) (s : State) : Host.Outcome State Fault Refusal :=
  let h := healthOf s t
  if h.st = .fenced && !h.bond && !h.testing && !islandRuns s t then
    .next (scheduleOnce (restartIsland s t) (s.hc + 1) (.sweepStart t))
  else if h.st = .fenced && !h.bond && !h.testing then .next (beginSweep s t)
  else if s.sweep.waiting != some t then .next s
  else if h.st = .free && !islandRuns s t then .next (scheduleOnce (restartIsland s t) (s.hc + 1) (.sweepStart t))
  else if h.st = .free then .next (advanceTurn (beginSweep (updHealth s t fun h => { h with st := .sweeping }) t) t)
  else .next (scheduleOnce s (s.hc + 1) (.sweepStart t))

/-- SWEEP_WAIT_EXPIRY: a tile that has not become free is skipped, and the skip counted (R359). -/
def execSweepWaitExpiry (t : Nat) (s : State) : Host.Outcome State Fault Refusal :=
  whenever (s.sweep.waiting == some t) s fun s =>
    advanceTurn (unschedule { s with sweep := { s.sweep with skip := satCount s.sweep.skip } } (.sweepStart t)) t

/-- A failed sweep: its suspect window, the error bank, the interrupt (R358). -/
def failSweep (s : State) (t pat : Nat) : State :=
  let s := updHealth s t fun h =>
    { h with swsus0 := h.lastpass, swsus1 := h.sweepStart, sv := true, pat := BitVec.ofNat 8 pat }
  let s := noteFailure s t 3
  raiseLine { s with sweep := { s.sweep with fail := satCount s.sweep.fail } } 1

/-- SWEEP_END: a passed sweep sets lastpass and frees the tile, or begins its appeal; a failed one records its window and
stops the tile's beats (R351, R352, R358, R360). -/
def execSweepEnd (t pat : Nat) (pass : Bool) (s : State) : Host.Outcome State Fault Refusal :=
  let h := healthOf s t
  let swept := h.st == .sweeping || (h.st == .accused && h.prior == .sweeping)
  whenever (h.testing && (swept || h.st == .fenced)) s fun s =>
    let s := showSweep (updHealth s t fun h => { h with testing := false })
    if h.st = .fenced then
      if pass then
        let s := updHealth s t fun h =>
          { h with st := .appealing, beating := true, lastpass := h.sweepStart, appealAt := some s.ts, acceptAt := none }
        let s := scheduleAt s (s.ts + 100000) (.appealTimeout t)
        floodVote s t { kind := .appeal, accuser := t, accused := t, ts := s.ts }
      else failSweep s t pat
    else if pass then
      updHealth s t fun h =>
        if h.st = .accused then { h with prior := .free, lastpass := h.sweepStart }
        else { h with st := .free, lastpass := h.sweepStart }
    else failSweep (stopBeating s t) t pat

/-- APPEAL_ACCEPT: at ta the tile rejoins as a free tile (R360). -/
def execAppealAccept (t : Nat) (s : State) : Host.Outcome State Fault Refusal :=
  match (healthOf s t).acceptAt with
  | none => .next s
  | some (ta, _) =>
    if s.ts < ta then .next (scheduleAt s ta (.appealAccept t))
    else
      let s := updHealth s t fun h => { h with st := .free, prior := .free, afail := 0, appealAt := none, acceptAt := none }
      let tiles : Table Tile := s.tiles.map fun x =>
        (x.1, { x.2 with health := { x.2.health with votes := x.2.health.votes.filter fun v => v.accused != t } })
      .next (watchTile (startWatch { s with tiles := tiles } t) t)

/-- A fenced tile is retired: it no longer beats and is closed until the next kindling (R11, R350). -/
def retireTile (s : State) (t : Nat) : State :=
  showSweep (updHealth (stopBeating s t) t fun h => { h with st := .retired, testing := false })

/-- APPEAL_TIMEOUT: an appeal without its quorum in 100 µs is refused; after tries refusals the tile is retired (R360). -/
def execAppealTimeout (t : Nat) (s : State) : Host.Outcome State Fault Refusal :=
  let h := healthOf s t
  match h.appealAt with
  | none => .next s
  | some a =>
    whenever (h.st == .appealing && h.acceptAt.isNone && decide (a + 100000 ≤ s.ts)) s fun s =>
      let s := stopBeating s t
      let s := updHealth s t fun h => { h with st := .fenced, afail := min 15 (h.afail + 1), appealAt := none }
      let tiles : Table Tile := s.tiles.map fun x =>
        (x.1, { x.2 with health := { x.2.health with votes := x.2.health.votes.filter fun v => v.accused != t } })
      let s := { s with tiles := tiles }
      if s.sweep.tries ≤ h.afail + 1 then retireTile s t else s

end Sys2Proof.Machine
end

