-- ==== Sys2Proof/Machine/Layer.lean ====
section
/-! DEFINITION. The layers: sensors and dampers (spec/19 R366 to R368), flues and their repair (R365, R369, R371), bonds
(R372), and the restart of an island (spec/01 R21). -/

namespace Sys2Proof.Machine

/-- The temperature of a layer: the largest of its sensors (R366). -/
def layerTemp (x : Layer) : Int :=
  match x.temps.map (·.toInt) with
  | [] => 0
  | a :: r => r.foldl max a

/-- sr.dmppwr: power limit and hysteresis in W (R368). -/
def powerLim (s : State) : Nat := wfld (srWord s 0x268) 0 12
def powerHys (s : State) : Nat := wfld (srWord s 0x268) 32 8

/-- A change of a damper step is an event (R367, R368): cause 0 temperature up, 1 down, 2 manual, 3 critical, 4 power. Of the
events of one ns that of the highest source number is the last (R306). -/
def setDamper (s : State) (l d cause : Nat) : State :=
  let old := (layerOf s l).d
  if old = d then s
  else if s.ts = s.dmpTs.toNat && stampBefore (s.ts, srcDamper l) (s.dmpTs.toNat, srcDamper s.dmpLyr) then
    { updLayer s l fun x => { x with d := d } with dmpCnt := s.dmpCnt + 1 }
  else
    { updLayer s l fun x => { x with d := d } with
      dmpOld := old, dmpNew := d, dmpLyr := l, dmpCause := cause, dmpCnt := s.dmpCnt + 1, dmpTs := tsWord s }

/-- The critical rule, in both modes at once (R367) (log 54: DEDUCED). -/
def critical (x : Layer) : Bool := decide (x.crit.toInt ≤ layerTemp x)

/-- One evaluation of a layer's damper (R367). -/
def evaluate (s : State) (l : Nat) : State :=
  let x := layerOf s l
  let t := layerTemp x
  if critical x then setDamper s l x.dmax 3
  else if !x.auto then setDamper s l x.man 2
  else if x.hi.toInt ≤ t then setDamper s l (min (x.d + 1) x.dmax) 0
  else if powerLim s < s.power then setDamper s l (min (x.d + 1) x.dmax) 4
  else if t ≤ x.hi.toInt - x.hys.toNat && s.power + powerHys s ≤ powerLim s then setDamper s l (max (x.d - 1) x.dmin) 1
  else s

/-- The alert of a layer interrupts once, and is armed again below alert − hys (R367). -/
def judgeAlert (s : State) (l : Nat) : State :=
  let x := layerOf s l
  let t := layerTemp x
  if x.alert.toInt ≤ t then
    (if x.armed then raiseLine (updLayer s l fun x => { x with armed := false }) 2 else s)
  else if t ≤ x.alert.toInt - x.hys.toNat then updLayer s l fun x => { x with armed := true }
  else s

/-- The mapped layers take the latest sample of their sensors (R366, R367). -/
def takeSample (s : State) : State :=
  (mappedLayers s).foldl (fun s l => updLayer s l fun x => { x with temps := (s.sample.drop (16 * l)).take 16 }) s

/-- The rail voltages of the islands as they are sampled (R4, R21). -/
def measureRails (s : State) (volts : List (BitVec 12)) : State :=
  { s with islands := (volts.take 72).zipIdx.foldl (fun m v =>
      tset m v.2 { (tget {} m v.2 : Island) with vmeas := v.1.toNat }) s.islands }

/-- `n` fresh free words. -/
def freshWords (s : State) : Nat → List Word × State
  | 0 => ([], s)
  | n + 1 =>
    let (w, s) := freshWord s
    let (r, s) := freshWords s n
    (w :: r, s)

/-- Whether a step is a sample. -/
def isSample : Instr → Bool
  | .sensorSample _ _ => true
  | _ => false

/-- The next sample is taken 1 µs later; what it measures is open (R4, R366) (log 125: DESIGN CHOICE). -/
def nextSample (s : State) : State :=
  if s.events.any fun e => isSample e.ev then s
  else
    let (p, s) := freshWord s
    let (vs, s) := freshWords s 72
    let (ts, s) := freshWords s 128
    schedule s (s.hc + usToHc 1) (.sensorSample ⟨p.toNat % 4096, vs.map (·.setWidth 12)⟩ (ts.map (·.setWidth 16)))

/-- SENSOR_SAMPLE: every 1 µs the sensors of the mapped layers, sixteen each from L0 up, the package power and the rail
voltages are read; the critical rule and the alert are judged (R4, R366, R367). -/
def execSensorSample (power : Rails) (temps : List (BitVec 16)) (s : State) : Host.Outcome State Fault Refusal :=
  .next (nextSample ((mappedLayers s).foldl (fun s l =>
    judgeAlert (if critical (layerOf s l) then setDamper s l (layerOf s l).dmax 3 else s) l)
    (takeSample (measureRails { s with power := power.power, sample := temps } power.volts))))

/-- DAMPER_EVALUATION: each mapped layer whose interval has passed a multiple is evaluated (R367). -/
def execDamperEvaluation (s : State) : Host.Outcome State Fault Refusal :=
  let due := (mappedLayers s).filter fun l =>
    let n := 1000 * max 1 (layerOf s l).ivl
    decide ((layerOf s l).evalTs / n < s.ts / n)
  .next (watchDamper (due.foldl (fun s l => evaluate (updLayer s l fun x => { x with evalTs := s.ts }) l) s))

/-! ### Flues (R365, R369, R371) -/

/-- Whether a die has lost its path to some tile (R364, R365). -/
def dieCut (s : State) (p : Nat) : Bool := (List.range 64).any fun t => pathLost s t 0 p

/-- The mapped dies that a retirement has cut off fail: recorded in the bank of each tile that has lost its path to one, reported
on line 3 (R365). -/
def failDies (s : State) : State :=
  (s.layermap.filter fun p => tget .present s.dies p == .mapped && dieCut s p).foldl (fun s p =>
    let lost := (List.range 64).filter fun t => pathLost s t 0 p
    raiseLine (lost.foldl (fun s t => noteFailure s t 3) { s with dies := tset s.dies p .failed }) 3) s

/-- A flue's bit in sr.fluert is set; the die may fail (R365, R371). -/
def retireFlue (s : State) (t b f : Nat) : State :=
  failDies (updTile s t fun x => { x with fluert := x.fluert ||| (1 <<< (4 * b + f)) })

/-- Whether an event is a request on its way to bank `f` of a tile's floor. -/
def forBank (t f : Nat) : Instr → Bool
  | .atomicPortArrival q => q.port == .floor t && slotOf q.addr / 128 == f
  | _ => false

/-- A request on its way to a bank as the bank's repair begins: its read counts as performed (R371) (log 109: DESIGN CHOICE). -/
def markRead : Instr → Instr
  | .atomicPortArrival q => .atomicPortArrival { q with att := some 64 }
  | i => i

/-- Whether flue `f` of boundary `b` of a tile is in use: neither retired nor under its bank's repair. -/
def flueLive (s : State) (t b f : Nat) : Bool :=
  decide (t < 64) && decide (b < 9) && decide (f < 4) && !(tileOf s t).fluert.getLsbD (4 * b + f) &&
    !(b == 0 && (tileOf s t).repair.contains f)

/-- A flue in use fails: it is retired and detoured (R369); at boundary 0 its floor bank is repaired first (R371). -/
def failFlue (s : State) (t b f : Nat) : State :=
  if flueLive s t b f then
    let s := raiseLine s 3
    if b = 0 then
      updTile { s with events := s.events.map fun e => if forBank t f e.ev then { e with ev := markRead e.ev } else e } t
        fun x => { x with repair := f :: x.repair }
    else retireFlue s t b f
  else s

/-- FLUE_RETIREMENT (R369, R371). -/
def execFlueRetirement (t b f : Nat) (s : State) : Host.Outcome State Fault Refusal := .next (failFlue s t b f)

/-- A replay is counted against its flue: one that fails, or the 65th in 1 ms, retires the flue (R369). -/
def countReplay (s : State) (t : Nat) (r : FlueReplay) : State :=
  if 64 ≤ t || 9 ≤ r.boundary || 4 ≤ r.flue then s
  else
    let k := 4 * r.boundary + r.flue
    let recent := (tget [] (tileOf s t).replays k).filter fun h => decide (s.hc < h + usToHc 1000)
    let s := updTile s t fun x => { x with replays := tset x.replays k (s.hc :: recent) }
    if r.fails || 64 ≤ recent.length then failFlue s t r.boundary r.flue else s

/-- FLUE_BEAT_REPLAY: a flue beat with a corrected soft error is replayed: the hold line of its operation is
asserted for 2 hc (R151), and the replay counts against its flue (R369). -/
def execFlueBeatReplay (t : Nat) (n : FlueReplay) (s : State) : Host.Outcome State Fault Refusal :=
  match opOf s t n.op with
  | none => .next s
  | some o =>
    whenever (o.st == .staging || o.st == .running || o.st == .rising || o.st == .draining) s fun s =>
      let s := countReplay (updOp s t n.op fun o => { o with holdLeft := o.holdLeft + 2 }) t n
      if o.st = .staging then scheduleOnce s s.hc (.cubeStagingEnd t n.op) else s

/-- The requests whose read a bank had performed as its repair began: their write may be found unable to land. -/
def stuckAt (t f : Nat) : Instr → Bool
  | .atomicPortArrival q => forBank t f (.atomicPortArrival q) && q.att == some 64
  | _ => false

/-- FLOOR_BANK_REPAIR_END: the bank resumes and the flue's bit is set. Where the write of a read-modify-write cannot land
it is not performed (R200, R371). -/
def execFloorBankRepairEnd (t f : Nat) (lands : Bool) (s : State) : Host.Outcome State Fault Refusal :=
  whenever (decide (t < 64) && (tileOf s t).repair.contains f) s fun s =>
    let stuck := if lands then [] else s.events.filter fun e => stuckAt t f e.ev
    let s := { s with events := s.events.filter fun e => lands || !stuckAt t f e.ev }
    let s := stuck.foldl (fun s e => match e.ev with
      | .atomicPortArrival q => sendReply s (some t) { status := 1, olds := q.comps.map fun c => (c, 0), combined := false }
      | _ => s) s
    retireFlue (updTile s t fun x => { x with repair := x.repair.filter (· != f) }) t 0 f

/-! ### Bonds and islands (R21, R372) -/

/-- BOND_SUSPECT_DROOP: the tile of an island 0 to 63 stops beating and does not appeal; a droop of the other islands is a
regulator event (R372). -/
def execBondSuspectDroop (isl : Nat) (s : State) : Host.Outcome State Fault Refusal :=
  if isl < 64 then
    let s := showSweep (updHealth (stopBeating s isl) isl fun h => { h with bond := true, testing := false })
    let s := noteFailure { s with bondst := s.bondst ||| (1 <<< isl) } isl 3
    .next (raiseLine s 4)
  else whenever (decide (isl < 72)) s fun s => noteFailure s 320 3

/-- ISLAND_RESTART_END: a restarted island's clocks run again (R21). -/
def execIslandRestartEnd (isl : Nat) (s : State) : Host.Outcome State Fault Refusal :=
  let x : Island := tget {} s.islands isl
  whenever x.run s fun s => { s with islands := tset s.islands isl { x with act := true } }

end Sys2Proof.Machine
end

