-- ==== Sys2Proof/Machine/Access.lean ====
section
/-! DEFINITION. The system registers (spec/03 R60; spec/01 R4, R5): reading and writing each by its number, and the steps
that a read or write with an effect of its own is (spec/95). -/

namespace Sys2Proof.Machine

/-- A field of a register's word: `v` at bit `lo`, `n` bits wide. -/
def put (lo n v : Nat) : Nat := v % 2 ^ n * 2 ^ lo
/-- A one-bit field. -/
def putB (lo : Nat) (b : Bool) : Nat := b.toNat * 2 ^ lo
/-- The bits `lo` to `lo + n − 1` of a word, in place. -/
def keepBits (w : Word) (lo n : Nat) : Word := BitVec.ofNat 64 (put lo n (wfld w lo n))
/-- A word with one field taken from another. -/
def setField (w x : Word) (lo n : Nat) : Word := (w &&& ~~~(BitVec.ofNat 64 ((2 ^ n - 1) * 2 ^ lo))) ||| keepBits x lo n

/-! ### State codes -/

/-- The code of a task slot's state (R87). -/
def TaskSt.code : TaskSt → Nat
  | .free => 0 | .bound => 1 | .ready => 2 | .issuing => 3 | .parked => 4 | .held => 5 | .stopped => 6 | .retired => 7

/-- The code of a context's state (R297). -/
def CtxSt.code : CtxSt → Nat
  | .empty => 0 | .loading => 1 | .runnable => 2 | .running => 3 | .halting => 4 | .halted => 5 | .preempting => 6
  | .saved => 7 | .destroyed => 8

/-- The code of a die's state (R363). -/
def DieSt.code : DieSt → Nat
  | .present => 0 | .tested => 1 | .mapped => 2 | .spare => 3 | .failed => 4

/-- The code of a loop mark (R104). -/
def Mark.code : Mark → Nat
  | .T => 0 | .C => 1 | .L => 2

/-! ### Task-slot registers (R60, R90, R104, R110, R275) -/

/-- The value that a slot's own write of a register will have, once it can be read (R111). -/
def writtenSr (t : Task) (num : Nat) : Option Word := ((t.srNew.filter fun e => e.1 == num).getLast?).map fun e => e.2.2

/-- The stage predicates of the executing bundle (R104). -/
def curQ (s : State) : BitVec 8 := match bundleAt (curTask s) s.cur.n with
  | some b => b.q
  | none => 0xFF

/-- A loop register: its kind (0 ctl, 1 cnt, 2 idx, 3 beg, 4 lim, 5 org, 6 str) and level (R104); the mark shows the
kernel table's from the bind on, also for a level that is not active (log 103: DEDUCED). -/
def loopReg (t : Task) (ls : Table Loop) (kind l : Nat) : Option Word :=
  let x := loopIn ls l
  if 6 ≤ l then none
  else match kind with
    | 0 => some (BitVec.ofNat 64 (putB 0 x.act + put 1 3 x.dm1 + put 4 8 x.lenm1 + put 12 2 (((t.marks.drop l).headD .T).code) +
        putB 14 x.drn))
    | 1 => some x.cnt
    | 2 => some x.idx
    | 3 => some x.beg
    | 4 => some x.lim
    | 5 => some x.org
    | 6 => some x.str
    | _ => none

/-- A task-slot register of the executing core. -/
def readSlotSr (s : State) (num : Nat) : Option Word :=
  let t := curTask s
  let b := s.bellows
  match num with
  | 0x008 => if onBellows s then some b.evec else none
  | 0x009 => if onBellows s then some b.epc else none
  | 0x00A => if onBellows s then some (BitVec.ofNat 64 (b.ecode.toNat + put 16 8 b.eclass.toNat)) else none
  | 0x00B => if onBellows s then some (BitVec.ofNat 64 (putB 0 b.inh + putB 1 b.ie)) else none
  | 0x010 => some ((writtenSr t 0x010).getD (condWord t.pendMode))
  | 0x011 => some (BitVec.ofNat 64 (curSlot s))
  | 0x012 => some (t.kimg &&& 0xFFFFFFFFFFFFFFC0)
  | 0x058 => some ((curQ s).setWidth 64)
  | n => if 0x020 ≤ n && n < 0x058 then loopReg t (curLoops s) ((n - 0x020) / 8) (n % 8) else none

/-! ### Tile registers -/

/-- The group of a task slot, if it holds a task of a placed one. -/
def slotGroup (s : State) (t k : Nat) : Option (Group × Nat) :=
  let x := taskOf s t k
  if !x.st.occupied then none else (x.gid.bind (groupOf s)).map fun g => (g, x.rank)

/-- sr.gcfg (R230). -/
def gcfgWord (g : Group) : Nat :=
  put 0 6 g.gid + put 8 3 g.x0 + put 11 3 g.y0 + put 16 3 (g.w - 1) + put 19 3 (g.h - 1) + putB 24 g.tol +
  put 32 7 (if g.tol then g.minlive else 0)

/-- sr.bstep (R248). -/
def bstepWord (g : Group) (rank : Nat) : Nat :=
  g.nstep.toNat + putB 32 ((g.bar .step).st != .idle && (g.bar .step).arrived.contains rank) +
  putB 33 ((g.bar .step).st == .draining || (g.bar .rdv).st == .draining)

/-- sr.ssmapN (R215). -/
def ssmapWord (e : SsMap) : Nat :=
  putB 0 e.v + put 1 2 e.rule + putB 3 e.carry + put 4 2 e.ty + put 8 8 e.first + put 16 8 e.cm1 + put 32 16 e.rgn

/-- A tile register as a core reads it, with task slot `k` for those of a group. -/
def readTileSr (s : State) (t k num : Nat) : Option Nat :=
  let x := tileOf s t
  let h := x.health
  let slots := fun (f : Nat → Nat) (w : Nat) => f 0 + 2 ^ w * f 1 + 2 ^ (2 * w) * f 2 + 2 ^ (3 * w) * f 3
  match num with
  | 0x100 => some (slots (fun k => (taskOf s t k).st.code) 4)
  | 0x101 => some (t % 8 + put 3 3 (t / 8))
  | 0x102 => some (match slotGroup s t k with | some (g, _) => gcfgWord g | none => 0)
  | 0x103 => some (match slotGroup s t k with | some (g, _) => g.live.toNat | none => 0)
  | 0x104 => some (match slotGroup s t k with | some (g, r) => bstepWord g r | none => 0)
  | 0x105 => some (slots (slotWait s t) 16)
  | 0x106 => some (match x.ctx with | some c => put 0 6 c + putB 6 true | none => 0)
  | 0x107 => some (put 0 4 x.rwCnt + put 32 32 x.rwTot.toNat)
  | 0x108 => some (x.umiss.toNat + put 32 32 x.hmiss.toNat)
  | 0x110 => some x.tdtbase.toNat
  | 0x111 => some x.tdtlen.toNat
  | 0x112 => some (match (match s.cur.core with
      | .tile t' k' => if t' = t then writtenSr (taskOf s t' k') 0x112 else none
      | .bellows => none) with
    | some w => w.toNat
    | none => x.chktol.toNat)
  | 0x113 => some x.held.toNat
  | 0x114 => some x.rgtbase.toNat
  | 0x115 => some x.rgtlen.toNat
  | 0x118 => some x.sshare
  | 0x119 => some (put 0 16 x.ssCol + put 16 16 x.ssRev + put 32 23 x.ssAddr + putB 55 x.ssAv)
  | 0x11A => some x.combwin
  | 0x11B => some (x.combComb.toNat + put 32 32 x.combOvf.toNat)
  | 0x11C => some (x.pfhAcc.toNat + put 32 32 x.pfhDrop.toNat)
  | 0x160 => some (put 0 3 h.st.code + put 3 3 h.prior.code + put 6 4 ((accusers s t).foldl (fun m d => m + 2 ^ d) 0) +
      put 10 3 (liveNeighbours s t).length)
  | 0x161 => some (h.miss.toNat + put 16 16 h.bab.toNat + put 32 16 h.accd.toNat)
  | 0x162 => some (x.orphNtc.toNat + put 32 32 x.orphDrop.toNat)
  | 0x163 => some h.lastpass.toNat
  | 0x164 => some h.swsus0.toNat
  | 0x165 => some h.swsus1.toNat
  | 0x166 => some (putB 0 h.sv + put 8 8 h.pat.toNat + put 16 4 h.afail)
  | 0x167 => some x.fluert.toNat
  | n =>
    let c : Watermark := tget {} x.wm (n % 16)
    if 0x120 ≤ n && n < 0x130 then some (put 0 23 c.base + putB 23 c.well)
    else if 0x130 ≤ n && n < 0x140 then some (put 0 24 c.lim)
    else if 0x140 ≤ n && n < 0x150 then some (put 0 24 c.wm)
    else if 0x150 ≤ n && n < 0x158 then some (ssmapWord (tget {} x.ssmap (n - 0x150)))
    else none

/-! ### Package registers -/

/-- The numbers that select what other registers describe. -/
def selIsland (s : State) : Nat := wfld (srWord s 0x201) 0 7
def selCtx (s : State) : Nat := wfld (srWord s 0x230) 0 6
def selBank (s : State) : Nat := wfld (srWord s 0x238) 0 9
def selPort (s : State) : Nat := wfld (srWord s 0x240) 0 5
def selFibre (s : State) : Nat := if selPort s < 16 then wfld (srWord s 0x240) 5 3 else 0
def selTt (s : State) : Nat := wfld (srWord s 0x222) 0 10
def selCs (s : State) : Nat := wfld (srWord s 0x247) 0 6
def selEth (s : State) : Nat := wfld (srWord s 0x24E) 0 6
def selLayer (s : State) : Nat := wfld (srWord s 0x262) 0 3
def selSensor (s : State) : Nat := wfld (srWord s 0x262) 3 4

/-- The mask of the tiles that a test picks. -/
def tileSet (s : State) (f : TileSt → Bool) : Nat :=
  (List.range 64).foldl (fun m t => if f (healthOf s t).st then m + 2 ^ t else m) 0

/-- sr.lnkst (R348). -/
def lnkstWord (s : State) : Nat :=
  let k := selPort s
  let f := selFibre s
  let mask := fun (st : WaveSt) => (wavesIn s k f st).foldl (fun m l => m + 2 ^ l) 0
  mask .up + put 8 8 (mask .parked + mask .waking) + put 16 8 (mask .retraining) + put 24 8 (mask .dark) +
  put 32 4 (wavesIn s k f .up).length +
  (match (portOf s k).peer with | some p => put 36 4 p + putB 40 true | none => 0)

/-- sr.lnkcnt (R348). -/
def lnkcntWord (x : Fibre) : Nat := x.cbits.toNat + put 32 16 x.ucf.toNat + put 48 16 x.hout.toNat

/-- sr.errst (R315). -/
def errstWord (b : ErrBank) : Nat :=
  putB 0 b.v + putB 1 b.ue + put 2 2 b.kind + put 4 6 b.ctx + putB 10 b.own + putB 11 b.cons + put 16 16 b.ovf.toNat +
  put 32 16 b.cecnt.toNat

/-- sr.ttstat (R296). -/
def ttstatWord (s : State) : Nat := putB 0 s.locked + put 32 16 s.ttOvr.toNat + put 48 16 s.ttMiss.toNat

/-- sr.tsens (R368): the sensors of a mapped layer; those of another layer are not sensed, and read as an open value. -/
def tsensWord (s : State) : Nat × State :=
  let x := layerOf s (selLayer s)
  if x.temps.isEmpty || s.layermap.length ≤ selLayer s then
    let (w, s) := freshWord s
    (w.toNat % 2 ^ 36, s)
  else
    let top := layerTemp x
    let hot := ((List.range 16).find? fun b => ((x.temps.drop b).headD 0).toInt == top).getD 0
    (((x.temps.drop (selSensor s)).headD 0).toNat + put 16 16 (BitVec.ofInt 16 top).toNat + put 32 4 hot, s)

/-- A package register without an effect of its read. -/
def readPackageSr (s : State) (num : Nat) : Option Nat :=
  let c := ctxOf s (selCtx s)
  let b : ErrBank := tget {} s.errBanks (selBank s)
  let isl : Island := tget {} s.islands (selIsland s)
  let l := layerOf s (selLayer s)
  match num with
  | 0x200 => some (s.hc % 2 ^ 64)
  | 0x202 => some (put 0 8 isl.vset + putB 8 isl.run + putB 9 isl.act + put 16 12 isl.vmeas)
  | 0x212 => some (s.mantelCombComb.toNat + put 32 32 s.mantelCombOvf.toNat)
  | 0x213 => some s.wslate.toNat
  | 0x214 => some ((s.cgrpPend.getD (srWord s 0x214)).toNat)
  | 0x215 => some (put 0 16 (min 0xFFFF (waitingMsgs s).length) + put 16 16 (wfld (srWord s 0x215) 16 16) + put 32 16 s.cwLate.toNat)
  | 0x223 => some (tget (0 : Word) s.timetable (selTt s)).toNat
  | 0x227 => some (put 0 12 s.qrot)
  | 0x231 => some (put 0 4 c.st.code + put 4 8 c.code + put 12 16 c.src + putB 28 c.prec)
  | 0x232 => some c.addr.toNat
  | 0x233 => some (c.fts % 2 ^ 64)
  | 0x234 => some c.more.toNat
  | 0x236 => some c.ptroot.toNat
  | 0x237 => some (put 0 10 (min walkers s.walks.length) + put 16 16 (min 0xFFFF (invCount s)) + put 32 13 (exportCount s))
  | 0x239 => some (errstWord b)
  | 0x23A => some b.addr.toNat
  | 0x23B => some b.ts.toNat
  | 0x23C => some b.ovts.toNat
  | 0x241 => some (lnkstWord s)
  | 0x248 => let e : Circuit := tget {} s.circuit (selCs s); some (e.g.toNat + put 16 32 e.l.toNat + putB 48 e.v)
  | 0x249 => some (tget ({} : Circuit) s.circuit (selCs s)).peers.toNat
  | 0x24F => let e : EthPeer := tget {} s.ethPeers (selEth s); some (e.mac.toNat + put 48 4 e.port.toNat + putB 52 e.v)
  | 0x258 => some (putB 0 s.sweep.en + put 4 12 s.sweep.ivl + put 16 4 s.sweep.tries + put 20 12 s.sweep.wait)
  | 0x259 => some (put 0 6 s.sweep.next + put 6 6 s.sweep.cur + putB 12 s.sweep.act + put 16 16 s.sweep.skip.toNat +
      put 32 16 s.sweep.fail.toNat)
  | 0x25A => some (tileSet s fun x => x == .fenced || x == .appealing)
  | 0x25B => some (tileSet s fun x => x == .retired)
  | 0x260 => some ((s.layermap.zipIdx.foldl (fun m p => m + put (4 * p.2) 4 p.1) 0) + put 32 4 (s.spare.getD 0xF) +
      put 36 4 s.layermap.length)
  | 0x261 => some ((List.range 9).foldl (fun m p => m + put (3 * p) 3 (tget .present s.dies p).code) 0)
  | 0x264 => some (putB 0 l.auto + put 1 4 l.d + put 5 4 l.man + put 9 4 l.dmin + put 13 4 l.dmax + put 17 15 l.ivl)
  | 0x265 => some (l.hi.toNat + put 16 8 l.hys.toNat + put 24 16 l.alert.toNat + put 40 16 l.crit.toNat)
  | 0x266 => some (put 0 4 s.dmpOld + put 4 4 s.dmpNew + put 8 3 s.dmpLyr + put 11 3 s.dmpCause + put 16 32 s.dmpCnt.toNat)
  | 0x267 => some s.dmpTs.toNat
  | 0x268 => some (put 0 12 (powerLim s) + put 16 12 s.power + put 32 8 (powerHys s))
  | 0x26A => some s.bondst.toNat
  | 0x270 => some s.bellows.birq.toNat
  | 0x271 => some s.bellows.bien.toNat
  | 0x272 => some s.bellows.bptroot.toNat
  | 0x273 => some (put 0 4 s.bootStep + putB 4 s.bootDone + putB 5 s.bootStop + putB 6 s.mf)
  | 0x274 => some s.bellows.btsel.toNat
  | 0x201 | 0x210 | 0x211 | 0x220 | 0x221 | 0x222 | 0x224 | 0x226 | 0x230 | 0x235 | 0x238 | 0x240 | 0x243 | 0x244 | 0x245
  | 0x246 | 0x247 | 0x24A | 0x24B | 0x24C | 0x24D | 0x24E | 0x250 | 0x262 | 0x269 => some (srWord s num).toNat
  | _ => none

/-! ### Reads that clear (R4) -/

/-- A read of sr.ttstat clears the overrun and miss counts (R296). -/
def readTtstat (s : State) : Word × State := (BitVec.ofNat 64 (ttstatWord s), { s with ttOvr := 0, ttMiss := 0 })

/-- A read of sr.lnkcnt clears the selected fibre's counters (R348). -/
def readLnkcnt (s : State) : Word × State :=
  (BitVec.ofNat 64 (lnkcntWord (fibreOf s (selPort s) (selFibre s))),
   updFibre s (selPort s) (selFibre s) fun x => { x with cbits := 0, ucf := 0, hout := 0 })

/-- A read of a tile's sr.hbcnt clears its counters (R361). -/
def readHbcnt (s : State) (t : Nat) : Word × State :=
  (BitVec.ofNat 64 ((readTileSr s t 0 0x161).getD 0), updHealth s t fun h => { h with miss := 0, bab := 0, accd := 0 })

/-- TTSTAT_READ (R296). -/
def execTtstatRead (s : State) : Host.Outcome State Fault Refusal := .next (readTtstat s).2
/-- LNKCNT_READ (R348). -/
def execLnkcntRead (s : State) : Host.Outcome State Fault Refusal := .next (readLnkcnt s).2
/-- HBCNT_READ (R361). -/
def execHbcntRead (t : Nat) (s : State) : Host.Outcome State Fault Refusal :=
  whenever (decide (t < 64)) s fun s => (readHbcnt s t).2

/-- The tile and the task slot that a tile-scope number names for the executing core (R60, R392). -/
def srTile (s : State) : Nat × Nat :=
  match s.cur.core with
  | .tile t k => (t, k)
  | .bellows => (nfld s.bellows.btsel.toNat 0 6, nfld s.bellows.btsel.toNat 7 2)

/-- What the executing core reads of register `num` as it has its effect, with the effect of the read (R60); none where the
number is not assigned or not the core's. -/
def effectiveSr (s : State) (num : Nat) : Option (Word × State) :=
  let word := fun (v : Option Nat) => v.map fun n => ((BitVec.ofNat 64 n : Word), s)
  if num < 0x100 then (readSlotSr s num).map fun w => (w, s)
  else if num < 0x200 then
    (if num = 0x161 then some (readHbcnt s (srTile s).1) else word (readTileSr s (srTile s).1 (srTile s).2 num))
  else if num = 0x225 then some (readTtstat s)
  else if num = 0x242 then some (readLnkcnt s)
  else if num = 0x263 then (let r := tsensWord s; some (BitVec.ofNat 64 r.1, r.2))
  else word (readPackageSr s num)

/-! ### Writes -/

/-- Writing 1 to sr.errst.v clears the selected bank's record and counts (R315) (log 70: DEDUCED). -/
def clearErrst (s : State) (x : Word) : State :=
  if wbitAt x 0 then { s with errBanks := tset s.errBanks (selBank s) {} } else s

/-- Writing 1s to sr.birq clears pending lines (R382). -/
def clearBirq (s : State) (x : Word) : State :=
  { s with bellows := { s.bellows with birq := s.bellows.birq &&& ~~~(x.setWidth 12) } }

/-- Writing 1 to sr.swres.sv clears it (R358). -/
def clearSwres (s : State) (t : Nat) (x : Word) : State :=
  if wbitAt x 0 then updHealth s t fun h => { h with sv := false } else s

/-- Whether an island may be stopped (R21). -/
def mayStop (s : State) (n : Nat) : Bool :=
  decide (n < 64) && (healthOf s n).st == .free && (tileOf s n).ctx.isNone

/-- A write of sr.islctl: setpoint, stop and restart (R21); the measured voltage follows with the next sample (R4). -/
def writeIslctl (s : State) (x : Word) : State :=
  let n := selIsland s
  let vset := wfld x 0 8
  let isl : Island := tget {} s.islands n
  let isl := if 10 ≤ vset && vset ≤ 50 then { isl with vset := vset } else isl
  let stop := !wbitAt x 8 && isl.run && mayStop s n
  let isl := if stop then { isl with run := false, act := false } else isl
  let s := { s with islands := tset s.islands n isl }
  if wbitAt x 8 then restartIsland s n else s

/-- A write of sr.dmpctl (R368): dmax is not left below dmin. -/
def writeDmpctl (s : State) (x : Word) : State :=
  let lo := wfld x 9 4
  let hi := wfld x 13 4
  let ivl := wfld x 17 15
  watchDamper (updLayer s (selLayer s) fun l =>
    { l with auto := wbitAt x 0, man := wfld x 5 4, dmin := if lo ≤ hi then lo else l.dmin,
             dmax := if lo ≤ hi then hi else l.dmax, ivl := if ivl = 0 then l.ivl else ivl, evalTs := s.ts })

/-- Stores a plain word. -/
def setSr (s : State) (num : Nat) (w : Word) : State := { s with sr := tset s.sr num w }

/-- A field is kept where a test forbids its new value. -/
def fieldUnless (w x : Word) (lo n : Nat) (bad : Nat → Bool) : Word := if bad (wfld x lo n) then w else setField w x lo n

/-- The word that a write leaves in a plain package register (R4, R5): none where it has no plain word. -/
def plainWrite (s : State) (num : Nat) (x : Word) : Option Word :=
  let w := srWord s num
  let zero := fun n => n == 0
  match num with
  | 0x201 => some (fieldUnless w x 0 7 fun n => decide (71 < n))
  | 0x210 => some (fieldUnless (setField (fieldUnless w x 0 16 zero) x 16 4) x 20 12 fun n => decide (n < 1000))
  | 0x211 => some (setField w x 0 4)
  | 0x215 => some (fieldUnless w x 16 16 zero)
  | 0x220 => some (x &&& 0xFFFFFFFFFFFFFFC0)
  | 0x221 => some (setField (fieldUnless (setField w x 0 1) x 1 2 fun n => n == 3) x 3 10)
  | 0x222 => some (setField w x 0 10)
  | 0x224 | 0x249 | 0x24A | 0x24B | 0x24D => some x
  | 0x226 => some (setField (fieldUnless w x 0 4 fun n => decide (8 < n)) x 8 16)
  | 0x230 => some (setField w x 0 6)
  | 0x235 => some (setField w x 0 4)
  | 0x238 => some (fieldUnless w x 0 9 fun n => decide (349 < n))
  | 0x240 => some (setField (fieldUnless w x 0 5 fun n => decide (27 < n)) x 5 3)
  | 0x243 => some (fieldUnless (fieldUnless w x 0 16 zero) x 16 4 zero)
  | 0x244 => some (setField (setField (setField (fieldUnless w x 0 4 fun n => n == 0 || decide (8 < n)) x 16 16) x 32 16) x 48 16)
  | 0x245 => some (setField (fieldUnless w x 0 16 zero) x 16 4)
  | 0x246 => some (setField w x 0 7)
  | 0x247 | 0x24E => some (setField w x 0 6)
  | 0x24C => some (setField w x 0 13)
  | 0x250 => some (setField w x 0 16)
  | 0x262 => some (setField w x 0 7)
  | 0x268 => some (setField (setField w x 0 12) x 32 8)
  | 0x269 => some (setField (fieldUnless (setField w x 0 8) x 8 8 zero) x 16 12)
  | _ => none

/-- What follows the write of a plain package register. -/
def afterPlain (s old : State) (num : Nat) : State :=
  match num with
  | 0x221 =>
    let s := if timeSource s = timeSource old then s else { s with locked := false, disc := { stepped := s.disc.stepped, reqNext := s.disc.reqNext } }
    retimeTable s
  | 0x215 => watchWaits s
  | 0x220 => loadTable s
  | 0x224 => retimeTable s
  | 0x226 =>
    let ptmo := wfld (srWord s 0x226) 8 16
    if ptmo = 0 then s
    else (s.groups.filter fun g => g.st == .forming).foldl (fun s g =>
      scheduleAt s (max (s.ts + 1) (g.acceptedNs + 1000000 * ptmo)) (.placementTimeout g.gid)) s
  | 0x246 | 0x24A => startCircuit s
  | 0x244 =>
    (s.ports.filter fun p => p.2.enabled && decide (p.1 < 16)).foldl (fun s p =>
      (fibresOfPort p.1).foldl (fun s f => scheduleAt s (max (s.ts + 1) (p.2.idleSince + parkIdle s)) (.parkDecision p.1 f)) s) s
  | _ => s

/-- A write of sr.swctl (R359). -/
def writeSwctl (s : State) (x : Word) : State :=
  let w := s.sweep
  let or := fun (n old : Nat) => if n = 0 then old else n
  { s with sweep := { w with en := wbitAt x 0, ivl := or (wfld x 4 12) w.ivl, tries := or (wfld x 16 4) w.tries,
                             wait := or (wfld x 20 12) w.wait } }

/-- A write of sr.ethent: a valid entry's pair agrees its secret (R339, R345) (log 72: DEDUCED). -/
def writeEthent (s : State) (x : Word) : State :=
  let i := selEth s
  let e : EthPeer := { mac := x.setWidth 48, port := BitVec.ofNat 4 (wfld x 48 4), v := wbitAt x 52 }
  let n := s.free
  let s := { s with ethPeers := tset s.ethPeers i e }
  if e.v then
    { s with free := n + 1, peers := tset s.peers (16 + i) (freshPair (Config.pairSecret (selfIdx s) (16 + i) n)) }
  else s

/-- A write of a package register by the bellows core. -/
def writePackageSr (s : State) (num : Nat) (x : Word) : State :=
  match num with
  | 0x202 => writeIslctl s x
  | 0x214 => writeCgrp s x
  | 0x223 => { s with timetable := tset s.timetable (selTt s) (x &&& 0x0000FFFFFFFF3FFF) }
  | 0x236 => updCtx s (selCtx s) fun c => { c with ptroot := x &&& 0x0000007FFFFFF000 }
  | 0x239 => clearErrst s x
  | 0x248 =>
    { s with circuit := tmod {} s.circuit (selCs s) fun (e : Circuit) =>
        { e with g := BitVec.ofNat 16 (wfld x 0 16), l := BitVec.ofNat 32 (wfld x 16 32), v := wbitAt x 48 } }
  | 0x249 => { s with circuit := tmod {} s.circuit (selCs s) fun (e : Circuit) => { e with peers := x } }
  | 0x24F => writeEthent s x
  | 0x258 => writeSwctl s x
  | 0x264 => writeDmpctl s x
  | 0x265 =>
    updLayer s (selLayer s) fun l =>
      { l with hi := BitVec.ofNat 16 (wfld x 0 16), hys := BitVec.ofNat 8 (wfld x 16 8),
               alert := BitVec.ofNat 16 (wfld x 24 16), crit := BitVec.ofNat 16 (wfld x 40 16) }
  | 0x270 => clearBirq s x
  | 0x271 => scheduleOnce { s with bellows := { s.bellows with bien := x.setWidth 12 } } s.hc .interruptEntry
  | 0x272 => { s with bellows := { s.bellows with bptroot := x &&& 0x0000007FFFFFF000 } }
  | 0x274 => { s with bellows := { s.bellows with btsel := x.setWidth 9 } }
  | _ => match plainWrite s num x with
    | some w => afterPlain (setSr s num w) s num
    | none => s

/-- Whether a write of sr.chktol is taken: τ is neither negative nor an infinity or NaN (R165). -/
def chktolOk (x : Word) : Bool := !wbitAt x 31 && wfld x 23 8 != 0xFF

/-- A write of a tile register by the bellows core, on one tile. -/
def writeTileSr (s : State) (t num : Nat) (x : Word) : State :=
  match num with
  | 0x110 => updTile s t fun y => { y with tdtbase := x &&& 0xFFFFFFFFFFFFFFC0 }
  | 0x111 => updTile s t fun y => { y with tdtlen := x.setWidth 32 }
  | 0x112 => if chktolOk x then updTile s t fun y => { y with chktol := x.setWidth 32 } else s
  | 0x114 => updTile s t fun y => { y with rgtbase := x &&& 0xFFFFFFFFFFFFFFC0 }
  | 0x115 => updTile s t fun y => { y with rgtlen := x.setWidth 16 }
  | 0x118 => if wfld x 0 8 ≤ 128 then updTile s t fun y =>
      { y with sshare := wfld x 0 8, tags := y.tags.filter fun e => decide (e.1 < 512 - wfld x 0 8) } else s
  | 0x11A => updTile s t fun y => { y with combwin := wfld x 0 4 }
  | 0x166 => clearSwres s t x
  | _ => s

/-- A write of a register of the bellows core's own (R60, R61, R110). -/
def writeBellowsSr (s : State) (num : Nat) (x : Word) : State :=
  match num with
  | 0x008 => { s with bellows := { s.bellows with evec := x &&& 0xFFFFFFFFFFFFFFF0 } }
  | 0x009 => { s with bellows := { s.bellows with epc := x &&& 0xFFFFFFFFFFFFFFF0 } }
  | 0x00B => scheduleOnce { s with bellows := { s.bellows with inh := wbitAt x 0, ie := wbitAt x 1 } } s.hc .interruptEntry
  | 0x010 => updCore s .bellows fun t => { t with pendMode := wbitAt x 0 }
  | _ => s

/-- The register whose value selects what register `num` describes. -/
def selectorOf : Nat → Option Nat
  | 0x202 => some 0x201
  | 0x223 => some 0x222
  | 0x236 => some 0x230
  | 0x239 => some 0x238
  | 0x248 | 0x249 => some 0x247
  | 0x24F => some 0x24E
  | 0x264 | 0x265 => some 0x262
  | _ => none

/-- The number of a register as a wrsr of the executing core names it: on the bellows core, with the selector that has its
effect at the issue above bit 12 (R111, R392). -/
def taggedSr (s : State) (num : Nat) : Nat :=
  if !onBellows s then num
  else if 0x100 ≤ num && num < 0x200 then num + 4096 * s.bellows.btsel.toNat
  else match selectorOf num with
    | some k => num + 4096 * (srWord s k).toNat
    | none => num

/-- A write by the bellows core has its effect (R60, R392): a tile-scope one on the tile that sr.btsel named, or on
all. -/
def applyBellows (s : State) (tagged : Nat) (x : Word) : State :=
  let num := tagged % 4096
  let sel := tagged / 4096
  if num < 0x100 then writeBellowsSr s num x
  else if num < 0x200 then
    (if sel / 64 % 2 = 1 then (List.range 64).foldl (fun s t => writeTileSr s t num x) s else writeTileSr s (sel % 64) num x)
  else match selectorOf num with
    | some k => setSr (writePackageSr (setSr s k (BitVec.ofNat 64 sel)) num x) k (srWord s k)
    | none => writePackageSr s num x

/-- A write by the bellows core takes place: a bit that a 1 clears is cleared; a new value can be read, and waits for the
next sync bundle for its effect (R4, R111) (log 74: DEDUCED). -/
def bellowsWrite (s : State) (tagged : Nat) (x : Word) : State :=
  match tagged % 4096 with
  | 0x166 | 0x239 | 0x270 => applyBellows s tagged x
  | _ => { s with bellows := { s.bellows with newSr := s.bellows.newSr ++ [(0, tagged, x)] } }

/-- A sync bundle of the bellows core opens: the writes before it have their effect from the next hc (R111). -/
def passBellows (s : State) : State :=
  let b := s.bellows
  if b.newSr.isEmpty then s
  else
    scheduleOnce
      { s with bellows := { b with newSr := b.newSr.map fun e => if e.1 = 0 then (s.hc + 1, e.2) else e } } (s.hc + 1)
      (.fixedLatencyWrite 64 0)

/-- The writes whose time has come have their effect, in order. -/
def settleBellows (s : State) : State :=
  let due := fun (e : Nat × Nat × Word) => e.1 != 0 && decide (e.1 ≤ s.hc)
  let ready := s.bellows.newSr.filter due
  let s := { s with bellows := { s.bellows with newSr := s.bellows.newSr.filter fun e => !due e } }
  ready.foldl (fun s e => applyBellows s e.2.1 e.2.2) s

/-- The state as the bellows core reads register `num` of it: with its own writes of that register (R111). -/
def shownState (s : State) (num : Nat) : State :=
  if onBellows s then
    (s.bellows.newSr.filter fun e => e.2.1 % 4096 == num).foldl (fun s e => applyBellows s e.2.1 e.2.2) s
  else s

/-- What an rdsr of register `num` by the executing core reads, with its effect (R60, R111). -/
def readSr (s : State) (num : Nat) : Option (Word × State) :=
  match effectiveSr (shownState s num) num, effectiveSr s num with
  | some r, some e => some (r.1, e.2)
  | _, _ => none

/-- A write by a tile core takes place (R4, R60, R111): the RW registers keep their new value until the bundle from which
it has its effect; the W1C fields clear; everything else is read-only to it (log 14: DEDUCED). -/
def tileWrite (s : State) (t k num : Nat) (x : Word) : State :=
  match num with
  | 0x010 => updTask s t k fun y => { y with srNew := y.srNew ++ [(num, 0, x &&& 1)] }
  | 0x112 => if chktolOk x then updTask s t k fun y => { y with srNew := y.srNew ++ [(num, 0, x &&& 0xFFFFFFFF)] } else s
  | 0x166 => clearSwres s t x
  | 0x239 => clearErrst s x
  | 0x270 => clearBirq s x
  | _ => s

/-- ISLCTL_WRITE (R21). -/
def execIslctlWrite (x : Word) (s : State) : Host.Outcome State Fault Refusal := .next (writeIslctl s x)
/-- CGRP_WRITE (R337). -/
def execCgrpWrite (x : Word) (s : State) : Host.Outcome State Fault Refusal := .next (writeCgrp s x)
/-- DMPCTL_WRITE (R368). -/
def execDmpctlWrite (x : Word) (s : State) : Host.Outcome State Fault Refusal := .next (writeDmpctl s x)
/-- ERRST_CLEAR (R315). -/
def execErrstClear (x : Word) (s : State) : Host.Outcome State Fault Refusal := .next (clearErrst s x)
/-- BIRQ_CLEAR (R382). -/
def execBirqClear (x : Word) (s : State) : Host.Outcome State Fault Refusal := .next (clearBirq s x)
/-- SWRES_CLEAR (R358). -/
def execSwresClear (t : Nat) (x : Word) (s : State) : Host.Outcome State Fault Refusal :=
  whenever (decide (t < 64)) s fun s => clearSwres s t x
/-- REGISTER_WRITE: the bellows core's write of a register takes place; `t` is the tile of a tile-scope number (R4, R60). -/
def execRegisterWrite (t num : Nat) (x : Word) (s : State) : Host.Outcome State Fault Refusal :=
  .next (if num < 0x100 then writeBellowsSr s num x
         else if num < 0x200 then (if t < 64 then writeTileSr s t num x else s)
         else writePackageSr s num x)

end Sys2Proof.Machine
end

