-- ==== Sys2Proof/Machine/Issue.lean ====
section
/-! DEFINITION. What the core does besides its slot words (spec/95): results written and stores visible at their hc
(spec/02 R66 to R68), sync bundles (spec/03 R73), the choice of the issuing task (R92), the retirement of a task (spec/04
R108), snapshots and consumed errors (spec/15 R310 to R315). -/

namespace Sys2Proof.Machine

/-! ### FIXED_LATENCY_WRITE (R66 to R68, R178) -/

/-- A store of a task slot of a tile becomes visible. -/
def landStore (s : State) (t k : Nat) (p : PendStore) : State :=
  match p.kind with
  | .floor _ | .lanes _ => landUnits s t p.kind.floorUnits
  | .well bs => updTile s t fun x => poisonWells { x with wells := mwriteAll x.wells bs } (bs.map (·.1))
  | .tag slot y pin =>
    updTile s t fun x => if isShared x (slot * 16384) then x else { x with tags := applyTag x.tags slot y pin }
  | .sr num v => tileWrite s t k num v
  | .share rank ws => ws.foldl (fun s w => schedule s s.hc (.sshareStoreArrival t w.1 rank w.2.1 w.2.2)) s

/-- A store of the bellows core becomes visible: its own memory and the registers are all it stores to (R77, R373). -/
def landBellows (s : State) (p : PendStore) : State :=
  match p.kind with
  | .floor bs | .lanes bs => { s with bellows := { s.bellows with mem := mwriteAll s.bellows.mem bs } }
  | .sr num v => bellowsWrite s num v
  | .well _ | .tag _ _ _ | .share _ _ => s

/-- The next hc at which a result of a task slot is written or a store of it becomes visible. -/
def nextWrite (s : State) (t k : Nat) : Option Nat :=
  let ws := if t = 64 then s.bellows.core.pend.map (·.due) ++ s.bellows.stores.map (·.due) ++
      (s.bellows.newSr.filter fun e => e.1 != 0).map (·.1)
    else (if (taskOf s t k).st = .stopped then [] else (taskOf s t k).pend.map (·.due)) ++
      ((tileOf s t).stores.filter fun p => p.task == k).map (·.due)
  match ws with
  | [] => none
  | a :: r => some (r.foldl min a)

/-- Looks again at the next such hc. -/
def rearmWrite (s : State) (t k : Nat) : State :=
  match nextWrite s t k with
  | some d => scheduleOnce s (max d (s.hc + 1)) (.fixedLatencyWrite t k)
  | none => s

/-- FIXED_LATENCY_WRITE on a tile: the results of the slot whose hc has come are written (R66, R68), then its stores
become visible in the order of their issue; those of a stopped task too (R304). -/
def tileWrites (s : State) (t k : Nat) : State :=
  let s := if (taskOf s t k).st = .stopped then s else updTask s t k (writeDue s.hc)
  let mine := fun (p : PendStore) => p.task == k && decide (p.due ≤ s.hc)
  let ps := (tileOf s t).stores.filter mine
  let s := updTile s t fun x => { x with stores := x.stores.filter fun p => !mine p }
  ps.foldl (fun s p => landStore s t k p) s

/-- FIXED_LATENCY_WRITE on the bellows core. -/
def bellowsWrites (s : State) : State :=
  let s := updCore s .bellows (writeDue s.hc)
  let ps := s.bellows.stores.filter fun p => decide (p.due ≤ s.hc)
  let s := { s with bellows := { s.bellows with stores := s.bellows.stores.filter fun p => decide (s.hc < p.due) } }
  ps.foldl landBellows (settleBellows s)

/-- FIXED_LATENCY_WRITE: results are written and stores visible at their hc (R66 to R68); `t` = 64 is the bellows
core. -/
def execFixedLatencyWrite (t k : Nat) (s : State) : Host.Outcome State Fault Refusal :=
  .next (rearmWrite (if t = 64 then bellowsWrites s else tileWrites s t k) t k)

/-! ### SYNC_BUNDLE_ISSUE and REWIND_SNAPSHOT (R73, R105, R310) -/

/-- The bundle numbered `n` may open: every queue stands at it, every earlier result is written and every earlier store
visible (R73), a wrsr's too (log 111: DESIGN CHOICE); the first bundle of a rewindable segment waits for the long-latency results too (R310). -/
def syncReady (s : State) (t k : Nat) (b : SeqBundle) : Bool :=
  let x := taskOf s t k
  x.st == .issuing && b.isSync && b.fault.isNone && x.syncOpen != some b.n && allAt x b.n && x.pend.isEmpty &&
  !((tileOf s t).stores.any fun p => p.task == k) && (!(b.enters && b.rw) || x.outst.isEmpty)

/-- The sync bundle at which a task slot stands, if it may open. -/
def syncBundle (s : State) (t k : Nat) : Option SeqBundle :=
  (bundleAt (taskOf s t k) (minPos (taskOf s t k))).filter fun b => syncReady s t k b

/-- A register that an earlier bundle wrote has its effect from the first bundle after sync bundle `n` (R111): sr.chktol at
once, sr.issuectl from the next bundle. -/
def passSync (s : State) (t k n : Nat) : State :=
  let x := taskOf s t k
  let old := x.srNew.filter fun e => e.1 == 0x010 && e.2.1 != 0
  let tol := (x.srNew.filter fun e => e.1 == 0x112).getLast?
  let s := updTask s t k fun x =>
    { x with pendMode := (match old.getLast? with | some e => e.2.2.getLsbD 0 | none => x.pendMode),
             srNew := (x.srNew.filter fun e => e.1 == 0x010 && e.2.1 == 0).map fun e => (e.1, n + 1, e.2.2) }
  match tol with
  | some e => updTile s t fun y => { y with chktol := e.2.2.setWidth 32 }
  | none => s

/-- The snapshot of a task as it enters a rewindable segment with bundle `b` (R310). -/
def snapOf (x : Task) (b : SeqBundle) : Snap :=
  { sreg := x.sreg, vreg := x.vreg, preg := x.preg, fmt := x.fmt, emptyS := x.emptyS, emptyV := x.emptyV,
    loops := b.loops, addr := b.addr, seg := b.seg, entry := b.entry }

/-- A sync bundle opens, unless a pre-emption holds the task before it (R73, R105 c). -/
def openSync (s : State) (t k : Nat) (b : SeqBundle) : State :=
  if atSyncPoint (taskOf s t k) then holdTask s t k
  else updTask (passSync s t k b.n) t k fun x => openBundle x s.hc b

/-- SYNC_BUNDLE_ISSUE: every present slot of the bundle issues in this hc (R73). -/
def execSyncBundleIssue (t k : Nat) (s : State) : Host.Outcome State Fault Refusal :=
  match syncBundle s t k with
  | some b => whenever (!(b.enters && b.rw)) s fun s => openSync s t k b
  | none => .next s

/-- REWIND_SNAPSHOT: the first bundle of a rewindable segment issues as a sync bundle, and the snapshot replaces the
one before (R310). -/
def execRewindSnapshot (t k : Nat) (s : State) : Host.Outcome State Fault Refusal :=
  match syncBundle s t k with
  | some b =>
    whenever (b.enters && b.rw) s fun s =>
      let s' := openSync s t k b
      if (taskOf s' t k).syncOpen = some b.n then updTask s' t k fun x => { x with snap := some (snapOf (taskOf s t k) b) }
      else s'
  | none => .next s

/-! ### ISSUE_SELECTION (R92, R93) -/

/-- The ready slot that became ready earliest; ties go to the lower slot. -/
def firstReady (x : Tile) : Option Nat :=
  let ready := ([0, 1, 2, 3] : List Nat).filter fun k => (tget ({} : Task) x.tasks k).st == .ready
  let at_ := fun k => (tget ({} : Task) x.tasks k).readyAt
  ready.foldl (fun b k => match b with
    | none => some k
    | some j => if at_ k < at_ j then some k else b) none

/-- The bundle at which a task stands, if neither half of the loop buffer holds it any longer (R92). -/
def lostBundle (s : State) (t k : Nat) : Option Word :=
  match bundleAt (taskOf s t k) (minPos (taskOf s t k)) with
  | some b => if b.fault.isNone && !heldAt s (.tile t k) b.addr then some b.addr else none
  | none => none

/-- ISSUE_SELECTION: the core takes the task that became ready earliest; its queues issue 2 hc after the core was freed,
or after it became ready if that is later, and once its segment is in the loop buffer (R92). A task whose drain or whose halt
is under way goes on with it (R88, R106). -/
def execIssueSelection (t : Nat) (s : State) : Host.Outcome State Fault Refusal :=
  match (tileOf s t).issuing, firstReady (tileOf s t) with
  | none, some k =>
    let s := updTask (updTile s t fun x => { x with issuing := some k }) t k fun x =>
      { x with st := .issuing, issueFrom := max (tileOf s t).freedAt x.readyAt + 2, needs := lostBundle s t k }
    let x := taskOf s t k
    let s := if x.flow.hold = .drain then scheduleOnce s (s.hc + 1) (.preemptDrainHold t k) else s
    .next (if x.halting && x.outst.isEmpty then scheduleOnce s s.hc (.taskRetire t k) else s)
  | _, _ => .next s

/-! ### TASK_RETIRE (R108, R131, R228) -/

/-- A task that has issued halt and has no long-latency result outstanding retires; the transposer's blocks are free
(log 32: DEDUCED). -/
def retireTask (s : State) (t k : Nat) : State :=
  let s := if (tileOf s t).issuing = some k then leaveIssue s t else s
  let s := updTask s t k fun x => { x with st := .retired, wait := .none, loops := [], stream := [], preq := false }
  let x := (tileOf s t).xp
  let s := if x.owner = k && x.busy then clearXp s t x.mode else s
  memberRetired (refreshRole s t) t k

/-- TASK_RETIRE: a halted task retires (R108); the retiring group that is looked at with this slot is gone once its members'
operations have all ended (R228). -/
def execTaskRetire (t k : Nat) (s : State) : Host.Outcome State Fault Refusal :=
  let x := taskOf s t k
  let s :=
    if x.st == .issuing && x.halting && x.outst.isEmpty then retireTask s t k
    else match retiringAt s t k with
      | some g => if groupBusy s g then s else retireGroup s g
      | none => s
  .next (if (retiringAt s t k).isSome then scheduleOnce s (s.hc + 1) (.taskRetire t k) else s)

/-! ### Errors (R311, R314) -/

/-- The source number of an error bank (R306, R314). -/
def bankSource (bank : Nat) : Nat :=
  if bank < 64 then unitId bank 14
  else if bank < 320 then srcHbm (bank - 64)
  else if bank = 320 then srcMantel
  else if bank < 337 then srcOptical (bank - 321)
  else if bank < 349 then srcEthernet (bank - 337)
  else srcBellows

/-- UE_CONSUMPTION: task slot `k` of tile `t` consumes a corrupted value that the unit of a bank gave it, for a word of
the given segment entry (R311): it is recorded, the nib requests that read the weight give zeros (R164), and the task rewinds or its context takes fault 0x50. -/
def execUeConsumption (t k entry bank : Nat) (addr : Word) (s : State) : Host.Outcome State Fault Refusal :=
  match (tileOf s t).ctx with
  | some c =>
    whenever ((taskOf s t k).st.occupied && decide (bank < 350)) s fun s =>
      let s := noteError s bank
        { ue := true, kind := if bank < 64 then 0 else if bank < 320 then 1 else if bank = 320 then 0 else 2, ctx := c,
          own := true, cons := true, addr := addr }
      consumeError (poisonNibs s t k bank addr) t k entry 0x50 (bankSource bank) addr
  | none => .next s

/-- ERROR_BANK_UPDATE: a detected error updates its bank (R314, R315). -/
def execErrorBankUpdate (bank : Nat) (e : ErrorInfo) (s : State) : Host.Outcome State Fault Refusal :=
  whenever (decide (bank < 350)) s fun s => noteError s bank e

end Sys2Proof.Machine
end

