-- ==== Sys2Proof/Machine/System.lean ====
section
/-! DEFINITION. The C class beside the barriers and regions: nop, halt, trap, eret (spec/04 R108, R109), the system
registers and the timestamp (R111), setfmt (spec/06 R159), and a word that no form has (spec/03 R55). -/

namespace Sys2Proof.Machine

open Sys2Proof.Operands

/-- nop (R108). -/
def execNop (s : State) : Host.Outcome State Fault Refusal := gate .nop s fun s => .issue s

/-- halt: a tile core's task retires once no long-latency result is outstanding; the bellows core stops issue until an
interrupt (R108). -/
def execHalt (s : State) : Host.Outcome State Fault Refusal :=
  gate .halt s fun s =>
    match s.cur.core with
    | .bellows => .issue { s with bellows := { s.bellows with st := .halted } }
    | .tile t k =>
      let s := updTask s t k fun x => { x with halting := true }
      .issue (if (taskOf s t k).outst.isEmpty then scheduleOnce s s.hc (.taskRetire t k) else s)

/-- The sequential successor of the executed word's bundle (R79, R110). -/
def curSuccessor (s : State) : Word :=
  match curBundle s with
  | some b => b.succ
  | none => s.cur.addr

/-- trap: a precise software-trap fault on a tile core; the bellows core enters its handler with class 0x01 and the code,
and the other slots of the bundle issue (R109, R110); the code of a tile's trap is kept (log 73: DESIGN CHOICE). -/
def execTrap (o : CI) (s : State) : Host.Outcome State Fault Refusal :=
  gate (.trap o) s fun s => if onBellows s then .issue (bellowsEnter s 0x01 o.imm.toNat (curSuccessor s)) else .trap o.imm

/-- eret: on the bellows core a transfer to sr.epc with one delay bundle, after which inh is cleared; a tile core has none
(R109, placeForbids). -/
def execEret (s : State) : Host.Outcome State Fault Refusal :=
  gate .eret s fun s =>
    if transferMisplaced s true then .fault 0x01
    else
      let s := takeTransfer s (some s.bellows.epc) none
      .issue { s with bellows := { s.bellows with clearInh := some s.cur.n } }

/-- rdsr: sd after 2 hc; a number that is not assigned is an illegal instruction (R60, R111). -/
def execRdsr (o : CSr) (s : State) : Host.Outcome State Fault Refusal :=
  gate (.rdsr o) s fun s =>
    match readSr s o.num.toNat with
    | some (v, s) => .issue (writeLaterS s o.sd v 2)
    | none => .fault 0x01

/-- wrsr: the register can be read with its new value 2 hc later (R60, R111). -/
def execWrsr (o : CSw) (s : State) : Host.Outcome State Fault Refusal :=
  gate (.wrsr o) s fun s =>
    if (effectiveSr s o.num.toNat).isSome then .issue (storeLater s (.sr (taggedSr s o.num.toNat) (srcS s o.sa)) 2)
    else .fault 0x01

/-- rdts: the timestamp counter at its issue, after 2 hc (R111). -/
def execRdts (o : SD) (s : State) : Host.Outcome State Fault Refusal :=
  gate (.rdts o) s fun s => .issue (writeLaterS s o.sd (tsWord s) 2)

/-- Whether a format code of fmt is reserved (R28, R159). -/
def codeReserved (c : Nat) : Bool := c == 0 || decide (12 ≤ c)

/-- Whether a value of fmt holds a reserved code (R28, R159). -/
def fmtReserved (v : BitVec 16) : Bool :=
  let f := fun i => v.toNat / 2 ^ i % 16
  codeReserved (f 0) || codeReserved (f 4) || codeReserved (f 8) || v.toNat / 2 ^ 12 % 4 == 3

/-- setfmt: fmt takes the value 4 hc later; its upper half is zero in every word that decodes (R66, R159). -/
def execSetfmt (o : CI) (s : State) : Host.Outcome State Fault Refusal :=
  gate (.setfmt o) s fun s =>
    if fmtReserved o.imm then .fault 0x01 else .issue (writeLater s .fmt (o.imm.setWidth 4096) 4)

/-- ILLEGAL_INSTRUCTION_WORD: a word that no form of R76 has, or with a forbidden field, does not issue (R55, R302). -/
def execIllegalInstructionWord (s : State) : Host.Outcome State Fault Refusal := .next (preciseFault s 0x01)

end Sys2Proof.Machine
end

