-- ==== Sys2Proof/Machine/Bellows.lean ====
section
/-! DEFINITION. The bellows core's handler (spec/04 R109, R110; spec/20 R374), power and reset, and kindling (spec/20 R380,
R381; spec/19 R363, R364, R369). -/

namespace Sys2Proof.Machine

/-! ### INTERRUPT_ENTRY (R109, R110, R374) -/

/-- The delay bundle of an eret has issued: inh is cleared (R109). -/
def settleInh (s : State) : State :=
  match s.bellows.clearInh with
  | some n =>
    if n + 1 < minPos s.bellows.core then { s with bellows := { s.bellows with inh := false, clearInh := none } } else s
  | none => s

/-- The loop levels of the first bundle not yet issued. -/
def nextLoops (t : Task) : Table Loop :=
  match bundleAt t (minPos t) with
  | some b => b.loops
  | none => t.loops

/-- The core stands at sr.evec: nothing that it had sequenced is kept. -/
def flowTo (t : Task) (a : Word) : Task :=
  { t with loops := nextLoops t, stream := [], syncOpen := none, qpos := Pos.all.foldl (fun q p => tset q p.idx t.nextSeq) t.qpos,
           flow := { next := a, entries := t.flow.entries } }

/-- The core enters its handler (R110). -/
def enterHandler (s : State) (cls code : Nat) (epc : Word) : State :=
  let b := s.bellows
  { s with bellows :=
      { b with st := .running, core := flowTo b.core b.evec, epc := epc &&& 0xFFFFFFFFFFFFFFF0, ecode := BitVec.ofNat 16 code,
               eclass := BitVec.ofNat 8 cls, inh := true, clearInh := none, pendEntry := none } }

/-- The lowest pending line that is enabled (R374). -/
def pendingLine (b : Bellows) : Option Nat := (List.range 12).find? fun n => (b.birq &&& b.bien).getLsbD n

/-- Whether a transfer has issued and its delay bundle has not: an interrupt of a running core waits until it has
(log 49: DEDUCED). -/
def inDelay (t : Task) : Bool :=
  t.flow.hold == .issued ||
  (match bundleAt t (minPos t) with
   | some b => b.delay
   | none => false)

/-- INTERRUPT_ENTRY: an entry whose results are written takes place; else a pending line is taken, if the core may take
one (R110, R374). -/
def execInterruptEntry (s : State) : Host.Outcome State Fault Refusal :=
  let s := settleInh s
  let b := s.bellows
  match b.pendEntry with
  | some (cls, code, epc) =>
    if b.core.pend.isEmpty then .next (enterHandler s cls code epc)
    else .next (schedule s (max (s.hc + 1) (lastWrite s b.core)) .interruptEntry)
  | none =>
    let awake := match b.st with
      | .running | .halted => true
      | .booting | .waitingLoad | .stopped => false
    match (if awake && b.ie && !b.inh then pendingLine b else none) with
    | some l =>
      if b.st = .running && inDelay b.core then .next (scheduleOnce s (s.hc + 1) .interruptEntry)
      else .next (bellowsEnter s 0x06 l (nextBundle s .bellows))
    | none => .next s

/-! ### Power and reset (R375, R376, R381) -/

/-- Whether a step comes from outside the package: it is still to come after a reset. -/
def isInput : Instr → Bool
  | .kindling _ | .powerLoss | .resetRequest _ | .queueDoorbell _ _ | .create _ | .load _ | .queueSet _ | .finalise _
  | .map _ | .unmap _ | .queueEnable _ | .save _ | .restore _ | .destroy _ | .readBootRecord _ | .readIdentity _
  | .sealCommand _ | .ppsEdge => true
  | _ => false

/-- The package after a power-on reset: the boot flash, the streams of open values and times, and what is still to come
from outside are all that is kept (R381). -/
def powerOn (s : State) : State :=
  let evs := (s.events.filter fun e => isInput e.ev).map fun e => { e with due := e.due - s.hc, ts := none }
  { State.reset with flash := s.flash, delays := s.delays, free := s.free, events := evs }

/-- The package without power: only a kindling is still to come (R381). -/
def powerOff (s : State) : State :=
  let s := powerOn s
  { s with powered := false, events := s.events.filter fun e => match e.ev with
      | .kindling _ => true
      | _ => false }

/-- POWER_LOSS: all state but the boot flash is lost (R381). -/
def execPowerLoss (s : State) : Host.Outcome State Fault Refusal := .next (powerOff s)

/-- RESET_REQUEST: a write of 0x5245_5345 to the management page's rst resets the package (R375, R376)
(log 85: DESIGN CHOICE). -/
def execResetRequest (x : Word32) (s : State) : Host.Outcome State Fault Refusal :=
  whenever (x == 0x52455345) s powerOn

/-! ### Kindling (R380, R381) -/

/-- What a boot step comes to: it passes, it passes by its alternate path, it fails and kindling goes on or stops, or it is
skipped; with the failing part. -/
inductive StepEnd where
  | pass
  | alt (det : Nat)
  | fail (det : Nat) (stop : Bool)
  | skip
  deriving DecidableEq, Repr

/-- Entry `k` of the boot record. -/
def bootEntry (s : State) (k : Nat) : BootEntry := tget {} s.bootRec k

/-- Writes entry `k`; the record is copied to the boot flash (R381). -/
def setBoot (s : State) (k : Nat) (e : BootEntry) : State :=
  let r : Table BootEntry := tset s.bootRec k e
  { s with bootRec := r, flash := r }

/-- An entry of the record in flash as kindling takes it: one left running is a failed start (R381). -/
def lastBoot (e : BootEntry) : BootEntry := if e.st = 1 then { e with st := 3, tries := e.tries + 1 } else e

/-- Kindling stops at a step (R380). -/
def stopKindling (s : State) (k : Nat) : State :=
  { s with bootStep := k, bootStop := true, mgmt := { s.mgmt with stat := 3 }, bellows := { s.bellows with st := .stopped } }

/-- How die `p` does in K5: 0 it passes its first test, 1 it passes by the alternate path, 2 it fails. A die that failed in
the last boot is retested alone. -/
def dieTest (r : KindlingInput) (last : BootEntry) (p : Nat) : Nat :=
  let alt := if r.altDies.contains p then 1 else 2
  if last.st = 3 && last.det == p then alt else if r.badDies.contains p then alt else 0

/-- A step whose failing parts are taken out of use: its alternate path. -/
def partsEnd (parts : List Nat) : StepEnd :=
  match parts with
  | [] => .pass
  | a :: r => .alt (r.foldl min a)

/-- The dies that K7 takes, in its order (R364): those that passed at once, then those that passed by the alternate path;
a die that some tile cannot reach is none of them. -/
def diesTaken (s : State) (r : KindlingInput) (last : BootEntry) : List Nat :=
  let ok := (List.range 9).filter fun p => !dieCut s p
  (ok.filter fun p => dieTest r last p == 0) ++ ok.filter fun p => dieTest r last p == 1

/-- What step `k` comes to in this boot; `prev` is the record of the last boot (R380, R381). -/
def stepEnd (s : State) (r : KindlingInput) (prev : Nat → BootEntry) (k : Nat) : StepEnd :=
  let before := (prev k).st == 3
  let failed := r.failed.contains k
  match k with
  | 1 | 8 => if before || failed then (if r.altFailed.contains k then .fail 0 true else .alt 0) else .pass
  | 3 => if before then .alt (r.badTiles.headD 0) else partsEnd r.badTiles
  | 4 => if before then .alt (r.badRouters.headD 0) else partsEnd r.badRouters
  | 5 =>
    (match (List.range 9).filter fun p => dieTest r (prev 5) p == 2 with
     | p :: _ => .fail p false
     | [] => if before then .alt (prev 5).det else partsEnd ((List.range 9).filter fun p => dieTest r (prev 5) p == 1))
  | 6 => if before then .alt ((r.badFlues.map (·.1)).headD 0) else partsEnd (r.badFlues.map (·.1))
  | 7 => if failed || (diesTaken s r (prev 5)).isEmpty then .fail 0 true else .pass
  | 9 | 12 | 13 => if before then .skip else if failed then .fail 0 false else .pass
  | 11 => if before then .alt (r.sweepFails.headD 0) else partsEnd r.sweepFails
  | _ => if failed then .fail 0 true else .pass

/-- The tiles that are not retired. -/
def liveTiles (s : State) : List Nat := (List.range 64).filter fun t => (healthOf s t).st != .retired

/-- K3, K4: a failing tile is retired (R350, R380); one that this isolates fences itself (R355). -/
def retireTiles (s : State) (ts : List Nat) : State :=
  fenceIsolated ((ts.filter (· < 64)).foldl (fun s t => updHealth s t fun h => { h with st := .retired, beating := false }) s)

/-- K5: the state of every die after its test (R363). -/
def testDies (s : State) (r : KindlingInput) (last : BootEntry) : State :=
  { s with dies := (List.range 9).map fun p => (p, if dieTest r last p = 2 then DieSt.failed else DieSt.tested) }

/-- K6: the failing flues are retired (R369). -/
def retireFlues (s : State) (fs : List (Nat × Nat × Nat)) : State :=
  (fs.filter fun x => x.1 < 64 && x.2.1 < 9 && x.2.2 < 4).foldl (fun s x =>
    updTile s x.1 fun y => { y with fluert := y.fluert ||| (1 <<< (4 * x.2.1 + x.2.2)) }) s

/-- K7: the layer map (R364). -/
def buildMap (s : State) (taken : List Nat) : State :=
  let first := taken.take 8
  let mapped := (List.range 9).filter fun p => first.contains p
  let spare := (taken.drop 8).head?
  let st := fun p => if mapped.contains p then DieSt.mapped else if spare = some p then .spare else .failed
  { s with layermap := mapped, spare := spare, dies := (List.range 9).map fun p => (p, st p) }

/-- K10: every tile has the beat key of this kindling and beats from the next multiple of 1,000 ns (R352). -/
def startBeats (s : State) : State :=
  let s := { s with beatKey := s.free, free := s.free + 1 }
  (List.range 64).foldl (fun s t => scheduleAt (startWatch s t) ((s.ts / 1000 + 1) * 1000) (.heartbeatSend t)) s

/-- K11: every live tile is swept; one that fails is fenced (R358, R380) and goes on to its appeal (R360), one that this isolates
fences itself (R355); the rotation begins (R359). -/
def firstSweeps (s : State) (bad : List Nat) : State :=
  let s := (liveTiles s).foldl (fun s t =>
    let s := updHealth s t fun h => { h with sweepStart := tsWord s }
    if bad.contains t then
      let (b, s) := freshByte s
      scheduleOnce (updHealth (failSweep s t b.toNat) t fun h => { h with st := .fenced, beating := false }) (s.hc + 1) (.sweepStart t)
    else updHealth s t fun h => { h with lastpass := tsWord s }) s
  let s := fenceIsolated s
  let s := { s with sweep := { s.sweep with next := if closedTile s 0 then nextInTurn s 0 else 0 } }
  scheduleAt s (s.ts + 1000000 * s.sweep.ivl) .sweepRotation

/-- K12, K13: the ports are enabled, and the wavelengths that pass their training are up; the failure of one is recorded (R330,
R331, R380) (log 67: DEDUCED). -/
def enablePorts (s : State) (ports : List Nat) (dark : List (Nat × Nat × Nat)) : State :=
  ports.foldl (fun s k =>
    let s := updPort s k fun p => { p with enabled := true, idleSince := s.ts }
    (fibresOfPort k).foldl (fun s f =>
      let s := (lanes k).foldl (fun s l =>
        if dark.contains (k, f, l) then noteFailure (updWave s k f l fun w => { w with st := .dark }) (321 + k) 2
        else updWave s k f l fun w => { w with st := .up }) s
      if k < 16 then scheduleAt s (s.ts + parkIdle s) (.parkDecision k f) else s) s) s

/-- What a step that has passed leaves, by itself or by its alternate path (R380) (log 21: DESIGN CHOICE). -/
def stepEffect (s : State) (r : KindlingInput) (prev : Nat → BootEntry) (k : Nat) : State :=
  match k with
  | 3 => retireTiles s r.badTiles
  | 4 => retireTiles s r.badRouters
  | 5 => testDies s r (prev 5)
  | 6 => retireFlues s r.badFlues
  | 7 => watchDamper (startDampers (takeSample (buildMap s (diesTaken s r (prev 5)))))
  | 10 => startBeats s
  | 11 => firstSweeps s r.sweepFails
  | 12 => enablePorts s (List.range 16) r.darkWaves
  | 13 => enablePorts s ((List.range 12).map (16 + ·)) r.darkWaves
  | 14 =>
    scheduleAt { s with hbm := mzero s.hbm (queueAddr s 0) (64 * 4096), queues := [], timetable := [], contexts := [], groups := [] } ((s.ts / 100000 + 1) * 100000)
      .rotationBoundary
  | 15 => { s with bootDone := true, mgmt := {}, bellows := { s.bellows with st := .waitingLoad } }
  | _ => s

/-- The steps of kindling from a list of those still to run; a power loss ends it with the step's entry at running
(log 83: DEDUCED). -/
def kindleSteps (r : KindlingInput) (prev : Nat → BootEntry) : List Nat → State → State
  | [], s => s
  | k :: ks, s =>
    let e := bootEntry s k
    let s := { s with bootStep := k }
    if 3 ≤ e.tries then stopKindling s k
    else
      let s := setBoot s k { e with st := 1 }
      if r.lostAt = some k then powerOff s
      else
        let done := fun (s : State) (st tries det : Nat) => setBoot s k { st := st, tries := tries, det := det, ts := r.ts }
        match stepEnd s r prev k with
        | .pass => kindleSteps r prev ks (done (stepEffect s r prev k) 2 0 0)
        | .alt d => kindleSteps r prev ks (done (stepEffect s r prev k) 5 0 d)
        | .skip => kindleSteps r prev ks (done s 4 e.tries (prev k).det)
        | .fail d stop =>
          let s := done (if k = 5 then stepEffect s r prev k else s) 3 (e.tries + 1) d
          if stop || 3 ≤ e.tries + 1 then stopKindling s k else kindleSteps r prev ks s

/-- KINDLING: after reset the boot steps run; each step's outcome stands in the record before the next begins (R380,
R381). Power that was lost has returned (log 84: DESIGN CHOICE). The sensors have been sampled before the first step (R4). -/
def execKindling (r : KindlingInput) (s : State) : Host.Outcome State Fault Refusal :=
  let s := if s.powered then s else powerOn { s with powered := true }
  whenever (!s.bootDone && !s.bootStop) s fun s =>
    let prev := fun k => lastBoot (tget {} s.flash k)
    let blank : Table BootEntry := (List.range 16).map fun k => (k, { tries := (prev k).tries })
    let s := nextSample (measureRails { s with bootRec := blank, power := r.power, sample := r.temps } r.volts)
    kindleSteps r prev (List.range 16) s

end Sys2Proof.Machine
end

