-- ==== Sys2Proof/Machine/Mgmt.lean ====
section
/-! DEFINITION. The management page: the commands of the host and their results (spec/20 R376 to R379; spec/15 R298 to R301;
spec/16 R316, R317, R326). -/

namespace Sys2Proof.Machine

/-! ### The command window (R377) -/

/-- The window as 256 bytes. -/
def window (w : List Byte) : List Byte := (w ++ List.replicate 256 0).take 256
/-- The little-endian number of `n` bytes of a window. -/
def winNat (w : List Byte) (a n : Nat) : Nat := leNat ((w.drop a).take n)
/-- Whether `n` bytes of a window are zero. -/
def winZero (w : List Byte) (a n : Nat) : Bool := ((w.drop a).take n).all (· == 0)
/-- The operand bytes that a command with operands up to `a` leaves reserved. -/
def restZero (w : List Byte) (a : Nat) : Bool := winZero w a (0xF0 - a)

/-- A command of R378: its opcode, whether it names no context, whether its operands keep their ranges and reserved bytes,
the states it allows and the result elsewhere, whether it carries a tag, and what it does: a refusal, or the state after
it. -/
structure Command where
  op : Nat
  noCtx : Bool
  ranges : List Byte → Bool
  allowed : CtxSt → Bool
  stateCode : Nat
  tagged : CtxSt → Bool
  act : State → Nat → List Byte → Except Nat State

/-- Whether an opcode is one of R378. -/
def knownOp (n : Nat) : Bool := decide (1 ≤ n) && decide (n ≤ 0xD)

/-- The tag of a tagged command is that of its context's launch key (R377). -/
def cmdTagOk (s : State) (c : Nat) (w : List Byte) : Bool :=
  match (ctxOf s c).launchKey with
  | some k =>
    Config.gcmTag k (BitVec.ofNat 96 (winNat w 4 4 + 2 ^ 32 * c + 2 ^ 44)) (w.take 0xF0) [] ==
      BitVec.ofNat 128 (winNat w 0xF0 16)
  | none => false

/-- A command is done. -/
def cmdDone (s : State) (data : List Byte) : State := mgmtReport s 0 s.mgmt.seqf data
/-- A command stays busy until what it waits for comes. -/
def cmdBusy (s : State) (w : MgmtWait) : State := { s with mgmt := { s.mgmt with stat := 1, wait := some w } }

/-- A command whose sequence number is the next one, in the order of R379: what it names, the state of its context, its
tag, what it does. -/
def judgeCommand (x : Command) (s : State) (w : List Byte) : State :=
  let refuse := fun (code : Nat) => mgmtReport s code s.mgmt.seqf []
  let c := nfld (winNat w 8 8) 0 6
  let st := (ctxOf s c).st
  if winNat w 0 2 ≠ x.op || !winZero w 2 2 || winNat w 8 8 ≠ c || (x.noCtx && c ≠ 0) || !x.ranges w ||
      (!x.tagged st && !winZero w 0xF0 16) then refuse 0x02
  else if !x.allowed st then refuse x.stateCode
  else if x.tagged st && !cmdTagOk s c w then refuse 0x01
  else match x.act s c w with
    | .ok s => s
    | .error code => refuse code

/-- A doorbell of the management page with a command in its window (R376, R377): discarded while a command is served, with
no page open, or after the core has stopped. The window of another command of R378 is not this one. -/
def serve (x : Command) (w : List Byte) (s : State) : State :=
  let w := window w
  let op := winNat w 0 2
  if op ≠ x.op && knownOp op then s
  else
    let s := { s with mgmt := { s.mgmt with cmd := w } }
    if !s.bootDone || s.bootStop || s.mf || s.mgmt.stat == 1 then s
    else
      let s := raiseLine s 0
      let seq : Word32 := BitVec.ofNat 32 (winNat w 4 4)
      if s.mgmt.exhausted || seq != s.mgmt.seqf + 1 then mgmtReport s 0x08 seq []
      else judgeCommand x { s with mgmt := { s.mgmt with seqf := seq, exhausted := seq == 0xFFFFFFFF } } w

/-- The states of a context in which a command that loading allows untagged needs its tag. -/
def notLoading (st : CtxSt) : Bool := st != .loading
def always {α : Type} (_ : α) : Bool := true
def never {α : Type} (_ : α) : Bool := false

/-! ### Loading a context (R298, R300, R301) -/

/-- The measurement of a loading context takes a block in (R301). -/
def extend (s : State) (c addr : Nat) (bs : List Byte) : State :=
  if (ctxOf s c).st != .loading then s
  else updCtx s c fun x => { x with meas := Config.sha384 (x.meas ++ leBytes 8 addr ++ leBytes 8 bs.length ++ bs) }

/-- It takes in the operands of a command (R301). -/
def extendCmd (s : State) (c : Nat) (w : List Byte) : State := extend s c 0 ((w.drop 0x10).take 224)

/-- Whether queue `q` belongs to context `c`. -/
def ownsQueue (s : State) (c q : Nat) : Bool := (queueOf s q).owned && (queueOf s q).ctx == c

/-- The keys of a context from the `n`-th number of the generator on (R300): the memory keys, two halves each, then the launch key
and the link key. -/
def freshKeys (n : Nat) : List (BitVec 256) := (List.range 34).map fun i => Config.randomKey (n + i)

/-- create (R298, R300, R378). -/
def createCmd : Command where
  op := 1
  noCtx := false
  ranges w := nfld (winNat w 0x10 8) 12 4 == 0 && nfld (winNat w 0x10 8) 28 36 == 0 &&
    decide (nfld (winNat w 0x10 8) 0 12 + nfld (winNat w 0x10 8) 16 12 ≤ 4095) && restZero w 0xA8
  allowed st := st == .empty
  stateCode := 0x04
  tagged := never
  act s c w :=
    let qf := nfld (winNat w 0x10 8) 0 12
    let n := nfld (winNat w 0x10 8) 16 12 + 1
    let mine := fun (q : Nat) => decide (qf ≤ q) && decide (q < qf + n)
    if s.queues.any fun x => mine x.1 && x.2.owned && x.2.ctx != c && (ctxOf s x.2.ctx).st != .empty then .error 0x05
    else
      let s := (ownedQueues s c).foldl (fun s q => updQueue s q fun _ => {}) s
      let s := (List.range n).foldl (fun s i => updQueue s (qf + i) fun _ => { ctx := c, owned := true }) s
      let s := updCtx { s with free := s.free + 34 } c fun x =>
        { st := .loading, regSeq := x.regSeq, keys := freshKeys s.free, owner := (w.drop 0x18).take 96,
          nonce := (w.drop 0x78).take 48, meas := List.replicate 48 0 }
      .ok (cmdDone s [])

/-- The parts of a load on either side of a 64 KiB boundary. -/
def loadParts (va : Word) (bs : List Byte) : List (Word × List Byte) :=
  let k := 65536 - va.toNat % 65536
  [(va, bs.take k), (va + BitVec.ofNat 64 k, bs.drop k)].filter fun p => !p.2.isEmpty

/-- The leaf that a load writes through, if it may (R378). -/
def loadLeaf (s : State) (c : Nat) (va : Word) : Option Leaf :=
  match translate s (rootOf s c) va false with
  | .here l => if l.seal then none else some l
  | _ => none

/-- load (R301, R378). -/
def loadCmd : Command where
  op := 2
  noCtx := false
  ranges w := decide (1 ≤ winNat w 0x18 8) && decide (winNat w 0x18 8 ≤ 192) && restZero w (0x20 + winNat w 0x18 8)
  allowed st := st == .loading
  stateCode := 0x03
  tagged := never
  act s c w :=
    let va : Word := BitVec.ofNat 64 (winNat w 0x10 8)
    let bs := (w.drop 0x20).take (winNat w 0x18 8)
    let parts := loadParts va bs
    if parts.all fun p => (loadLeaf s c p.1).isSome then
      let s := parts.foldl (fun s p => match loadLeaf s c p.1 with
        | some l => writePage s c l p.1 p.2
        | none => s) s
      .ok (cmdDone (extend s c va.toNat bs) [])
    else .error 0x07

/-- queue set (R281, R301, R378). -/
def queueSetCmd : Command where
  op := 3
  noCtx := false
  ranges w := nfld (winNat w 0x10 8) 13 3 == 0 && nfld (winNat w 0x10 8) 20 44 == 0 && winNat w 0x18 8 % 128 == 0 &&
    restZero w 0x20
  allowed st := st == .loading
  stateCode := 0x03
  tagged := never
  act s c w :=
    let a := winNat w 0x10 8
    let q := nfld a 0 12
    if !ownsQueue s c q then .error 0x05
    else
      let s := updQueue s q fun x =>
        { x with timed := nfld a 12 1 == 1, lring := nfld a 16 4, ring := BitVec.ofNat 64 (winNat w 0x18 8), head := 0,
                 tail := 0, nseq := 1, cseq := 0, ovr := 0, rej := 0, why := 0 }
      .ok (cmdDone (extendCmd s c w) [])

/-- The ASCII part number in 4 bytes. -/
def partName : List Byte := [0x56, 0x4A, 0x2D, 0x38]

/-- A field of `n` bytes. -/
def fitBytes (n : Nat) (bs : List Byte) : List Byte := (bs ++ List.replicate n 0).take n

/-- The ASCII string "VJ-8 launch" (R301). -/
def launchInfo : List Byte := partName ++ [0x20, 0x6C, 0x61, 0x75, 0x6E, 0x63, 0x68]

/-- The launch key as the report wraps it (R301): nonce, ciphertext, tag, under the key that the owner's key and the ephemeral one
give. -/
def wrappedKey (x : Context) (eph : BitVec 256) (nonce : BitVec 96) : List Byte :=
  let k := Config.hkdf (Config.ecdh eph x.owner) x.nonce launchInfo
  let plain := leBytes 32 (x.launchKey.getD 0)
  leBytes 12 nonce.toNat ++ fitBytes 32 (Config.gcmCipher k nonce plain) ++ leBytes 16 (Config.gcmTag k nonce [] plain).toNat

/-- The attestation report (R301): 356 bytes (log 80: DESIGN CHOICE). The ephemeral key, the wrapping nonce and the signature's
number are the generator's next three. -/
def attestReport (s : State) (c : Nat) : List Byte :=
  let x := ctxOf s c
  let eph := Config.randomKey s.free
  let body := leBytes 2 1 ++ leBytes 2 c ++ partName ++ x.nonce ++ x.meas ++ fitBytes 96 (Config.p384Public eph) ++
    wrappedKey x eph ((Config.randomKey (s.free + 1)).setWidth 96)
  body ++ fitBytes 96 (Config.deviceSign body (Config.randomKey (s.free + 2)))

/-- finalise (R298, R301, R378). -/
def finaliseCmd : Command where
  op := 4
  noCtx := false
  ranges w := restZero w 0x10
  allowed st := st == .loading
  stateCode := 0x03
  tagged := never
  act s c _ :=
    let data := attestReport s c
    let s := (ownedQueues s c).foldl (fun s q => updQueue s q fun x => { x with en := true }) s
    let s := updCtx { s with free := s.free + 3 } c fun x => { x with st := .runnable }
    .ok (cmdDone s data)

/-! ### Pages (R317, R325, R326) -/

/-- Whether ranges of bytes meet. -/
def meet (a n b m : Nat) : Bool := decide (a < b + m) && decide (b < a + n)

/-- Whether the bytes of the frames that a page would take are free (R325, R378), and none of the queue table's (R281). -/
def frameFree (s : State) (pa n : Nat) : Bool :=
  pa % n == 0 && decide (pa + n ≤ 2 ^ 39) &&
  !(s.frames.any fun f => f.2.st != .free && meet pa n (65536 * f.1) f.2.bytes) &&
  !meet pa n (65536 * Config.poolFrame) (4096 * Config.poolTables) && !meet pa n (queueAddr s 0) (64 * 4096)

/-- A table of the pool, zeroed, for context `c` (R378); none where the pool has no room (log 77: DESIGN CHOICE). -/
def allocTable (s : State) (c : Nat) : Option (Nat × State) :=
  let at_ := fun i => (65536 * Config.poolFrame + 4096 * i) % 2 ^ 39
  match (List.range (s.ptPool.length + 1)).find? fun i => !s.ptPool.any fun p => p.1 == at_ i with
  | some i =>
    if i < Config.poolTables then
      some (at_ i, { s with hbm := mzero s.hbm (at_ i) 4096, ptPool := s.ptPool ++ [(at_ i, c)] })
    else none
  | none => none

/-- Whether some valid leaf stands under a table entry (R317). -/
def leafBelow (s : State) : Nat → Nat → Nat → Bool
  | 0, _, _ => false
  | fuel + 1, level, pte =>
    let e : Word := BitVec.ofNat 64 (mword s.hbm pte 8)
    if !wbitAt e 0 then false
    else if wbitAt e 1 then true
    else (List.range (if level = 2 then 32 else 512)).any fun i => leafBelow s fuel (level + 1) (wfld e 8 31 * 2 ^ 8 + 8 * i)

/-- The address of the leaf entry of `va` at a level, with the tables it needs (R316): 0x09 where a larger page maps it or
smaller ones lie under it, 0x0A where the pool has no room. -/
def slotFor (c : Nat) (va : Word) (target : Nat) : Nat → Nat → Nat → State → Except Nat (Nat × State)
  | 0, _, _, _ => .error 0x09
  | fuel + 1, level, table, s =>
    let pte := table + 8 * levelIndex va level
    let e : Word := BitVec.ofNat 64 (mword s.hbm pte 8)
    if level = target then (if leafBelow s 4 level pte then .error 0x09 else .ok (pte, s))
    else if !wbitAt e 0 then
      match allocTable s c with
      | some (a, s) => slotFor c va target fuel (level + 1) a (writePte s pte (BitVec.ofNat 64 (a + 1)))
      | none => .error 0x0A
    else if wbitAt e 1 then .error 0x09
    else slotFor c va target fuel (level + 1) (wfld e 8 31 * 2 ^ 8) s

/-- The root of a context's tables; a context without one takes a table of the pool. -/
def rootFor (s : State) (c : Nat) : Option (Nat × State) :=
  if (ctxOf s c).ptroot ≠ 0 then some ((ctxOf s c).ptroot.toNat, s)
  else (allocTable s c).map fun r => (r.1, updCtx r.2 c fun x => { x with ptroot := BitVec.ofNat 64 r.1 })

/-- The operands of map (R378). -/
structure MapArgs where
  va : Word
  level : Nat
  flags : Nat
  pa0 : Nat
  pa1 : Nat
  far : Nat

def MapArgs.w (m : MapArgs) : Nat := nfld m.flags 2 1
def MapArgs.pp (m : MapArgs) : Bool := nfld m.flags 3 1 == 1
def MapArgs.x (m : MapArgs) : Nat := nfld m.flags 4 1
def MapArgs.remote (m : MapArgs) : Bool := nfld m.flags 5 1 == 1
def MapArgs.key (m : MapArgs) : Nat := nfld m.flags 6 4
def MapArgs.bytes (m : MapArgs) : Nat := leafBytes m.level

/-- The operands in a window. -/
def mapArgs (w : List Byte) : MapArgs :=
  { va := BitVec.ofNat 64 (winNat w 0x10 8), level := 3 - nfld (winNat w 0x18 8) 0 2, flags := winNat w 0x18 8,
    pa0 := winNat w 0x20 8, pa1 := winNat w 0x28 8, far := winNat w 0x30 8 }

/-- The leaf that map writes: a local one is invalid until its frames are zero (R317, R326). -/
def mapLeaf (m : MapArgs) : Word :=
  if m.remote then BitVec.ofNat 64 (1 + 2 + 4 * m.w + 32 + 2 ^ 16 * nfld m.far 0 4 + 2 ^ 20 * nfld m.far 4 6)
  else BitVec.ofNat 64 (2 + 4 * m.w + 8 * m.pp.toNat + 64 * m.x + 2 ^ 10 * m.key + m.pa0 + 2 ^ 24 * m.pa1)

/-- The frames that map takes. -/
def MapArgs.frames (m : MapArgs) : List Nat := if m.remote then [] else if m.pp then [m.pa0, m.pa1] else [m.pa0]

/-- map (R317, R326, R378) (log 78: DEDUCED) (log 79: DEDUCED). -/
def mapCmd : Command where
  op := 5
  noCtx := false
  ranges w :=
    let m := mapArgs w
    nfld m.flags 0 2 != 3 && nfld m.flags 10 54 == 0 && m.va.toNat % m.bytes == 0 && wfld m.va 48 16 == 0 &&
    (if m.remote then !m.pp && m.x == 0 && m.key == 0 && m.pa0 == 0 && m.pa1 == 0 && nfld m.far 10 54 == 0
     else m.far == 0 && (m.pp || m.pa1 == 0)) && restZero w 0x38
  allowed st := st == .loading || st == .runnable || st == .running || st == .halted || st == .saved
  stateCode := 0x03
  tagged := notLoading
  act s c w :=
    let m := mapArgs w
    if !(m.frames.all fun pa => frameFree s pa m.bytes) || (m.pp && !m.remote && m.pa0 == m.pa1) then .error 0x06
    else if s.frames.any fun f => f.2.ctx == c && (f.2.st == .zeroing || f.2.st == .mapped || f.2.st == .exported) &&
        meet m.va.toNat m.bytes f.2.va f.2.bytes then .error 0x09
    else match rootFor s c with
      | none => .error 0x0A
      | some (root, s) =>
        match slotFor c m.va m.level 4 0 root s with
        | .error e => .error e
        | .ok (pte, s) =>
          let s := extendCmd (writePte s pte (mapLeaf m)) c w
          if m.remote then .ok (cmdDone s [])
          else
            let f : Frame :=
              { st := .zeroing, bytes := m.bytes, ctx := c, key := m.key, leaf := pte, va := m.va.toNat }
            let s := m.frames.foldl (fun s pa => updFrame s (frameNo pa) fun _ => f) s
            .ok (scheduleOpen (cmdBusy s (.zero c m.va)) (.frameZeroingEnd c m.va))

/-- unmap (R320, R326, R378). -/
def unmapCmd : Command where
  op := 6
  noCtx := false
  ranges w := restZero w 0x18
  allowed st := st == .loading || st == .runnable || st == .running || st == .halted || st == .saved
  stateCode := 0x03
  tagged := notLoading
  act s c w :=
    let va : Word := BitVec.ofNat 64 (winNat w 0x10 8)
    match translate s (rootOf s c) va false with
    | .fault _ => .error 0x09
    | .here l => if l.base ≠ va.toNat then .error 0x02 else .ok (cmdDone (extendCmd (invalidateLeaf s c l) c w) [])
    | .remote l =>
      if l.base ≠ va.toNat then .error 0x02
      else
        let s := dropXlat (writePte s l.pte (setBit l.bits 0 false)) c l.base l.bytes
        let s := { s with remotes := s.remotes.map fun r =>
          if r.ctx = c && !r.dropped && r.pkg = l.pkg && r.rctx = l.rctx && rangesMeet (l.base, l.bytes) (r.va, r.bytes) then
            { r with dropped := true, dropGen := r.gen + 1 }
          else r }
        .ok (cmdDone (extendCmd (settleDropped s) c w) [])

/-! ### Running, saved and destroyed contexts (R286, R298, R308, R309) -/

/-- queue enable (R286, R378). -/
def queueEnableCmd : Command where
  op := 7
  noCtx := false
  ranges w := nfld (winNat w 0x10 8) 12 52 == 0 && restZero w 0x18
  allowed st := st == .runnable || st == .running
  stateCode := 0x03
  tagged := always
  act s c w :=
    let q := nfld (winNat w 0x10 8) 0 12
    if !ownsQueue s c q then .error 0x05 else .ok (cmdDone (updQueue s q (fun x =>
      { x with en := true, dispatching := x.dispatching && x.en, overrun := x.overrun && x.en })) [])

/-- save (R298, R308, R378). -/
def saveCmd : Command where
  op := 8
  noCtx := false
  ranges w := restZero w 0x10
  allowed st := st == .halted
  stateCode := 0x03
  tagged := always
  act s c _ := .ok (cmdDone (saveCommand s c) [])

/-- restore: done at acceptance (R298, R309, R378). -/
def restoreCmd : Command where
  op := 9
  noCtx := false
  ranges w := restZero w 0x10
  allowed st := st == .saved
  stateCode := 0x03
  tagged := always
  act s c _ := .ok (cmdDone (restoreCommand s c) [])

/-- destroy: done when the scrub has ended (R298, R299, R378). -/
def destroyCmd : Command where
  op := 0xA
  noCtx := false
  ranges w := restZero w 0x10
  allowed st := st == .loading || st == .runnable || st == .running || st == .preempting || st == .halted || st == .saved
  stateCode := 0x03
  tagged := notLoading
  act s c _ := .ok (destroyCommand (cmdBusy s (.scrub c)) c)

/-! ### What the host reads (R378, R381) -/

/-- A boot-record entry in its 16 bytes (R381). -/
def bootBytes (e : BootEntry) : List Byte :=
  leBytes 1 e.st ++ leBytes 1 e.tries ++ leBytes 2 e.det ++ leBytes 4 0 ++ leBytes 8 e.ts.toNat

/-- read boot record (R378, R381). -/
def bootRecordCmd : Command where
  op := 0xB
  noCtx := true
  ranges w := restZero w 0x10
  allowed := always
  stateCode := 0x03
  tagged := never
  act s _ _ := .ok (cmdDone s ((List.range 16).flatMap fun k => bootBytes (bootEntry s k)))

/-- read identity (R378). -/
def identityCmd : Command where
  op := 0xC
  noCtx := true
  ranges w := restZero w 0x10
  allowed := always
  stateCode := 0x03
  tagged := never
  act s _ _ :=
    .ok (cmdDone s (leBytes 8 1 ++ partName ++ leBytes 4 0 ++ leBytes 4 Config.firmwareVersion.toNat ++ leBytes 4 0 ++
      (Config.identityKey ++ List.replicate 96 0).take 96))

/-! ### seal (R223, R378) -/

/-- seal: refused for a descriptor that is rejected, not plain or outside the table; done at Tseal (R223, R378)
(log 82: DEDUCED). -/
def sealCmd : Command where
  op := 0xD
  noCtx := false
  ranges w := winNat w 0x10 8 % 64 == 0 && winZero w 0x1C 4 && restZero w 0x20
  allowed st := st == .loading || st == .runnable || st == .halted || st == .saved
  stateCode := 0x03
  tagged := notLoading
  act s c w :=
    let n := winNat w 0x18 2
    let region := winNat w 0x1A 2
    let table : Word := BitVec.ofNat 64 (winNat w 0x10 8)
    if n ≤ region then .error 0x02
    else match readRegion s (rootOf s c) (table + BitVec.ofNat 64 (64 * region)) with
      | none => .error 0x07
      | some d =>
        if !d.ok || d.kind ≠ 0 then .error 0x02
        else
          let k := (ctxOf s c).regSeq
          let s := placeRegion s c
            { n := 0, op := .seal, region := region, ts := 0, tile := 0, task := 0, table := table, len := n, mgmt := true,
              read := false, after := 0, cmds := 0, gid := none }
          .ok (extendCmd (cmdBusy s (.seal c k)) c w)

/-! ### The rows -/

/-- CREATE. -/
def execCreate (w : List Byte) (s : State) : Host.Outcome State Fault Refusal := .next (serve createCmd w s)
/-- LOAD. -/
def execLoad (w : List Byte) (s : State) : Host.Outcome State Fault Refusal := .next (serve loadCmd w s)
/-- QUEUE_SET. -/
def execQueueSet (w : List Byte) (s : State) : Host.Outcome State Fault Refusal := .next (serve queueSetCmd w s)
/-- FINALISE. -/
def execFinalise (w : List Byte) (s : State) : Host.Outcome State Fault Refusal := .next (serve finaliseCmd w s)
/-- MAP. -/
def execMap (w : List Byte) (s : State) : Host.Outcome State Fault Refusal := .next (serve mapCmd w s)
/-- UNMAP. -/
def execUnmap (w : List Byte) (s : State) : Host.Outcome State Fault Refusal := .next (serve unmapCmd w s)
/-- QUEUE_ENABLE. -/
def execQueueEnable (w : List Byte) (s : State) : Host.Outcome State Fault Refusal := .next (serve queueEnableCmd w s)
/-- SAVE. -/
def execSave (w : List Byte) (s : State) : Host.Outcome State Fault Refusal := .next (serve saveCmd w s)
/-- RESTORE. -/
def execRestore (w : List Byte) (s : State) : Host.Outcome State Fault Refusal := .next (serve restoreCmd w s)
/-- DESTROY. -/
def execDestroy (w : List Byte) (s : State) : Host.Outcome State Fault Refusal := .next (serve destroyCmd w s)
/-- READ_BOOT_RECORD. -/
def execReadBootRecord (w : List Byte) (s : State) : Host.Outcome State Fault Refusal := .next (serve bootRecordCmd w s)
/-- READ_IDENTITY. -/
def execReadIdentity (w : List Byte) (s : State) : Host.Outcome State Fault Refusal := .next (serve identityCmd w s)
/-- SEAL. -/
def execSealCommand (w : List Byte) (s : State) : Host.Outcome State Fault Refusal := .next (serve sealCmd w s)

end Sys2Proof.Machine
end

