-- ==== Sys2Proof/Machine/Vector.lean ====
section
/-! DEFINITION. The V class (spec/05 R113 to R126): lane-wise arithmetic, compares, selection, reductions,
conversions, special functions, glyphs and block scales. -/

namespace Sys2Proof.Machine

open Sys2Proof.Operands

/-- fmt.sat as the word reads it at issue (R28, R116). -/
def curFmtSat (s : State) : Bool := (curTask s).fmt.getLsbD 15
/-- fmt.bs as the word reads it at issue (R28, R116). -/
def curFmtBs (s : State) : Nat := (curTask s).fmt.toNat / 2 ^ 12 % 4

/-- A function of codes as one of lanes. -/
def onLane (f : Nat → Nat → Nat) (x y : Word32) : Word32 := BitVec.ofNat 32 (f x.toNat y.toNat)

/-- A lane form of two vectors on 32-bit lanes, in the active lanes (R115, R117, R118). -/
def laneForm (i : Instr) (o : VR) (lat : Nat) (f : Word32 → Word32 → Word32) (s : State) :
    Host.Outcome State Fault Refusal :=
  gate i s fun s => .issue (writeLaterV s o.vd (srcP s o.p) (map2 f (srcV s o.va) (srcV s o.vb)) lat)

/-- A lane form of two vectors on 16-bit elements, which may read fmt.sat. -/
def halfForm (i : Instr) (o : VR) (lat : Nat) (f : Bool → Nat → Nat → Nat) (s : State) :
    Host.Outcome State Fault Refusal :=
  gate i s fun s =>
    .issue (writeLaterV s o.vd (srcP s o.p)
      (fromElems 16 256 fun e => f (curFmtSat s) (elem (srcV s o.va) 16 e) (elem (srcV s o.vb) 16 e)) lat)

/-- A fused multiply-add on elements of width `w` (R117). -/
def fmaForm (i : Instr) (o : VR3) (F : FFmt) (w : Nat) (s : State) : Host.Outcome State Fault Refusal :=
  gate i s fun s =>
    .issue (writeLaterV s o.vd (srcP s o.p)
      (fromElems w (4096 / w) fun e =>
        fFma F (w == 16 && curFmtSat s) (elem (srcV s o.va) w e) (elem (srcV s o.vb) w e) (elem (srcV s o.vc) w e)) 5)

/-- A compare: one predicate bit per active lane (R119). -/
def compareForm (i : Instr) (o : VP) (c : Word32 → Word32 → Bool) (s : State) :
    Host.Outcome State Fault Refusal :=
  gate i s fun s =>
    .issue (writeLater s (.p o.pd)
      ((lanePred (srcP s o.p) fun k => c (lane (srcV s o.va) k) (lane (srcV s o.vb) k)).setWidth 4096) 3)

/-- A reduction over the active lanes by the fixed tree (R44, R121). -/
def reduceForm (i : Instr) (o : VQ) (f : Nat → Nat → Nat) (ident : Nat) (ext : Nat → Word) (s : State) :
    Host.Outcome State Fault Refusal :=
  gate i s fun s =>
    .issue (writeLaterS s o.sd (ext (treeReduce f (activeLanes (srcP s o.p) (srcV s o.va) ident))) 9)

/-- A form of one vector on 32-bit lanes (R124). -/
def unaryForm (i : Instr) (o : VR1) (lat : Nat) (f : Nat → Nat) (s : State) :
    Host.Outcome State Fault Refusal :=
  gate i s fun s =>
    .issue (writeLaterV s o.vd (srcP s o.p)
      (fromLanes fun k => BitVec.ofNat 32 (f (lane (srcV s o.va) k).toNat)) lat)

/-- A conversion of elements 0 to 127 from width `w` to width `w'` (R122, R123). -/
def convertForm (i : Instr) (vd va : BitVec 5) (p : BitVec 3) (w w' : Nat) (f : Bool → Nat → Nat) (s : State) :
    Host.Outcome State Fault Refusal :=
  gate i s fun s =>
    .issue (writeLater s (.v vd (cvtMask (srcP s p) w'))
      (fromElems w' 128 fun e => f (curFmtSat s) (elem (srcV s va) w e)) 3)

/-- FP32 comparison conditions (R119). -/
def f32Eq (x y : Word32) : Bool := eqNum (decodeF f32F x.toNat) (decodeF f32F y.toNat)
def f32Lt (x y : Word32) : Bool := ltNum (decodeF f32F x.toNat) (decodeF f32F y.toNat)
def f32Le (x y : Word32) : Bool := leNum (decodeF f32F x.toNat) (decodeF f32F y.toNat)

/-- The count of a vector shift: y[4:0] (R118). -/
def laneCount (y : Word32) : Nat := y.toNat % 32

/-- A wrapping operation on 16-bit elements. -/
def wrap16 (f : BitVec 16 → BitVec 16 → BitVec 16) (_ : Bool) (x y : Nat) : Nat :=
  (f (BitVec.ofNat 16 x) (BitVec.ofNat 16 y)).toNat

/-- A saturating sum of 16-bit elements (R118). -/
def adds16 (_ : Bool) (x y : Nat) : Nat :=
  (BitVec.ofInt 16 (satInt 16 (signedOf 16 x + signedOf 16 y))).toNat

/-- A sign-extended 32-bit value. -/
def sextNat32 (x : Nat) : Word := BitVec.ofInt 64 (signedOf 32 x)

/-- The permuted lanes of vperm (R120). -/
def permLane (a b : VWord) (i : Nat) : Word32 :=
  let y := lane b i
  if y.getLsbD 31 then 0 else lane a (y.toNat % 128)

/-- The lane of vbscale: FP32 times the scale of its block (R126). -/
def blockScale (bs : Nat) (x code : Nat) : Nat :=
  if bs = 0 then x else fMul f32F false x (if bs = 1 then e8m0ToF32 code else widenF e4m3F code)

/-! ### Floating point (R117) -/

/-- vaddF32 (R117). -/
def execVaddF32 (o : VR) (s : State) : Host.Outcome State Fault Refusal :=
  laneForm (.vaddF32 o) o 3 (onLane (fAdd f32F false)) s

/-- vsubF32 (R117). -/
def execVsubF32 (o : VR) (s : State) : Host.Outcome State Fault Refusal :=
  laneForm (.vsubF32 o) o 3 (onLane (fSub f32F false)) s

/-- vmulF32 (R117). -/
def execVmulF32 (o : VR) (s : State) : Host.Outcome State Fault Refusal :=
  laneForm (.vmulF32 o) o 5 (onLane (fMul f32F false)) s

/-- vfmaF32 (R117). -/
def execVfmaF32 (o : VR3) (s : State) : Host.Outcome State Fault Refusal :=
  fmaForm (.vfmaF32 o) o f32F 32 s

/-- vfmaBf16 (R117). -/
def execVfmaBf16 (o : VR3) (s : State) : Host.Outcome State Fault Refusal :=
  fmaForm (.vfmaBf16 o) o bf16F 16 s

/-- vfmaF16 (R117). -/
def execVfmaF16 (o : VR3) (s : State) : Host.Outcome State Fault Refusal :=
  fmaForm (.vfmaF16 o) o f16F 16 s

/-- vminF32 (R117). -/
def execVminF32 (o : VR) (s : State) : Host.Outcome State Fault Refusal :=
  laneForm (.vminF32 o) o 3 (onLane (fMin f32F)) s

/-- vmaxF32 (R117). -/
def execVmaxF32 (o : VR) (s : State) : Host.Outcome State Fault Refusal :=
  laneForm (.vmaxF32 o) o 3 (onLane (fMax f32F)) s

/-- vaddBf16 (R117). -/
def execVaddBf16 (o : VR) (s : State) : Host.Outcome State Fault Refusal :=
  halfForm (.vaddBf16 o) o 3 (fAdd bf16F) s

/-- vmulBf16 (R117). -/
def execVmulBf16 (o : VR) (s : State) : Host.Outcome State Fault Refusal :=
  halfForm (.vmulBf16 o) o 5 (fMul bf16F) s

/-- vaddF16 (R117). -/
def execVaddF16 (o : VR) (s : State) : Host.Outcome State Fault Refusal :=
  halfForm (.vaddF16 o) o 3 (fAdd f16F) s

/-- vmulF16 (R117). -/
def execVmulF16 (o : VR) (s : State) : Host.Outcome State Fault Refusal :=
  halfForm (.vmulF16 o) o 5 (fMul f16F) s

/-! ### Integers and logic (R118) -/

/-- vaddI32 (R118). -/
def execVaddI32 (o : VR) (s : State) : Host.Outcome State Fault Refusal :=
  laneForm (.vaddI32 o) o 3 (· + ·) s

/-- vsubI32 (R118). -/
def execVsubI32 (o : VR) (s : State) : Host.Outcome State Fault Refusal :=
  laneForm (.vsubI32 o) o 3 (· - ·) s

/-- vmulI32 (R118). -/
def execVmulI32 (o : VR) (s : State) : Host.Outcome State Fault Refusal :=
  laneForm (.vmulI32 o) o 5 (· * ·) s

/-- vminI32 (R118). -/
def execVminI32 (o : VR) (s : State) : Host.Outcome State Fault Refusal :=
  laneForm (.vminI32 o) o 3 laneMin s

/-- vmaxI32 (R118). -/
def execVmaxI32 (o : VR) (s : State) : Host.Outcome State Fault Refusal :=
  laneForm (.vmaxI32 o) o 3 laneMax s

/-- vand (R118). -/
def execVand (o : VR) (s : State) : Host.Outcome State Fault Refusal :=
  laneForm (.vand o) o 3 (· &&& ·) s

/-- vor (R118). -/
def execVor (o : VR) (s : State) : Host.Outcome State Fault Refusal :=
  laneForm (.vor o) o 3 (· ||| ·) s

/-- vxor (R118). -/
def execVxor (o : VR) (s : State) : Host.Outcome State Fault Refusal :=
  laneForm (.vxor o) o 3 (· ^^^ ·) s

/-- vshl (R118). -/
def execVshl (o : VR) (s : State) : Host.Outcome State Fault Refusal :=
  laneForm (.vshl o) o 3 (fun x y => x <<< laneCount y) s

/-- vshr (R118). -/
def execVshr (o : VR) (s : State) : Host.Outcome State Fault Refusal :=
  laneForm (.vshr o) o 3 (fun x y => x >>> laneCount y) s

/-- vsar (R118). -/
def execVsar (o : VR) (s : State) : Host.Outcome State Fault Refusal :=
  laneForm (.vsar o) o 3 (fun x y => x.sshiftRight (laneCount y)) s

/-- vaddI16 (R118). -/
def execVaddI16 (o : VR) (s : State) : Host.Outcome State Fault Refusal :=
  halfForm (.vaddI16 o) o 3 (wrap16 (· + ·)) s

/-- vsubI16 (R118). -/
def execVsubI16 (o : VR) (s : State) : Host.Outcome State Fault Refusal :=
  halfForm (.vsubI16 o) o 3 (wrap16 (· - ·)) s

/-- vaddsI16 (R118). -/
def execVaddsI16 (o : VR) (s : State) : Host.Outcome State Fault Refusal :=
  halfForm (.vaddsI16 o) o 3 adds16 s

/-- vmulI16 (R118). -/
def execVmulI16 (o : VR) (s : State) : Host.Outcome State Fault Refusal :=
  halfForm (.vmulI16 o) o 5 (wrap16 (· * ·)) s

/-! ### Compares (R119) -/

/-- vcmpeqF32 (R119). -/
def execVcmpeqF32 (o : VP) (s : State) : Host.Outcome State Fault Refusal :=
  compareForm (.vcmpeqF32 o) o f32Eq s

/-- vcmpltF32 (R119). -/
def execVcmpltF32 (o : VP) (s : State) : Host.Outcome State Fault Refusal :=
  compareForm (.vcmpltF32 o) o f32Lt s

/-- vcmpleF32 (R119). -/
def execVcmpleF32 (o : VP) (s : State) : Host.Outcome State Fault Refusal :=
  compareForm (.vcmpleF32 o) o f32Le s

/-- vcmpeqI32 (R119). -/
def execVcmpeqI32 (o : VP) (s : State) : Host.Outcome State Fault Refusal :=
  compareForm (.vcmpeqI32 o) o (fun x y => x == y) s

/-- vcmpltI32 (R119). -/
def execVcmpltI32 (o : VP) (s : State) : Host.Outcome State Fault Refusal :=
  compareForm (.vcmpltI32 o) o laneSlt s

/-! ### Selection and movement (R120) -/

/-- vsel: p selects between the sources, and every lane is written (R120). -/
def execVsel (o : VR) (s : State) : Host.Outcome State Fault Refusal :=
  gate (.vsel o) s fun s =>
    .issue (writeLaterV s o.vd (BitVec.allOnes 128)
      (fromLanes fun i => if (srcP s o.p).getLsbD i then lane (srcV s o.va) i else lane (srcV s o.vb) i) 3)

/-- vperm (R120). -/
def execVperm (o : VR) (s : State) : Host.Outcome State Fault Refusal :=
  gate (.vperm o) s fun s =>
    .issue (writeLaterV s o.vd (srcP s o.p) (fromLanes (permLane (srcV s o.va) (srcV s o.vb))) 4)

/-- vbcast (R120). -/
def execVbcast (o : VB) (s : State) : Host.Outcome State Fault Refusal :=
  gate (.vbcast o) s fun s =>
    .issue (writeLaterV s o.vd (srcP s o.p) (fromLanes fun _ => (srcS s o.sa).setWidth 32) 2)

/-- vext (R120). -/
def execVext (o : VX) (s : State) : Host.Outcome State Fault Refusal :=
  gate (.vext o) s fun s =>
    .issue (writeLaterS s o.sd ((lane (srcV s o.va) o.lane.toNat).setWidth 64) 3)

/-! ### Reductions (R121) -/

/-- vredsum.f32 (R121). -/
def execVredsumF32 (o : VQ) (s : State) : Host.Outcome State Fault Refusal :=
  reduceForm (.vredsumF32 o) o (fAdd f32F false) 0x80000000 (BitVec.ofNat 64) s

/-- vredmax.f32 (R121). -/
def execVredmaxF32 (o : VQ) (s : State) : Host.Outcome State Fault Refusal :=
  reduceForm (.vredmaxF32 o) o (fMax f32F) 0xFF800000 (BitVec.ofNat 64) s

/-- vredmin.f32 (R121). -/
def execVredminF32 (o : VQ) (s : State) : Host.Outcome State Fault Refusal :=
  reduceForm (.vredminF32 o) o (fMin f32F) 0x7F800000 (BitVec.ofNat 64) s

/-- vredsum.i32 (R121). -/
def execVredsumI32 (o : VQ) (s : State) : Host.Outcome State Fault Refusal :=
  reduceForm (.vredsumI32 o) o (fun x y => (x + y) % 2 ^ 32) 0 sextNat32 s

/-! ### Conversions (R122, R123) -/

/-- vcvt (R122). -/
def execVcvt (o : VC) (s : State) : Host.Outcome State Fault Refusal :=
  convertForm (.vcvt o) o.vd o.va o.p (codeWidth o.src.toNat) (codeWidth o.dst.toNat)
    (convertCode o.src.toNat o.dst.toNat) s

/-- vcvt.f32.i16 (R123). -/
def execVcvtF32I16 (o : VR1) (s : State) : Host.Outcome State Fault Refusal :=
  convertForm (.vcvtF32I16 o) o.vd o.va o.p 16 32 (fun _ x => intToF32 (signedOf 16 x)) s

/-- vcvt.i16.f32 (R123). -/
def execVcvtI16F32 (o : VR1) (s : State) : Host.Outcome State Fault Refusal :=
  convertForm (.vcvtI16F32 o) o.vd o.va o.p 32 16 (fun _ x => f32ToInt 16 x) s

/-! ### Special functions (R124) -/

/-- vrcpF32 (R124). -/
def execVrcpF32 (o : VR1) (s : State) : Host.Outcome State Fault Refusal :=
  unaryForm (.vrcpF32 o) o 8 fRcp s

/-- vrsqrtF32 (R124). -/
def execVrsqrtF32 (o : VR1) (s : State) : Host.Outcome State Fault Refusal :=
  unaryForm (.vrsqrtF32 o) o 8 fRsqrt s

/-- vexp2F32 (R124). -/
def execVexp2F32 (o : VR1) (s : State) : Host.Outcome State Fault Refusal :=
  unaryForm (.vexp2F32 o) o 12 fExp2 s

/-- vlog2F32 (R124). -/
def execVlog2F32 (o : VR1) (s : State) : Host.Outcome State Fault Refusal :=
  unaryForm (.vlog2F32 o) o 12 fLog2 s

/-- vtanhF32 (R124). -/
def execVtanhF32 (o : VR1) (s : State) : Host.Outcome State Fault Refusal :=
  unaryForm (.vtanhF32 o) o 12 fTanh s

/-! ### Glyphs and scales (R125, R126) -/

/-- vgly (R125). -/
def execVgly (o : VG) (s : State) : Host.Outcome State Fault Refusal :=
  gate (.vgly o) s fun s =>
    .issue (writeLaterV s o.vd (srcP s o.p)
      (fromLanes fun i => BitVec.ofNat 32
        (glyphF32 (elem (srcV s o.va) 16 (16 * o.group.toNat + i / 8)) (i % 8))) 4)

/-- vbscale (R126). -/
def execVbscale (o : VR) (s : State) : Host.Outcome State Fault Refusal :=
  gate (.vbscale o) s fun s =>
    .issue (writeLaterV s o.vd (srcP s o.p)
      (fromLanes fun i => BitVec.ofNat 32
        (blockScale (curFmtBs s) (lane (srcV s o.va) i).toNat (elem (srcV s o.vb) 8 (i / 32)))) 5)

end Sys2Proof.Machine
end

