-- ==== Sys2Proof/Machine/Dispatch.lean ====
section
/-! DEFINITION. The dispatch of a step to the meaning of its instruction: one arm per row of the table. -/

namespace Sys2Proof.Machine

/-- The meaning of every row. -/
def exec (i : Instr) (s : State) : Host.Outcome State Fault Refusal :=
  match i with
  | .add o => Sys2Proof.Machine.execAdd o s
  | .sub o => Sys2Proof.Machine.execSub o s
  | .and o => Sys2Proof.Machine.execAnd o s
  | .or o => Sys2Proof.Machine.execOr o s
  | .xor o => Sys2Proof.Machine.execXor o s
  | .shl o => Sys2Proof.Machine.execShl o s
  | .shr o => Sys2Proof.Machine.execShr o s
  | .sar o => Sys2Proof.Machine.execSar o s
  | .mul o => Sys2Proof.Machine.execMul o s
  | .mulhs o => Sys2Proof.Machine.execMulhs o s
  | .mulhu o => Sys2Proof.Machine.execMulhu o s
  | .min o => Sys2Proof.Machine.execMin o s
  | .max o => Sys2Proof.Machine.execMax o s
  | .minu o => Sys2Proof.Machine.execMinu o s
  | .maxu o => Sys2Proof.Machine.execMaxu o s
  | .ceq o => Sys2Proof.Machine.execCeq o s
  | .cne o => Sys2Proof.Machine.execCne o s
  | .clt o => Sys2Proof.Machine.execClt o s
  | .cle o => Sys2Proof.Machine.execCle o s
  | .cltu o => Sys2Proof.Machine.execCltu o s
  | .cleu o => Sys2Proof.Machine.execCleu o s
  | .movnz o => Sys2Proof.Machine.execMovnz o s
  | .movz o => Sys2Proof.Machine.execMovz o s
  | .clz o => Sys2Proof.Machine.execClz o s
  | .ctz o => Sys2Proof.Machine.execCtz o s
  | .popc o => Sys2Proof.Machine.execPopc o s
  | .bswap o => Sys2Proof.Machine.execBswap o s
  | .addi o => Sys2Proof.Machine.execAddi o s
  | .andi o => Sys2Proof.Machine.execAndi o s
  | .ori o => Sys2Proof.Machine.execOri o s
  | .xori o => Sys2Proof.Machine.execXori o s
  | .shli o => Sys2Proof.Machine.execShli o s
  | .shri o => Sys2Proof.Machine.execShri o s
  | .sari o => Sys2Proof.Machine.execSari o s
  | .muli o => Sys2Proof.Machine.execMuli o s
  | .ceqi o => Sys2Proof.Machine.execCeqi o s
  | .cnei o => Sys2Proof.Machine.execCnei o s
  | .clti o => Sys2Proof.Machine.execClti o s
  | .clei o => Sys2Proof.Machine.execClei o s
  | .cltui o => Sys2Proof.Machine.execCltui o s
  | .cleui o => Sys2Proof.Machine.execCleui o s
  | .bfx o => Sys2Proof.Machine.execBfx o s
  | .bfxs o => Sys2Proof.Machine.execBfxs o s
  | .bfi o => Sys2Proof.Machine.execBfi o s
  | .sli o => Sys2Proof.Machine.execSli o s
  | .br o => Sys2Proof.Machine.execBr o s
  | .brz o => Sys2Proof.Machine.execBrz o s
  | .brnz o => Sys2Proof.Machine.execBrnz o s
  | .brn o => Sys2Proof.Machine.execBrn o s
  | .brnn o => Sys2Proof.Machine.execBrnn o s
  | .call o => Sys2Proof.Machine.execCall o s
  | .callr o => Sys2Proof.Machine.execCallr o s
  | .jr o => Sys2Proof.Machine.execJr o s
  | .adda o => Sys2Proof.Machine.execAdda o s
  | .addai o => Sys2Proof.Machine.execAddai o s
  | .loop o => Sys2Proof.Machine.execLoop o s
  | .loopi o => Sys2Proof.Machine.execLoopi o s
  | .lexit o => Sys2Proof.Machine.execLexit o s
  | .fldB o => Sys2Proof.Machine.execFldB o s
  | .fldH o => Sys2Proof.Machine.execFldH o s
  | .fldW o => Sys2Proof.Machine.execFldW o s
  | .fldD o => Sys2Proof.Machine.execFldD o s
  | .fstB o => Sys2Proof.Machine.execFstB o s
  | .fstH o => Sys2Proof.Machine.execFstH o s
  | .fstW o => Sys2Proof.Machine.execFstW o s
  | .fstD o => Sys2Proof.Machine.execFstD o s
  | .vld o => Sys2Proof.Machine.execVld o s
  | .vst o => Sys2Proof.Machine.execVst o s
  | .vgath o => Sys2Proof.Machine.execVgath o s
  | .vscat o => Sys2Proof.Machine.execVscat o s
  | .wld o => Sys2Proof.Machine.execWld o s
  | .wst o => Sys2Proof.Machine.execWst o s
  | .lookup o => Sys2Proof.Machine.execLookup o s
  | .tagset o => Sys2Proof.Machine.execTagset o s
  | .taginv o => Sys2Proof.Machine.execTaginv o s
  | .tagrd o => Sys2Proof.Machine.execTagrd o s
  | .gld o => Sys2Proof.Machine.execGld o s
  | .gst o => Sys2Proof.Machine.execGst o s
  | .rld o => Sys2Proof.Machine.execRld o s
  | .rst o => Sys2Proof.Machine.execRst o s
  | .vaddF32 o => Sys2Proof.Machine.execVaddF32 o s
  | .vsubF32 o => Sys2Proof.Machine.execVsubF32 o s
  | .vmulF32 o => Sys2Proof.Machine.execVmulF32 o s
  | .vfmaF32 o => Sys2Proof.Machine.execVfmaF32 o s
  | .vminF32 o => Sys2Proof.Machine.execVminF32 o s
  | .vmaxF32 o => Sys2Proof.Machine.execVmaxF32 o s
  | .vaddBf16 o => Sys2Proof.Machine.execVaddBf16 o s
  | .vmulBf16 o => Sys2Proof.Machine.execVmulBf16 o s
  | .vfmaBf16 o => Sys2Proof.Machine.execVfmaBf16 o s
  | .vaddF16 o => Sys2Proof.Machine.execVaddF16 o s
  | .vmulF16 o => Sys2Proof.Machine.execVmulF16 o s
  | .vfmaF16 o => Sys2Proof.Machine.execVfmaF16 o s
  | .vaddI32 o => Sys2Proof.Machine.execVaddI32 o s
  | .vsubI32 o => Sys2Proof.Machine.execVsubI32 o s
  | .vmulI32 o => Sys2Proof.Machine.execVmulI32 o s
  | .vminI32 o => Sys2Proof.Machine.execVminI32 o s
  | .vmaxI32 o => Sys2Proof.Machine.execVmaxI32 o s
  | .vand o => Sys2Proof.Machine.execVand o s
  | .vor o => Sys2Proof.Machine.execVor o s
  | .vxor o => Sys2Proof.Machine.execVxor o s
  | .vshl o => Sys2Proof.Machine.execVshl o s
  | .vshr o => Sys2Proof.Machine.execVshr o s
  | .vsar o => Sys2Proof.Machine.execVsar o s
  | .vaddI16 o => Sys2Proof.Machine.execVaddI16 o s
  | .vsubI16 o => Sys2Proof.Machine.execVsubI16 o s
  | .vaddsI16 o => Sys2Proof.Machine.execVaddsI16 o s
  | .vmulI16 o => Sys2Proof.Machine.execVmulI16 o s
  | .vcmpeqF32 o => Sys2Proof.Machine.execVcmpeqF32 o s
  | .vcmpltF32 o => Sys2Proof.Machine.execVcmpltF32 o s
  | .vcmpleF32 o => Sys2Proof.Machine.execVcmpleF32 o s
  | .vcmpeqI32 o => Sys2Proof.Machine.execVcmpeqI32 o s
  | .vcmpltI32 o => Sys2Proof.Machine.execVcmpltI32 o s
  | .vsel o => Sys2Proof.Machine.execVsel o s
  | .vperm o => Sys2Proof.Machine.execVperm o s
  | .vbcast o => Sys2Proof.Machine.execVbcast o s
  | .vext o => Sys2Proof.Machine.execVext o s
  | .vredsumF32 o => Sys2Proof.Machine.execVredsumF32 o s
  | .vredmaxF32 o => Sys2Proof.Machine.execVredmaxF32 o s
  | .vredminF32 o => Sys2Proof.Machine.execVredminF32 o s
  | .vredsumI32 o => Sys2Proof.Machine.execVredsumI32 o s
  | .vcvt o => Sys2Proof.Machine.execVcvt o s
  | .vcvtF32I16 o => Sys2Proof.Machine.execVcvtF32I16 o s
  | .vcvtI16F32 o => Sys2Proof.Machine.execVcvtI16F32 o s
  | .vrcpF32 o => Sys2Proof.Machine.execVrcpF32 o s
  | .vrsqrtF32 o => Sys2Proof.Machine.execVrsqrtF32 o s
  | .vexp2F32 o => Sys2Proof.Machine.execVexp2F32 o s
  | .vlog2F32 o => Sys2Proof.Machine.execVlog2F32 o s
  | .vtanhF32 o => Sys2Proof.Machine.execVtanhF32 o s
  | .vgly o => Sys2Proof.Machine.execVgly o s
  | .vbscale o => Sys2Proof.Machine.execVbscale o s
  | .trin o => Sys2Proof.Machine.execTrin o s
  | .tpop o => Sys2Proof.Machine.execTpop o s
  | .tmode o => Sys2Proof.Machine.execTmode o s
  | .mvl o => Sys2Proof.Machine.execMvl o s
  | .mvli o => Sys2Proof.Machine.execMvli o s
  | .mvlh o => Sys2Proof.Machine.execMvlh o s
  | .mvs o => Sys2Proof.Machine.execMvs o s
  | .trigCpy o => Sys2Proof.Machine.execTrigCpy o s
  | .trigCpyAwAdd o => Sys2Proof.Machine.execTrigCpyAwAdd o s
  | .trigCpyAwMin o => Sys2Proof.Machine.execTrigCpyAwMin o s
  | .trigCpyAwMax o => Sys2Proof.Machine.execTrigCpyAwMax o s
  | .trigCpyAwAnd o => Sys2Proof.Machine.execTrigCpyAwAnd o s
  | .trigCpyAwOr o => Sys2Proof.Machine.execTrigCpyAwOr o s
  | .trigCpyAwXor o => Sys2Proof.Machine.execTrigCpyAwXor o s
  | .trigCpyFadd o => Sys2Proof.Machine.execTrigCpyFadd o s
  | .trigCpySwap o => Sys2Proof.Machine.execTrigCpySwap o s
  | .trigCpyCas o => Sys2Proof.Machine.execTrigCpyCas o s
  | .trigCube o => Sys2Proof.Machine.execTrigCube o s
  | .trigNib o => Sys2Proof.Machine.execTrigNib o s
  | .ewait o => Sys2Proof.Machine.execEwait o s
  | .wmwait o => Sys2Proof.Machine.execWmwait o s
  | .trap o => Sys2Proof.Machine.execTrap o s
  | .rdsr o => Sys2Proof.Machine.execRdsr o s
  | .wrsr o => Sys2Proof.Machine.execWrsr o s
  | .rdts o => Sys2Proof.Machine.execRdts o s
  | .setfmt o => Sys2Proof.Machine.execSetfmt o s
  | .bar o => Sys2Proof.Machine.execBar o s
  | .rdv o => Sys2Proof.Machine.execRdv o s
  | .probe o => Sys2Proof.Machine.execProbe o s
  | .seal o => Sys2Proof.Machine.execSeal o s
  | .unseal o => Sys2Proof.Machine.execUnseal o s
  | .pub o => Sys2Proof.Machine.execPub o s
  | .wswap o => Sys2Proof.Machine.execWswap o s
  | .pfh o => Sys2Proof.Machine.execPfh o s
  | .fixedLatencyWrite t k => Sys2Proof.Machine.execFixedLatencyWrite t k s
  | .prefetchExpansion t h => Sys2Proof.Machine.execPrefetchExpansion t h s
  | .issueSelection t => Sys2Proof.Machine.execIssueSelection t s
  | .preemptDrainHold t k => Sys2Proof.Machine.execPreemptDrainHold t k s
  | .taskRetire t k => Sys2Proof.Machine.execTaskRetire t k s
  | .tpopResult t n => Sys2Proof.Machine.execTpopResult t n s
  | .cubeResolution t n => Sys2Proof.Machine.execCubeResolution t n s
  | .cubeChunkFillEnd t n c => Sys2Proof.Machine.execCubeChunkFillEnd t n c s
  | .cubeStagingEnd t n => Sys2Proof.Machine.execCubeStagingEnd t n s
  | .cubeRunStart t n => Sys2Proof.Machine.execCubeRunStart t n s
  | .cubeRunEnd t n => Sys2Proof.Machine.execCubeRunEnd t n s
  | .cubeRiseEnd t n => Sys2Proof.Machine.execCubeRiseEnd t n s
  | .cubeDrainStart t n => Sys2Proof.Machine.execCubeDrainStart t n s
  | .cubeDrainEnd t n => Sys2Proof.Machine.execCubeDrainEnd t n s
  | .nibResolution t n => Sys2Proof.Machine.execNibResolution t n s
  | .nibRequestComplete t n => Sys2Proof.Machine.execNibRequestComplete t n s
  | .copyStart t e => Sys2Proof.Machine.execCopyStart t e s
  | .copyLanding t e n => Sys2Proof.Machine.execCopyLanding t e n s
  | .copyComplete t e => Sys2Proof.Machine.execCopyComplete t e s
  | .followOnCube t e => Sys2Proof.Machine.execFollowOnCube t e s
  | .awPortApply t e => Sys2Proof.Machine.execAwPortApply t e s
  | .atomicPortArrival q => Sys2Proof.Machine.execAtomicPortArrival q s
  | .atomicReplyArrival r => Sys2Proof.Machine.execAtomicReplyArrival r s
  | .atomicRetryExpiry t e id => Sys2Proof.Machine.execAtomicRetryExpiry t e id s
  | .combineRequestArrival router q => Sys2Proof.Machine.execCombineRequestArrival router q s
  | .combineWindowExpiry router id => Sys2Proof.Machine.execCombineWindowExpiry router id s
  | .decombineReplyArrival router id r => Sys2Proof.Machine.execDecombineReplyArrival router id r s
  | .decombineRecordTimeout router id => Sys2Proof.Machine.execDecombineRecordTimeout router id s
  | .hintDeadlineExpiry t n => Sys2Proof.Machine.execHintDeadlineExpiry t n s
  | .globalLoadReply t k n => Sys2Proof.Machine.execGlobalLoadReply t k n s
  | .globalWritePerform t k => Sys2Proof.Machine.execGlobalWritePerform t k s
  | .sshareStoreArrival t addr rank bytes v => Sys2Proof.Machine.execSshareStoreArrival t addr rank bytes v s
  | .probeWalkEnd t k n => Sys2Proof.Machine.execProbeWalkEnd t k n s
  | .sealTakesEffect c n => Sys2Proof.Machine.execSealTakesEffect c n s
  | .unsealTakesEffect c n => Sys2Proof.Machine.execUnsealTakesEffect c n s
  | .pubExchange c n => Sys2Proof.Machine.execPubExchange c n s
  | .wswapExchange c n => Sys2Proof.Machine.execWswapExchange c n s
  | .regionDescriptorRead c n => Sys2Proof.Machine.execRegionDescriptorRead c n s
  | .groupPlacement g => Sys2Proof.Machine.execGroupPlacement g s
  | .barrierDrainEnd g b => Sys2Proof.Machine.execBarrierDrainEnd g b s
  | .stepExchange g => Sys2Proof.Machine.execStepExchange g s
  | .barrierRelease g b => Sys2Proof.Machine.execBarrierRelease g b s
  | .barComplete g b => Sys2Proof.Machine.execBarComplete g b s
  | .queueAdmission q => Sys2Proof.Machine.execQueueAdmission q s
  | .timetableSlotStart slot => Sys2Proof.Machine.execTimetableSlotStart slot s
  | .timetableSlotEnd slot => Sys2Proof.Machine.execTimetableSlotEnd slot s
  | .placementTimeout g => Sys2Proof.Machine.execPlacementTimeout g s
  | .haltLineArrival c t => Sys2Proof.Machine.execHaltLineArrival c t s
  | .stopRecordClose c => Sys2Proof.Machine.execStopRecordClose c s
  | .preemptAtomicTimeout c => Sys2Proof.Machine.execPreemptAtomicTimeout c s
  | .preemptSaveEnd c => Sys2Proof.Machine.execPreemptSaveEnd c s
  | .restorePlacement c => Sys2Proof.Machine.execRestorePlacement c s
  | .restoreResume c => Sys2Proof.Machine.execRestoreResume c s
  | .pendingWriteApply t k => Sys2Proof.Machine.execPendingWriteApply t k s
  | .scrubEnd c => Sys2Proof.Machine.execScrubEnd c s
  | .translationWalkEnd n => Sys2Proof.Machine.execTranslationWalkEnd n s
  | .remoteTranslationRetry n => Sys2Proof.Machine.execRemoteTranslationRetry n s
  | .frameZeroingEnd c va => Sys2Proof.Machine.execFrameZeroingEnd c va s
  | .frameFreed n => Sys2Proof.Machine.execFrameFreed n s
  | .heldMessageApply n => Sys2Proof.Machine.execHeldMessageApply n s
  | .causalWaitLimit n => Sys2Proof.Machine.execCausalWaitLimit n s
  | .circuitSlotStart slot data => Sys2Proof.Machine.execCircuitSlotStart slot data s
  | .messageSend peer => Sys2Proof.Machine.execMessageSend peer s
  | .linkCommandTake t => Sys2Proof.Machine.execLinkCommandTake t s
  | .linkResendExpiry peer seq => Sys2Proof.Machine.execLinkResendExpiry peer seq s
  | .linkAckTimer peer => Sys2Proof.Machine.execLinkAckTimer peer s
  | .parkDecision port fib => Sys2Proof.Machine.execParkDecision port fib s
  | .wakeEnd port fib => Sys2Proof.Machine.execWakeEnd port fib s
  | .linkChangeEffect port fib => Sys2Proof.Machine.execLinkChangeEffect port fib s
  | .heartbeatSend t => Sys2Proof.Machine.execHeartbeatSend t s
  | .heartbeatReceive t dir b => Sys2Proof.Machine.execHeartbeatReceive t dir b s
  | .heartbeatSilence t dir => Sys2Proof.Machine.execHeartbeatSilence t dir s
  | .voteMessage t v => Sys2Proof.Machine.execVoteMessage t v s
  | .fenceDeclaration t => Sys2Proof.Machine.execFenceDeclaration t s
  | .sweepStart t => Sys2Proof.Machine.execSweepStart t s
  | .sweepWaitExpiry t => Sys2Proof.Machine.execSweepWaitExpiry t s
  | .appealAccept t => Sys2Proof.Machine.execAppealAccept t s
  | .appealTimeout t => Sys2Proof.Machine.execAppealTimeout t s
  | .islandRestartEnd isl => Sys2Proof.Machine.execIslandRestartEnd isl s
  | .notBeforeTimeReached q => Sys2Proof.Machine.execNotBeforeTimeReached q s
  | .cfence => Sys2Proof.Machine.execCfence s
  | .tclr => Sys2Proof.Machine.execTclr s
  | .trigLnk => Sys2Proof.Machine.execTrigLnk s
  | .nop => Sys2Proof.Machine.execNop s
  | .halt => Sys2Proof.Machine.execHalt s
  | .eret => Sys2Proof.Machine.execEret s
  | .step => Sys2Proof.Machine.execStep s
  | .ksync => Sys2Proof.Machine.execKsync s
  | .rotationBoundary => Sys2Proof.Machine.execRotationBoundary s
  | .keyReagreement => Sys2Proof.Machine.execKeyReagreement s
  | .ppsEdge => Sys2Proof.Machine.execPpsEdge s
  | .sweepRotation => Sys2Proof.Machine.execSweepRotation s
  | .damperEvaluation => Sys2Proof.Machine.execDamperEvaluation s
  | .interruptEntry => Sys2Proof.Machine.execInterruptEntry s
  | .ttstatRead => Sys2Proof.Machine.execTtstatRead s
  | .lnkcntRead => Sys2Proof.Machine.execLnkcntRead s
  | .ppsLockLost => Sys2Proof.Machine.execPpsLockLost s
  | .illegalInstructionWord => Sys2Proof.Machine.execIllegalInstructionWord s
  | .powerLoss => Sys2Proof.Machine.execPowerLoss s
  | .syncBundleIssue t k => Sys2Proof.Machine.execSyncBundleIssue t k s
  | .bufferMiss t k target => Sys2Proof.Machine.execBufferMiss t k target s
  | .loopIterationEnd t k => Sys2Proof.Machine.execLoopIterationEnd t k s
  | .flueBeatReplay t n => Sys2Proof.Machine.execFlueBeatReplay t n s
  | .atomicRecordAging p => Sys2Proof.Machine.execAtomicRecordAging p s
  | .hintStart t e => Sys2Proof.Machine.execHintStart t e s
  | .noticeArrival t e => Sys2Proof.Machine.execNoticeArrival t e s
  | .groupRetirement g => Sys2Proof.Machine.execGroupRetirement g s
  | .queueDoorbell q window => Sys2Proof.Machine.execQueueDoorbell q window s
  | .preemptionRequest c => Sys2Proof.Machine.execPreemptionRequest c s
  | .rewindSnapshot t k => Sys2Proof.Machine.execRewindSnapshot t k s
  | .ueConsumption t k entry bank addr => Sys2Proof.Machine.execUeConsumption t k entry bank addr s
  | .errorBankUpdate bank e => Sys2Proof.Machine.execErrorBankUpdate bank e s
  | .writeMessage m => Sys2Proof.Machine.execWriteMessage m s
  | .readMessage m => Sys2Proof.Machine.execReadMessage m s
  | .readReply m => Sys2Proof.Machine.execReadReply m s
  | .atomicMessage m => Sys2Proof.Machine.execAtomicMessage m s
  | .atomicReply m => Sys2Proof.Machine.execAtomicReply m s
  | .writeAcknowledgement m => Sys2Proof.Machine.execWriteAcknowledgement m s
  | .noticeMessage m => Sys2Proof.Machine.execNoticeMessage m s
  | .translationRequest m => Sys2Proof.Machine.execTranslationRequest m s
  | .translationReply m => Sys2Proof.Machine.execTranslationReply m s
  | .invalidation m => Sys2Proof.Machine.execInvalidation m s
  | .invalidationAcknowledgement m => Sys2Proof.Machine.execInvalidationAcknowledgement m s
  | .clockOnly m => Sys2Proof.Machine.execClockOnly m s
  | .linkAcknowledgement m => Sys2Proof.Machine.execLinkAcknowledgement m s
  | .trainingEnd port fib lam pass => Sys2Proof.Machine.execTrainingEnd port fib lam pass s
  | .wakeTrigger port => Sys2Proof.Machine.execWakeTrigger port s
  | .berWindowClose port fib lam bits => Sys2Proof.Machine.execBerWindowClose port fib lam bits s
  | .handOut port fib lam => Sys2Proof.Machine.execHandOut port fib lam s
  | .retrainAttemptEnd port fib lam bits lim rx => Sys2Proof.Machine.execRetrainAttemptEnd port fib lam bits lim rx s
  | .ptpSync p => Sys2Proof.Machine.execPtpSync p s
  | .ptpFollowUp p => Sys2Proof.Machine.execPtpFollowUp p s
  | .ptpDelayResp p => Sys2Proof.Machine.execPtpDelayResp p s
  | .ptpAnnounce p => Sys2Proof.Machine.execPtpAnnounce p s
  | .sweepEnd t pat pass => Sys2Proof.Machine.execSweepEnd t pat pass s
  | .sensorSample power temps => Sys2Proof.Machine.execSensorSample power temps s
  | .flueRetirement t b f => Sys2Proof.Machine.execFlueRetirement t b f s
  | .floorBankRepairEnd t f lands => Sys2Proof.Machine.execFloorBankRepairEnd t f lands s
  | .bondSuspectDroop isl => Sys2Proof.Machine.execBondSuspectDroop isl s
  | .kindling r => Sys2Proof.Machine.execKindling r s
  | .create w => Sys2Proof.Machine.execCreate w s
  | .load w => Sys2Proof.Machine.execLoad w s
  | .queueSet w => Sys2Proof.Machine.execQueueSet w s
  | .finalise w => Sys2Proof.Machine.execFinalise w s
  | .map w => Sys2Proof.Machine.execMap w s
  | .unmap w => Sys2Proof.Machine.execUnmap w s
  | .queueEnable w => Sys2Proof.Machine.execQueueEnable w s
  | .save w => Sys2Proof.Machine.execSave w s
  | .restore w => Sys2Proof.Machine.execRestore w s
  | .destroy w => Sys2Proof.Machine.execDestroy w s
  | .readBootRecord w => Sys2Proof.Machine.execReadBootRecord w s
  | .readIdentity w => Sys2Proof.Machine.execReadIdentity w s
  | .sealCommand w => Sys2Proof.Machine.execSealCommand w s
  | .resetRequest x => Sys2Proof.Machine.execResetRequest x s
  | .islctlWrite x => Sys2Proof.Machine.execIslctlWrite x s
  | .cgrpWrite x => Sys2Proof.Machine.execCgrpWrite x s
  | .dmpctlWrite x => Sys2Proof.Machine.execDmpctlWrite x s
  | .errstClear x => Sys2Proof.Machine.execErrstClear x s
  | .birqClear x => Sys2Proof.Machine.execBirqClear x s
  | .swresClear t x => Sys2Proof.Machine.execSwresClear t x s
  | .hbcntRead t => Sys2Proof.Machine.execHbcntRead t s
  | .registerWrite t num x => Sys2Proof.Machine.execRegisterWrite t num x s
  | .uncorrectableFlit port fib => Sys2Proof.Machine.execUncorrectableFlit port fib s
  | .combiningRecordLost router id => Sys2Proof.Machine.execCombiningRecordLost router id s

end Sys2Proof.Machine
end

