-- ==== Sys2Proof/Machine/Sync.lean ====
section
/-! DEFINITION. The bundles whose present slots issue together: the sync bundles of a tile core (spec/03 R73, spec/15 R310)
and every bundle of the bellows core (spec/04 R110). -/

namespace Sys2Proof.Machine

/-- A word whose stage predicate is 0 issues without effect; a transfer among them is one that is not taken (R80). -/
def passDead (s : State) (p : Pos) (b : SeqBundle) : State :=
  let transfer : Bool := match p with
    | .A => match b.instr .A with | some w => isBranch w | none => false
    | .C => b.instr .C == some .eret
    | _ => false
  advance (if transfer then takeTransfer s none none else s)

/-- The position's word of an open bundle, executed; none where it does not issue. A word whose stage predicate is 0 issues
without effect (R80). -/
def issueWord (c : CoreId) (b : SeqBundle) (s : State) (p : Pos) : Option State :=
  match slotAt b.slots p with
  | none => some s
  | some w =>
    let s := { s with cur := { curAt c p b with start := s.cur.start } }
    if !b.live p then some (passDead s p b)
    else
      match exec ((instrOf w).getD .illegalInstructionWord) s with
      | .next s' => if tget 0 (coreTask s' c).qpos p.idx = b.n + 1 then some s' else none
      | _ => none

/-- The order in which the words of one hc are executed: a trigger of E0 after the word of E1 (R390). -/
def issueOrder (b : SeqBundle) : List Pos :=
  let trig := ((b.instr .E0).bind engineOf).isSome && b.live .E0
  [.S0, .S1, .A, .M, .V0, .V1, .T] ++ (if trig then [.E1, .E0] else [.E0, .E1]) ++ [.C]

/-- All present words of an open bundle, executed in one hc; or the position of the first that does not issue. -/
def issueAll (c : CoreId) (b : SeqBundle) (s : State) : List Pos → Except Pos State
  | [] => .ok s
  | p :: r =>
    match issueWord c b s p with
    | some s' => issueAll c b s' r
    | none => .error p

/-- What a word that keeps its bundle from issuing brings about: its fault, its park, its stall. Nothing where it would
issue alone. -/
def blockWord (c : CoreId) (b : SeqBundle) (s : State) (p : Pos) : Option State :=
  match slotAt b.slots p with
  | none => none
  | some w =>
    match exec ((instrOf w).getD .illegalInstructionWord) { s with cur := curAt c p b } with
    | .next s' => if tget 0 (coreTask s' c).qpos p.idx = b.n + 1 then none else some s'
    | _ => none

/-- The state in which the words of an open bundle are executed: each meets the registers as the bundle found them. -/
def atStart (c : CoreId) (s : State) : State := { s with cur := { s.cur with start := some (coreTask s c) } }

/-- The bundle issues as a whole from the state in which it is open, or not at all (log 76: DESIGN CHOICE). -/
def issueBundle (c : CoreId) (b : SeqBundle) (s opened : State) : Option State :=
  match issueAll c b (atStart c opened) (issueOrder b) with
  | .ok s' => some { s' with cur := { s'.cur with start := none } }
  | .error p => blockWord c b s p

/-- The bellows core's bundle, open (R110): a sync bundle lets the register writes before it have their effect (R111). -/
def openBellows (s : State) (b : SeqBundle) : State :=
  let s := updCore s .bellows fun t => openBundle t s.hc b
  if b.isSync then passBellows s else s

/-- A bundle of the bellows core has issued: where it was the delay bundle of an eret, inh is cleared, and a waiting
interrupt can be taken before the next bundle (R109). -/
def closeBellows (s : State) : State :=
  let s' := settleInh s
  if s.bellows.clearInh.isSome && s'.bellows.clearInh.isNone then scheduleOnce s' (s.hc + 1) .interruptEntry else s'

/-- A bundle that issues as a whole, at which every queue of a core stands: what happens in this hc, if anything. -/
def bundleStep (s : State) (c : CoreId) (b : SeqBundle) : Option State :=
  match c with
  | .bellows =>
    if b.isSync && !(s.bellows.core.pend.isEmpty && s.bellows.stores.isEmpty) then none
    else (issueBundle c b s (openBellows s b)).map closeBellows
  | .tile t k =>
    match (if b.enters && b.rw then execRewindSnapshot t k s else execSyncBundleIssue t k s) with
    | .next s' =>
      if (taskOf s' t k).syncOpen = some b.n then issueBundle c b s s'
      else if (taskOf s' t k).st = .held then some s'
      else none
    | _ => none

end Sys2Proof.Machine
end

