-- ==== Sys2Proof/Machine/Step.lean ====
section
/-! DEFINITION. One step of the package: the next event that is due, or the next move of a core in this hc,
or the passing of the hc (log 3: DESIGN CHOICE); and the placing of an instruction where the next step runs it. -/

namespace Sys2Proof.Machine

/-- What a core can do at one of its moves in an hc. -/
inductive Act where
  /-- A row of the table happens. -/
  | run (i : Instr) (s : State)
  /-- A row of the table that the core itself brings about happens. -/
  | own (o : Host.Outcome State Fault Refusal)
  /-- The queues and the sequencer move. -/
  | go (s : State)

/-- The position that move `j` of a core looks at, from move 3 on; the E queues are looked at twice, so that
a trigger of E0 follows the word of E1 (R390). -/
def movePos : Nat → Option Pos
  | 3 => some .S0 | 4 => some .S1 | 5 => some .A | 6 => some .M | 7 => some .V0 | 8 => some .V1
  | 9 => some .T | 10 => some .E0 | 11 => some .E1 | 12 => some .E0 | 13 => some .C
  | _ => none

/-- The first bundle with a format or kernel fault that some queue has reached (R53, R273). -/
def reachedFault (t : Task) : Option (SeqBundle × BundleFault) :=
  Pos.all.findSome? fun p => match headBundle t p with
    | some b => b.fault.map fun f => (b, f)
    | none => none

/-- The sync bundle at which every queue stands, not yet open (R73). -/
def syncHead (t : Task) (all : Bool) : Option SeqBundle :=
  match bundleAt t (minPos t) with
  | some b => if (all || b.isSync) && t.syncOpen != some b.n && allAt t b.n && b.fault.isNone then some b
    else none
  | none => none

/-- The fault code of a bundle's fault. -/
def bundleFaultCode : BundleFault → Nat
  | .format => 0x02
  | .kernel => 0x06

/-- The word at the head of a position's queue, as a row of the table. -/
def slotAct (s : State) (c : CoreId) (p : Pos) : Option Act :=
  let t := coreTask s c
  match headWord t s.hc p with
  | none => none
  | some (b, w) =>
    let s := { s with cur := curAt c p b }
    if !b.live p then some (.go (passDead s p b))
    else match decodeSlot w with
      | .ok i => some (.run i s)
      | .error _ => some (.run .illegalInstructionWord s)

/-- Whether the E0 queue waits for E1 at its first look: its word is a trigger (R390); an ewait in E0 is judged
after the trigger that E1 issues in that hc (log 116: DESIGN CHOICE). -/
def isTriggerWord (s : State) (c : CoreId) : Bool :=
  match headWord (coreTask s c) s.hc .E0 with
  | some (_, w) => ((instrOf w).bind engineOf).isSome
  | none => false

/-- Move `j` of a core in this hc. The bundles of the bellows core issue whole, in move 2 (R110). -/
def moveAct (s : State) (c : CoreId) (j : Nat) : Option Act :=
  let t := coreTask s c
  let name := coreName c
  if t.needs.isSome && j != 0 then none
  else match j with
  | 0 =>
    match sequence s c with
    | .idle => none
    | .more s' => some (.go { s' with turn := s.turn - 1 })
    | .miss va => some (.own (execBufferMiss name.1 name.2 va s))
    | .iterEnd => some (.own (execLoopIterationEnd name.1 name.2 { s with turn := s.turn - 1 }))
  | 1 =>
    let f := if c = .bellows then dropPassed else passAll
    if f t = t then none else some (.go (updCore s c f))
  | 2 =>
    match reachedFault t with
    | some (b, f) => some (.go (preciseFault { s with cur := curAt c .S0 b } (bundleFaultCode f)))
    | none =>
      match syncHead t (c == .bellows) with
      | none => none
      | some b => (bundleStep s c b).map .go
  | j =>
    match movePos j with
    | some p => if c == .bellows || (j == 10 && isTriggerWord s c) then none else slotAct s c p
    | none => none

/-- The cores that may issue in this hc (R87, R92, R110). -/
def activeCores (s : State) : List (Nat × CoreId) :=
  (s.tiles.filterMap fun x =>
    match x.2.issuing with
    | some k =>
      let t : Task := tget {} x.2.tasks k
      if t.st = .issuing && !t.halting && t.issueFrom ≤ s.hc then some (x.1, CoreId.tile x.1 k) else none
    | none => none) ++
  (if s.bellows.st = .running && s.bellows.pendEntry.isNone then [(64, CoreId.bellows)] else [])

/-- The moves of this hc that are still to come, 16 numbers per core. -/
def movesLeft (s : State) : List (Nat × CoreId × Nat) :=
  ((activeCores s).flatMap fun x => (List.range 14).map fun j => (16 * x.1 + j, x.2, j)).filter
    fun m => s.turn ≤ m.1

/-- The next move that does something, with the turn after it. -/
def nextAct (s : State) : Option Act :=
  (movesLeft s).findSome? fun m => moveAct { s with turn := m.1 + 1 } m.2.1 m.2.2

/-- The hc passes: the hc count grows by 1, the timestamp counter by 10/7 ns and by what the slew adds; the slave watches its
master (R2, R23, R346). -/
def tick (s : State) : State :=
  watchMaster <| slewStep { s with hc := s.hc + 1, ts := s.ts + (s.tsPhase + 10) / 7, tsPhase := (s.tsPhase + 10) % 7, turn := 0 }

/-- A step that nothing before the words of this hc precedes: a move of a core, then what follows the words of this hc, then
the passing of the hc. -/
def turnStep (s : State) : Host.Outcome State Fault Refusal :=
  match nextAct s with
  | some (.run i s') => exec i s'
  | some (.own o) => o
  | some (.go s') => .next s'
  | none =>
    match takeEvent 1 s.hc s.events with
    | some (e, rest) => exec e.ev { s with events := rest }
    | none =>
      match takeEvent 2 s.hc s.events with
      | some (e, rest) => exec e.ev { s with events := rest }
      | none => .next (tick s)

/-- One step of the package. -/
def step (s : State) : Host.Outcome State Fault Refusal :=
  if s.powered then
    match takeEvent 0 s.hc s.events with
    | some (e, rest) => exec e.ev { s with events := rest }
    | none => turnStep s
  else
    match s.events with
    | ⟨_, .kindling r, _, _⟩ :: rest => exec (.kindling r) { s with events := rest }
    | _ => .fault .noPower

/-- The position in which a bare word of a class is placed. -/
def classPos : SlotClass → Pos
  | .S => .S0 | .A => .A | .M => .M | .V => .V0 | .T => .T | .E => .E0 | .C => .C

/-- The move at which a position is looked at. -/
def posMove : Pos → Nat
  | .S0 => 3 | .S1 => 4 | .A => 5 | .M => 6 | .V0 => 7 | .V1 => 8 | .T => 9 | .E0 => 10 | .E1 => 11 | .C => 13

/-- `s` with a slot word placed as the next word of task slot 0 of tile 0 (log 9: DESIGN CHOICE): the slot issues, its
queues stand at a bundle that holds the word alone, an empty bundle follows it, and no event is due before it. -/
def State.withFetchWord (s : State) (nbits w : Nat) : State :=
  if nbits = 32 then
    let word : Word32 := BitVec.ofNat 32 w
    let cls := (tableClass word).getD .S
    let p := classPos cls
    let sw : SlotWord := ⟨cls, word, .zero⟩
    let b : SeqBundle := { n := 0, addr := 16, slots := [(p, sw)] }
    let after : SeqBundle := { n := 1, addr := 32, slots := [], delay := b.transfers }
    let hold : FlowHold := if b.transfers then .transfer 0 true else if b.setsLoop then .loopSetup 0 else .run
    let s := updTask s 0 0 fun t =>
      { t with st := .issuing, stream := [b, after], qpos := [], qlast := [], nextSeq := 2, syncOpen := some 0,
               issueFrom := 0, halting := false, flow := { next := 48, hold := hold, seg := some 0 } }
    let s := updTile s 0 fun x => { x with issuing := some 0 }
    { s with events := s.events.filter fun e => s.hc < e.due, turn := posMove p }
  else s

end Sys2Proof.Machine
end

