-- ==== Sys2Proof/Laws/Layouts.lean ====
section
/-! SUPPORT. Layout by layout: what is written is read back, field by field, and so is the opcode. -/

namespace Sys2Proof

open Operands

/-! ### Fields of a word as numbers -/

theorem cat_toNat {a b : Nat} (x : BitVec a) (y : BitVec b) : (x ++ y).toNat = x.toNat * 2 ^ b + y.toNat := by
  rw [BitVec.toNat_append, ← Nat.shiftLeft_add_eq_or_of_lt y.isLt, Nat.shiftLeft_eq]

theorem fld_toNat (w : Word32) (lo n : Nat) : (fld w lo n).toNat = w.toNat / 2 ^ lo % 2 ^ n := by
  simp [fld, BitVec.extractLsb'_toNat, Nat.shiftRight_eq_div_pow]

theorem fld_eq {w : Word32} {lo n : Nat} {x : BitVec n} (h : w.toNat / 2 ^ lo % 2 ^ n = x.toNat) : fld w lo n = x :=
  BitVec.eq_of_toNat_eq (by rw [fld_toNat, h])

theorem fld_zero {w : Word32} {lo n : Nat} (h : w.toNat / 2 ^ lo % 2 ^ n = 0) : fld w lo n = 0 :=
  fld_eq (by rw [h]; simp)

theorem bitAt_eq {w : Word32} {i : Nat} {b : Bool} (h : w.toNat / 2 ^ i % 2 = b.toNat) : bitAt w i = b := by
  simp only [bitAt, BitVec.getLsbD, Nat.testBit_eq_decide_div_mod_eq, h]
  cases b <;> rfl

theorem wbit_toNat (b : Bool) : (wbit b).toNat = b.toNat := by cases b <;> rfl

theorem zeros_toNat (n : Nat) : (0#n).toNat = 0 := by simp

/-! ### The layouts -/

theorem encSR_toNat (op : BitVec 6) (o : SR) : (encSR op o).toNat = (((((op.toNat * 2 ^ 6 + o.sd.toNat) * 2 ^ 6 + o.sa.toNat) * 2 ^ 1 + o.wa.toNat) * 2 ^ 6 + o.sb.toNat) * 2 ^ 1 + o.wb.toNat) * 2 ^ 6 + 0 := by
  unfold encSR
  repeat rw [cat_toNat]
  simp only [wbit_toNat, zeros_toNat]

theorem opcode_encSR (op : BitVec 6) (o : SR) : opcode (encSR op o) = op.toNat := by
  have := op.isLt
  have := o.sd.isLt
  have := o.sa.isLt
  have := o.wa.toNat_lt
  have := o.sb.isLt
  have := o.wb.toNat_lt
  rw [opcode, fld_toNat, encSR_toNat]
  omega

theorem decSR_encSR (op : BitVec 6) (o : SR) : decSR (encSR op o) = some o := by
  have hw := encSR_toNat op o
  obtain ⟨sd, sa, wa, sb, wb⟩ := o
  have := op.isLt
  have := sd.isLt
  have := sa.isLt
  have := wa.toNat_lt
  have := sb.isLt
  have := wb.toNat_lt
  dsimp only at hw
  unfold decSR
  rw [if_pos (fld_zero (by rw [hw]; omega))]
  refine congrArg some ?_
  congr 1
  · exact fld_eq (by rw [hw]; omega)
  · exact fld_eq (by rw [hw]; omega)
  · exact bitAt_eq (by rw [hw]; omega)
  · exact fld_eq (by rw [hw]; omega)
  · exact bitAt_eq (by rw [hw]; omega)

theorem encSR1_toNat (op : BitVec 6) (o : SR1) : (encSR1 op o).toNat = (((op.toNat * 2 ^ 6 + o.sd.toNat) * 2 ^ 6 + o.sa.toNat) * 2 ^ 1 + o.wa.toNat) * 2 ^ 13 + 0 := by
  unfold encSR1
  repeat rw [cat_toNat]
  simp only [wbit_toNat, zeros_toNat]

theorem opcode_encSR1 (op : BitVec 6) (o : SR1) : opcode (encSR1 op o) = op.toNat := by
  have := op.isLt
  have := o.sd.isLt
  have := o.sa.isLt
  have := o.wa.toNat_lt
  rw [opcode, fld_toNat, encSR1_toNat]
  omega

theorem decSR1_encSR1 (op : BitVec 6) (o : SR1) : decSR1 (encSR1 op o) = some o := by
  have hw := encSR1_toNat op o
  obtain ⟨sd, sa, wa⟩ := o
  have := op.isLt
  have := sd.isLt
  have := sa.isLt
  have := wa.toNat_lt
  dsimp only at hw
  unfold decSR1
  rw [if_pos (fld_zero (by rw [hw]; omega))]
  refine congrArg some ?_
  congr 1
  · exact fld_eq (by rw [hw]; omega)
  · exact fld_eq (by rw [hw]; omega)
  · exact bitAt_eq (by rw [hw]; omega)

theorem encS1_toNat (op : BitVec 6) (o : S1) : (encS1 op o).toNat = (((op.toNat * 2 ^ 6 + 0) * 2 ^ 6 + o.sa.toNat) * 2 ^ 1 + o.wa.toNat) * 2 ^ 13 + 0 := by
  unfold encS1
  repeat rw [cat_toNat]
  simp only [wbit_toNat, zeros_toNat]

theorem opcode_encS1 (op : BitVec 6) (o : S1) : opcode (encS1 op o) = op.toNat := by
  have := op.isLt
  have := o.sa.isLt
  have := o.wa.toNat_lt
  rw [opcode, fld_toNat, encS1_toNat]
  omega

theorem decS1_encS1 (op : BitVec 6) (o : S1) : decS1 (encS1 op o) = some o := by
  have hw := encS1_toNat op o
  obtain ⟨sa, wa⟩ := o
  have := op.isLt
  have := sa.isLt
  have := wa.toNat_lt
  dsimp only at hw
  unfold decS1
  rw [if_pos ⟨fld_zero (by rw [hw]; omega), fld_zero (by rw [hw]; omega)⟩]
  refine congrArg some ?_
  congr 1
  · exact fld_eq (by rw [hw]; omega)
  · exact bitAt_eq (by rw [hw]; omega)

theorem encSS_toNat (op : BitVec 6) (o : SS) : (encSS op o).toNat = (((((op.toNat * 2 ^ 6 + 0) * 2 ^ 6 + o.sa.toNat) * 2 ^ 1 + o.wa.toNat) * 2 ^ 6 + o.sb.toNat) * 2 ^ 1 + o.wb.toNat) * 2 ^ 6 + 0 := by
  unfold encSS
  repeat rw [cat_toNat]
  simp only [wbit_toNat, zeros_toNat]

theorem opcode_encSS (op : BitVec 6) (o : SS) : opcode (encSS op o) = op.toNat := by
  have := op.isLt
  have := o.sa.isLt
  have := o.wa.toNat_lt
  have := o.sb.isLt
  have := o.wb.toNat_lt
  rw [opcode, fld_toNat, encSS_toNat]
  omega

theorem decSS_encSS (op : BitVec 6) (o : SS) : decSS (encSS op o) = some o := by
  have hw := encSS_toNat op o
  obtain ⟨sa, wa, sb, wb⟩ := o
  have := op.isLt
  have := sa.isLt
  have := wa.toNat_lt
  have := sb.isLt
  have := wb.toNat_lt
  dsimp only at hw
  unfold decSS
  rw [if_pos ⟨fld_zero (by rw [hw]; omega), fld_zero (by rw [hw]; omega)⟩]
  refine congrArg some ?_
  congr 1
  · exact fld_eq (by rw [hw]; omega)
  · exact bitAt_eq (by rw [hw]; omega)
  · exact fld_eq (by rw [hw]; omega)
  · exact bitAt_eq (by rw [hw]; omega)

theorem encSD_toNat (op : BitVec 6) (o : SD) : (encSD op o).toNat = (op.toNat * 2 ^ 6 + o.sd.toNat) * 2 ^ 20 + 0 := by
  unfold encSD
  repeat rw [cat_toNat]
  simp only [zeros_toNat]

theorem opcode_encSD (op : BitVec 6) (o : SD) : opcode (encSD op o) = op.toNat := by
  have := op.isLt
  have := o.sd.isLt
  rw [opcode, fld_toNat, encSD_toNat]
  omega

theorem decSD_encSD (op : BitVec 6) (o : SD) : decSD (encSD op o) = some o := by
  have hw := encSD_toNat op o
  obtain ⟨sd⟩ := o
  have := op.isLt
  have := sd.isLt
  dsimp only at hw
  unfold decSD
  rw [if_pos (fld_zero (by rw [hw]; omega))]
  refine congrArg some ?_
  congr 1
  · exact fld_eq (by rw [hw]; omega)

theorem encSI_toNat (op : BitVec 6) (o : SI) : (encSI op o).toNat = (((op.toNat * 2 ^ 6 + o.sd.toNat) * 2 ^ 6 + o.sa.toNat) * 2 ^ 1 + o.wa.toNat) * 2 ^ 13 + o.imm.toNat := by
  unfold encSI
  repeat rw [cat_toNat]
  simp only [wbit_toNat]

theorem opcode_encSI (op : BitVec 6) (o : SI) : opcode (encSI op o) = op.toNat := by
  have := op.isLt
  have := o.sd.isLt
  have := o.sa.isLt
  have := o.wa.toNat_lt
  have := o.imm.isLt
  rw [opcode, fld_toNat, encSI_toNat]
  omega

theorem decSI_encSI (op : BitVec 6) (o : SI) : decSI (encSI op o) o.lend = some o := by
  have hw := encSI_toNat op o
  obtain ⟨sd, sa, wa, imm, lend⟩ := o
  have := op.isLt
  have := sd.isLt
  have := sa.isLt
  have := wa.toNat_lt
  have := imm.isLt
  dsimp only at hw
  unfold decSI
  refine congrArg some ?_
  congr 1
  · exact fld_eq (by rw [hw]; omega)
  · exact fld_eq (by rw [hw]; omega)
  · exact bitAt_eq (by rw [hw]; omega)
  · exact fld_eq (by rw [hw]; omega)

theorem encSH_toNat (op : BitVec 6) (o : SH) : (encSH op o).toNat = ((((op.toNat * 2 ^ 6 + o.sd.toNat) * 2 ^ 6 + o.sa.toNat) * 2 ^ 1 + o.wa.toNat) * 2 ^ 7 + 0) * 2 ^ 6 + o.cnt.toNat := by
  unfold encSH
  repeat rw [cat_toNat]
  simp only [wbit_toNat, zeros_toNat]

theorem opcode_encSH (op : BitVec 6) (o : SH) : opcode (encSH op o) = op.toNat := by
  have := op.isLt
  have := o.sd.isLt
  have := o.sa.isLt
  have := o.wa.toNat_lt
  have := o.cnt.isLt
  rw [opcode, fld_toNat, encSH_toNat]
  omega

theorem decSH_encSH (op : BitVec 6) (o : SH) : decSH (encSH op o) = some o := by
  have hw := encSH_toNat op o
  obtain ⟨sd, sa, wa, cnt⟩ := o
  have := op.isLt
  have := sd.isLt
  have := sa.isLt
  have := wa.toNat_lt
  have := cnt.isLt
  dsimp only at hw
  unfold decSH
  rw [if_pos (fld_zero (by rw [hw]; omega))]
  refine congrArg some ?_
  congr 1
  · exact fld_eq (by rw [hw]; omega)
  · exact fld_eq (by rw [hw]; omega)
  · exact bitAt_eq (by rw [hw]; omega)
  · exact fld_eq (by rw [hw]; omega)

theorem encSB_toNat (op : BitVec 6) (o : SB) : (encSB op o).toNat = (((((op.toNat * 2 ^ 6 + o.sd.toNat) * 2 ^ 6 + o.sa.toNat) * 2 ^ 1 + o.wa.toNat) * 2 ^ 6 + o.lsb.toNat) * 2 ^ 1 + 0) * 2 ^ 6 + o.wm1.toNat := by
  unfold encSB
  repeat rw [cat_toNat]
  simp only [wbit_toNat, zeros_toNat]

theorem opcode_encSB (op : BitVec 6) (o : SB) : opcode (encSB op o) = op.toNat := by
  have := op.isLt
  have := o.sd.isLt
  have := o.sa.isLt
  have := o.wa.toNat_lt
  have := o.lsb.isLt
  have := o.wm1.isLt
  rw [opcode, fld_toNat, encSB_toNat]
  omega

theorem decSB_encSB (op : BitVec 6) (o : SB) : decSB (encSB op o) = some o := by
  have hw := encSB_toNat op o
  obtain ⟨sd, sa, wa, lsb, wm1⟩ := o
  have := op.isLt
  have := sd.isLt
  have := sa.isLt
  have := wa.toNat_lt
  have := lsb.isLt
  have := wm1.isLt
  dsimp only at hw
  unfold decSB
  rw [if_pos (fld_zero (by rw [hw]; omega))]
  refine congrArg some ?_
  congr 1
  · exact fld_eq (by rw [hw]; omega)
  · exact fld_eq (by rw [hw]; omega)
  · exact bitAt_eq (by rw [hw]; omega)
  · exact fld_eq (by rw [hw]; omega)
  · exact fld_eq (by rw [hw]; omega)

theorem encABr_toNat (op : BitVec 6) (o : ABr) : (encABr op o).toNat = (op.toNat * 2 ^ 7 + 0) * 2 ^ 19 + o.off.toNat := by
  unfold encABr
  repeat rw [cat_toNat]
  simp only [zeros_toNat]

theorem opcode_encABr (op : BitVec 6) (o : ABr) : opcode (encABr op o) = op.toNat := by
  have := op.isLt
  have := o.off.isLt
  rw [opcode, fld_toNat, encABr_toNat]
  omega

theorem decABr_encABr (op : BitVec 6) (o : ABr) : decABr (encABr op o) o.lend = some o := by
  have hw := encABr_toNat op o
  obtain ⟨off, lend⟩ := o
  have := op.isLt
  have := off.isLt
  dsimp only at hw
  unfold decABr
  rw [if_pos (fld_zero (by rw [hw]; omega))]
  refine congrArg some ?_
  congr 1
  · exact fld_eq (by rw [hw]; omega)

theorem encABc_toNat (op : BitVec 6) (o : ABc) : (encABc op o).toNat = ((op.toNat * 2 ^ 6 + o.sa.toNat) * 2 ^ 1 + o.wa.toNat) * 2 ^ 19 + o.off.toNat := by
  unfold encABc
  repeat rw [cat_toNat]
  simp only [wbit_toNat]

theorem opcode_encABc (op : BitVec 6) (o : ABc) : opcode (encABc op o) = op.toNat := by
  have := op.isLt
  have := o.sa.isLt
  have := o.wa.toNat_lt
  have := o.off.isLt
  rw [opcode, fld_toNat, encABc_toNat]
  omega

theorem decABc_encABc (op : BitVec 6) (o : ABc) : decABc (encABc op o) o.lend = some o := by
  have hw := encABc_toNat op o
  obtain ⟨sa, wa, off, lend⟩ := o
  have := op.isLt
  have := sa.isLt
  have := wa.toNat_lt
  have := off.isLt
  dsimp only at hw
  unfold decABc
  refine congrArg some ?_
  congr 1
  · exact fld_eq (by rw [hw]; omega)
  · exact bitAt_eq (by rw [hw]; omega)
  · exact fld_eq (by rw [hw]; omega)

theorem encABl_toNat (op : BitVec 6) (o : ABl) : (encABl op o).toNat = ((op.toNat * 2 ^ 6 + o.sd.toNat) * 2 ^ 1 + 0) * 2 ^ 19 + o.off.toNat := by
  unfold encABl
  repeat rw [cat_toNat]
  simp only [zeros_toNat]

theorem opcode_encABl (op : BitVec 6) (o : ABl) : opcode (encABl op o) = op.toNat := by
  have := op.isLt
  have := o.sd.isLt
  have := o.off.isLt
  rw [opcode, fld_toNat, encABl_toNat]
  omega

theorem decABl_encABl (op : BitVec 6) (o : ABl) : decABl (encABl op o) o.lend = some o := by
  have hw := encABl_toNat op o
  obtain ⟨sd, off, lend⟩ := o
  have := op.isLt
  have := sd.isLt
  have := off.isLt
  dsimp only at hw
  unfold decABl
  rw [if_pos (fld_zero (by rw [hw]; omega))]
  refine congrArg some ?_
  congr 1
  · exact fld_eq (by rw [hw]; omega)
  · exact fld_eq (by rw [hw]; omega)

theorem encAA_toNat (op : BitVec 6) (o : AA) : (encAA op o).toNat = ((((((op.toNat * 2 ^ 6 + o.sd.toNat) * 2 ^ 6 + o.sa.toNat) * 2 ^ 1 + o.wa.toNat) * 2 ^ 6 + o.sb.toNat) * 2 ^ 1 + o.wb.toNat) * 2 ^ 3 + o.sh.toNat) * 2 ^ 3 + 0 := by
  unfold encAA
  repeat rw [cat_toNat]
  simp only [wbit_toNat, zeros_toNat]

theorem opcode_encAA (op : BitVec 6) (o : AA) : opcode (encAA op o) = op.toNat := by
  have := op.isLt
  have := o.sd.isLt
  have := o.sa.isLt
  have := o.wa.toNat_lt
  have := o.sb.isLt
  have := o.wb.toNat_lt
  have := o.sh.isLt
  rw [opcode, fld_toNat, encAA_toNat]
  omega

theorem decAA_encAA (op : BitVec 6) (o : AA) : decAA (encAA op o) = some o := by
  have hw := encAA_toNat op o
  obtain ⟨sd, sa, wa, sb, wb, sh⟩ := o
  have := op.isLt
  have := sd.isLt
  have := sa.isLt
  have := wa.toNat_lt
  have := sb.isLt
  have := wb.toNat_lt
  have := sh.isLt
  dsimp only at hw
  unfold decAA
  rw [if_pos (fld_zero (by rw [hw]; omega))]
  refine congrArg some ?_
  congr 1
  · exact fld_eq (by rw [hw]; omega)
  · exact fld_eq (by rw [hw]; omega)
  · exact bitAt_eq (by rw [hw]; omega)
  · exact fld_eq (by rw [hw]; omega)
  · exact bitAt_eq (by rw [hw]; omega)
  · exact fld_eq (by rw [hw]; omega)

theorem encAL_toNat (op : BitVec 6) (o : AL) : (encAL op o).toNat = ((((op.toNat * 2 ^ 3 + o.lvl.toNat) * 2 ^ 6 + o.sa.toNat) * 2 ^ 1 + o.wa.toNat) * 2 ^ 8 + 0) * 2 ^ 8 + o.lm1.toNat := by
  unfold encAL
  repeat rw [cat_toNat]
  simp only [wbit_toNat, zeros_toNat]

theorem opcode_encAL (op : BitVec 6) (o : AL) : opcode (encAL op o) = op.toNat := by
  have := op.isLt
  have := o.lvl.isLt
  have := o.sa.isLt
  have := o.wa.toNat_lt
  have := o.lm1.isLt
  rw [opcode, fld_toNat, encAL_toNat]
  omega

theorem decAL_encAL (op : BitVec 6) (o : AL) : decAL (encAL op o) = some o := by
  have hw := encAL_toNat op o
  obtain ⟨lvl, sa, wa, lm1⟩ := o
  have := op.isLt
  have := lvl.isLt
  have := sa.isLt
  have := wa.toNat_lt
  have := lm1.isLt
  dsimp only at hw
  unfold decAL
  rw [if_pos (fld_zero (by rw [hw]; omega))]
  refine congrArg some ?_
  congr 1
  · exact fld_eq (by rw [hw]; omega)
  · exact fld_eq (by rw [hw]; omega)
  · exact bitAt_eq (by rw [hw]; omega)
  · exact fld_eq (by rw [hw]; omega)

theorem encALI_toNat (op : BitVec 6) (o : ALI) : (encALI op o).toNat = ((op.toNat * 2 ^ 3 + o.lvl.toNat) * 2 ^ 15 + o.cnt.toNat) * 2 ^ 8 + o.lm1.toNat := by
  unfold encALI
  repeat rw [cat_toNat]

theorem opcode_encALI (op : BitVec 6) (o : ALI) : opcode (encALI op o) = op.toNat := by
  have := op.isLt
  have := o.lvl.isLt
  have := o.cnt.isLt
  have := o.lm1.isLt
  rw [opcode, fld_toNat, encALI_toNat]
  omega

theorem decALI_encALI (op : BitVec 6) (o : ALI) : decALI (encALI op o) o.lend = some o := by
  have hw := encALI_toNat op o
  obtain ⟨lvl, cnt, lm1, lend⟩ := o
  have := op.isLt
  have := lvl.isLt
  have := cnt.isLt
  have := lm1.isLt
  dsimp only at hw
  unfold decALI
  refine congrArg some ?_
  congr 1
  · exact fld_eq (by rw [hw]; omega)
  · exact fld_eq (by rw [hw]; omega)
  · exact fld_eq (by rw [hw]; omega)

theorem encAX_toNat (op : BitVec 6) (o : AX) : (encAX op o).toNat = (op.toNat * 2 ^ 3 + o.lvl.toNat) * 2 ^ 23 + 0 := by
  unfold encAX
  repeat rw [cat_toNat]
  simp only [zeros_toNat]

theorem opcode_encAX (op : BitVec 6) (o : AX) : opcode (encAX op o) = op.toNat := by
  have := op.isLt
  have := o.lvl.isLt
  rw [opcode, fld_toNat, encAX_toNat]
  omega

theorem decAX_encAX (op : BitVec 6) (o : AX) : decAX (encAX op o) = some o := by
  have hw := encAX_toNat op o
  obtain ⟨lvl⟩ := o
  have := op.isLt
  have := lvl.isLt
  dsimp only at hw
  unfold decAX
  rw [if_pos (fld_zero (by rw [hw]; omega))]
  refine congrArg some ?_
  congr 1
  · exact fld_eq (by rw [hw]; omega)

theorem encMSl_toNat (op : BitVec 6) (o : MSl) : (encMSl op o).toNat = ((((op.toNat * 2 ^ 6 + o.sd.toNat) * 2 ^ 1 + 0) * 2 ^ 6 + o.sa.toNat) * 2 ^ 1 + o.wa.toNat) * 2 ^ 12 + o.off.toNat := by
  unfold encMSl
  repeat rw [cat_toNat]
  simp only [wbit_toNat, zeros_toNat]

theorem opcode_encMSl (op : BitVec 6) (o : MSl) : opcode (encMSl op o) = op.toNat := by
  have := op.isLt
  have := o.sd.isLt
  have := o.sa.isLt
  have := o.wa.toNat_lt
  have := o.off.isLt
  rw [opcode, fld_toNat, encMSl_toNat]
  omega

theorem decMSl_encMSl (op : BitVec 6) (o : MSl) : decMSl (encMSl op o) o.lend = some o := by
  have hw := encMSl_toNat op o
  obtain ⟨sd, sa, wa, off, lend⟩ := o
  have := op.isLt
  have := sd.isLt
  have := sa.isLt
  have := wa.toNat_lt
  have := off.isLt
  dsimp only at hw
  unfold decMSl
  rw [if_pos (fld_zero (by rw [hw]; omega))]
  refine congrArg some ?_
  congr 1
  · exact fld_eq (by rw [hw]; omega)
  · exact fld_eq (by rw [hw]; omega)
  · exact bitAt_eq (by rw [hw]; omega)
  · exact fld_eq (by rw [hw]; omega)

theorem encMSs_toNat (op : BitVec 6) (o : MSs) : (encMSs op o).toNat = ((((op.toNat * 2 ^ 6 + o.sc.toNat) * 2 ^ 1 + o.wc.toNat) * 2 ^ 6 + o.sa.toNat) * 2 ^ 1 + o.wa.toNat) * 2 ^ 12 + o.off.toNat := by
  unfold encMSs
  repeat rw [cat_toNat]
  simp only [wbit_toNat]

theorem opcode_encMSs (op : BitVec 6) (o : MSs) : opcode (encMSs op o) = op.toNat := by
  have := op.isLt
  have := o.sc.isLt
  have := o.wc.toNat_lt
  have := o.sa.isLt
  have := o.wa.toNat_lt
  have := o.off.isLt
  rw [opcode, fld_toNat, encMSs_toNat]
  omega

theorem decMSs_encMSs (op : BitVec 6) (o : MSs) : decMSs (encMSs op o) o.lend = some o := by
  have hw := encMSs_toNat op o
  obtain ⟨sc, wc, sa, wa, off, lend⟩ := o
  have := op.isLt
  have := sc.isLt
  have := wc.toNat_lt
  have := sa.isLt
  have := wa.toNat_lt
  have := off.isLt
  dsimp only at hw
  unfold decMSs
  refine congrArg some ?_
  congr 1
  · exact fld_eq (by rw [hw]; omega)
  · exact bitAt_eq (by rw [hw]; omega)
  · exact fld_eq (by rw [hw]; omega)
  · exact bitAt_eq (by rw [hw]; omega)
  · exact fld_eq (by rw [hw]; omega)

theorem encMVl_toNat (op : BitVec 6) (o : MVl) : (encMVl op o).toNat = (((((op.toNat * 2 ^ 5 + o.vd.toNat) * 2 ^ 1 + 0) * 2 ^ 3 + o.p.toNat) * 2 ^ 6 + o.sa.toNat) * 2 ^ 1 + o.wa.toNat) * 2 ^ 10 + o.off.toNat := by
  unfold encMVl
  repeat rw [cat_toNat]
  simp only [wbit_toNat, zeros_toNat]

theorem opcode_encMVl (op : BitVec 6) (o : MVl) : opcode (encMVl op o) = op.toNat := by
  have := op.isLt
  have := o.vd.isLt
  have := o.p.isLt
  have := o.sa.isLt
  have := o.wa.toNat_lt
  have := o.off.isLt
  rw [opcode, fld_toNat, encMVl_toNat]
  omega

theorem decMVl_encMVl (op : BitVec 6) (o : MVl) : decMVl (encMVl op o) o.lend = some o := by
  have hw := encMVl_toNat op o
  obtain ⟨vd, p, sa, wa, off, lend⟩ := o
  have := op.isLt
  have := vd.isLt
  have := p.isLt
  have := sa.isLt
  have := wa.toNat_lt
  have := off.isLt
  dsimp only at hw
  unfold decMVl
  rw [if_pos (fld_zero (by rw [hw]; omega))]
  refine congrArg some ?_
  congr 1
  · exact fld_eq (by rw [hw]; omega)
  · exact fld_eq (by rw [hw]; omega)
  · exact fld_eq (by rw [hw]; omega)
  · exact bitAt_eq (by rw [hw]; omega)
  · exact fld_eq (by rw [hw]; omega)

theorem encMVs_toNat (op : BitVec 6) (o : MVs) : (encMVs op o).toNat = (((((op.toNat * 2 ^ 5 + o.vc.toNat) * 2 ^ 1 + o.wc.toNat) * 2 ^ 3 + o.p.toNat) * 2 ^ 6 + o.sa.toNat) * 2 ^ 1 + o.wa.toNat) * 2 ^ 10 + o.off.toNat := by
  unfold encMVs
  repeat rw [cat_toNat]
  simp only [wbit_toNat]

theorem opcode_encMVs (op : BitVec 6) (o : MVs) : opcode (encMVs op o) = op.toNat := by
  have := op.isLt
  have := o.vc.isLt
  have := o.wc.toNat_lt
  have := o.p.isLt
  have := o.sa.isLt
  have := o.wa.toNat_lt
  have := o.off.isLt
  rw [opcode, fld_toNat, encMVs_toNat]
  omega

theorem decMVs_encMVs (op : BitVec 6) (o : MVs) : decMVs (encMVs op o) o.lend = some o := by
  have hw := encMVs_toNat op o
  obtain ⟨vc, wc, p, sa, wa, off, lend⟩ := o
  have := op.isLt
  have := vc.isLt
  have := wc.toNat_lt
  have := p.isLt
  have := sa.isLt
  have := wa.toNat_lt
  have := off.isLt
  dsimp only at hw
  unfold decMVs
  refine congrArg some ?_
  congr 1
  · exact fld_eq (by rw [hw]; omega)
  · exact bitAt_eq (by rw [hw]; omega)
  · exact fld_eq (by rw [hw]; omega)
  · exact fld_eq (by rw [hw]; omega)
  · exact bitAt_eq (by rw [hw]; omega)
  · exact fld_eq (by rw [hw]; omega)

theorem encMGl_toNat (op : BitVec 6) (o : MGl) : (encMGl op o).toNat = (((((((op.toNat * 2 ^ 5 + o.vd.toNat) * 2 ^ 1 + 0) * 2 ^ 3 + o.p.toNat) * 2 ^ 6 + o.sa.toNat) * 2 ^ 1 + o.wa.toNat) * 2 ^ 5 + o.vb.toNat) * 2 ^ 1 + o.wb.toNat) * 2 ^ 4 + 0 := by
  unfold encMGl
  repeat rw [cat_toNat]
  simp only [wbit_toNat, zeros_toNat]

theorem opcode_encMGl (op : BitVec 6) (o : MGl) : opcode (encMGl op o) = op.toNat := by
  have := op.isLt
  have := o.vd.isLt
  have := o.p.isLt
  have := o.sa.isLt
  have := o.wa.toNat_lt
  have := o.vb.isLt
  have := o.wb.toNat_lt
  rw [opcode, fld_toNat, encMGl_toNat]
  omega

theorem decMGl_encMGl (op : BitVec 6) (o : MGl) : decMGl (encMGl op o) = some o := by
  have hw := encMGl_toNat op o
  obtain ⟨vd, p, sa, wa, vb, wb⟩ := o
  have := op.isLt
  have := vd.isLt
  have := p.isLt
  have := sa.isLt
  have := wa.toNat_lt
  have := vb.isLt
  have := wb.toNat_lt
  dsimp only at hw
  unfold decMGl
  rw [if_pos ⟨fld_zero (by rw [hw]; omega), fld_zero (by rw [hw]; omega)⟩]
  refine congrArg some ?_
  congr 1
  · exact fld_eq (by rw [hw]; omega)
  · exact fld_eq (by rw [hw]; omega)
  · exact fld_eq (by rw [hw]; omega)
  · exact bitAt_eq (by rw [hw]; omega)
  · exact fld_eq (by rw [hw]; omega)
  · exact bitAt_eq (by rw [hw]; omega)

theorem encMGs_toNat (op : BitVec 6) (o : MGs) : (encMGs op o).toNat = (((((((op.toNat * 2 ^ 5 + o.vc.toNat) * 2 ^ 1 + o.wc.toNat) * 2 ^ 3 + o.p.toNat) * 2 ^ 6 + o.sa.toNat) * 2 ^ 1 + o.wa.toNat) * 2 ^ 5 + o.vb.toNat) * 2 ^ 1 + o.wb.toNat) * 2 ^ 4 + 0 := by
  unfold encMGs
  repeat rw [cat_toNat]
  simp only [wbit_toNat, zeros_toNat]

theorem opcode_encMGs (op : BitVec 6) (o : MGs) : opcode (encMGs op o) = op.toNat := by
  have := op.isLt
  have := o.vc.isLt
  have := o.wc.toNat_lt
  have := o.p.isLt
  have := o.sa.isLt
  have := o.wa.toNat_lt
  have := o.vb.isLt
  have := o.wb.toNat_lt
  rw [opcode, fld_toNat, encMGs_toNat]
  omega

theorem decMGs_encMGs (op : BitVec 6) (o : MGs) : decMGs (encMGs op o) = some o := by
  have hw := encMGs_toNat op o
  obtain ⟨vc, wc, p, sa, wa, vb, wb⟩ := o
  have := op.isLt
  have := vc.isLt
  have := wc.toNat_lt
  have := p.isLt
  have := sa.isLt
  have := wa.toNat_lt
  have := vb.isLt
  have := wb.toNat_lt
  dsimp only at hw
  unfold decMGs
  rw [if_pos (fld_zero (by rw [hw]; omega))]
  refine congrArg some ?_
  congr 1
  · exact fld_eq (by rw [hw]; omega)
  · exact bitAt_eq (by rw [hw]; omega)
  · exact fld_eq (by rw [hw]; omega)
  · exact fld_eq (by rw [hw]; omega)
  · exact bitAt_eq (by rw [hw]; omega)
  · exact fld_eq (by rw [hw]; omega)
  · exact bitAt_eq (by rw [hw]; omega)

theorem encVR_toNat (op : BitVec 6) (o : VR) : (encVR op o).toNat = ((((((op.toNat * 2 ^ 5 + o.vd.toNat) * 2 ^ 5 + o.va.toNat) * 2 ^ 1 + o.wa.toNat) * 2 ^ 5 + o.vb.toNat) * 2 ^ 1 + o.wb.toNat) * 2 ^ 6 + 0) * 2 ^ 3 + o.p.toNat := by
  unfold encVR
  repeat rw [cat_toNat]
  simp only [wbit_toNat, zeros_toNat]

theorem opcode_encVR (op : BitVec 6) (o : VR) : opcode (encVR op o) = op.toNat := by
  have := op.isLt
  have := o.vd.isLt
  have := o.va.isLt
  have := o.wa.toNat_lt
  have := o.vb.isLt
  have := o.wb.toNat_lt
  have := o.p.isLt
  rw [opcode, fld_toNat, encVR_toNat]
  omega

theorem decVR_encVR (op : BitVec 6) (o : VR) : decVR (encVR op o) = some o := by
  have hw := encVR_toNat op o
  obtain ⟨vd, va, wa, vb, wb, p⟩ := o
  have := op.isLt
  have := vd.isLt
  have := va.isLt
  have := wa.toNat_lt
  have := vb.isLt
  have := wb.toNat_lt
  have := p.isLt
  dsimp only at hw
  unfold decVR
  rw [if_pos (fld_zero (by rw [hw]; omega))]
  refine congrArg some ?_
  congr 1
  · exact fld_eq (by rw [hw]; omega)
  · exact fld_eq (by rw [hw]; omega)
  · exact bitAt_eq (by rw [hw]; omega)
  · exact fld_eq (by rw [hw]; omega)
  · exact bitAt_eq (by rw [hw]; omega)
  · exact fld_eq (by rw [hw]; omega)

theorem encVR3_toNat (op : BitVec 6) (o : VR3) : (encVR3 op o).toNat = (((((((op.toNat * 2 ^ 5 + o.vd.toNat) * 2 ^ 5 + o.va.toNat) * 2 ^ 1 + o.wa.toNat) * 2 ^ 5 + o.vb.toNat) * 2 ^ 1 + o.wb.toNat) * 2 ^ 5 + o.vc.toNat) * 2 ^ 1 + o.wc.toNat) * 2 ^ 3 + o.p.toNat := by
  unfold encVR3
  repeat rw [cat_toNat]
  simp only [wbit_toNat]

theorem opcode_encVR3 (op : BitVec 6) (o : VR3) : opcode (encVR3 op o) = op.toNat := by
  have := op.isLt
  have := o.vd.isLt
  have := o.va.isLt
  have := o.wa.toNat_lt
  have := o.vb.isLt
  have := o.wb.toNat_lt
  have := o.vc.isLt
  have := o.wc.toNat_lt
  have := o.p.isLt
  rw [opcode, fld_toNat, encVR3_toNat]
  omega

theorem decVR3_encVR3 (op : BitVec 6) (o : VR3) : decVR3 (encVR3 op o) = some o := by
  have hw := encVR3_toNat op o
  obtain ⟨vd, va, wa, vb, wb, vc, wc, p⟩ := o
  have := op.isLt
  have := vd.isLt
  have := va.isLt
  have := wa.toNat_lt
  have := vb.isLt
  have := wb.toNat_lt
  have := vc.isLt
  have := wc.toNat_lt
  have := p.isLt
  dsimp only at hw
  unfold decVR3
  refine congrArg some ?_
  congr 1
  · exact fld_eq (by rw [hw]; omega)
  · exact fld_eq (by rw [hw]; omega)
  · exact bitAt_eq (by rw [hw]; omega)
  · exact fld_eq (by rw [hw]; omega)
  · exact bitAt_eq (by rw [hw]; omega)
  · exact fld_eq (by rw [hw]; omega)
  · exact bitAt_eq (by rw [hw]; omega)
  · exact fld_eq (by rw [hw]; omega)

theorem encVR1_toNat (op : BitVec 6) (o : VR1) : (encVR1 op o).toNat = ((((op.toNat * 2 ^ 5 + o.vd.toNat) * 2 ^ 5 + o.va.toNat) * 2 ^ 1 + o.wa.toNat) * 2 ^ 12 + 0) * 2 ^ 3 + o.p.toNat := by
  unfold encVR1
  repeat rw [cat_toNat]
  simp only [wbit_toNat, zeros_toNat]

theorem opcode_encVR1 (op : BitVec 6) (o : VR1) : opcode (encVR1 op o) = op.toNat := by
  have := op.isLt
  have := o.vd.isLt
  have := o.va.isLt
  have := o.wa.toNat_lt
  have := o.p.isLt
  rw [opcode, fld_toNat, encVR1_toNat]
  omega

theorem decVR1_encVR1 (op : BitVec 6) (o : VR1) : decVR1 (encVR1 op o) = some o := by
  have hw := encVR1_toNat op o
  obtain ⟨vd, va, wa, p⟩ := o
  have := op.isLt
  have := vd.isLt
  have := va.isLt
  have := wa.toNat_lt
  have := p.isLt
  dsimp only at hw
  unfold decVR1
  rw [if_pos (fld_zero (by rw [hw]; omega))]
  refine congrArg some ?_
  congr 1
  · exact fld_eq (by rw [hw]; omega)
  · exact fld_eq (by rw [hw]; omega)
  · exact bitAt_eq (by rw [hw]; omega)
  · exact fld_eq (by rw [hw]; omega)

theorem encVP_toNat (op : BitVec 6) (o : VP) : (encVP op o).toNat = (((((((op.toNat * 2 ^ 2 + 0) * 2 ^ 3 + o.pd.toNat) * 2 ^ 5 + o.va.toNat) * 2 ^ 1 + o.wa.toNat) * 2 ^ 5 + o.vb.toNat) * 2 ^ 1 + o.wb.toNat) * 2 ^ 6 + 0) * 2 ^ 3 + o.p.toNat := by
  unfold encVP
  repeat rw [cat_toNat]
  simp only [wbit_toNat, zeros_toNat]

theorem opcode_encVP (op : BitVec 6) (o : VP) : opcode (encVP op o) = op.toNat := by
  have := op.isLt
  have := o.pd.isLt
  have := o.va.isLt
  have := o.wa.toNat_lt
  have := o.vb.isLt
  have := o.wb.toNat_lt
  have := o.p.isLt
  rw [opcode, fld_toNat, encVP_toNat]
  omega

theorem decVP_encVP (op : BitVec 6) (o : VP) : decVP (encVP op o) = some o := by
  have hw := encVP_toNat op o
  obtain ⟨pd, va, wa, vb, wb, p⟩ := o
  have := op.isLt
  have := pd.isLt
  have := va.isLt
  have := wa.toNat_lt
  have := vb.isLt
  have := wb.toNat_lt
  have := p.isLt
  dsimp only at hw
  unfold decVP
  rw [if_pos ⟨fld_zero (by rw [hw]; omega), fld_zero (by rw [hw]; omega)⟩]
  refine congrArg some ?_
  congr 1
  · exact fld_eq (by rw [hw]; omega)
  · exact fld_eq (by rw [hw]; omega)
  · exact bitAt_eq (by rw [hw]; omega)
  · exact fld_eq (by rw [hw]; omega)
  · exact bitAt_eq (by rw [hw]; omega)
  · exact fld_eq (by rw [hw]; omega)

theorem encVB_toNat (op : BitVec 6) (o : VB) : (encVB op o).toNat = ((((op.toNat * 2 ^ 5 + o.vd.toNat) * 2 ^ 6 + o.sa.toNat) * 2 ^ 1 + o.wa.toNat) * 2 ^ 11 + 0) * 2 ^ 3 + o.p.toNat := by
  unfold encVB
  repeat rw [cat_toNat]
  simp only [wbit_toNat, zeros_toNat]

theorem opcode_encVB (op : BitVec 6) (o : VB) : opcode (encVB op o) = op.toNat := by
  have := op.isLt
  have := o.vd.isLt
  have := o.sa.isLt
  have := o.wa.toNat_lt
  have := o.p.isLt
  rw [opcode, fld_toNat, encVB_toNat]
  omega

theorem decVB_encVB (op : BitVec 6) (o : VB) : decVB (encVB op o) = some o := by
  have hw := encVB_toNat op o
  obtain ⟨vd, sa, wa, p⟩ := o
  have := op.isLt
  have := vd.isLt
  have := sa.isLt
  have := wa.toNat_lt
  have := p.isLt
  dsimp only at hw
  unfold decVB
  rw [if_pos (fld_zero (by rw [hw]; omega))]
  refine congrArg some ?_
  congr 1
  · exact fld_eq (by rw [hw]; omega)
  · exact fld_eq (by rw [hw]; omega)
  · exact bitAt_eq (by rw [hw]; omega)
  · exact fld_eq (by rw [hw]; omega)

theorem encVX_toNat (op : BitVec 6) (o : VX) : (encVX op o).toNat = ((((op.toNat * 2 ^ 6 + o.sd.toNat) * 2 ^ 5 + o.va.toNat) * 2 ^ 1 + o.wa.toNat) * 2 ^ 7 + o.lane.toNat) * 2 ^ 7 + 0 := by
  unfold encVX
  repeat rw [cat_toNat]
  simp only [wbit_toNat, zeros_toNat]

theorem opcode_encVX (op : BitVec 6) (o : VX) : opcode (encVX op o) = op.toNat := by
  have := op.isLt
  have := o.sd.isLt
  have := o.va.isLt
  have := o.wa.toNat_lt
  have := o.lane.isLt
  rw [opcode, fld_toNat, encVX_toNat]
  omega

theorem decVX_encVX (op : BitVec 6) (o : VX) : decVX (encVX op o) = some o := by
  have hw := encVX_toNat op o
  obtain ⟨sd, va, wa, lane⟩ := o
  have := op.isLt
  have := sd.isLt
  have := va.isLt
  have := wa.toNat_lt
  have := lane.isLt
  dsimp only at hw
  unfold decVX
  rw [if_pos (fld_zero (by rw [hw]; omega))]
  refine congrArg some ?_
  congr 1
  · exact fld_eq (by rw [hw]; omega)
  · exact fld_eq (by rw [hw]; omega)
  · exact bitAt_eq (by rw [hw]; omega)
  · exact fld_eq (by rw [hw]; omega)

theorem encVQ_toNat (op : BitVec 6) (o : VQ) : (encVQ op o).toNat = ((((op.toNat * 2 ^ 6 + o.sd.toNat) * 2 ^ 5 + o.va.toNat) * 2 ^ 1 + o.wa.toNat) * 2 ^ 11 + 0) * 2 ^ 3 + o.p.toNat := by
  unfold encVQ
  repeat rw [cat_toNat]
  simp only [wbit_toNat, zeros_toNat]

theorem opcode_encVQ (op : BitVec 6) (o : VQ) : opcode (encVQ op o) = op.toNat := by
  have := op.isLt
  have := o.sd.isLt
  have := o.va.isLt
  have := o.wa.toNat_lt
  have := o.p.isLt
  rw [opcode, fld_toNat, encVQ_toNat]
  omega

theorem decVQ_encVQ (op : BitVec 6) (o : VQ) : decVQ (encVQ op o) = some o := by
  have hw := encVQ_toNat op o
  obtain ⟨sd, va, wa, p⟩ := o
  have := op.isLt
  have := sd.isLt
  have := va.isLt
  have := wa.toNat_lt
  have := p.isLt
  dsimp only at hw
  unfold decVQ
  rw [if_pos (fld_zero (by rw [hw]; omega))]
  refine congrArg some ?_
  congr 1
  · exact fld_eq (by rw [hw]; omega)
  · exact fld_eq (by rw [hw]; omega)
  · exact bitAt_eq (by rw [hw]; omega)
  · exact fld_eq (by rw [hw]; omega)

theorem encVC_toNat (op : BitVec 6) (o : VC) : (encVC op o).toNat = ((((((op.toNat * 2 ^ 5 + o.vd.toNat) * 2 ^ 5 + o.va.toNat) * 2 ^ 1 + o.wa.toNat) * 2 ^ 4 + o.src.toNat) * 2 ^ 4 + o.dst.toNat) * 2 ^ 4 + 0) * 2 ^ 3 + o.p.toNat := by
  unfold encVC
  repeat rw [cat_toNat]
  simp only [wbit_toNat, zeros_toNat]

theorem opcode_encVC (op : BitVec 6) (o : VC) : opcode (encVC op o) = op.toNat := by
  have := op.isLt
  have := o.vd.isLt
  have := o.va.isLt
  have := o.wa.toNat_lt
  have := o.src.isLt
  have := o.dst.isLt
  have := o.p.isLt
  rw [opcode, fld_toNat, encVC_toNat]
  omega

theorem decVC_encVC (op : BitVec 6) (o : VC) : decVC (encVC op o) = some o := by
  have hw := encVC_toNat op o
  obtain ⟨vd, va, wa, src, dst, p⟩ := o
  have := op.isLt
  have := vd.isLt
  have := va.isLt
  have := wa.toNat_lt
  have := src.isLt
  have := dst.isLt
  have := p.isLt
  dsimp only at hw
  unfold decVC
  rw [if_pos (fld_zero (by rw [hw]; omega))]
  refine congrArg some ?_
  congr 1
  · exact fld_eq (by rw [hw]; omega)
  · exact fld_eq (by rw [hw]; omega)
  · exact bitAt_eq (by rw [hw]; omega)
  · exact fld_eq (by rw [hw]; omega)
  · exact fld_eq (by rw [hw]; omega)
  · exact fld_eq (by rw [hw]; omega)

theorem encVG_toNat (op : BitVec 6) (o : VG) : (encVG op o).toNat = (((((op.toNat * 2 ^ 5 + o.vd.toNat) * 2 ^ 5 + o.va.toNat) * 2 ^ 1 + o.wa.toNat) * 2 ^ 4 + o.group.toNat) * 2 ^ 8 + 0) * 2 ^ 3 + o.p.toNat := by
  unfold encVG
  repeat rw [cat_toNat]
  simp only [wbit_toNat, zeros_toNat]

theorem opcode_encVG (op : BitVec 6) (o : VG) : opcode (encVG op o) = op.toNat := by
  have := op.isLt
  have := o.vd.isLt
  have := o.va.isLt
  have := o.wa.toNat_lt
  have := o.group.isLt
  have := o.p.isLt
  rw [opcode, fld_toNat, encVG_toNat]
  omega

theorem decVG_encVG (op : BitVec 6) (o : VG) : decVG (encVG op o) = some o := by
  have hw := encVG_toNat op o
  obtain ⟨vd, va, wa, group, p⟩ := o
  have := op.isLt
  have := vd.isLt
  have := va.isLt
  have := wa.toNat_lt
  have := group.isLt
  have := p.isLt
  dsimp only at hw
  unfold decVG
  rw [if_pos (fld_zero (by rw [hw]; omega))]
  refine congrArg some ?_
  congr 1
  · exact fld_eq (by rw [hw]; omega)
  · exact fld_eq (by rw [hw]; omega)
  · exact bitAt_eq (by rw [hw]; omega)
  · exact fld_eq (by rw [hw]; omega)
  · exact fld_eq (by rw [hw]; omega)

theorem encTI_toNat (op : BitVec 6) (o : TI) : (encTI op o).toNat = (((op.toNat * 2 ^ 5 + 0) * 2 ^ 5 + o.va.toNat) * 2 ^ 1 + o.wa.toNat) * 2 ^ 15 + 0 := by
  unfold encTI
  repeat rw [cat_toNat]
  simp only [wbit_toNat, zeros_toNat]

theorem opcode_encTI (op : BitVec 6) (o : TI) : opcode (encTI op o) = op.toNat := by
  have := op.isLt
  have := o.va.isLt
  have := o.wa.toNat_lt
  rw [opcode, fld_toNat, encTI_toNat]
  omega

theorem decTI_encTI (op : BitVec 6) (o : TI) : decTI (encTI op o) = some o := by
  have hw := encTI_toNat op o
  obtain ⟨va, wa⟩ := o
  have := op.isLt
  have := va.isLt
  have := wa.toNat_lt
  dsimp only at hw
  unfold decTI
  rw [if_pos ⟨fld_zero (by rw [hw]; omega), fld_zero (by rw [hw]; omega)⟩]
  refine congrArg some ?_
  congr 1
  · exact fld_eq (by rw [hw]; omega)
  · exact bitAt_eq (by rw [hw]; omega)

theorem encTP_toNat (op : BitVec 6) (o : TP) : (encTP op o).toNat = (op.toNat * 2 ^ 5 + o.vd.toNat) * 2 ^ 21 + 0 := by
  unfold encTP
  repeat rw [cat_toNat]
  simp only [zeros_toNat]

theorem opcode_encTP (op : BitVec 6) (o : TP) : opcode (encTP op o) = op.toNat := by
  have := op.isLt
  have := o.vd.isLt
  rw [opcode, fld_toNat, encTP_toNat]
  omega

theorem decTP_encTP (op : BitVec 6) (o : TP) : decTP (encTP op o) = some o := by
  have hw := encTP_toNat op o
  obtain ⟨vd⟩ := o
  have := op.isLt
  have := vd.isLt
  dsimp only at hw
  unfold decTP
  rw [if_pos (fld_zero (by rw [hw]; omega))]
  refine congrArg some ?_
  congr 1
  · exact fld_eq (by rw [hw]; omega)

theorem encTM_toNat (op : BitVec 6) (o : TM) : (encTM op o).toNat = (op.toNat * 2 ^ 22 + 0) * 2 ^ 4 + o.mode.toNat := by
  unfold encTM
  repeat rw [cat_toNat]
  simp only [zeros_toNat]

theorem opcode_encTM (op : BitVec 6) (o : TM) : opcode (encTM op o) = op.toNat := by
  have := op.isLt
  have := o.mode.isLt
  rw [opcode, fld_toNat, encTM_toNat]
  omega

theorem decTM_encTM (op : BitVec 6) (o : TM) : decTM (encTM op o) = some o := by
  have hw := encTM_toNat op o
  obtain ⟨mode⟩ := o
  have := op.isLt
  have := mode.isLt
  dsimp only at hw
  unfold decTM
  rw [if_pos (fld_zero (by rw [hw]; omega))]
  refine congrArg some ?_
  congr 1
  · exact fld_eq (by rw [hw]; omega)

theorem encEL_toNat (op : BitVec 6) (o : EL) : (encEL op o).toNat = (((op.toNat * 2 ^ 10 + o.latch.toNat) * 2 ^ 6 + o.sa.toNat) * 2 ^ 1 + o.wa.toNat) * 2 ^ 9 + 0 := by
  unfold encEL
  repeat rw [cat_toNat]
  simp only [wbit_toNat, zeros_toNat]

theorem opcode_encEL (op : BitVec 6) (o : EL) : opcode (encEL op o) = op.toNat := by
  have := op.isLt
  have := o.latch.isLt
  have := o.sa.isLt
  have := o.wa.toNat_lt
  rw [opcode, fld_toNat, encEL_toNat]
  omega

theorem decEL_encEL (op : BitVec 6) (o : EL) : decEL (encEL op o) = some o := by
  have hw := encEL_toNat op o
  obtain ⟨latch, sa, wa⟩ := o
  have := op.isLt
  have := latch.isLt
  have := sa.isLt
  have := wa.toNat_lt
  dsimp only at hw
  unfold decEL
  rw [if_pos (fld_zero (by rw [hw]; omega))]
  refine congrArg some ?_
  congr 1
  · exact fld_eq (by rw [hw]; omega)
  · exact fld_eq (by rw [hw]; omega)
  · exact bitAt_eq (by rw [hw]; omega)

theorem encEI_toNat (op : BitVec 6) (o : EI) : (encEI op o).toNat = (op.toNat * 2 ^ 10 + o.latch.toNat) * 2 ^ 16 + o.imm.toNat := by
  unfold encEI
  repeat rw [cat_toNat]

theorem opcode_encEI (op : BitVec 6) (o : EI) : opcode (encEI op o) = op.toNat := by
  have := op.isLt
  have := o.latch.isLt
  have := o.imm.isLt
  rw [opcode, fld_toNat, encEI_toNat]
  omega

theorem decEI_encEI (op : BitVec 6) (o : EI) : decEI (encEI op o) o.lend = some o := by
  have hw := encEI_toNat op o
  obtain ⟨latch, imm, lend⟩ := o
  have := op.isLt
  have := latch.isLt
  have := imm.isLt
  dsimp only at hw
  unfold decEI
  refine congrArg some ?_
  congr 1
  · exact fld_eq (by rw [hw]; omega)
  · exact fld_eq (by rw [hw]; omega)

theorem encES_toNat (op : BitVec 6) (o : ES) : (encES op o).toNat = ((op.toNat * 2 ^ 10 + o.latch.toNat) * 2 ^ 6 + o.sd.toNat) * 2 ^ 10 + 0 := by
  unfold encES
  repeat rw [cat_toNat]
  simp only [zeros_toNat]

theorem opcode_encES (op : BitVec 6) (o : ES) : opcode (encES op o) = op.toNat := by
  have := op.isLt
  have := o.latch.isLt
  have := o.sd.isLt
  rw [opcode, fld_toNat, encES_toNat]
  omega

theorem decES_encES (op : BitVec 6) (o : ES) : decES (encES op o) = some o := by
  have hw := encES_toNat op o
  obtain ⟨latch, sd⟩ := o
  have := op.isLt
  have := latch.isLt
  have := sd.isLt
  dsimp only at hw
  unfold decES
  rw [if_pos (fld_zero (by rw [hw]; omega))]
  refine congrArg some ?_
  congr 1
  · exact fld_eq (by rw [hw]; omega)
  · exact fld_eq (by rw [hw]; omega)

theorem encECp_toNat (op : BitVec 6) (sub : BitVec 4) (o : ECp) : (encECp op sub o).toNat = ((((op.toNat * 2 ^ 2 + o.eng.toNat) * 2 ^ 4 + sub.toNat) * 2 ^ 8 + 0) * 2 ^ 1 + o.fo.toNat) * 2 ^ 11 + 0 := by
  unfold encECp
  repeat rw [cat_toNat]
  simp only [wbit_toNat, zeros_toNat]

theorem opcode_encECp (op : BitVec 6) (sub : BitVec 4) (o : ECp) : opcode (encECp op sub o) = op.toNat := by
  have := op.isLt
  have := o.eng.isLt
  have := sub.isLt
  have := o.fo.toNat_lt
  rw [opcode, fld_toNat, encECp_toNat]
  omega

theorem sub_encECp (op : BitVec 6) (sub : BitVec 4) (o : ECp) : (fld (encECp op sub o) 20 4).toNat = sub.toNat := by
  have := op.isLt
  have := o.eng.isLt
  have := sub.isLt
  have := o.fo.toNat_lt
  rw [fld_toNat, encECp_toNat]
  omega

theorem decECp_encECp (op : BitVec 6) (sub : BitVec 4) (o : ECp) : decECp (encECp op sub o) = some o := by
  have hw := encECp_toNat op sub o
  obtain ⟨eng, fo⟩ := o
  have := op.isLt
  have := eng.isLt
  have := sub.isLt
  have := fo.toNat_lt
  dsimp only at hw
  unfold decECp
  rw [if_pos ⟨fld_zero (by rw [hw]; omega), fld_zero (by rw [hw]; omega)⟩]
  refine congrArg some ?_
  congr 1
  · exact fld_eq (by rw [hw]; omega)
  · exact bitAt_eq (by rw [hw]; omega)

theorem encECa_toNat (op : BitVec 6) (sub : BitVec 4) (o : ECa) : (encECa op sub o).toNat = (((op.toNat * 2 ^ 2 + o.eng.toNat) * 2 ^ 4 + sub.toNat) * 2 ^ 2 + o.ty.toNat) * 2 ^ 18 + 0 := by
  unfold encECa
  repeat rw [cat_toNat]
  simp only [zeros_toNat]

theorem opcode_encECa (op : BitVec 6) (sub : BitVec 4) (o : ECa) : opcode (encECa op sub o) = op.toNat := by
  have := op.isLt
  have := o.eng.isLt
  have := sub.isLt
  have := o.ty.isLt
  rw [opcode, fld_toNat, encECa_toNat]
  omega

theorem sub_encECa (op : BitVec 6) (sub : BitVec 4) (o : ECa) : (fld (encECa op sub o) 20 4).toNat = sub.toNat := by
  have := op.isLt
  have := o.eng.isLt
  have := sub.isLt
  have := o.ty.isLt
  rw [fld_toNat, encECa_toNat]
  omega

theorem decECa_encECa (op : BitVec 6) (sub : BitVec 4) (o : ECa) : decECa (encECa op sub o) = some o := by
  have hw := encECa_toNat op sub o
  obtain ⟨eng, ty⟩ := o
  have := op.isLt
  have := eng.isLt
  have := sub.isLt
  have := ty.isLt
  dsimp only at hw
  unfold decECa
  rw [if_pos (fld_zero (by rw [hw]; omega))]
  refine congrArg some ?_
  congr 1
  · exact fld_eq (by rw [hw]; omega)
  · exact fld_eq (by rw [hw]; omega)

theorem encECr_toNat (op : BitVec 6) (sub : BitVec 4) (o : ECr) : (encECr op sub o).toNat = ((((op.toNat * 2 ^ 2 + o.eng.toNat) * 2 ^ 4 + sub.toNat) * 2 ^ 2 + o.ty.toNat) * 2 ^ 6 + o.sd.toNat) * 2 ^ 12 + 0 := by
  unfold encECr
  repeat rw [cat_toNat]
  simp only [zeros_toNat]

theorem opcode_encECr (op : BitVec 6) (sub : BitVec 4) (o : ECr) : opcode (encECr op sub o) = op.toNat := by
  have := op.isLt
  have := o.eng.isLt
  have := sub.isLt
  have := o.ty.isLt
  have := o.sd.isLt
  rw [opcode, fld_toNat, encECr_toNat]
  omega

theorem sub_encECr (op : BitVec 6) (sub : BitVec 4) (o : ECr) : (fld (encECr op sub o) 20 4).toNat = sub.toNat := by
  have := op.isLt
  have := o.eng.isLt
  have := sub.isLt
  have := o.ty.isLt
  have := o.sd.isLt
  rw [fld_toNat, encECr_toNat]
  omega

theorem decECr_encECr (op : BitVec 6) (sub : BitVec 4) (o : ECr) : decECr (encECr op sub o) = some o := by
  have hw := encECr_toNat op sub o
  obtain ⟨eng, ty, sd⟩ := o
  have := op.isLt
  have := eng.isLt
  have := sub.isLt
  have := ty.isLt
  have := sd.isLt
  dsimp only at hw
  unfold decECr
  rw [if_pos (fld_zero (by rw [hw]; omega))]
  refine congrArg some ?_
  congr 1
  · exact fld_eq (by rw [hw]; omega)
  · exact fld_eq (by rw [hw]; omega)
  · exact fld_eq (by rw [hw]; omega)

theorem encEW_toNat (op : BitVec 6) (o : EW) : (encEW op o).toNat = (op.toNat * 2 ^ 3 + o.unit.toNat) * 2 ^ 23 + 0 := by
  unfold encEW
  repeat rw [cat_toNat]
  simp only [zeros_toNat]

theorem opcode_encEW (op : BitVec 6) (o : EW) : opcode (encEW op o) = op.toNat := by
  have := op.isLt
  have := o.unit.isLt
  rw [opcode, fld_toNat, encEW_toNat]
  omega

theorem decEW_encEW (op : BitVec 6) (o : EW) : decEW (encEW op o) = some o := by
  have hw := encEW_toNat op o
  obtain ⟨unit⟩ := o
  have := op.isLt
  have := unit.isLt
  dsimp only at hw
  unfold decEW
  rw [if_pos (fld_zero (by rw [hw]; omega))]
  refine congrArg some ?_
  congr 1
  · exact fld_eq (by rw [hw]; omega)

theorem encEM_toNat (op : BitVec 6) (o : EM) : (encEM op o).toNat = (((op.toNat * 2 ^ 4 + o.wm.toNat) * 2 ^ 6 + o.sa.toNat) * 2 ^ 1 + o.wa.toNat) * 2 ^ 15 + 0 := by
  unfold encEM
  repeat rw [cat_toNat]
  simp only [wbit_toNat, zeros_toNat]

theorem opcode_encEM (op : BitVec 6) (o : EM) : opcode (encEM op o) = op.toNat := by
  have := op.isLt
  have := o.wm.isLt
  have := o.sa.isLt
  have := o.wa.toNat_lt
  rw [opcode, fld_toNat, encEM_toNat]
  omega

theorem decEM_encEM (op : BitVec 6) (o : EM) : decEM (encEM op o) = some o := by
  have hw := encEM_toNat op o
  obtain ⟨wm, sa, wa⟩ := o
  have := op.isLt
  have := wm.isLt
  have := sa.isLt
  have := wa.toNat_lt
  dsimp only at hw
  unfold decEM
  rw [if_pos (fld_zero (by rw [hw]; omega))]
  refine congrArg some ?_
  congr 1
  · exact fld_eq (by rw [hw]; omega)
  · exact fld_eq (by rw [hw]; omega)
  · exact bitAt_eq (by rw [hw]; omega)

theorem encCI_toNat (op : BitVec 6) (o : CI) : (encCI op o).toNat = (op.toNat * 2 ^ 10 + 0) * 2 ^ 16 + o.imm.toNat := by
  unfold encCI
  repeat rw [cat_toNat]
  simp only [zeros_toNat]

theorem opcode_encCI (op : BitVec 6) (o : CI) : opcode (encCI op o) = op.toNat := by
  have := op.isLt
  have := o.imm.isLt
  rw [opcode, fld_toNat, encCI_toNat]
  omega

theorem decCI_encCI (op : BitVec 6) (o : CI) : decCI (encCI op o) = some o := by
  have hw := encCI_toNat op o
  obtain ⟨imm⟩ := o
  have := op.isLt
  have := imm.isLt
  dsimp only at hw
  unfold decCI
  rw [if_pos (fld_zero (by rw [hw]; omega))]
  refine congrArg some ?_
  congr 1
  · exact fld_eq (by rw [hw]; omega)

theorem encCSr_toNat (op : BitVec 6) (o : CSr) : (encCSr op o).toNat = ((op.toNat * 2 ^ 6 + o.sd.toNat) * 2 ^ 8 + 0) * 2 ^ 12 + o.num.toNat := by
  unfold encCSr
  repeat rw [cat_toNat]
  simp only [zeros_toNat]

theorem opcode_encCSr (op : BitVec 6) (o : CSr) : opcode (encCSr op o) = op.toNat := by
  have := op.isLt
  have := o.sd.isLt
  have := o.num.isLt
  rw [opcode, fld_toNat, encCSr_toNat]
  omega

theorem decCSr_encCSr (op : BitVec 6) (o : CSr) : decCSr (encCSr op o) = some o := by
  have hw := encCSr_toNat op o
  obtain ⟨sd, num⟩ := o
  have := op.isLt
  have := sd.isLt
  have := num.isLt
  dsimp only at hw
  unfold decCSr
  rw [if_pos (fld_zero (by rw [hw]; omega))]
  refine congrArg some ?_
  congr 1
  · exact fld_eq (by rw [hw]; omega)
  · exact fld_eq (by rw [hw]; omega)

theorem encCSw_toNat (op : BitVec 6) (o : CSw) : (encCSw op o).toNat = (((op.toNat * 2 ^ 6 + o.sa.toNat) * 2 ^ 1 + o.wa.toNat) * 2 ^ 7 + 0) * 2 ^ 12 + o.num.toNat := by
  unfold encCSw
  repeat rw [cat_toNat]
  simp only [wbit_toNat, zeros_toNat]

theorem opcode_encCSw (op : BitVec 6) (o : CSw) : opcode (encCSw op o) = op.toNat := by
  have := op.isLt
  have := o.sa.isLt
  have := o.wa.toNat_lt
  have := o.num.isLt
  rw [opcode, fld_toNat, encCSw_toNat]
  omega

theorem decCSw_encCSw (op : BitVec 6) (o : CSw) : decCSw (encCSw op o) = some o := by
  have hw := encCSw_toNat op o
  obtain ⟨sa, wa, num⟩ := o
  have := op.isLt
  have := sa.isLt
  have := wa.toNat_lt
  have := num.isLt
  dsimp only at hw
  unfold decCSw
  rw [if_pos (fld_zero (by rw [hw]; omega))]
  refine congrArg some ?_
  congr 1
  · exact fld_eq (by rw [hw]; omega)
  · exact bitAt_eq (by rw [hw]; omega)
  · exact fld_eq (by rw [hw]; omega)

/-! ### Words without operands -/

theorem opcode_encNone (op : BitVec 6) : opcode (encNone op) = op.toNat := by
  have := op.isLt
  rw [opcode, fld_toNat, encNone, cat_toNat, zeros_toNat]
  omega

theorem decNone_encNone (op : BitVec 6) (i : Instr) : decNone (encNone op) i = some i := by
  unfold decNone
  rw [if_pos (fld_zero (by rw [encNone, cat_toNat, zeros_toNat]; omega))]

end Sys2Proof
end

