-- ==== Sys2Proof/Laws/PerInstr.lean ====
section
/-! SUPPORT. Statements about each instruction as syntax, one lemma for each constructor. -/

namespace Sys2Proof.Laws

set_option Elab.async false

open Sys2Proof

/-- Decoding the encoding of a well-formed instruction gives it back (R54 to R57, R75); a row that is no word has no
encoding. -/
def RoundTrip.Statement (i : Instr) : Prop :=
  ∀ sw, i.wf = true → encode i = some sw → decodeSlot sw = .ok i

theorem RoundTrip.add (o) : RoundTrip.Statement (.add o) := by
  intro sw hwf h
  cases h
  simp [decodeSlot, decodeRaw, decodeS, noLend, orReserved, opcode_encSR, decSR_encSR, hwf]

theorem RoundTrip.sub (o) : RoundTrip.Statement (.sub o) := by
  intro sw hwf h
  cases h
  simp [decodeSlot, decodeRaw, decodeS, noLend, orReserved, opcode_encSR, decSR_encSR, hwf]

theorem RoundTrip.and (o) : RoundTrip.Statement (.and o) := by
  intro sw hwf h
  cases h
  simp [decodeSlot, decodeRaw, decodeS, noLend, orReserved, opcode_encSR, decSR_encSR, hwf]

theorem RoundTrip.or (o) : RoundTrip.Statement (.or o) := by
  intro sw hwf h
  cases h
  simp [decodeSlot, decodeRaw, decodeS, noLend, orReserved, opcode_encSR, decSR_encSR, hwf]

theorem RoundTrip.xor (o) : RoundTrip.Statement (.xor o) := by
  intro sw hwf h
  cases h
  simp [decodeSlot, decodeRaw, decodeS, noLend, orReserved, opcode_encSR, decSR_encSR, hwf]

theorem RoundTrip.shl (o) : RoundTrip.Statement (.shl o) := by
  intro sw hwf h
  cases h
  simp [decodeSlot, decodeRaw, decodeS, noLend, orReserved, opcode_encSR, decSR_encSR, hwf]

theorem RoundTrip.shr (o) : RoundTrip.Statement (.shr o) := by
  intro sw hwf h
  cases h
  simp [decodeSlot, decodeRaw, decodeS, noLend, orReserved, opcode_encSR, decSR_encSR, hwf]

theorem RoundTrip.sar (o) : RoundTrip.Statement (.sar o) := by
  intro sw hwf h
  cases h
  simp [decodeSlot, decodeRaw, decodeS, noLend, orReserved, opcode_encSR, decSR_encSR, hwf]

theorem RoundTrip.mul (o) : RoundTrip.Statement (.mul o) := by
  intro sw hwf h
  cases h
  simp [decodeSlot, decodeRaw, decodeS, noLend, orReserved, opcode_encSR, decSR_encSR, hwf]

theorem RoundTrip.mulhs (o) : RoundTrip.Statement (.mulhs o) := by
  intro sw hwf h
  cases h
  simp [decodeSlot, decodeRaw, decodeS, noLend, orReserved, opcode_encSR, decSR_encSR, hwf]

theorem RoundTrip.mulhu (o) : RoundTrip.Statement (.mulhu o) := by
  intro sw hwf h
  cases h
  simp [decodeSlot, decodeRaw, decodeS, noLend, orReserved, opcode_encSR, decSR_encSR, hwf]

theorem RoundTrip.min (o) : RoundTrip.Statement (.min o) := by
  intro sw hwf h
  cases h
  simp [decodeSlot, decodeRaw, decodeS, noLend, orReserved, opcode_encSR, decSR_encSR, hwf]

theorem RoundTrip.max (o) : RoundTrip.Statement (.max o) := by
  intro sw hwf h
  cases h
  simp [decodeSlot, decodeRaw, decodeS, noLend, orReserved, opcode_encSR, decSR_encSR, hwf]

theorem RoundTrip.minu (o) : RoundTrip.Statement (.minu o) := by
  intro sw hwf h
  cases h
  simp [decodeSlot, decodeRaw, decodeS, noLend, orReserved, opcode_encSR, decSR_encSR, hwf]

theorem RoundTrip.maxu (o) : RoundTrip.Statement (.maxu o) := by
  intro sw hwf h
  cases h
  simp [decodeSlot, decodeRaw, decodeS, noLend, orReserved, opcode_encSR, decSR_encSR, hwf]

theorem RoundTrip.ceq (o) : RoundTrip.Statement (.ceq o) := by
  intro sw hwf h
  cases h
  simp [decodeSlot, decodeRaw, decodeS, noLend, orReserved, opcode_encSR, decSR_encSR, hwf]

theorem RoundTrip.cne (o) : RoundTrip.Statement (.cne o) := by
  intro sw hwf h
  cases h
  simp [decodeSlot, decodeRaw, decodeS, noLend, orReserved, opcode_encSR, decSR_encSR, hwf]

theorem RoundTrip.clt (o) : RoundTrip.Statement (.clt o) := by
  intro sw hwf h
  cases h
  simp [decodeSlot, decodeRaw, decodeS, noLend, orReserved, opcode_encSR, decSR_encSR, hwf]

theorem RoundTrip.cle (o) : RoundTrip.Statement (.cle o) := by
  intro sw hwf h
  cases h
  simp [decodeSlot, decodeRaw, decodeS, noLend, orReserved, opcode_encSR, decSR_encSR, hwf]

theorem RoundTrip.cltu (o) : RoundTrip.Statement (.cltu o) := by
  intro sw hwf h
  cases h
  simp [decodeSlot, decodeRaw, decodeS, noLend, orReserved, opcode_encSR, decSR_encSR, hwf]

theorem RoundTrip.cleu (o) : RoundTrip.Statement (.cleu o) := by
  intro sw hwf h
  cases h
  simp [decodeSlot, decodeRaw, decodeS, noLend, orReserved, opcode_encSR, decSR_encSR, hwf]

theorem RoundTrip.movnz (o) : RoundTrip.Statement (.movnz o) := by
  intro sw hwf h
  cases h
  simp [decodeSlot, decodeRaw, decodeS, noLend, orReserved, opcode_encSR, decSR_encSR, hwf]

theorem RoundTrip.movz (o) : RoundTrip.Statement (.movz o) := by
  intro sw hwf h
  cases h
  simp [decodeSlot, decodeRaw, decodeS, noLend, orReserved, opcode_encSR, decSR_encSR, hwf]

theorem RoundTrip.clz (o) : RoundTrip.Statement (.clz o) := by
  intro sw hwf h
  cases h
  simp [decodeSlot, decodeRaw, decodeS, noLend, orReserved, opcode_encSR1, decSR1_encSR1, hwf]

theorem RoundTrip.ctz (o) : RoundTrip.Statement (.ctz o) := by
  intro sw hwf h
  cases h
  simp [decodeSlot, decodeRaw, decodeS, noLend, orReserved, opcode_encSR1, decSR1_encSR1, hwf]

theorem RoundTrip.popc (o) : RoundTrip.Statement (.popc o) := by
  intro sw hwf h
  cases h
  simp [decodeSlot, decodeRaw, decodeS, noLend, orReserved, opcode_encSR1, decSR1_encSR1, hwf]

theorem RoundTrip.bswap (o) : RoundTrip.Statement (.bswap o) := by
  intro sw hwf h
  cases h
  simp [decodeSlot, decodeRaw, decodeS, noLend, orReserved, opcode_encSR1, decSR1_encSR1, hwf]

theorem RoundTrip.addi (o) : RoundTrip.Statement (.addi o) := by
  intro sw hwf h
  cases h
  simp [decodeSlot, decodeRaw, decodeS, orReserved, opcode_encSI, decSI_encSI, hwf]

theorem RoundTrip.andi (o) : RoundTrip.Statement (.andi o) := by
  intro sw hwf h
  cases h
  simp [decodeSlot, decodeRaw, decodeS, orReserved, opcode_encSI, decSI_encSI, hwf]

theorem RoundTrip.ori (o) : RoundTrip.Statement (.ori o) := by
  intro sw hwf h
  cases h
  simp [decodeSlot, decodeRaw, decodeS, orReserved, opcode_encSI, decSI_encSI, hwf]

theorem RoundTrip.xori (o) : RoundTrip.Statement (.xori o) := by
  intro sw hwf h
  cases h
  simp [decodeSlot, decodeRaw, decodeS, orReserved, opcode_encSI, decSI_encSI, hwf]

theorem RoundTrip.shli (o) : RoundTrip.Statement (.shli o) := by
  intro sw hwf h
  cases h
  simp [decodeSlot, decodeRaw, decodeS, noLend, orReserved, opcode_encSH, decSH_encSH, hwf]

theorem RoundTrip.shri (o) : RoundTrip.Statement (.shri o) := by
  intro sw hwf h
  cases h
  simp [decodeSlot, decodeRaw, decodeS, noLend, orReserved, opcode_encSH, decSH_encSH, hwf]

theorem RoundTrip.sari (o) : RoundTrip.Statement (.sari o) := by
  intro sw hwf h
  cases h
  simp [decodeSlot, decodeRaw, decodeS, noLend, orReserved, opcode_encSH, decSH_encSH, hwf]

theorem RoundTrip.muli (o) : RoundTrip.Statement (.muli o) := by
  intro sw hwf h
  cases h
  simp [decodeSlot, decodeRaw, decodeS, orReserved, opcode_encSI, decSI_encSI, hwf]

theorem RoundTrip.ceqi (o) : RoundTrip.Statement (.ceqi o) := by
  intro sw hwf h
  cases h
  simp [decodeSlot, decodeRaw, decodeS, orReserved, opcode_encSI, decSI_encSI, hwf]

theorem RoundTrip.cnei (o) : RoundTrip.Statement (.cnei o) := by
  intro sw hwf h
  cases h
  simp [decodeSlot, decodeRaw, decodeS, orReserved, opcode_encSI, decSI_encSI, hwf]

theorem RoundTrip.clti (o) : RoundTrip.Statement (.clti o) := by
  intro sw hwf h
  cases h
  simp [decodeSlot, decodeRaw, decodeS, orReserved, opcode_encSI, decSI_encSI, hwf]

theorem RoundTrip.clei (o) : RoundTrip.Statement (.clei o) := by
  intro sw hwf h
  cases h
  simp [decodeSlot, decodeRaw, decodeS, orReserved, opcode_encSI, decSI_encSI, hwf]

theorem RoundTrip.cltui (o) : RoundTrip.Statement (.cltui o) := by
  intro sw hwf h
  cases h
  simp [decodeSlot, decodeRaw, decodeS, orReserved, opcode_encSI, decSI_encSI, hwf]

theorem RoundTrip.cleui (o) : RoundTrip.Statement (.cleui o) := by
  intro sw hwf h
  cases h
  simp [decodeSlot, decodeRaw, decodeS, orReserved, opcode_encSI, decSI_encSI, hwf]

theorem RoundTrip.bfx (o) : RoundTrip.Statement (.bfx o) := by
  intro sw hwf h
  cases h
  simp [decodeSlot, decodeRaw, decodeS, noLend, orReserved, opcode_encSB, decSB_encSB, hwf]

theorem RoundTrip.bfxs (o) : RoundTrip.Statement (.bfxs o) := by
  intro sw hwf h
  cases h
  simp [decodeSlot, decodeRaw, decodeS, noLend, orReserved, opcode_encSB, decSB_encSB, hwf]

theorem RoundTrip.bfi (o) : RoundTrip.Statement (.bfi o) := by
  intro sw hwf h
  cases h
  simp [decodeSlot, decodeRaw, decodeS, noLend, orReserved, opcode_encSB, decSB_encSB, hwf]

theorem RoundTrip.sli (o) : RoundTrip.Statement (.sli o) := by
  intro sw hwf h
  cases h
  simp [decodeSlot, decodeRaw, decodeS, orReserved, opcode_encSI, decSI_encSI, hwf]

theorem RoundTrip.br (o) : RoundTrip.Statement (.br o) := by
  intro sw hwf h
  cases h
  simp [decodeSlot, decodeRaw, decodeA, orReserved, opcode_encABr, decABr_encABr, hwf]

theorem RoundTrip.brz (o) : RoundTrip.Statement (.brz o) := by
  intro sw hwf h
  cases h
  simp [decodeSlot, decodeRaw, decodeA, orReserved, opcode_encABc, decABc_encABc, hwf]

theorem RoundTrip.brnz (o) : RoundTrip.Statement (.brnz o) := by
  intro sw hwf h
  cases h
  simp [decodeSlot, decodeRaw, decodeA, orReserved, opcode_encABc, decABc_encABc, hwf]

theorem RoundTrip.brn (o) : RoundTrip.Statement (.brn o) := by
  intro sw hwf h
  cases h
  simp [decodeSlot, decodeRaw, decodeA, orReserved, opcode_encABc, decABc_encABc, hwf]

theorem RoundTrip.brnn (o) : RoundTrip.Statement (.brnn o) := by
  intro sw hwf h
  cases h
  simp [decodeSlot, decodeRaw, decodeA, orReserved, opcode_encABc, decABc_encABc, hwf]

theorem RoundTrip.call (o) : RoundTrip.Statement (.call o) := by
  intro sw hwf h
  cases h
  simp [decodeSlot, decodeRaw, decodeA, orReserved, opcode_encABl, decABl_encABl, hwf]

theorem RoundTrip.callr (o) : RoundTrip.Statement (.callr o) := by
  intro sw hwf h
  cases h
  simp [decodeSlot, decodeRaw, decodeA, noLend, orReserved, opcode_encSR1, decSR1_encSR1, hwf]

theorem RoundTrip.jr (o) : RoundTrip.Statement (.jr o) := by
  intro sw hwf h
  cases h
  simp [decodeSlot, decodeRaw, decodeA, noLend, orReserved, opcode_encS1, decS1_encS1, hwf]

theorem RoundTrip.adda (o) : RoundTrip.Statement (.adda o) := by
  intro sw hwf h
  cases h
  simp [decodeSlot, decodeRaw, decodeA, noLend, orReserved, opcode_encAA, decAA_encAA, hwf]

theorem RoundTrip.addai (o) : RoundTrip.Statement (.addai o) := by
  intro sw hwf h
  cases h
  simp [decodeSlot, decodeRaw, decodeA, orReserved, opcode_encSI, decSI_encSI, hwf]

theorem RoundTrip.loop (o) : RoundTrip.Statement (.loop o) := by
  intro sw hwf h
  cases h
  simp [decodeSlot, decodeRaw, decodeA, noLend, orReserved, opcode_encAL, decAL_encAL, hwf]

theorem RoundTrip.loopi (o) : RoundTrip.Statement (.loopi o) := by
  intro sw hwf h
  cases h
  simp [decodeSlot, decodeRaw, decodeA, orReserved, opcode_encALI, decALI_encALI, hwf]

theorem RoundTrip.lexit (o) : RoundTrip.Statement (.lexit o) := by
  intro sw hwf h
  cases h
  simp [decodeSlot, decodeRaw, decodeA, noLend, orReserved, opcode_encAX, decAX_encAX, hwf]

theorem RoundTrip.fldB (o) : RoundTrip.Statement (.fldB o) := by
  intro sw hwf h
  cases h
  simp [decodeSlot, decodeRaw, decodeM, orReserved, opcode_encMSl, decMSl_encMSl, hwf]

theorem RoundTrip.fldH (o) : RoundTrip.Statement (.fldH o) := by
  intro sw hwf h
  cases h
  simp [decodeSlot, decodeRaw, decodeM, orReserved, opcode_encMSl, decMSl_encMSl, hwf]

theorem RoundTrip.fldW (o) : RoundTrip.Statement (.fldW o) := by
  intro sw hwf h
  cases h
  simp [decodeSlot, decodeRaw, decodeM, orReserved, opcode_encMSl, decMSl_encMSl, hwf]

theorem RoundTrip.fldD (o) : RoundTrip.Statement (.fldD o) := by
  intro sw hwf h
  cases h
  simp [decodeSlot, decodeRaw, decodeM, orReserved, opcode_encMSl, decMSl_encMSl, hwf]

theorem RoundTrip.fstB (o) : RoundTrip.Statement (.fstB o) := by
  intro sw hwf h
  cases h
  simp [decodeSlot, decodeRaw, decodeM, orReserved, opcode_encMSs, decMSs_encMSs, hwf]

theorem RoundTrip.fstH (o) : RoundTrip.Statement (.fstH o) := by
  intro sw hwf h
  cases h
  simp [decodeSlot, decodeRaw, decodeM, orReserved, opcode_encMSs, decMSs_encMSs, hwf]

theorem RoundTrip.fstW (o) : RoundTrip.Statement (.fstW o) := by
  intro sw hwf h
  cases h
  simp [decodeSlot, decodeRaw, decodeM, orReserved, opcode_encMSs, decMSs_encMSs, hwf]

theorem RoundTrip.fstD (o) : RoundTrip.Statement (.fstD o) := by
  intro sw hwf h
  cases h
  simp [decodeSlot, decodeRaw, decodeM, orReserved, opcode_encMSs, decMSs_encMSs, hwf]

theorem RoundTrip.vld (o) : RoundTrip.Statement (.vld o) := by
  intro sw hwf h
  cases h
  simp [decodeSlot, decodeRaw, decodeM, orReserved, opcode_encMVl, decMVl_encMVl, hwf]

theorem RoundTrip.vst (o) : RoundTrip.Statement (.vst o) := by
  intro sw hwf h
  cases h
  simp [decodeSlot, decodeRaw, decodeM, orReserved, opcode_encMVs, decMVs_encMVs, hwf]

theorem RoundTrip.vgath (o) : RoundTrip.Statement (.vgath o) := by
  intro sw hwf h
  cases h
  simp [decodeSlot, decodeRaw, decodeM, noLend, orReserved, opcode_encMGl, decMGl_encMGl, hwf]

theorem RoundTrip.vscat (o) : RoundTrip.Statement (.vscat o) := by
  intro sw hwf h
  cases h
  simp [decodeSlot, decodeRaw, decodeM, noLend, orReserved, opcode_encMGs, decMGs_encMGs, hwf]

theorem RoundTrip.wld (o) : RoundTrip.Statement (.wld o) := by
  intro sw hwf h
  cases h
  simp [decodeSlot, decodeRaw, decodeM, orReserved, opcode_encMVl, decMVl_encMVl, hwf]

theorem RoundTrip.wst (o) : RoundTrip.Statement (.wst o) := by
  intro sw hwf h
  cases h
  simp [decodeSlot, decodeRaw, decodeM, orReserved, opcode_encMVs, decMVs_encMVs, hwf]

theorem RoundTrip.lookup (o) : RoundTrip.Statement (.lookup o) := by
  intro sw hwf h
  cases h
  simp [decodeSlot, decodeRaw, decodeM, noLend, orReserved, opcode_encSR1, decSR1_encSR1, hwf]

theorem RoundTrip.tagset (o) : RoundTrip.Statement (.tagset o) := by
  intro sw hwf h
  cases h
  simp [decodeSlot, decodeRaw, decodeM, noLend, orReserved, opcode_encSS, decSS_encSS, hwf]

theorem RoundTrip.taginv (o) : RoundTrip.Statement (.taginv o) := by
  intro sw hwf h
  cases h
  simp [decodeSlot, decodeRaw, decodeM, noLend, orReserved, opcode_encS1, decS1_encS1, hwf]

theorem RoundTrip.tagrd (o) : RoundTrip.Statement (.tagrd o) := by
  intro sw hwf h
  cases h
  simp [decodeSlot, decodeRaw, decodeM, noLend, orReserved, opcode_encSR1, decSR1_encSR1, hwf]

theorem RoundTrip.gld (o) : RoundTrip.Statement (.gld o) := by
  intro sw hwf h
  cases h
  simp [decodeSlot, decodeRaw, decodeM, orReserved, opcode_encMSl, decMSl_encMSl, hwf]

theorem RoundTrip.gst (o) : RoundTrip.Statement (.gst o) := by
  intro sw hwf h
  cases h
  simp [decodeSlot, decodeRaw, decodeM, orReserved, opcode_encMSs, decMSs_encMSs, hwf]

theorem RoundTrip.rld (o) : RoundTrip.Statement (.rld o) := by
  intro sw hwf h
  cases h
  simp [decodeSlot, decodeRaw, decodeM, orReserved, opcode_encMSl, decMSl_encMSl, hwf]

theorem RoundTrip.rst (o) : RoundTrip.Statement (.rst o) := by
  intro sw hwf h
  cases h
  simp [decodeSlot, decodeRaw, decodeM, orReserved, opcode_encMSs, decMSs_encMSs, hwf]

theorem RoundTrip.vaddF32 (o) : RoundTrip.Statement (.vaddF32 o) := by
  intro sw hwf h
  cases h
  simp [decodeSlot, decodeRaw, decodeV, noLend, orReserved, opcode_encVR, decVR_encVR, hwf]

theorem RoundTrip.vsubF32 (o) : RoundTrip.Statement (.vsubF32 o) := by
  intro sw hwf h
  cases h
  simp [decodeSlot, decodeRaw, decodeV, noLend, orReserved, opcode_encVR, decVR_encVR, hwf]

theorem RoundTrip.vmulF32 (o) : RoundTrip.Statement (.vmulF32 o) := by
  intro sw hwf h
  cases h
  simp [decodeSlot, decodeRaw, decodeV, noLend, orReserved, opcode_encVR, decVR_encVR, hwf]

theorem RoundTrip.vfmaF32 (o) : RoundTrip.Statement (.vfmaF32 o) := by
  intro sw hwf h
  cases h
  simp [decodeSlot, decodeRaw, decodeV, noLend, orReserved, opcode_encVR3, decVR3_encVR3, hwf]

theorem RoundTrip.vminF32 (o) : RoundTrip.Statement (.vminF32 o) := by
  intro sw hwf h
  cases h
  simp [decodeSlot, decodeRaw, decodeV, noLend, orReserved, opcode_encVR, decVR_encVR, hwf]

theorem RoundTrip.vmaxF32 (o) : RoundTrip.Statement (.vmaxF32 o) := by
  intro sw hwf h
  cases h
  simp [decodeSlot, decodeRaw, decodeV, noLend, orReserved, opcode_encVR, decVR_encVR, hwf]

theorem RoundTrip.vaddBf16 (o) : RoundTrip.Statement (.vaddBf16 o) := by
  intro sw hwf h
  cases h
  simp [decodeSlot, decodeRaw, decodeV, noLend, orReserved, opcode_encVR, decVR_encVR, hwf]

theorem RoundTrip.vmulBf16 (o) : RoundTrip.Statement (.vmulBf16 o) := by
  intro sw hwf h
  cases h
  simp [decodeSlot, decodeRaw, decodeV, noLend, orReserved, opcode_encVR, decVR_encVR, hwf]

theorem RoundTrip.vfmaBf16 (o) : RoundTrip.Statement (.vfmaBf16 o) := by
  intro sw hwf h
  cases h
  simp [decodeSlot, decodeRaw, decodeV, noLend, orReserved, opcode_encVR3, decVR3_encVR3, hwf]

theorem RoundTrip.vaddF16 (o) : RoundTrip.Statement (.vaddF16 o) := by
  intro sw hwf h
  cases h
  simp [decodeSlot, decodeRaw, decodeV, noLend, orReserved, opcode_encVR, decVR_encVR, hwf]

theorem RoundTrip.vmulF16 (o) : RoundTrip.Statement (.vmulF16 o) := by
  intro sw hwf h
  cases h
  simp [decodeSlot, decodeRaw, decodeV, noLend, orReserved, opcode_encVR, decVR_encVR, hwf]

theorem RoundTrip.vfmaF16 (o) : RoundTrip.Statement (.vfmaF16 o) := by
  intro sw hwf h
  cases h
  simp [decodeSlot, decodeRaw, decodeV, noLend, orReserved, opcode_encVR3, decVR3_encVR3, hwf]

theorem RoundTrip.vaddI32 (o) : RoundTrip.Statement (.vaddI32 o) := by
  intro sw hwf h
  cases h
  simp [decodeSlot, decodeRaw, decodeV, noLend, orReserved, opcode_encVR, decVR_encVR, hwf]

theorem RoundTrip.vsubI32 (o) : RoundTrip.Statement (.vsubI32 o) := by
  intro sw hwf h
  cases h
  simp [decodeSlot, decodeRaw, decodeV, noLend, orReserved, opcode_encVR, decVR_encVR, hwf]

theorem RoundTrip.vmulI32 (o) : RoundTrip.Statement (.vmulI32 o) := by
  intro sw hwf h
  cases h
  simp [decodeSlot, decodeRaw, decodeV, noLend, orReserved, opcode_encVR, decVR_encVR, hwf]

theorem RoundTrip.vminI32 (o) : RoundTrip.Statement (.vminI32 o) := by
  intro sw hwf h
  cases h
  simp [decodeSlot, decodeRaw, decodeV, noLend, orReserved, opcode_encVR, decVR_encVR, hwf]

theorem RoundTrip.vmaxI32 (o) : RoundTrip.Statement (.vmaxI32 o) := by
  intro sw hwf h
  cases h
  simp [decodeSlot, decodeRaw, decodeV, noLend, orReserved, opcode_encVR, decVR_encVR, hwf]

theorem RoundTrip.vand (o) : RoundTrip.Statement (.vand o) := by
  intro sw hwf h
  cases h
  simp [decodeSlot, decodeRaw, decodeV, noLend, orReserved, opcode_encVR, decVR_encVR, hwf]

theorem RoundTrip.vor (o) : RoundTrip.Statement (.vor o) := by
  intro sw hwf h
  cases h
  simp [decodeSlot, decodeRaw, decodeV, noLend, orReserved, opcode_encVR, decVR_encVR, hwf]

theorem RoundTrip.vxor (o) : RoundTrip.Statement (.vxor o) := by
  intro sw hwf h
  cases h
  simp [decodeSlot, decodeRaw, decodeV, noLend, orReserved, opcode_encVR, decVR_encVR, hwf]

theorem RoundTrip.vshl (o) : RoundTrip.Statement (.vshl o) := by
  intro sw hwf h
  cases h
  simp [decodeSlot, decodeRaw, decodeV, noLend, orReserved, opcode_encVR, decVR_encVR, hwf]

theorem RoundTrip.vshr (o) : RoundTrip.Statement (.vshr o) := by
  intro sw hwf h
  cases h
  simp [decodeSlot, decodeRaw, decodeV, noLend, orReserved, opcode_encVR, decVR_encVR, hwf]

theorem RoundTrip.vsar (o) : RoundTrip.Statement (.vsar o) := by
  intro sw hwf h
  cases h
  simp [decodeSlot, decodeRaw, decodeV, noLend, orReserved, opcode_encVR, decVR_encVR, hwf]

theorem RoundTrip.vaddI16 (o) : RoundTrip.Statement (.vaddI16 o) := by
  intro sw hwf h
  cases h
  simp [decodeSlot, decodeRaw, decodeV, noLend, orReserved, opcode_encVR, decVR_encVR, hwf]

theorem RoundTrip.vsubI16 (o) : RoundTrip.Statement (.vsubI16 o) := by
  intro sw hwf h
  cases h
  simp [decodeSlot, decodeRaw, decodeV, noLend, orReserved, opcode_encVR, decVR_encVR, hwf]

theorem RoundTrip.vaddsI16 (o) : RoundTrip.Statement (.vaddsI16 o) := by
  intro sw hwf h
  cases h
  simp [decodeSlot, decodeRaw, decodeV, noLend, orReserved, opcode_encVR, decVR_encVR, hwf]

theorem RoundTrip.vmulI16 (o) : RoundTrip.Statement (.vmulI16 o) := by
  intro sw hwf h
  cases h
  simp [decodeSlot, decodeRaw, decodeV, noLend, orReserved, opcode_encVR, decVR_encVR, hwf]

theorem RoundTrip.vcmpeqF32 (o) : RoundTrip.Statement (.vcmpeqF32 o) := by
  intro sw hwf h
  cases h
  simp [decodeSlot, decodeRaw, decodeV, noLend, orReserved, opcode_encVP, decVP_encVP, hwf]

theorem RoundTrip.vcmpltF32 (o) : RoundTrip.Statement (.vcmpltF32 o) := by
  intro sw hwf h
  cases h
  simp [decodeSlot, decodeRaw, decodeV, noLend, orReserved, opcode_encVP, decVP_encVP, hwf]

theorem RoundTrip.vcmpleF32 (o) : RoundTrip.Statement (.vcmpleF32 o) := by
  intro sw hwf h
  cases h
  simp [decodeSlot, decodeRaw, decodeV, noLend, orReserved, opcode_encVP, decVP_encVP, hwf]

theorem RoundTrip.vcmpeqI32 (o) : RoundTrip.Statement (.vcmpeqI32 o) := by
  intro sw hwf h
  cases h
  simp [decodeSlot, decodeRaw, decodeV, noLend, orReserved, opcode_encVP, decVP_encVP, hwf]

theorem RoundTrip.vcmpltI32 (o) : RoundTrip.Statement (.vcmpltI32 o) := by
  intro sw hwf h
  cases h
  simp [decodeSlot, decodeRaw, decodeV, noLend, orReserved, opcode_encVP, decVP_encVP, hwf]

theorem RoundTrip.vsel (o) : RoundTrip.Statement (.vsel o) := by
  intro sw hwf h
  cases h
  simp [decodeSlot, decodeRaw, decodeV, noLend, orReserved, opcode_encVR, decVR_encVR, hwf]

theorem RoundTrip.vperm (o) : RoundTrip.Statement (.vperm o) := by
  intro sw hwf h
  cases h
  simp [decodeSlot, decodeRaw, decodeV, noLend, orReserved, opcode_encVR, decVR_encVR, hwf]

theorem RoundTrip.vbcast (o) : RoundTrip.Statement (.vbcast o) := by
  intro sw hwf h
  cases h
  simp [decodeSlot, decodeRaw, decodeV, noLend, orReserved, opcode_encVB, decVB_encVB, hwf]

theorem RoundTrip.vext (o) : RoundTrip.Statement (.vext o) := by
  intro sw hwf h
  cases h
  simp [decodeSlot, decodeRaw, decodeV, noLend, orReserved, opcode_encVX, decVX_encVX, hwf]

theorem RoundTrip.vredsumF32 (o) : RoundTrip.Statement (.vredsumF32 o) := by
  intro sw hwf h
  cases h
  simp [decodeSlot, decodeRaw, decodeV, noLend, orReserved, opcode_encVQ, decVQ_encVQ, hwf]

theorem RoundTrip.vredmaxF32 (o) : RoundTrip.Statement (.vredmaxF32 o) := by
  intro sw hwf h
  cases h
  simp [decodeSlot, decodeRaw, decodeV, noLend, orReserved, opcode_encVQ, decVQ_encVQ, hwf]

theorem RoundTrip.vredminF32 (o) : RoundTrip.Statement (.vredminF32 o) := by
  intro sw hwf h
  cases h
  simp [decodeSlot, decodeRaw, decodeV, noLend, orReserved, opcode_encVQ, decVQ_encVQ, hwf]

theorem RoundTrip.vredsumI32 (o) : RoundTrip.Statement (.vredsumI32 o) := by
  intro sw hwf h
  cases h
  simp [decodeSlot, decodeRaw, decodeV, noLend, orReserved, opcode_encVQ, decVQ_encVQ, hwf]

theorem RoundTrip.vcvt (o) : RoundTrip.Statement (.vcvt o) := by
  intro sw hwf h
  cases h
  simp [decodeSlot, decodeRaw, decodeV, noLend, orReserved, opcode_encVC, decVC_encVC, hwf]

theorem RoundTrip.vcvtF32I16 (o) : RoundTrip.Statement (.vcvtF32I16 o) := by
  intro sw hwf h
  cases h
  simp [decodeSlot, decodeRaw, decodeV, noLend, orReserved, opcode_encVR1, decVR1_encVR1, hwf]

theorem RoundTrip.vcvtI16F32 (o) : RoundTrip.Statement (.vcvtI16F32 o) := by
  intro sw hwf h
  cases h
  simp [decodeSlot, decodeRaw, decodeV, noLend, orReserved, opcode_encVR1, decVR1_encVR1, hwf]

theorem RoundTrip.vrcpF32 (o) : RoundTrip.Statement (.vrcpF32 o) := by
  intro sw hwf h
  cases h
  simp [decodeSlot, decodeRaw, decodeV, noLend, orReserved, opcode_encVR1, decVR1_encVR1, hwf]

theorem RoundTrip.vrsqrtF32 (o) : RoundTrip.Statement (.vrsqrtF32 o) := by
  intro sw hwf h
  cases h
  simp [decodeSlot, decodeRaw, decodeV, noLend, orReserved, opcode_encVR1, decVR1_encVR1, hwf]

theorem RoundTrip.vexp2F32 (o) : RoundTrip.Statement (.vexp2F32 o) := by
  intro sw hwf h
  cases h
  simp [decodeSlot, decodeRaw, decodeV, noLend, orReserved, opcode_encVR1, decVR1_encVR1, hwf]

theorem RoundTrip.vlog2F32 (o) : RoundTrip.Statement (.vlog2F32 o) := by
  intro sw hwf h
  cases h
  simp [decodeSlot, decodeRaw, decodeV, noLend, orReserved, opcode_encVR1, decVR1_encVR1, hwf]

theorem RoundTrip.vtanhF32 (o) : RoundTrip.Statement (.vtanhF32 o) := by
  intro sw hwf h
  cases h
  simp [decodeSlot, decodeRaw, decodeV, noLend, orReserved, opcode_encVR1, decVR1_encVR1, hwf]

theorem RoundTrip.vgly (o) : RoundTrip.Statement (.vgly o) := by
  intro sw hwf h
  cases h
  simp [decodeSlot, decodeRaw, decodeV, noLend, orReserved, opcode_encVG, decVG_encVG, hwf]

theorem RoundTrip.vbscale (o) : RoundTrip.Statement (.vbscale o) := by
  intro sw hwf h
  cases h
  simp [decodeSlot, decodeRaw, decodeV, noLend, orReserved, opcode_encVR, decVR_encVR, hwf]

theorem RoundTrip.trin (o) : RoundTrip.Statement (.trin o) := by
  intro sw hwf h
  cases h
  simp [decodeSlot, decodeRaw, decodeT, noLend, orReserved, opcode_encTI, decTI_encTI, hwf]

theorem RoundTrip.tpop (o) : RoundTrip.Statement (.tpop o) := by
  intro sw hwf h
  cases h
  simp [decodeSlot, decodeRaw, decodeT, noLend, orReserved, opcode_encTP, decTP_encTP, hwf]

theorem RoundTrip.tmode (o) : RoundTrip.Statement (.tmode o) := by
  intro sw hwf h
  cases h
  simp [decodeSlot, decodeRaw, decodeT, noLend, orReserved, opcode_encTM, decTM_encTM, hwf]

theorem RoundTrip.mvl (o) : RoundTrip.Statement (.mvl o) := by
  intro sw hwf h
  cases h
  simp [decodeSlot, decodeRaw, decodeE, noLend, orReserved, opcode_encEL, decEL_encEL, hwf]

theorem RoundTrip.mvli (o) : RoundTrip.Statement (.mvli o) := by
  intro sw hwf h
  cases h
  simp [decodeSlot, decodeRaw, decodeE, orReserved, opcode_encEI, decEI_encEI, hwf]

theorem RoundTrip.mvlh (o) : RoundTrip.Statement (.mvlh o) := by
  intro sw hwf h
  cases h
  simp [decodeSlot, decodeRaw, decodeE, orReserved, opcode_encEI, decEI_encEI, hwf]

theorem RoundTrip.mvs (o) : RoundTrip.Statement (.mvs o) := by
  intro sw hwf h
  cases h
  simp [decodeSlot, decodeRaw, decodeE, noLend, orReserved, opcode_encES, decES_encES, hwf]

theorem RoundTrip.trigCpy (o) : RoundTrip.Statement (.trigCpy o) := by
  intro sw hwf h
  cases h
  simp [decodeSlot, decodeRaw, decodeE, noLend, orReserved, opcode_encECp, decECp_encECp, sub_encECp, hwf]

theorem RoundTrip.trigCpyAwAdd (o) : RoundTrip.Statement (.trigCpyAwAdd o) := by
  intro sw hwf h
  cases h
  simp [decodeSlot, decodeRaw, decodeE, noLend, orReserved, opcode_encECa, decECa_encECa, sub_encECa, hwf]

theorem RoundTrip.trigCpyAwMin (o) : RoundTrip.Statement (.trigCpyAwMin o) := by
  intro sw hwf h
  cases h
  simp [decodeSlot, decodeRaw, decodeE, noLend, orReserved, opcode_encECa, decECa_encECa, sub_encECa, hwf]

theorem RoundTrip.trigCpyAwMax (o) : RoundTrip.Statement (.trigCpyAwMax o) := by
  intro sw hwf h
  cases h
  simp [decodeSlot, decodeRaw, decodeE, noLend, orReserved, opcode_encECa, decECa_encECa, sub_encECa, hwf]

theorem RoundTrip.trigCpyAwAnd (o) : RoundTrip.Statement (.trigCpyAwAnd o) := by
  intro sw hwf h
  cases h
  simp [decodeSlot, decodeRaw, decodeE, noLend, orReserved, opcode_encECa, decECa_encECa, sub_encECa, hwf]

theorem RoundTrip.trigCpyAwOr (o) : RoundTrip.Statement (.trigCpyAwOr o) := by
  intro sw hwf h
  cases h
  simp [decodeSlot, decodeRaw, decodeE, noLend, orReserved, opcode_encECa, decECa_encECa, sub_encECa, hwf]

theorem RoundTrip.trigCpyAwXor (o) : RoundTrip.Statement (.trigCpyAwXor o) := by
  intro sw hwf h
  cases h
  simp [decodeSlot, decodeRaw, decodeE, noLend, orReserved, opcode_encECa, decECa_encECa, sub_encECa, hwf]

theorem RoundTrip.trigCpyFadd (o) : RoundTrip.Statement (.trigCpyFadd o) := by
  intro sw hwf h
  cases h
  simp [decodeSlot, decodeRaw, decodeE, noLend, orReserved, opcode_encECr, decECr_encECr, sub_encECr, hwf]

theorem RoundTrip.trigCpySwap (o) : RoundTrip.Statement (.trigCpySwap o) := by
  intro sw hwf h
  cases h
  simp [decodeSlot, decodeRaw, decodeE, noLend, orReserved, opcode_encECr, decECr_encECr, sub_encECr, hwf]

theorem RoundTrip.trigCpyCas (o) : RoundTrip.Statement (.trigCpyCas o) := by
  intro sw hwf h
  cases h
  simp [decodeSlot, decodeRaw, decodeE, noLend, orReserved, opcode_encECr, decECr_encECr, sub_encECr, hwf]

theorem RoundTrip.trigCube (o) : RoundTrip.Statement (.trigCube o) := by
  intro sw hwf h
  cases h
  simp [decodeSlot, decodeRaw, decodeE, noLend, orReserved, opcode_encTP, decTP_encTP, hwf]

theorem RoundTrip.trigNib (o) : RoundTrip.Statement (.trigNib o) := by
  intro sw hwf h
  cases h
  simp [decodeSlot, decodeRaw, decodeE, noLend, orReserved, opcode_encTP, decTP_encTP, hwf]

theorem RoundTrip.ewait (o) : RoundTrip.Statement (.ewait o) := by
  intro sw hwf h
  cases h
  simp [decodeSlot, decodeRaw, decodeE, noLend, orReserved, opcode_encEW, decEW_encEW, hwf]

theorem RoundTrip.wmwait (o) : RoundTrip.Statement (.wmwait o) := by
  intro sw hwf h
  cases h
  simp [decodeSlot, decodeRaw, decodeE, noLend, orReserved, opcode_encEM, decEM_encEM, hwf]

theorem RoundTrip.trap (o) : RoundTrip.Statement (.trap o) := by
  intro sw hwf h
  cases h
  simp [decodeSlot, decodeRaw, decodeC, zeroLend, orReserved, opcode_encCI, decCI_encCI, hwf]

theorem RoundTrip.rdsr (o) : RoundTrip.Statement (.rdsr o) := by
  intro sw hwf h
  cases h
  simp [decodeSlot, decodeRaw, decodeC, noLend, orReserved, opcode_encCSr, decCSr_encCSr, hwf]

theorem RoundTrip.wrsr (o) : RoundTrip.Statement (.wrsr o) := by
  intro sw hwf h
  cases h
  simp [decodeSlot, decodeRaw, decodeC, noLend, orReserved, opcode_encCSw, decCSw_encCSw, hwf]

theorem RoundTrip.rdts (o) : RoundTrip.Statement (.rdts o) := by
  intro sw hwf h
  cases h
  simp [decodeSlot, decodeRaw, decodeC, noLend, orReserved, opcode_encSD, decSD_encSD, hwf]

theorem RoundTrip.setfmt (o) : RoundTrip.Statement (.setfmt o) := by
  intro sw hwf h
  cases h
  simp [decodeSlot, decodeRaw, decodeC, zeroLend, orReserved, opcode_encCI, decCI_encCI, hwf]

theorem RoundTrip.bar (o) : RoundTrip.Statement (.bar o) := by
  intro sw hwf h
  cases h
  simp [decodeSlot, decodeRaw, decodeC, zeroLend, orReserved, opcode_encCI, decCI_encCI, hwf]

theorem RoundTrip.rdv (o) : RoundTrip.Statement (.rdv o) := by
  intro sw hwf h
  cases h
  simp [decodeSlot, decodeRaw, decodeC, zeroLend, orReserved, opcode_encCI, decCI_encCI, hwf]

theorem RoundTrip.probe (o) : RoundTrip.Statement (.probe o) := by
  intro sw hwf h
  cases h
  simp [decodeSlot, decodeRaw, decodeC, noLend, orReserved, opcode_encSR1, decSR1_encSR1, hwf]

theorem RoundTrip.seal (o) : RoundTrip.Statement (.seal o) := by
  intro sw hwf h
  cases h
  simp [decodeSlot, decodeRaw, decodeC, noLend, orReserved, opcode_encS1, decS1_encS1, hwf]

theorem RoundTrip.unseal (o) : RoundTrip.Statement (.unseal o) := by
  intro sw hwf h
  cases h
  simp [decodeSlot, decodeRaw, decodeC, noLend, orReserved, opcode_encS1, decS1_encS1, hwf]

theorem RoundTrip.pub (o) : RoundTrip.Statement (.pub o) := by
  intro sw hwf h
  cases h
  simp [decodeSlot, decodeRaw, decodeC, noLend, orReserved, opcode_encS1, decS1_encS1, hwf]

theorem RoundTrip.wswap (o) : RoundTrip.Statement (.wswap o) := by
  intro sw hwf h
  cases h
  simp [decodeSlot, decodeRaw, decodeC, noLend, orReserved, opcode_encSS, decSS_encSS, hwf]

theorem RoundTrip.pfh (o) : RoundTrip.Statement (.pfh o) := by
  intro sw hwf h
  cases h
  simp [decodeSlot, decodeRaw, decodeC, noLend, orReserved, opcode_encSS, decSS_encSS, hwf]

theorem RoundTrip.fixedLatencyWrite (t) (k) : RoundTrip.Statement (.fixedLatencyWrite t k) := by
  intro sw _ h
  cases h

theorem RoundTrip.prefetchExpansion (t) (h) : RoundTrip.Statement (.prefetchExpansion t h) := by
  intro sw _ h
  cases h

theorem RoundTrip.issueSelection (t) : RoundTrip.Statement (.issueSelection t) := by
  intro sw _ h
  cases h

theorem RoundTrip.preemptDrainHold (t) (k) : RoundTrip.Statement (.preemptDrainHold t k) := by
  intro sw _ h
  cases h

theorem RoundTrip.taskRetire (t) (k) : RoundTrip.Statement (.taskRetire t k) := by
  intro sw _ h
  cases h

theorem RoundTrip.tpopResult (t) (n) : RoundTrip.Statement (.tpopResult t n) := by
  intro sw _ h
  cases h

theorem RoundTrip.cubeResolution (t) (n) : RoundTrip.Statement (.cubeResolution t n) := by
  intro sw _ h
  cases h

theorem RoundTrip.cubeChunkFillEnd (t) (n) (c) : RoundTrip.Statement (.cubeChunkFillEnd t n c) := by
  intro sw _ h
  cases h

theorem RoundTrip.cubeStagingEnd (t) (n) : RoundTrip.Statement (.cubeStagingEnd t n) := by
  intro sw _ h
  cases h

theorem RoundTrip.cubeRunStart (t) (n) : RoundTrip.Statement (.cubeRunStart t n) := by
  intro sw _ h
  cases h

theorem RoundTrip.cubeRunEnd (t) (n) : RoundTrip.Statement (.cubeRunEnd t n) := by
  intro sw _ h
  cases h

theorem RoundTrip.cubeRiseEnd (t) (n) : RoundTrip.Statement (.cubeRiseEnd t n) := by
  intro sw _ h
  cases h

theorem RoundTrip.cubeDrainStart (t) (n) : RoundTrip.Statement (.cubeDrainStart t n) := by
  intro sw _ h
  cases h

theorem RoundTrip.cubeDrainEnd (t) (n) : RoundTrip.Statement (.cubeDrainEnd t n) := by
  intro sw _ h
  cases h

theorem RoundTrip.nibResolution (t) (n) : RoundTrip.Statement (.nibResolution t n) := by
  intro sw _ h
  cases h

theorem RoundTrip.nibRequestComplete (t) (n) : RoundTrip.Statement (.nibRequestComplete t n) := by
  intro sw _ h
  cases h

theorem RoundTrip.copyStart (t) (e) : RoundTrip.Statement (.copyStart t e) := by
  intro sw _ h
  cases h

theorem RoundTrip.copyLanding (t) (e) (n) : RoundTrip.Statement (.copyLanding t e n) := by
  intro sw _ h
  cases h

theorem RoundTrip.copyComplete (t) (e) : RoundTrip.Statement (.copyComplete t e) := by
  intro sw _ h
  cases h

theorem RoundTrip.followOnCube (t) (e) : RoundTrip.Statement (.followOnCube t e) := by
  intro sw _ h
  cases h

theorem RoundTrip.awPortApply (t) (e) : RoundTrip.Statement (.awPortApply t e) := by
  intro sw _ h
  cases h

theorem RoundTrip.atomicPortArrival (q) : RoundTrip.Statement (.atomicPortArrival q) := by
  intro sw _ h
  cases h

theorem RoundTrip.atomicReplyArrival (r) : RoundTrip.Statement (.atomicReplyArrival r) := by
  intro sw _ h
  cases h

theorem RoundTrip.atomicRetryExpiry (t) (e) (id) : RoundTrip.Statement (.atomicRetryExpiry t e id) := by
  intro sw _ h
  cases h

theorem RoundTrip.combineRequestArrival (router) (q) : RoundTrip.Statement (.combineRequestArrival router q) := by
  intro sw _ h
  cases h

theorem RoundTrip.combineWindowExpiry (router) (id) : RoundTrip.Statement (.combineWindowExpiry router id) := by
  intro sw _ h
  cases h

theorem RoundTrip.decombineReplyArrival (router) (id) (r) : RoundTrip.Statement (.decombineReplyArrival router id r) := by
  intro sw _ h
  cases h

theorem RoundTrip.decombineRecordTimeout (router) (id) : RoundTrip.Statement (.decombineRecordTimeout router id) := by
  intro sw _ h
  cases h

theorem RoundTrip.hintDeadlineExpiry (t) (n) : RoundTrip.Statement (.hintDeadlineExpiry t n) := by
  intro sw _ h
  cases h

theorem RoundTrip.globalLoadReply (t) (k) (n) : RoundTrip.Statement (.globalLoadReply t k n) := by
  intro sw _ h
  cases h

theorem RoundTrip.globalWritePerform (t) (k) : RoundTrip.Statement (.globalWritePerform t k) := by
  intro sw _ h
  cases h

theorem RoundTrip.sshareStoreArrival (t) (addr) (rank) (bytes) (v) : RoundTrip.Statement (.sshareStoreArrival t addr rank bytes v) := by
  intro sw _ h
  cases h

theorem RoundTrip.probeWalkEnd (t) (k) (n) : RoundTrip.Statement (.probeWalkEnd t k n) := by
  intro sw _ h
  cases h

theorem RoundTrip.sealTakesEffect (c) (n) : RoundTrip.Statement (.sealTakesEffect c n) := by
  intro sw _ h
  cases h

theorem RoundTrip.unsealTakesEffect (c) (n) : RoundTrip.Statement (.unsealTakesEffect c n) := by
  intro sw _ h
  cases h

theorem RoundTrip.pubExchange (c) (n) : RoundTrip.Statement (.pubExchange c n) := by
  intro sw _ h
  cases h

theorem RoundTrip.wswapExchange (c) (n) : RoundTrip.Statement (.wswapExchange c n) := by
  intro sw _ h
  cases h

theorem RoundTrip.regionDescriptorRead (c) (n) : RoundTrip.Statement (.regionDescriptorRead c n) := by
  intro sw _ h
  cases h

theorem RoundTrip.groupPlacement (g) : RoundTrip.Statement (.groupPlacement g) := by
  intro sw _ h
  cases h

theorem RoundTrip.barrierDrainEnd (g) (b) : RoundTrip.Statement (.barrierDrainEnd g b) := by
  intro sw _ h
  cases h

theorem RoundTrip.stepExchange (g) : RoundTrip.Statement (.stepExchange g) := by
  intro sw _ h
  cases h

theorem RoundTrip.barrierRelease (g) (b) : RoundTrip.Statement (.barrierRelease g b) := by
  intro sw _ h
  cases h

theorem RoundTrip.barComplete (g) (b) : RoundTrip.Statement (.barComplete g b) := by
  intro sw _ h
  cases h

theorem RoundTrip.queueAdmission (q) : RoundTrip.Statement (.queueAdmission q) := by
  intro sw _ h
  cases h

theorem RoundTrip.timetableSlotStart (slot) : RoundTrip.Statement (.timetableSlotStart slot) := by
  intro sw _ h
  cases h

theorem RoundTrip.timetableSlotEnd (slot) : RoundTrip.Statement (.timetableSlotEnd slot) := by
  intro sw _ h
  cases h

theorem RoundTrip.placementTimeout (g) : RoundTrip.Statement (.placementTimeout g) := by
  intro sw _ h
  cases h

theorem RoundTrip.haltLineArrival (c) (t) : RoundTrip.Statement (.haltLineArrival c t) := by
  intro sw _ h
  cases h

theorem RoundTrip.stopRecordClose (c) : RoundTrip.Statement (.stopRecordClose c) := by
  intro sw _ h
  cases h

theorem RoundTrip.preemptAtomicTimeout (c) : RoundTrip.Statement (.preemptAtomicTimeout c) := by
  intro sw _ h
  cases h

theorem RoundTrip.preemptSaveEnd (c) : RoundTrip.Statement (.preemptSaveEnd c) := by
  intro sw _ h
  cases h

theorem RoundTrip.restorePlacement (c) : RoundTrip.Statement (.restorePlacement c) := by
  intro sw _ h
  cases h

theorem RoundTrip.restoreResume (c) : RoundTrip.Statement (.restoreResume c) := by
  intro sw _ h
  cases h

theorem RoundTrip.pendingWriteApply (t) (k) : RoundTrip.Statement (.pendingWriteApply t k) := by
  intro sw _ h
  cases h

theorem RoundTrip.scrubEnd (c) : RoundTrip.Statement (.scrubEnd c) := by
  intro sw _ h
  cases h

theorem RoundTrip.translationWalkEnd (n) : RoundTrip.Statement (.translationWalkEnd n) := by
  intro sw _ h
  cases h

theorem RoundTrip.remoteTranslationRetry (n) : RoundTrip.Statement (.remoteTranslationRetry n) := by
  intro sw _ h
  cases h

theorem RoundTrip.frameZeroingEnd (c) (va) : RoundTrip.Statement (.frameZeroingEnd c va) := by
  intro sw _ h
  cases h

theorem RoundTrip.frameFreed (n) : RoundTrip.Statement (.frameFreed n) := by
  intro sw _ h
  cases h

theorem RoundTrip.heldMessageApply (n) : RoundTrip.Statement (.heldMessageApply n) := by
  intro sw _ h
  cases h

theorem RoundTrip.causalWaitLimit (n) : RoundTrip.Statement (.causalWaitLimit n) := by
  intro sw _ h
  cases h

theorem RoundTrip.circuitSlotStart (slot) (data) : RoundTrip.Statement (.circuitSlotStart slot data) := by
  intro sw _ h
  cases h

theorem RoundTrip.messageSend (peer) : RoundTrip.Statement (.messageSend peer) := by
  intro sw _ h
  cases h

theorem RoundTrip.linkCommandTake (t) : RoundTrip.Statement (.linkCommandTake t) := by
  intro sw _ h
  cases h

theorem RoundTrip.linkResendExpiry (peer) (seq) : RoundTrip.Statement (.linkResendExpiry peer seq) := by
  intro sw _ h
  cases h

theorem RoundTrip.linkAckTimer (peer) : RoundTrip.Statement (.linkAckTimer peer) := by
  intro sw _ h
  cases h

theorem RoundTrip.parkDecision (port) (fib) : RoundTrip.Statement (.parkDecision port fib) := by
  intro sw _ h
  cases h

theorem RoundTrip.wakeEnd (port) (fib) : RoundTrip.Statement (.wakeEnd port fib) := by
  intro sw _ h
  cases h

theorem RoundTrip.linkChangeEffect (port) (fib) : RoundTrip.Statement (.linkChangeEffect port fib) := by
  intro sw _ h
  cases h

theorem RoundTrip.heartbeatSend (t) : RoundTrip.Statement (.heartbeatSend t) := by
  intro sw _ h
  cases h

theorem RoundTrip.heartbeatReceive (t) (dir) (b) : RoundTrip.Statement (.heartbeatReceive t dir b) := by
  intro sw _ h
  cases h

theorem RoundTrip.heartbeatSilence (t) (dir) : RoundTrip.Statement (.heartbeatSilence t dir) := by
  intro sw _ h
  cases h

theorem RoundTrip.voteMessage (t) (v) : RoundTrip.Statement (.voteMessage t v) := by
  intro sw _ h
  cases h

theorem RoundTrip.fenceDeclaration (t) : RoundTrip.Statement (.fenceDeclaration t) := by
  intro sw _ h
  cases h

theorem RoundTrip.sweepStart (t) : RoundTrip.Statement (.sweepStart t) := by
  intro sw _ h
  cases h

theorem RoundTrip.sweepWaitExpiry (t) : RoundTrip.Statement (.sweepWaitExpiry t) := by
  intro sw _ h
  cases h

theorem RoundTrip.appealAccept (t) : RoundTrip.Statement (.appealAccept t) := by
  intro sw _ h
  cases h

theorem RoundTrip.appealTimeout (t) : RoundTrip.Statement (.appealTimeout t) := by
  intro sw _ h
  cases h

theorem RoundTrip.islandRestartEnd (isl) : RoundTrip.Statement (.islandRestartEnd isl) := by
  intro sw _ h
  cases h

theorem RoundTrip.notBeforeTimeReached (q) : RoundTrip.Statement (.notBeforeTimeReached q) := by
  intro sw _ h
  cases h

theorem RoundTrip.cfence : RoundTrip.Statement .cfence := by
  intro sw hwf h
  cases h
  simp [decodeSlot, decodeRaw, decodeM, noLend, orReserved, opcode_encNone, decNone_encNone, hwf]

theorem RoundTrip.tclr : RoundTrip.Statement .tclr := by
  intro sw hwf h
  cases h
  simp [decodeSlot, decodeRaw, decodeT, noLend, orReserved, opcode_encNone, decNone_encNone, hwf]

theorem RoundTrip.trigLnk : RoundTrip.Statement .trigLnk := by
  intro sw hwf h
  cases h
  simp [decodeSlot, decodeRaw, decodeE, noLend, orReserved, opcode_encNone, decNone_encNone, hwf]

theorem RoundTrip.nop : RoundTrip.Statement .nop := by
  intro sw hwf h
  cases h
  simp [decodeSlot, decodeRaw, decodeC, noLend, orReserved, opcode_encNone, decNone_encNone, hwf]

theorem RoundTrip.halt : RoundTrip.Statement .halt := by
  intro sw hwf h
  cases h
  simp [decodeSlot, decodeRaw, decodeC, noLend, orReserved, opcode_encNone, decNone_encNone, hwf]

theorem RoundTrip.eret : RoundTrip.Statement .eret := by
  intro sw hwf h
  cases h
  simp [decodeSlot, decodeRaw, decodeC, noLend, orReserved, opcode_encNone, decNone_encNone, hwf]

theorem RoundTrip.step : RoundTrip.Statement .step := by
  intro sw hwf h
  cases h
  simp [decodeSlot, decodeRaw, decodeC, noLend, orReserved, opcode_encNone, decNone_encNone, hwf]

theorem RoundTrip.ksync : RoundTrip.Statement .ksync := by
  intro sw hwf h
  cases h
  simp [decodeSlot, decodeRaw, decodeC, noLend, orReserved, opcode_encNone, decNone_encNone, hwf]

theorem RoundTrip.rotationBoundary : RoundTrip.Statement .rotationBoundary := by
  intro sw _ h
  cases h

theorem RoundTrip.keyReagreement : RoundTrip.Statement .keyReagreement := by
  intro sw _ h
  cases h

theorem RoundTrip.ppsEdge : RoundTrip.Statement .ppsEdge := by
  intro sw _ h
  cases h

theorem RoundTrip.sweepRotation : RoundTrip.Statement .sweepRotation := by
  intro sw _ h
  cases h

theorem RoundTrip.damperEvaluation : RoundTrip.Statement .damperEvaluation := by
  intro sw _ h
  cases h

theorem RoundTrip.interruptEntry : RoundTrip.Statement .interruptEntry := by
  intro sw _ h
  cases h

theorem RoundTrip.ttstatRead : RoundTrip.Statement .ttstatRead := by
  intro sw _ h
  cases h

theorem RoundTrip.lnkcntRead : RoundTrip.Statement .lnkcntRead := by
  intro sw _ h
  cases h

theorem RoundTrip.ppsLockLost : RoundTrip.Statement .ppsLockLost := by
  intro sw _ h
  cases h

theorem RoundTrip.illegalInstructionWord : RoundTrip.Statement .illegalInstructionWord := by
  intro sw _ h
  cases h

theorem RoundTrip.powerLoss : RoundTrip.Statement .powerLoss := by
  intro sw _ h
  cases h

theorem RoundTrip.syncBundleIssue (t) (k) : RoundTrip.Statement (.syncBundleIssue t k) := by
  intro sw _ h
  cases h

theorem RoundTrip.bufferMiss (t) (k) (target) : RoundTrip.Statement (.bufferMiss t k target) := by
  intro sw _ h
  cases h

theorem RoundTrip.loopIterationEnd (t) (k) : RoundTrip.Statement (.loopIterationEnd t k) := by
  intro sw _ h
  cases h

theorem RoundTrip.flueBeatReplay (t) (n) : RoundTrip.Statement (.flueBeatReplay t n) := by
  intro sw _ h
  cases h

theorem RoundTrip.atomicRecordAging (p) : RoundTrip.Statement (.atomicRecordAging p) := by
  intro sw _ h
  cases h

theorem RoundTrip.hintStart (t) (e) : RoundTrip.Statement (.hintStart t e) := by
  intro sw _ h
  cases h

theorem RoundTrip.noticeArrival (t) (e) : RoundTrip.Statement (.noticeArrival t e) := by
  intro sw _ h
  cases h

theorem RoundTrip.groupRetirement (g) : RoundTrip.Statement (.groupRetirement g) := by
  intro sw _ h
  cases h

theorem RoundTrip.queueDoorbell (q) (window) : RoundTrip.Statement (.queueDoorbell q window) := by
  intro sw _ h
  cases h

theorem RoundTrip.preemptionRequest (c) : RoundTrip.Statement (.preemptionRequest c) := by
  intro sw _ h
  cases h

theorem RoundTrip.rewindSnapshot (t) (k) : RoundTrip.Statement (.rewindSnapshot t k) := by
  intro sw _ h
  cases h

theorem RoundTrip.ueConsumption (t) (k) (entry) (bank) (addr) : RoundTrip.Statement (.ueConsumption t k entry bank addr) := by
  intro sw _ h
  cases h

theorem RoundTrip.errorBankUpdate (bank) (e) : RoundTrip.Statement (.errorBankUpdate bank e) := by
  intro sw _ h
  cases h

theorem RoundTrip.writeMessage (m) : RoundTrip.Statement (.writeMessage m) := by
  intro sw _ h
  cases h

theorem RoundTrip.readMessage (m) : RoundTrip.Statement (.readMessage m) := by
  intro sw _ h
  cases h

theorem RoundTrip.readReply (m) : RoundTrip.Statement (.readReply m) := by
  intro sw _ h
  cases h

theorem RoundTrip.atomicMessage (m) : RoundTrip.Statement (.atomicMessage m) := by
  intro sw _ h
  cases h

theorem RoundTrip.atomicReply (m) : RoundTrip.Statement (.atomicReply m) := by
  intro sw _ h
  cases h

theorem RoundTrip.writeAcknowledgement (m) : RoundTrip.Statement (.writeAcknowledgement m) := by
  intro sw _ h
  cases h

theorem RoundTrip.noticeMessage (m) : RoundTrip.Statement (.noticeMessage m) := by
  intro sw _ h
  cases h

theorem RoundTrip.translationRequest (m) : RoundTrip.Statement (.translationRequest m) := by
  intro sw _ h
  cases h

theorem RoundTrip.translationReply (m) : RoundTrip.Statement (.translationReply m) := by
  intro sw _ h
  cases h

theorem RoundTrip.invalidation (m) : RoundTrip.Statement (.invalidation m) := by
  intro sw _ h
  cases h

theorem RoundTrip.invalidationAcknowledgement (m) : RoundTrip.Statement (.invalidationAcknowledgement m) := by
  intro sw _ h
  cases h

theorem RoundTrip.clockOnly (m) : RoundTrip.Statement (.clockOnly m) := by
  intro sw _ h
  cases h

theorem RoundTrip.linkAcknowledgement (m) : RoundTrip.Statement (.linkAcknowledgement m) := by
  intro sw _ h
  cases h

theorem RoundTrip.trainingEnd (port) (fib) (lam) (pass) : RoundTrip.Statement (.trainingEnd port fib lam pass) := by
  intro sw _ h
  cases h

theorem RoundTrip.wakeTrigger (port) : RoundTrip.Statement (.wakeTrigger port) := by
  intro sw _ h
  cases h

theorem RoundTrip.berWindowClose (port) (fib) (lam) (bits) : RoundTrip.Statement (.berWindowClose port fib lam bits) := by
  intro sw _ h
  cases h

theorem RoundTrip.handOut (port) (fib) (lam) : RoundTrip.Statement (.handOut port fib lam) := by
  intro sw _ h
  cases h

theorem RoundTrip.retrainAttemptEnd (port) (fib) (lam) (bits) (lim) (rx) : RoundTrip.Statement (.retrainAttemptEnd port fib lam bits lim rx) := by
  intro sw _ h
  cases h

theorem RoundTrip.ptpSync (p) : RoundTrip.Statement (.ptpSync p) := by
  intro sw _ h
  cases h

theorem RoundTrip.ptpFollowUp (p) : RoundTrip.Statement (.ptpFollowUp p) := by
  intro sw _ h
  cases h

theorem RoundTrip.ptpDelayResp (p) : RoundTrip.Statement (.ptpDelayResp p) := by
  intro sw _ h
  cases h

theorem RoundTrip.ptpAnnounce (p) : RoundTrip.Statement (.ptpAnnounce p) := by
  intro sw _ h
  cases h

theorem RoundTrip.sweepEnd (t) (pat) (pass) : RoundTrip.Statement (.sweepEnd t pat pass) := by
  intro sw _ h
  cases h

theorem RoundTrip.sensorSample (power) (temps) : RoundTrip.Statement (.sensorSample power temps) := by
  intro sw _ h
  cases h

theorem RoundTrip.flueRetirement (t) (b) (f) : RoundTrip.Statement (.flueRetirement t b f) := by
  intro sw _ h
  cases h

theorem RoundTrip.floorBankRepairEnd (t) (f) (lands) : RoundTrip.Statement (.floorBankRepairEnd t f lands) := by
  intro sw _ h
  cases h

theorem RoundTrip.bondSuspectDroop (isl) : RoundTrip.Statement (.bondSuspectDroop isl) := by
  intro sw _ h
  cases h

theorem RoundTrip.kindling (r) : RoundTrip.Statement (.kindling r) := by
  intro sw _ h
  cases h

theorem RoundTrip.create (w) : RoundTrip.Statement (.create w) := by
  intro sw _ h
  cases h

theorem RoundTrip.load (w) : RoundTrip.Statement (.load w) := by
  intro sw _ h
  cases h

theorem RoundTrip.queueSet (w) : RoundTrip.Statement (.queueSet w) := by
  intro sw _ h
  cases h

theorem RoundTrip.finalise (w) : RoundTrip.Statement (.finalise w) := by
  intro sw _ h
  cases h

theorem RoundTrip.map (w) : RoundTrip.Statement (.map w) := by
  intro sw _ h
  cases h

theorem RoundTrip.unmap (w) : RoundTrip.Statement (.unmap w) := by
  intro sw _ h
  cases h

theorem RoundTrip.queueEnable (w) : RoundTrip.Statement (.queueEnable w) := by
  intro sw _ h
  cases h

theorem RoundTrip.save (w) : RoundTrip.Statement (.save w) := by
  intro sw _ h
  cases h

theorem RoundTrip.restore (w) : RoundTrip.Statement (.restore w) := by
  intro sw _ h
  cases h

theorem RoundTrip.destroy (w) : RoundTrip.Statement (.destroy w) := by
  intro sw _ h
  cases h

theorem RoundTrip.readBootRecord (w) : RoundTrip.Statement (.readBootRecord w) := by
  intro sw _ h
  cases h

theorem RoundTrip.readIdentity (w) : RoundTrip.Statement (.readIdentity w) := by
  intro sw _ h
  cases h

theorem RoundTrip.sealCommand (w) : RoundTrip.Statement (.sealCommand w) := by
  intro sw _ h
  cases h

theorem RoundTrip.resetRequest (x) : RoundTrip.Statement (.resetRequest x) := by
  intro sw _ h
  cases h

theorem RoundTrip.islctlWrite (x) : RoundTrip.Statement (.islctlWrite x) := by
  intro sw _ h
  cases h

theorem RoundTrip.cgrpWrite (x) : RoundTrip.Statement (.cgrpWrite x) := by
  intro sw _ h
  cases h

theorem RoundTrip.dmpctlWrite (x) : RoundTrip.Statement (.dmpctlWrite x) := by
  intro sw _ h
  cases h

theorem RoundTrip.errstClear (x) : RoundTrip.Statement (.errstClear x) := by
  intro sw _ h
  cases h

theorem RoundTrip.birqClear (x) : RoundTrip.Statement (.birqClear x) := by
  intro sw _ h
  cases h

theorem RoundTrip.swresClear (t) (x) : RoundTrip.Statement (.swresClear t x) := by
  intro sw _ h
  cases h

theorem RoundTrip.hbcntRead (t) : RoundTrip.Statement (.hbcntRead t) := by
  intro sw _ h
  cases h

theorem RoundTrip.registerWrite (t) (num) (x) : RoundTrip.Statement (.registerWrite t num x) := by
  intro sw _ h
  cases h

theorem RoundTrip.uncorrectableFlit (port) (fib) : RoundTrip.Statement (.uncorrectableFlit port fib) := by
  intro sw _ h
  cases h

theorem RoundTrip.combiningRecordLost (router) (id) : RoundTrip.Statement (.combiningRecordLost router id) := by
  intro sw _ h
  cases h

end Sys2Proof.Laws
end

