-- ==== Sys2Proof/Safety.lean ====
section
/-! DEFINITION. The words in which claims speak: a slot word that may issue, a state in which every memory keeps its
canonical form, what two states have in common. -/

namespace Sys2Proof

open Sys2Proof.Machine

/-! ### Slot words -/

/-- A slot word, not an event. -/
def isWord (i : Instr) : Bool := (encode i).isSome

/-- Nothing that every word meets before its own meaning keeps the word from issuing where it stands: it may stand there
(R77, R109, R189, R226, R247), no register it reads or writes is empty (R64, R65), none is pending where sr.issuectl.pend
is 1 (R69), both as the bundle found them where it issues as a whole (R73), and what it reads of other queues' results is
settled (R74): a word always runs as from such a state
(Obligations.IssueOrder). -/
def Ready (i : Instr) (s : State) : Prop :=
  placeForbids s i = false ∧ emptyWait (gateTask s) i = none ∧ pendingHit (gateTask s) s.cur.n i = false ∧ openReads i s = s

/-- The words of one form issue with the given effect: the queue then moves past the word. -/
def Issues {α : Type} (word : α → Instr) (effect : α → State → State) : Prop :=
  ∀ o s, Ready (word o) s → exec (word o) s = .next (advance (effect o s))

/-! ### Remote messages -/

/-- The message that comes next of its pair (R340), its frame, layout and tag right (R338, R339, R345), and nothing for it to wait for:
no earlier message of the pair is held, asked for again or not yet performed, and its causes are met (R262, R264). -/
def InTurn (s : State) (kind : Nat) (m : Msg) : Prop :=
  strayFrame s m = false ∧ msgValid s kind m = true ∧ m.seq = (peerOf s (msgPeer m)).rackIn + 1 ∧ (peerOf s (msgPeer m)).stale = none ∧
  (peerOf s (msgPeer m)).held = [] ∧ s.cwHeld = [] ∧ atomicUnderWay s (msgPeer m) = false ∧
  causalOk s (msgPeer m) (addRecords (peerOf s (msgPeer m)).clockSeen m.recs) = true

/-- A message of a kind stands in the queue to a peer, or in the line for room in it (R335). -/
def Queued (s : State) (p kind : Nat) (holds : Msg → Prop) : Prop :=
  (∃ x ∈ (peerOf s p).sent, x.kind = kind ∧ holds x.msg) ∨ ∃ e ∈ (peerOf s p).backlog, e.2.1 = kind ∧ holds e.2.2

/-- The one access that awaits an answer of a peer is the request that the answer names (R341). -/
def Awaited (s : State) (m : Msg) (w : Waiting) : Prop :=
  (peerOf s (msgPeer m)).waiting = [w] ∧ w.stale = 0 ∧ m.va.setWidth 32 = w.msg.seq

/-! ### Changes of a fibre -/

/-- A change of a fibre is announced in a control flit, which may be sent from ns `from_` on, and applies at the first multiple of
16 ns that is not earlier than the flit's end (R387); an optical port's flit waits for a data window that connects the port, in
which it can end, and behind the changes that wait before it (R334, R335). A fibre with no wavelength up, or of a port that no slot
connects, has no flit to send (log 129). -/
def Announced (s s' : State) (k f : Nat) (ch : LinkChange) (from_ : Nat) : Prop :=
  let x := fibreOf s k f
  let start := max x.busy (4200 * from_)
  let a := upAt x k start
  let mute := a = 0 ∨ (k < 16 ∧ everConnected s k = false)
  if mute ∨ 16 ≤ k ∨ (x.unsaid = [] ∧ (portOf s k).peer.isSome = true ∧ s.circuitRun.data = true ∧
      start + flitTime k a ≤ 4200 * s.circuitRun.ends) then
    ∃ e, e = boundary (if mute then from_ else ceilDiv (start + flitTime k a) 4200) ∧ e % 16 = 0 ∧ from_ ≤ e ∧
      (fibreOf s' k f).changes = x.changes ++ [(e, ch)] ∧ ∃ q ∈ s'.events, q.ev = .linkChangeEffect k f ∧ q.ts = some e
  else (fibreOf s' k f).changes = x.changes ∧ (fibreOf s' k f).unsaid = x.unsaid ++ [ch]

/-! ### Memories -/

/-- The memories of one tile are canonical. -/
def tileMemOk (x : Tile) : Bool := x.floor.wf && x.wells.wf

/-- Every memory of the package is canonical: HBM, the floor stores and wells, the bellows core's own memory, the images that
saved contexts keep of their tiles. -/
def memOk (s : State) : Bool :=
  Memory.wf s.hbm && Memory.wf s.bellows.mem && (s.tiles.all fun x => tileMemOk x.2) &&
  s.contexts.all fun c => c.2.save.all fun v => tileMemOk v.image

/-- Every byte of every memory reads the same in two states. -/
def SameMemory (s t : State) : Prop :=
  ∀ a, mread t.hbm a = mread s.hbm a ∧ mread t.bellows.mem a = mread s.bellows.mem a ∧
    ∀ n, mread (tileOf t n).floor a = mread (tileOf s n).floor a ∧ mread (tileOf t n).wells a = mread (tileOf s n).wells a

/-! ### Registers -/

/-- The s, v and p registers and fmt of two tasks read the same. -/
def SameRegs (x y : Task) : Prop :=
  (∀ n, readS y n = readS x n) ∧ (∀ n, readV y n = readV x n) ∧ (∀ n, readP y n = readP x n) ∧ y.fmt = x.fmt

/-- The registers of every core's tasks, and the registers of the package that keep a plain word, are the same in two
states. -/
def SameRegisters (s t : State) : Prop :=
  (∀ c, SameRegs (coreTask s c) (coreTask t c)) ∧ t.sr = s.sr

end Sys2Proof
end

