-- ==== Sys2Proof/Certificates/Slice0/Obligations.lean ====
section
/-! DEFINITION. The statements for the provers, from the numbered rules of spec/. -/



open Sys2Proof Sys2Proof.Machine Sys2Proof.Operands

/-! ### Decoding and the step -/

/-- Decoding the encoding of a well-formed instruction gives the instruction back, every operand with every value (R51,
R54 to R57, R75). -/
def Obligations.DecodeEncodeRoundTrip : Prop := ∀ i, Laws.RoundTrip.Statement i

/-- A word that decodes is the encoding of the instruction it decodes to: no bit of a word or of its lend bits is ignored
(R54 to R57). -/
def Obligations.EncodeDecodeRoundTrip : Prop := ∀ sw i, decodeSlot sw = .ok i → encode i = some sw

/-- The words that the manual's examples write out decode to the forms they say (R95, R99, R102, R108, R111, R119, R121,
R175 to R177). -/
def Obligations.DecodedWords : Prop :=
  decodeSlot ⟨.S, 0xE8910607, .zero⟩ = .ok (.bfi ⟨9, 4, false, 12, 7⟩) ∧
  decodeSlot ⟨.S, 0x80500345, .one 9⟩ = .ok (.addi ⟨5, 0, false, 0x345, .one 9⟩) ∧
  decodeSlot ⟨.A, 0x04C00012, .zero⟩ = .ok (.brz ⟨12, false, 18, .zero⟩) ∧
  decodeSlot ⟨.A, 0x17F7FFE0, .zero⟩ = .ok (.call ⟨63, 0x7FFE0, .zero⟩) ∧
  decodeSlot ⟨.A, 0x1C0FC000, .zero⟩ = .ok (.jr ⟨63, false⟩) ∧
  decodeSlot ⟨.A, 0x20518398, .zero⟩ = .ok (.adda ⟨5, 6, false, 7, false, 3⟩) ∧
  decodeSlot ⟨.A, 0x46806403, .zero⟩ = .ok (.loopi ⟨5, 100, 3, .zero⟩) ∧
  decodeSlot ⟨.A, 0x48800000, .zero⟩ = .ok (.lexit ⟨1⟩) ∧
  decodeSlot ⟨.C, 0x0800002A, .zero⟩ = .ok (.trap ⟨0x2A⟩) ∧
  decodeSlot ⟨.C, 0x04000000, .zero⟩ = .ok .halt ∧
  decodeSlot ⟨.C, 0x10500031, .zero⟩ = .ok (.rdsr ⟨5, 0x31⟩) ∧
  decodeSlot ⟨.C, 0x14900010, .zero⟩ = .ok (.wrsr ⟨9, false, 0x10⟩) ∧
  decodeSlot ⟨.V, 0x94A20001, .zero⟩ = .ok (.vredsumF32 ⟨10, 4, false, 1⟩) ∧
  decodeSlot ⟨.V, 0xA4470C80, .zero⟩ = .ok (.vcvt ⟨2, 7, false, 1, 9, 0⟩) ∧
  decodeSlot ⟨.M, 0x0C404000, .zero⟩ = .ok (.fldD ⟨4, 2, false, 0, .zero⟩) ∧
  decodeSlot ⟨.M, 0x18712008, .zero⟩ = .ok (.fstW ⟨7, false, 9, false, 8, .zero⟩) ∧
  decodeSlot ⟨.M, 0x20C44002, .zero⟩ = .ok (.vld ⟨6, 2, 8, false, 2, .zero⟩) ∧
  decodeSlot ⟨.M, 0x28221840, .zero⟩ = .ok (.vgath ⟨1, 1, 3, false, 2, false⟩)

/-- Where nothing of this hc precedes the words, no earlier move of this hc does anything and the task waits for no code, the word
at the head of a queue whose turn it is, if its slot is live, is what the step does: exec of the decoded instruction at that
state, with the turn and the word's place noted. A word that does not decode is an illegal instruction. A slot that its stage
predicate turns off issues as a no-operation: its queue moves past it, a transfer is not taken, and nothing else happens. The
words of a bundle that issues whole are executed in that way too, one after the other in one step, each with the registers as the
bundle found them (R55, R70, R72, R73, R80, R110; the order of the moves within an hc is the model's, log 3). -/
def Obligations.StepRunsDecodedWord : Prop :=
  (∀ s pre j c m rest p b w, s.powered = true → takeEvent 0 s.hc s.events = none →
    movesLeft s = pre ++ (j, c, m) :: rest → (∀ x ∈ pre, moveAct { s with turn := x.1 + 1 } x.2.1 x.2.2 = none) →
    movePos m = some p → c ≠ .bellows → ¬(m = 10 ∧ isTriggerWord { s with turn := j + 1 } c = true) →
    (coreTask s c).needs = none → headWord (coreTask s c) s.hc p = some (b, w) →
    ∀ t, t = { s with turn := j + 1, cur := { core := c, pos := p, n := b.n, addr := b.addr, seen := [] } } →
    (b.live p = true → (∀ i, decodeSlot w = .ok i → step s = exec i t) ∧
      (∀ e, decodeSlot w = .error e → step s = exec .illegalInstructionWord t)) ∧
    (b.live p = false →
      (p ≠ .A → p ≠ .C → step s = .next (advance t)) ∧
      ((∀ i, b.instr .A = some i → isBranch i = false) → b.instr .C ≠ some .eret → step s = .next (advance t)) ∧
      (p = .A → ∀ i, b.instr .A = some i → isBranch i = true → step s = .next (advance (takeTransfer t none none))) ∧
      (p = .C → b.instr .C = some .eret → step s = .next (advance (takeTransfer t none none))))) ∧
  (∀ s pre j c rest b t, s.powered = true → takeEvent 0 s.hc s.events = none →
    movesLeft s = pre ++ (j, c, 2) :: rest → (∀ x ∈ pre, moveAct { s with turn := x.1 + 1 } x.2.1 x.2.2 = none) →
    (coreTask s c).needs = none → reachedFault (coreTask s c) = none → syncHead (coreTask s c) (c == .bellows) = some b →
    bundleStep { s with turn := j + 1 } c b = some t → step s = .next t) ∧
  (∀ s c b p w i, slotAt b.slots p = some w → b.live p = true → decodeSlot w = .ok i →
    ∀ t, exec i { s with cur := { core := c, pos := p, n := b.n, addr := b.addr, seen := [], start := s.cur.start } } = .next t →
      tget 0 (coreTask t c).qpos p.idx = b.n + 1 → issueWord c b s p = some t) ∧
  (∀ s c b p r t, issueWord c b s p = some t → issueAll c b s (p :: r) = issueAll c b t r)

/-- Every form of the opcode table, in every state and with every operand, answers a next state: no word and no event ends the run.
Among the events: FIXED_LATENCY_WRITE, PREFETCH_EXPANSION, ISSUE_SELECTION, PREEMPT_DRAIN_HOLD, TASK_RETIRE, PENDING_WRITE_APPLY,
TPOP_RESULT and those of loops, misses, the cube, the copy engines, atomics, hints, regions, groups, barriers, queues, contexts,
translation, links, waves, time, tile health, layers and the bellows core. A form whose conditions the state does not meet leaves
its parts of the state as they are, waits, or takes the fault that its rule names; what each form does where its rule's conditions
hold is what the statements of that form say (R55, R110, R302: a fault is taken, the machine goes on). -/
def Obligations.EveryFormCompletes : Prop := ∀ i s, ∃ t, exec i s = .next t

/-- What is due before the words of an hc takes place before the cores move, what follows them after; where nothing moves and
nothing is due the hc passes: the hc count grows by 1, and the ns counter by 1 or 2, 10 in every 7 hc of an undisciplined
clock (R2, R23, R346; the order within an hc is the model's, log 3). A package without power does not move (R381). -/
def Obligations.StepOrder : Prop :=
  (∀ s e rest, s.powered = true → takeEvent 0 s.hc s.events = some (e, rest) → step s = exec e.ev { s with events := rest }) ∧
  (∀ (s : State) e rest, e.due ≤ s.hc → e.phase = 0 → s.events = e :: rest → takeEvent 0 s.hc s.events = some (e, rest)) ∧
  (∀ s e rest, s.powered = true → takeEvent 0 s.hc s.events = none → nextAct s = none →
    (takeEvent 1 s.hc s.events = some (e, rest) ∨
      (takeEvent 1 s.hc s.events = none ∧ takeEvent 2 s.hc s.events = some (e, rest))) →
    step s = exec e.ev { s with events := rest }) ∧
  (∀ s, s.powered = true → (∀ e ∈ s.events.head?, s.hc < e.due) → nextAct s = none → step s = .next (tick s)) ∧
  (∀ s, (tick s).hc = s.hc + 1 ∧ (tick s).turn = 0) ∧
  (∀ s, s.disc.slew = 0 → (tick s).ts = s.ts + (s.tsPhase + 10) / 7 ∧ 7 * (tick s).ts + (tick s).tsPhase = 7 * s.ts + s.tsPhase + 10) ∧
  (∀ s, s.powered = false → (∀ e ∈ s.events.head?, ∀ r, e.ev ≠ .kindling r) → step s = .fault .noPower)

/-! ### S and A words -/

/-- The register forms of the S class: sd receives the result at 3 hc for the products and at 1 hc for the others; movnz and
movz that keep sd write nothing (R66, R94). -/
def Obligations.ScalarRegisterForms : Prop :=
  Issues .add (fun o s => writeLaterS s o.sd (srcS s o.sa + srcS s o.sb) 1) ∧
  Issues .sub (fun o s => writeLaterS s o.sd (srcS s o.sa - srcS s o.sb) 1) ∧
  Issues .and (fun o s => writeLaterS s o.sd (srcS s o.sa &&& srcS s o.sb) 1) ∧
  Issues .or (fun o s => writeLaterS s o.sd (srcS s o.sa ||| srcS s o.sb) 1) ∧
  Issues .xor (fun o s => writeLaterS s o.sd (srcS s o.sa ^^^ srcS s o.sb) 1) ∧
  Issues .shl (fun o s => writeLaterS s o.sd (srcS s o.sa <<< ((srcS s o.sb).toNat % 64)) 1) ∧
  Issues .shr (fun o s => writeLaterS s o.sd (srcS s o.sa >>> ((srcS s o.sb).toNat % 64)) 1) ∧
  Issues .sar (fun o s => writeLaterS s o.sd ((srcS s o.sa).sshiftRight ((srcS s o.sb).toNat % 64)) 1) ∧
  Issues .mul (fun o s => writeLaterS s o.sd (srcS s o.sa * srcS s o.sb) 3) ∧
  Issues .mulhs (fun o s =>
    writeLaterS s o.sd (BitVec.ofInt 64 ((srcS s o.sa).toInt * (srcS s o.sb).toInt / 2 ^ 64)) 3) ∧
  Issues .mulhu (fun o s =>
    writeLaterS s o.sd (BitVec.ofNat 64 ((srcS s o.sa).toNat * (srcS s o.sb).toNat / 2 ^ 64)) 3) ∧
  Issues .min (fun o s => writeLaterS s o.sd (BitVec.ofInt 64 (min (srcS s o.sa).toInt (srcS s o.sb).toInt)) 1) ∧
  Issues .max (fun o s => writeLaterS s o.sd (BitVec.ofInt 64 (max (srcS s o.sa).toInt (srcS s o.sb).toInt)) 1) ∧
  Issues .minu (fun o s => writeLaterS s o.sd (BitVec.ofNat 64 (min (srcS s o.sa).toNat (srcS s o.sb).toNat)) 1) ∧
  Issues .maxu (fun o s => writeLaterS s o.sd (BitVec.ofNat 64 (max (srcS s o.sa).toNat (srcS s o.sb).toNat)) 1) ∧
  Issues .ceq (fun o s => writeLaterS s o.sd (if srcS s o.sa = srcS s o.sb then 1 else 0) 1) ∧
  Issues .cne (fun o s => writeLaterS s o.sd (if srcS s o.sa ≠ srcS s o.sb then 1 else 0) 1) ∧
  Issues .clt (fun o s => writeLaterS s o.sd (if (srcS s o.sa).toInt < (srcS s o.sb).toInt then 1 else 0) 1) ∧
  Issues .cle (fun o s => writeLaterS s o.sd (if (srcS s o.sa).toInt ≤ (srcS s o.sb).toInt then 1 else 0) 1) ∧
  Issues .cltu (fun o s => writeLaterS s o.sd (if (srcS s o.sa).toNat < (srcS s o.sb).toNat then 1 else 0) 1) ∧
  Issues .cleu (fun o s => writeLaterS s o.sd (if (srcS s o.sa).toNat ≤ (srcS s o.sb).toNat then 1 else 0) 1) ∧
  Issues .movnz (fun o s => if srcS s o.sb ≠ 0 then writeLaterS s o.sd (srcS s o.sa) 1 else s) ∧
  Issues .movz (fun o s => if srcS s o.sb = 0 then writeLaterS s o.sd (srcS s o.sa) 1 else s)

/-- The counting forms: clz and ctz write the number of leading and trailing zero bits, 64 for zero, popc the number of one
bits, and bswap the bytes in reverse order (R94). -/
def Obligations.ScalarCounts : Prop :=
  (∀ o s, Ready (.clz o) s → ∃ n, exec (.clz o) s = .next (advance (writeLaterS s o.sd (BitVec.ofNat 64 n) 1)) ∧
    n ≤ 64 ∧ (∀ k < n, (srcS s o.sa).getLsbD (63 - k) = false) ∧
    (n < 64 → (srcS s o.sa).getLsbD (63 - n) = true)) ∧
  (∀ o s, Ready (.ctz o) s → ∃ n, exec (.ctz o) s = .next (advance (writeLaterS s o.sd (BitVec.ofNat 64 n) 1)) ∧
    n ≤ 64 ∧ (∀ k < n, (srcS s o.sa).getLsbD k = false) ∧ (n < 64 → (srcS s o.sa).getLsbD n = true)) ∧
  (∀ o s, Ready (.popc o) s → exec (.popc o) s = .next (advance (writeLaterS s o.sd
    (BitVec.ofNat 64 ((List.range 64).filter fun k => (srcS s o.sa).getLsbD k).length) 1))) ∧
  (∀ o s, Ready (.bswap o) s → ∃ v, exec (.bswap o) s = .next (advance (writeLaterS s o.sd v 1)) ∧
    ∀ k < 64, v.getLsbD k = (srcS s o.sa).getLsbD (8 * (7 - k / 8) + k % 8))

/-- The immediate forms of the S class; the immediate with its lend bits is sign-extended for sums, products and signed
compares, and zero-extended for the others; the lend bits stand above the immediate
field, and the whole is read as unsigned or as two's complement (R51, R66, R94). -/
def Obligations.ScalarImmediateForms : Prop :=
  Issues .addi (fun o s => writeLaterS s o.sd (srcS s o.sa + sextImm o.imm o.lend) 1) ∧
  Issues .andi (fun o s => writeLaterS s o.sd (srcS s o.sa &&& zextImm o.imm o.lend) 1) ∧
  Issues .ori (fun o s => writeLaterS s o.sd (srcS s o.sa ||| zextImm o.imm o.lend) 1) ∧
  Issues .xori (fun o s => writeLaterS s o.sd (srcS s o.sa ^^^ zextImm o.imm o.lend) 1) ∧
  Issues .shli (fun o s => writeLaterS s o.sd (srcS s o.sa <<< o.cnt.toNat) 1) ∧
  Issues .shri (fun o s => writeLaterS s o.sd (srcS s o.sa >>> o.cnt.toNat) 1) ∧
  Issues .sari (fun o s => writeLaterS s o.sd ((srcS s o.sa).sshiftRight o.cnt.toNat) 1) ∧
  Issues .muli (fun o s => writeLaterS s o.sd (srcS s o.sa * sextImm o.imm o.lend) 3) ∧
  Issues .ceqi (fun o s => writeLaterS s o.sd (if srcS s o.sa = sextImm o.imm o.lend then 1 else 0) 1) ∧
  Issues .cnei (fun o s => writeLaterS s o.sd (if srcS s o.sa ≠ sextImm o.imm o.lend then 1 else 0) 1) ∧
  Issues .clti (fun o s => writeLaterS s o.sd (if (srcS s o.sa).toInt < (sextImm o.imm o.lend).toInt then 1 else 0) 1) ∧
  Issues .clei (fun o s => writeLaterS s o.sd (if (srcS s o.sa).toInt ≤ (sextImm o.imm o.lend).toInt then 1 else 0) 1) ∧
  Issues .cltui (fun o s => writeLaterS s o.sd (if (srcS s o.sa).toNat < (zextImm o.imm o.lend).toNat then 1 else 0) 1) ∧
  Issues .cleui (fun o s => writeLaterS s o.sd (if (srcS s o.sa).toNat ≤ (zextImm o.imm o.lend).toNat then 1 else 0) 1) ∧
  Issues .sli (fun o s =>
    writeLaterS s o.sd ((srcS s o.sa <<< immWidth 13 o.lend) ||| zextImm o.imm o.lend) 1) ∧
  (∀ (i : BitVec 13), zextImm i .zero = i.setWidth 64 ∧ sextImm i .zero = i.signExtend 64) ∧
  (∀ (i : BitVec 13) b, zextImm i (.one b) = (b ++ i).setWidth 64 ∧ sextImm i (.one b) = (b ++ i).signExtend 64) ∧
  (∀ (i : BitVec 13) b, zextImm i (.two b) = (b ++ i).setWidth 64 ∧ sextImm i (.two b) = (b ++ i).signExtend 64)

/-- The bit-field forms of every field within 64 bits (R95): bfx zero-extends bits lsb to lsb + width − 1, bfxs
sign-extends them, bfi replaces them in sd by the low bits of x. -/
def Obligations.BitFieldForms : Prop :=
  (∀ o s, Ready (.bfx o) s → (Instr.bfx o).wf = true → ∃ v, exec (.bfx o) s = .next (advance (writeLaterS s o.sd v 1)) ∧
    ∀ k < 64, v.getLsbD k = (decide (k ≤ o.wm1.toNat) && (srcS s o.sa).getLsbD (o.lsb.toNat + k))) ∧
  (∀ o s, Ready (.bfxs o) s → (Instr.bfxs o).wf = true → ∃ v, exec (.bfxs o) s = .next (advance (writeLaterS s o.sd v 1)) ∧
    ∀ k < 64, v.getLsbD k = (srcS s o.sa).getLsbD (o.lsb.toNat + min k o.wm1.toNat)) ∧
  (∀ o s, Ready (.bfi o) s → (Instr.bfi o).wf = true → ∃ v, exec (.bfi o) s = .next (advance (writeLaterS s o.sd v 1)) ∧
    ∀ k < 64, v.getLsbD k =
      if o.lsb.toNat ≤ k ∧ k ≤ o.lsb.toNat + o.wm1.toNat then (srcS s o.sa).getLsbD (k - o.lsb.toNat)
      else (srcS s o.sd).getLsbD k)

/-- The address forms compute x + (y << sh) and x + sext(i), modulo 2^64, in the A slot, at 1 hc; their words are those of
opcodes 0x08 and 0x09 (R98). -/
def Obligations.AddressForms : Prop :=
  (∀ o s, Ready (.adda o) s → exec (.adda o) s = .next (advance (writeLaterS s o.sd
    (BitVec.ofNat 64 ((srcS s o.sa).toNat + (srcS s o.sb).toNat * 2 ^ o.sh.toNat)) 1))) ∧
  (∀ o s, Ready (.addai o) s → exec (.addai o) s = .next (advance (writeLaterS s o.sd
    (BitVec.ofInt 64 ((srcS s o.sa).toInt + (sextImm o.imm o.lend).toInt)) 1))) ∧
  (∀ o, ∃ w, encode (.adda o) = some ⟨.A, w, .zero⟩ ∧ opcode w = 0x08) ∧
  (∀ o, ∃ w, encode (.addai o) = some ⟨.A, w, o.lend⟩ ∧ opcode w = 0x09)

/-! ### Control transfers -/

/-- A conditional or unconditional branch, where R99 lets it stand and its target: after its delay bundle flow goes to its
bundle's address plus sext(off) × 16 if it is taken, and on if it is not (R96, R99). -/
def Obligations.Branches : Prop :=
  (∀ o s, Ready (.br o) s → transferMisplaced s true = false →
    outsideBody s (s.cur.addr + (sextImm o.off o.lend <<< 4)) = false →
    exec (.br o) s = .next (advance (takeTransfer s (some (s.cur.addr + (sextImm o.off o.lend <<< 4))) none))) ∧
  (∀ word c, (word, c) ∈ ([(.brz, fun x => decide (x = 0)), (.brnz, fun x => decide (x ≠ 0)),
      (.brn, fun x => x.getLsbD 63), (.brnn, fun x => !x.getLsbD 63)] : List ((ABc → Instr) × (Word → Bool))) →
    ∀ o s, Ready (word o) s → transferMisplaced s true = false →
      (c (srcS s o.sa) = true → outsideBody s (s.cur.addr + (sextImm o.off o.lend <<< 4)) = false) →
      exec (word o) s = .next (advance (takeTransfer s
        (if c (srcS s o.sa) then some (s.cur.addr + (sextImm o.off o.lend <<< 4)) else none) none)))

/-- call, callr and jr, where R99 lets them stand: flow goes to the target after the delay bundle, and call and callr write
the link, the address of the bundle after the delay bundle, to sd at 1 hc; they wait for it (R97, R99). -/
def Obligations.CallsAndJumps : Prop :=
  (∀ o s link, Ready (.call o) s → transferMisplaced s true = false → insideLoop s = false → linkOf s = some link →
    exec (.call o) s = .next (advance (writeLaterS
      (takeTransfer s (some (s.cur.addr + (sextImm o.off o.lend <<< 4))) none) o.sd link 1))) ∧
  (∀ o s link, Ready (.callr o) s → transferMisplaced s true = false → insideLoop s = false →
    (srcS s o.sa).toNat % 16 = 0 → linkOf s = some link →
    exec (.callr o) s = .next (advance (writeLaterS (takeTransfer s (some (srcS s o.sa)) none) o.sd link 1))) ∧
  (∀ o s, Ready (.jr o) s → transferMisplaced s true = false → (srcS s o.sa).toNat % 16 = 0 →
    outsideBody s (srcS s o.sa) = false →
    exec (.jr o) s = .next (advance (takeTransfer s (some (srcS s o.sa)) none)))

/-- A transfer where R99 forbids one, a taken branch or jump out of the innermost active body, a call inside a loop, a target
in a register that is not a multiple of 16, a lexit of an inactive level, a loop that R80 or R102 forbids: an
illegal-instruction fault, and the word does not issue (R80, R97, R99, R102). -/
def Obligations.MisplacedTransfers : Prop :=
  (∀ i s, isTransfer i = true → (∀ o, i ≠ .loop o) → (∀ o, i ≠ .loopi o) → Ready i s →
    transferMisplaced s true = true → exec i s = .next (preciseFault s 0x01)) ∧
  (∀ o s, Ready (.br o) s → outsideBody s (s.cur.addr + (sextImm o.off o.lend <<< 4)) = true →
    exec (.br o) s = .next (preciseFault s 0x01)) ∧
  (∀ word c, (word, c) ∈ ([(.brz, fun x => decide (x = 0)), (.brnz, fun x => decide (x ≠ 0)),
      (.brn, fun x => x.getLsbD 63), (.brnn, fun x => !x.getLsbD 63)] : List ((ABc → Instr) × (Word → Bool))) →
    ∀ o s, Ready (word o) s → c (srcS s o.sa) = true →
      outsideBody s (s.cur.addr + (sextImm o.off o.lend <<< 4)) = true →
      exec (word o) s = .next (preciseFault s 0x01)) ∧
  (∀ o s, Ready (.call o) s → insideLoop s = true → exec (.call o) s = .next (preciseFault s 0x01)) ∧
  (∀ o s, Ready (.callr o) s → (insideLoop s = true ∨ (srcS s o.sa).toNat % 16 ≠ 0) →
    exec (.callr o) s = .next (preciseFault s 0x01)) ∧
  (∀ o s, Ready (.jr o) s → (outsideBody s (srcS s o.sa) = true ∨ (srcS s o.sa).toNat % 16 ≠ 0) →
    exec (.jr o) s = .next (preciseFault s 0x01)) ∧
  (∀ o s, Ready (.lexit o) s → (loopIn (curLoops s) o.lvl.toNat).act = false →
    exec (.lexit o) s = .next (preciseFault s 0x01)) ∧
  (∀ o s b half, Ready (.loop o) s → curBundle s = some b → curHalf s = some half →
    loopForbidden s b half o.lvl.toNat (o.lm1.toNat + 1) = true → exec (.loop o) s = .next (preciseFault s 0x01)) ∧
  (∀ o s b half, Ready (.loopi o) s → curBundle s = some b → curHalf s = some half →
    loopForbidden s b half o.lvl.toNat (o.lm1.toNat + 1) = true → exec (.loopi o) s = .next (preciseFault s 0x01))

/-- A transfer that issues after its delay bundle has been sequenced sets the flow at once; one that issues before lets it be
sequenced first, and flow continues at the target then; one that is not taken leaves the flow as it was. The sequencer then goes
on, unless the delay bundle is a transfer itself (R72, R96, R99). -/
def Obligations.DelayBundle : Prop :=
  (∀ t n a, t.flow.hold = .transfer n true →
    (resolveTransfer t n (some a) none).flow.next = a ∧
    (∀ b, t.stream.getLast? = some b → b.transfers = false → (resolveTransfer t n (some a) none).flow.hold = .run) ∧
    (resolveTransfer t n none none).flow.next = t.flow.next ∧
    (∀ b, t.stream.getLast? = some b → b.transfers = false → b.setsLoop = false → b.lastOfBody = false →
      (resolveTransfer t n none none).flow.hold = .run)) ∧
  (∀ t n a, t.flow.hold = .transfer n false →
    (resolveTransfer t n (some a) none).flow.hold = .issued ∧
    (resolveTransfer t n (some a) none).flow.next = t.flow.next) ∧
  (∀ s k t' h x i e a, (taskOf s k t').flow.hold = .issued → (taskOf s k t').flow.target = some a →
    (taskOf s k t').flow.lexit = none →
    (taskOf (sequenceEntry s (.tile k t') h x i e) k t').flow.next = a ∧
    ∃ b, (taskOf (sequenceEntry s (.tile k t') h x i e) k t').stream = (taskOf s k t').stream ++ [b] ∧ b.addr = e.addr ∧
      (b.transfers = false → (taskOf (sequenceEntry s (.tile k t') h x i e) k t').flow.hold = .run))

/-- What a loop word with count N leaves (R100, R102, R103, R234): the level is active with the local count, from element 0, or
stays inactive and flow skips the body where the count is 0; the level's share of a C level, its origin and stride, stands in
org and str in both cases. -/
def Sys2Proof.Claims.LoopSet (s t : State) (b : SeqBundle) (half : Half) (lvl : Nat) (lm1 : BitVec 8) (N : Nat) : Prop :=
  let body := (half.all.drop (b.idx + 1)).take (lm1.toNat + 1)
  let mark := ((curTask s).marks.drop lvl).headD .T
  let share := if mark = .C then groupShare s (curTask s) lvl else (0, 1)
  let n := if mark = .C then (if share.1 < N then (N - share.1 + share.2 - 1) / share.2 else 0) else N
  let x := loopIn (curTask t).loops lvl
  x.org = BitVec.ofNat 64 share.1 ∧ x.str = BitVec.ofNat 64 share.2 ∧
  (∀ l, l ≠ lvl → loopIn (curTask t).loops l = loopIn (curTask s).loops l) ∧
  (n = 0 → x = { loopIn (curTask s).loops lvl with org := x.org, str := x.str } ∧
    (curTask t).flow.hold = holdAfter b.loops b.seg (b.idx + lm1.toNat + 1) ∧
    ∀ e, body.getLast? = some e → (curTask t).flow.next =
      (seqSucc s s.cur.core half (b.idx + lm1.toNat + 1) e).getD (e.addr + BitVec.ofNat 64 e.bytes)) ∧
  (n ≠ 0 → x.act = true ∧ x.cnt = BitVec.ofNat 64 n ∧ x.beg = 0 ∧ x.idx = 0 ∧ x.lim = BitVec.allOnes 64 ∧ x.mark = mark ∧
    x.lenm1 = lm1.toNat ∧ x.dm1 = maxStage body 0 ∧
    (curTask t).flow.hold = .run ∧ (curTask t).flow.next = (curTask s).flow.next)

/-- loop and loopi, where they may stand and their segment is in the loop buffer, set their level up with count N, the value of
sa or the lent immediate, both unsigned; lexit leaves its level and the deeper ones for the bundle after the level's body
(R100, R102, R103). -/
def Obligations.LoopWords : Prop :=
  (∀ o s b half, Ready (.loop o) s → curBundle s = some b → curHalf s = some half →
    loopForbidden s b half o.lvl.toNat (o.lm1.toNat + 1) = false → (curTask s).flow.hold = .loopSetup s.cur.n →
    ∃ t, exec (.loop o) s = .next t ∧ Claims.LoopSet s t b half o.lvl.toNat o.lm1 (srcS s o.sa).toNat) ∧
  (∀ o s b half, Ready (.loopi o) s → curBundle s = some b → curHalf s = some half →
    loopForbidden s b half o.lvl.toNat (o.lm1.toNat + 1) = false → (curTask s).flow.hold = .loopSetup s.cur.n →
    ∃ t, exec (.loopi o) s = .next t ∧ Claims.LoopSet s t b half o.lvl.toNat o.lm1 (immNat o.cnt o.lend)) ∧
  (∀ o s, Ready (.lexit o) s → transferMisplaced s true = false → (loopIn (curLoops s) o.lvl.toNat).act = true →
    exec (.lexit o) s = .next (advance (takeTransfer s (some (loopIn (curLoops s) o.lvl.toNat).afterAddr)
      (some o.lvl.toNat))))

/-! ### Floor, wells, tags -/

/-- Nothing that R393 lists before an access to stretches of bytes keeps it from issuing: no replica under a store, no part of a
granule, no watermark, no bank under repair, no pending word. -/
def Sys2Proof.Claims.Unhindered (s : State) (store well : Bool) (sp : List Span) : Prop :=
  ∀ go, accessChecks s store well sp go = go

/-- fld.b, .h, .w and .d at an aligned floor address that nothing hinders read their bytes, zero-extended, at 4 hc; the bellows
core reads its own memory, at any alignment. Where another queue's store or an engine is writing the bytes the value is open
(R66, R74, R175, R178, R179, R373). -/
def Obligations.FloorLoads : Prop :=
  ∀ word n, (word, n) ∈ ([(.fldB, 1), (.fldH, 2), (.fldW, 4), (.fldD, 8)] : List ((MSl → Instr) × Nat)) →
    (∀ o s, Ready (word o) s → onBellows s = false → floorOk (srcS s o.sa + sextImm o.off o.lend) n = true →
      Claims.Unhindered s false false [((srcS s o.sa + sextImm o.off o.lend).toNat, n)] →
      ∃ f v, exec (word o) s = .next (advance (writeLaterS { s with free := f } o.sd v 4)) ∧
        (floorRivals s (curTile s) (some (curSlot s)) (srcS s o.sa + sextImm o.off o.lend).toNat n = [] →
          f = s.free ∧ v = BitVec.ofNat 64
            (mword (tileOf s (curTile s)).floor (srcS s o.sa + sextImm o.off o.lend).toNat n))) ∧
    (∀ o s, Ready (word o) s → onBellows s = true → (srcS s o.sa + sextImm o.off o.lend).toNat < 2 ^ 22 →
      exec (word o) s = .next (advance (writeLaterS s o.sd
        (BitVec.ofNat 64 (mword s.bellows.mem (srcS s o.sa + sextImm o.off o.lend).toNat n)) 4)))

/-- fst.b, .h, .w and .d at an aligned floor address outside the step-shared space that nothing hinders store the low bytes of
sc there, visible at 3 hc; within the step-shared space the words and doublewords go to the next plane of its granules; the
bellows core stores to its own memory, at any alignment (R66, R175, R215, R373). -/
def Obligations.FloorStores : Prop :=
  ∀ word n, (word, n) ∈ ([(.fstB, 1), (.fstH, 2), (.fstW, 4), (.fstD, 8)] : List ((MSs → Instr) × Nat)) →
    (∀ o s, Ready (word o) s → onBellows s = false → floorOk (srcS s o.sa + sextImm o.off o.lend) n = true →
      Claims.Unhindered s true false [((srcS s o.sa + sextImm o.off o.lend).toNat, n)] →
      (∀ w ∈ wordsOf (srcS s o.sa + sextImm o.off o.lend).toNat n, isShared (tileOf s (curTile s)) w = false) →
      exec (word o) s = .next (advance (storeLater s (.floor (addrBytes (srcS s o.sa + sextImm o.off o.lend).toNat
        (leBytes n (srcS s o.sc).toNat))) 3))) ∧
    (∀ o s, Ready (word o) s → onBellows s = false → floorOk (srcS s o.sa + sextImm o.off o.lend) n = true → 4 ≤ n →
      Claims.Unhindered s true false [((srcS s o.sa + sextImm o.off o.lend).toNat, n)] →
      (∀ w ∈ wordsOf (srcS s o.sa + sextImm o.off o.lend).toNat n, isShared (tileOf s (curTile s)) w = true) →
      exec (word o) s = .next (advance (storeLater s (.share (tileRank s (curTile s)) (sharedStores (tileOf s (curTile s))
        (wordPairs (srcS s o.sa + sextImm o.off o.lend).toNat (srcS s o.sc).toNat n))) 3))) ∧
    (∀ o s, Ready (word o) s → onBellows s = true → (srcS s o.sa + sextImm o.off o.lend).toNat < 2 ^ 22 →
      exec (word o) s = .next (advance (storeLater s (.floor (addrBytes (srcS s o.sa + sextImm o.off o.lend).toNat
        (leBytes n (srcS s o.sc).toNat))) 3)))

/-- A floor address of 2^23 or more, or one that is not a multiple of the access's size (512 for a
vector, 4 for an active lane of a gather or scatter), and an address of
2^22 or more on the bellows core, is fault 0x20, and the word does not issue (R167, R175 to R177, R302, R373). -/
def Obligations.FloorAddressFaults : Prop :=
  (∀ word n, (word, n) ∈ ([(.fldB, 1), (.fldH, 2), (.fldW, 4), (.fldD, 8)] : List ((MSl → Instr) × Nat)) → ∀ o s,
    Ready (word o) s → (if onBellows s then 2 ^ 22 ≤ (srcS s o.sa + sextImm o.off o.lend).toNat
      else 2 ^ 23 ≤ (srcS s o.sa + sextImm o.off o.lend).toNat ∨ (srcS s o.sa + sextImm o.off o.lend).toNat % n ≠ 0) →
    exec (word o) s = .next (preciseFault s 0x20)) ∧
  (∀ word n, (word, n) ∈ ([(.fstB, 1), (.fstH, 2), (.fstW, 4), (.fstD, 8)] : List ((MSs → Instr) × Nat)) → ∀ o s,
    Ready (word o) s → (if onBellows s then 2 ^ 22 ≤ (srcS s o.sa + sextImm o.off o.lend).toNat
      else 2 ^ 23 ≤ (srcS s o.sa + sextImm o.off o.lend).toNat ∨ (srcS s o.sa + sextImm o.off o.lend).toNat % n ≠ 0) →
    exec (word o) s = .next (preciseFault s 0x20)) ∧
  (∀ word, word ∈ ([.vld, .wld] : List (MVl → Instr)) → ∀ o s, Ready (word o) s →
    (2 ^ 23 ≤ (vectorAddr s o.sa o.off o.lend).toNat ∨ (vectorAddr s o.sa o.off o.lend).toNat % 512 ≠ 0) →
    exec (word o) s = .next (preciseFault s 0x20)) ∧
  (∀ word, word ∈ ([.vst, .wst] : List (MVs → Instr)) → ∀ o s, Ready (word o) s →
    (2 ^ 23 ≤ (vectorAddr s o.sa o.off o.lend).toNat ∨ (vectorAddr s o.sa o.off o.lend).toNat % 512 ≠ 0) →
    exec (word o) s = .next (preciseFault s 0x20)) ∧
  (∀ o s i, Ready (.vgath o) s → i < 128 → (srcP s o.p).getLsbD i = true →
    (2 ^ 23 ≤ (srcS s o.sa + (lane (srcV s o.vb) i).setWidth 64).toNat ∨
      (srcS s o.sa + (lane (srcV s o.vb) i).setWidth 64).toNat % 4 ≠ 0) →
    exec (.vgath o) s = .next (preciseFault s 0x20)) ∧
  (∀ o s i, Ready (.vscat o) s → i < 128 → (srcP s o.p).getLsbD i = true →
    (2 ^ 23 ≤ (srcS s o.sa + (lane (srcV s o.vb) i).setWidth 64).toNat ∨
      (srcS s o.sa + (lane (srcV s o.vb) i).setWidth 64).toNat % 4 ≠ 0) →
    exec (.vscat o) s = .next (preciseFault s 0x20))

/-- The vector moves at addresses that keep R167 and R168 and that nothing hinders. A load reads the active lanes, a word each,
at 4 hc from the floor, 6 from a well, 12 for a gather, and a store makes the active lanes visible at 3, 4 and 12 hc, ascending,
so that the highest lane of an address remains (R66, R115, R168, R176, R177). -/
def Obligations.VectorMoves : Prop :=
  (∀ o s, Ready (.vld o) s → floorOk (vectorAddr s o.sa o.off o.lend) 512 = true →
    Claims.Unhindered s false false (laneSpans (rowLanes (srcP s o.p) (vectorAddr s o.sa o.off o.lend).toNat)) →
    ∃ f ls, exec (.vld o) s = .next (advance (writeLaterV { s with free := f } o.vd (srcP s o.p)
        (BitVec.ofNat 4096 (packNat 32 ls)) 4)) ∧ ls.length = 128 ∧
      ((∀ a, floorRivals s (curTile s) (some (curSlot s)) a 4 = []) → f = s.free ∧ ∀ i < 128, (srcP s o.p).getLsbD i = true →
        (ls.drop i).head? = some (mword (tileOf s (curTile s)).floor ((vectorAddr s o.sa o.off o.lend).toNat + 4 * i) 4))) ∧
  (∀ o s, Ready (.wld o) s → floorOk (vectorAddr s o.sa o.off o.lend) 512 = true →
    layerExists s (wellLayer (vectorAddr s o.sa o.off o.lend).toNat) = true →
    layerHeld s (curTile s) (wellLayer (vectorAddr s o.sa o.off o.lend).toNat) = false →
    Claims.Unhindered s false true (laneSpans (rowLanes (srcP s o.p) (vectorAddr s o.sa o.off o.lend).toNat)) →
    ∃ f ls, exec (.wld o) s = .next (advance (writeLaterV { s with free := f } o.vd (srcP s o.p)
        (BitVec.ofNat 4096 (packNat 32 ls)) 6)) ∧ ls.length = 128 ∧
      ((∀ a, wellRivals s (curTile s) (some (curSlot s)) a 4 = []) → f = s.free ∧ ∀ i < 128, (srcP s o.p).getLsbD i = true →
        (ls.drop i).head? = some (mword (tileOf s (curTile s)).wells ((vectorAddr s o.sa o.off o.lend).toNat + 4 * i) 4))) ∧
  (∀ o s, Ready (.vgath o) s → gatherOk (gatherAddr (srcP s o.p) (srcS s o.sa) (srcV s o.vb)) = true →
    Claims.Unhindered s false false
      (laneSpans fun i => (gatherAddr (srcP s o.p) (srcS s o.sa) (srcV s o.vb) i).map (·.toNat)) →
    ∃ f ls, exec (.vgath o) s = .next (advance (writeLaterV { s with free := f } o.vd (srcP s o.p)
        (BitVec.ofNat 4096 (packNat 32 ls)) 12)) ∧ ls.length = 128 ∧
      ((∀ a, floorRivals s (curTile s) (some (curSlot s)) a 4 = []) → f = s.free ∧ ∀ i < 128, (srcP s o.p).getLsbD i = true →
        (ls.drop i).head? = some (mword (tileOf s (curTile s)).floor
          (srcS s o.sa + (lane (srcV s o.vb) i).setWidth 64).toNat 4))) ∧
  (∀ o s, Ready (.vst o) s → floorOk (vectorAddr s o.sa o.off o.lend) 512 = true →
    isReplica (tileOf s (curTile s)) (slotOf (vectorAddr s o.sa o.off o.lend).toNat) = false →
    Claims.Unhindered s true false (laneSpans (rowLanes (srcP s o.p) (vectorAddr s o.sa o.off o.lend).toNat)) →
    exec (.vst o) s = .next (advance (storeWords .lanes s ((List.range 128).filterMap fun i =>
      if (srcP s o.p).getLsbD i then some ((vectorAddr s o.sa o.off o.lend).toNat + 4 * i, lane (srcV s o.vc) i) else none) 3))) ∧
  (∀ o s, Ready (.vscat o) s → gatherOk (gatherAddr (srcP s o.p) (srcS s o.sa) (srcV s o.vb)) = true →
    Claims.Unhindered s true false
      (laneSpans fun i => (gatherAddr (srcP s o.p) (srcS s o.sa) (srcV s o.vb) i).map (·.toNat)) →
    exec (.vscat o) s = .next (advance (storeWords .lanes s ((List.range 128).filterMap fun i =>
      if (srcP s o.p).getLsbD i then
        some ((srcS s o.sa + (lane (srcV s o.vb) i).setWidth 64).toNat, lane (srcV s o.vc) i) else none) 12))) ∧
  (∀ o s, Ready (.wst o) s → floorOk (vectorAddr s o.sa o.off o.lend) 512 = true →
    layerExists s (wellLayer (vectorAddr s o.sa o.off o.lend).toNat) = true →
    layerHeld s (curTile s) (wellLayer (vectorAddr s o.sa o.off o.lend).toNat) = false →
    Claims.Unhindered s true true (laneSpans (rowLanes (srcP s o.p) (vectorAddr s o.sa o.off o.lend).toNat)) →
    exec (.wst o) s = .next (advance (storeLater s (.well ((List.range 128).flatMap fun i =>
      if (srcP s o.p).getLsbD i then
        addrBytes ((vectorAddr s o.sa o.off o.lend).toNat + 4 * i) (leBytes 4 (lane (srcV s o.vc) i).toNat) else [])) 4)))

/-- The tag words. lookup gives the slot that holds the tag, valid or pinned, with bit 62 one that is filling under it, and
bit 63 alone where none does; tagset and taginv wait for another task's tag operation in flight on the slot or the tag, then change
the slot's entry at 3 hc unless R174 refuses them, which is fault 0x21;
tagrd reads a slot's tag, or with bit 16 its state and owner (R66, R169 to R174). -/
def Obligations.TagWords : Prop :=
  (∀ o s, Ready (.lookup o) s → exec (.lookup o) s = .next (advance (writeLaterS s o.sd
    (match findTag (tileOf s (curTile s)) (srcS s o.sa) with
      | none => 0x8000000000000000
      | some (slot, e) => if e.st = .filling then 0x4000000000000000 ||| BitVec.ofNat 64 slot else BitVec.ofNat 64 slot) 4))) ∧
  (∀ o s, Ready (.tagset o) s → tagBusy s ((srcS s o.sa).toNat % 512) (srcS s o.sb) = false →
    tagsetBad (tileOf s (curTile s)) (srcS s o.sa) (srcS s o.sb) = false →
    exec (.tagset o) s = .next (advance (storeLater s
      (.tag ((srcS s o.sa).toNat % 512) (srcS s o.sb) ((srcS s o.sa).getLsbD 16)) 3))) ∧
  (∀ o s, Ready (.tagset o) s → tagBusy s ((srcS s o.sa).toNat % 512) (srcS s o.sb) = false →
    tagsetBad (tileOf s (curTile s)) (srcS s o.sa) (srcS s o.sb) = true →
    exec (.tagset o) s = .next (preciseFault s 0x21)) ∧
  (∀ o s, Ready (.tagset o) s → tagBusy s ((srcS s o.sa).toNat % 512) (srcS s o.sb) = true →
    exec (.tagset o) s = .next s) ∧
  (∀ o s, Ready (.taginv o) s → tagBusy s ((srcS s o.sa).toNat % 512) 0 = true → exec (.taginv o) s = .next s) ∧
  (∀ o s, Ready (.taginv o) s → tagBusy s ((srcS s o.sa).toNat % 512) 0 = false → (srcS s o.sa).toNat < 512 →
    isShared (tileOf s (curTile s)) ((srcS s o.sa).toNat * 16384) = false →
    ∀ e, e = tget ({} : TagEntry) (judgedTags (tileOf s (curTile s))) (srcS s o.sa).toNat →
    (e.st = .empty → exec (.taginv o) s = .next (advance s)) ∧
    ((e.st = .valid ∨ e.st = .pinned) →
      exec (.taginv o) s = .next (advance (storeLater s (.tag (srcS s o.sa).toNat 0 false) 3))) ∧
    ((e.st = .filling ∨ e.st = .evicting) → exec (.taginv o) s = .next (preciseFault s 0x21))) ∧
  (∀ o s, Ready (.taginv o) s → tagBusy s ((srcS s o.sa).toNat % 512) 0 = false → 512 ≤ (srcS s o.sa).toNat → exec (.taginv o) s = .next (preciseFault s 0x21)) ∧
  (∀ o s, Ready (.tagrd o) s → (srcS s o.sa).toNat < 512 →
    exec (.tagrd o) s = .next (advance (writeLaterS s o.sd
      (if isShared (tileOf s (curTile s)) ((srcS s o.sa).toNat * 16384) ∨
          (tget ({} : TagEntry) (tileOf s (curTile s)).tags (srcS s o.sa).toNat).st = .filling then 0
        else (tget ({} : TagEntry) (tileOf s (curTile s)).tags (srcS s o.sa).toNat).tag) 4))) ∧
  (∀ o s, Ready (.tagrd o) s → (srcS s o.sa).toNat / 512 = 128 →
    exec (.tagrd o) s = .next (advance (writeLaterS s o.sd (BitVec.ofNat 64
      ((if isShared (tileOf s (curTile s)) ((srcS s o.sa).toNat % 512 * 16384) then 5
        else (tget ({} : TagEntry) (tileOf s (curTile s)).tags ((srcS s o.sa).toNat % 512)).st.code) +
        16 * (tget ({} : TagEntry) (tileOf s (curTile s)).tags ((srcS s o.sa).toNat % 512)).owner)) 4)))

/-! ### Global accesses -/

/-- The global words at an address that is a multiple of 8: a load marks sd empty and its access sets out after the earlier
ones of its task, a store's access sets out
with the value of sc once the address is translated, unless the page is sealed or the way to it has no room; rld parks its task until the value has come; cfence passes
once nothing is open. A misaligned address is fault 0x23 (R63, R256, R268, R269). -/
def Obligations.GlobalWords : Prop :=
  (∀ o s, Ready (.gld o) s → (srcS s o.sa + sextImm o.off o.lend).toNat % 8 = 0 →
    exec (.gld o) s = .next (advance (addAccess (startLong s (.s o.sd) 14 (curTask s).gaccNext) true false
      (srcS s o.sa + sextImm o.off o.lend) 0 o.sd))) ∧
  (∀ o s, Ready (.rld o) s → (srcS s o.sa + sextImm o.off o.lend).toNat % 8 = 0 → onBellows s = false →
    ∃ t, t = addAccess (startLong s (.s o.sd) 10 (curTask s).gaccNext) true true (srcS s o.sa + sextImm o.off o.lend) 0 o.sd ∧
      exec (.rld o) s = .next (parkTask (advance t) t.cur.core (.rld (.s o.sd)))) ∧
  (∀ o s, Ready (.rld o) s → (srcS s o.sa + sextImm o.off o.lend).toNat % 8 = 0 → onBellows s = true →
    ∃ t, t = addAccess (startLong s (.s o.sd) 10 (curTask s).gaccNext) true true (srcS s o.sa + sextImm o.off o.lend) 0 o.sd ∧
      exec (.rld o) s = .next (advance { t with bellows := { t.bellows with st := .waitingLoad } })) ∧
  (∀ word r, (word, r) ∈ ([(.gst, false), (.rst, true)] : List ((MSs → Instr) × Bool)) → ∀ o s, Ready (word o) s →
    ∀ va s', va = srcS s o.sa + sextImm o.off o.lend → va.toNat % 8 = 0 →
    ensureXlat s (coreName s.cur.core).1 (coreName s.cur.core).2 (coreCtx s s.cur.core) va true r = (true, s') →
    storeSealed s' (coreCtx s s.cur.core) va = false → (r && storeNoRoom s' (coreCtx s s.cur.core) va) = false →
    exec (word o) s = .next (advance (addAccess s' false r va (srcS s o.sc) 0))) ∧
  (∀ s, Ready .cfence s → fenceOpen s (match (curTask s).fenceAt with
      | some (n, h) => if n = s.cur.n then h else s.hc
      | none => s.hc) = false →
    exec .cfence s = .next (advance (updCur s fun x => { x with fenceAt := none }))) ∧
  (∀ o s, (Ready (.gld o) s → (srcS s o.sa + sextImm o.off o.lend).toNat % 8 ≠ 0 →
      exec (.gld o) s = .next (preciseFault s 0x23)) ∧
    (Ready (.rld o) s → (srcS s o.sa + sextImm o.off o.lend).toNat % 8 ≠ 0 →
      exec (.rld o) s = .next (preciseFault s 0x23))) ∧
  (∀ o s, (Ready (.gst o) s → (srcS s o.sa + sextImm o.off o.lend).toNat % 8 ≠ 0 →
      exec (.gst o) s = .next (preciseFault s 0x23)) ∧
    (Ready (.rst o) s → (srcS s o.sa + sextImm o.off o.lend).toNat % 8 ≠ 0 →
      exec (.rst o) s = .next (preciseFault s 0x23)))

/-! ### V words -/

/-- The floating-point lane forms write vd in its active lanes: element by element the sum, difference, product, fused
product and sum, lesser or greater of the sources, in FP32 lanes or 16-bit elements, with fmt.sat for the 16-bit formats; at 5
hc where they multiply and at 3 hc elsewhere (R66, R115 to R117). The integer and logic lane forms write vd in its active lanes: wrapping sums, differences and products, signed minimum
and maximum, logic, shifts by the low five bits of y, and the one saturating sum; at 5 hc the products, at 3 hc the others
(R66, R115, R118). -/
def Obligations.VectorLaneForms : Prop :=
  (∀ word f lat, (word, f, lat) ∈ ([(.vaddF32, fAdd f32F false, 3), (.vsubF32, fSub f32F false, 3),
      (.vmulF32, fMul f32F false, 5), (.vminF32, fMin f32F, 3), (.vmaxF32, fMax f32F, 3)] :
      List ((VR → Instr) × (Nat → Nat → Nat) × Nat)) →
    Issues word fun o s => writeLaterV s o.vd (srcP s o.p) (fromLanes fun k =>
      BitVec.ofNat 32 (f (lane (srcV s o.va) k).toNat (lane (srcV s o.vb) k).toNat)) lat) ∧
  (∀ word f lat, (word, f, lat) ∈ ([(.vaddBf16, fAdd bf16F, 3), (.vmulBf16, fMul bf16F, 5), (.vaddF16, fAdd f16F, 3),
      (.vmulF16, fMul f16F, 5)] : List ((VR → Instr) × (Bool → Nat → Nat → Nat) × Nat)) →
    Issues word fun o s => writeLaterV s o.vd (srcP s o.p) (fromElems 16 256 fun e =>
      f ((curTask s).fmt.getLsbD 15) (elem (srcV s o.va) 16 e) (elem (srcV s o.vb) 16 e)) lat) ∧
  Issues .vfmaF32 (fun o s => writeLaterV s o.vd (srcP s o.p) (fromElems 32 128 fun e =>
    fFma f32F false (elem (srcV s o.va) 32 e) (elem (srcV s o.vb) 32 e) (elem (srcV s o.vc) 32 e)) 5) ∧
  (∀ word F, (word, F) ∈ ([(.vfmaBf16, bf16F), (.vfmaF16, f16F)] : List ((VR3 → Instr) × FFmt)) →
    Issues word fun o s => writeLaterV s o.vd (srcP s o.p) (fromElems 16 256 fun e =>
      fFma F ((curTask s).fmt.getLsbD 15) (elem (srcV s o.va) 16 e) (elem (srcV s o.vb) 16 e) (elem (srcV s o.vc) 16 e)) 5) ∧
  (∀ word f lat, (word, f, lat) ∈ ([(.vaddI32, fun x y => x + y, 3), (.vsubI32, fun x y => x - y, 3),
      (.vmulI32, fun x y => x * y, 5), (.vminI32, fun x y => if x.toInt < y.toInt then x else y, 3),
      (.vmaxI32, fun x y => if x.toInt < y.toInt then y else x, 3), (.vand, fun x y => x &&& y, 3),
      (.vor, fun x y => x ||| y, 3), (.vxor, fun x y => x ^^^ y, 3), (.vshl, fun x y => x <<< (y.toNat % 32), 3),
      (.vshr, fun x y => x >>> (y.toNat % 32), 3), (.vsar, fun x y => x.sshiftRight (y.toNat % 32), 3)] :
      List ((VR → Instr) × (Word32 → Word32 → Word32) × Nat)) →
    Issues word fun o s => writeLaterV s o.vd (srcP s o.p)
      (fromLanes fun k => f (lane (srcV s o.va) k) (lane (srcV s o.vb) k)) lat) ∧
  (∀ word f lat, (word, f, lat) ∈ ([(.vaddI16, fun x y => x + y, 3), (.vsubI16, fun x y => x - y, 3),
      (.vmulI16, fun x y => x * y, 5),
      (.vaddsI16, fun x y => BitVec.ofInt 16 (max (-32768) (min 32767 (x.toInt + y.toInt))), 3)] :
      List ((VR → Instr) × (BitVec 16 → BitVec 16 → BitVec 16) × Nat)) →
    Issues word fun o s => writeLaterV s o.vd (srcP s o.p) (fromElems 16 256 fun e =>
      (f (BitVec.ofNat 16 (elem (srcV s o.va) 16 e)) (BitVec.ofNat 16 (elem (srcV s o.vb) 16 e))).toNat) lat)

/-- A compare writes pd at 3 hc: bit i is the condition of lane i where p[i] is 1, and 0 elsewhere; no FP32 condition holds
of a NaN, and the two zeros are equal (R66, R119). -/
def Obligations.VectorCompares : Prop :=
  (∀ word c, (word, c) ∈ ([(.vcmpeqI32, fun x y => decide (x = y)), (.vcmpltI32, fun x y => decide (x.toInt < y.toInt)),
      (.vcmpeqF32, f32Eq), (.vcmpltF32, f32Lt), (.vcmpleF32, f32Le)] :
      List ((VP → Instr) × (Word32 → Word32 → Bool))) →
    ∀ o s, Ready (word o) s → ∃ v : VWord, exec (word o) s = .next (advance (writeLater s (.p o.pd) v 3)) ∧
      (∀ i < 128, v.getLsbD i = ((srcP s o.p).getLsbD i && c (lane (srcV s o.va) i) (lane (srcV s o.vb) i)))) ∧
  (∀ x y : Word32, ((decodeF f32F x.toNat).isNan || (decodeF f32F y.toNat).isNan) = true →
    f32Eq x y = false ∧ f32Lt x y = false ∧ f32Le x y = false) ∧
  (∀ x : Word32, (decodeF f32F x.toNat).isNan = false → f32Eq x x = true ∧ f32Le x x = true ∧ f32Lt x x = false) ∧
  f32Eq 0 0x80000000 = true ∧ f32Lt 0x80000000 0 = false

/-- vsel writes all lanes; vperm reads the lane that the low seven bits of an index name, or 0 where its bit 31 is set; vbcast
the low half of a scalar; vext a lane zero-extended; vgly decodes the chosen sixteen glyphs; vbscale multiplies by the scale
of the lane's block, under fmt.bs (R66, R120, R125, R126). -/
def Obligations.VectorMovement : Prop :=
  Issues .vsel (fun o s => writeLaterV s o.vd (BitVec.allOnes 128) (fromLanes fun i =>
    if (srcP s o.p).getLsbD i then lane (srcV s o.va) i else lane (srcV s o.vb) i) 3) ∧
  Issues .vperm (fun o s => writeLaterV s o.vd (srcP s o.p) (fromLanes fun i =>
    if (lane (srcV s o.vb) i).getLsbD 31 then 0 else lane (srcV s o.va) ((lane (srcV s o.vb) i).toNat % 128)) 4) ∧
  Issues .vbcast (fun o s => writeLaterV s o.vd (srcP s o.p) (fromLanes fun _ => (srcS s o.sa).setWidth 32) 2) ∧
  Issues .vext (fun o s => writeLaterS s o.sd ((lane (srcV s o.va) o.lane.toNat).setWidth 64) 3) ∧
  Issues .vgly (fun o s => writeLaterV s o.vd (srcP s o.p) (fromLanes fun i => BitVec.ofNat 32
    (glyphF32 (elem (srcV s o.va) 16 (16 * o.group.toNat + i / 8)) (i % 8))) 4) ∧
  Issues .vbscale (fun o s => writeLaterV s o.vd (srcP s o.p) (fromLanes fun i => BitVec.ofNat 32
    (blockScale ((curTask s).fmt.toNat / 2 ^ 12 % 4) (lane (srcV s o.va) i).toNat (elem (srcV s o.vb) 8 (i / 32)))) 5) ∧
  (∀ x code, blockScale 0 x code = x ∧ blockScale 1 x code = fMul f32F false x (e8m0ToF32 code) ∧
    blockScale 2 x code = fMul f32F false x (widenF e4m3F code))

/-- A reduction writes sd at 9 hc: the 128 lanes, with the form's identity for an inactive one, are halved seven times, the
value at i combined with the one at i + h; a predicate with no active lane gives the identity (R44, R66, R121). -/
def Obligations.VectorReductions : Prop :=
  (∀ word f e, (word, f, e) ∈ ([(.vredsumF32, fAdd f32F false, 0x80000000), (.vredmaxF32, fMax f32F, 0xFF800000),
      (.vredminF32, fMin f32F, 0x7F800000)] : List ((VQ → Instr) × (Nat → Nat → Nat) × Nat)) →
    Issues word fun o s => writeLaterS s o.sd (BitVec.ofNat 64 (treeReduce f ((List.range 128).map fun i =>
      if (srcP s o.p).getLsbD i then (lane (srcV s o.va) i).toNat else e))) 9) ∧
  Issues .vredsumI32 (fun o s => writeLaterS s o.sd ((BitVec.ofNat 32 (treeReduce (fun x y => (x + y) % 2 ^ 32)
    ((List.range 128).map fun i => if (srcP s o.p).getLsbD i then (lane (srcV s o.va) i).toNat else 0))).signExtend 64) 9) ∧
  (∀ f, ∀ t : Nat → Nat, treeReduce f ((List.range 128).map t) =
    (fun h : Nat → (Nat → Nat) → Nat → Nat => h 1 (h 2 (h 4 (h 8 (h 16 (h 32 (h 64 t)))))) 0)
      fun n u i => f (u i) (u (i + n)))

/-- The conversions write elements 0 to 127 of vd, the element that p marks converted, at 3 hc; the special functions write
the active lanes at 8 or 12 hc (R66, R122 to R124). -/
def Obligations.VectorConversions : Prop :=
  Issues .vcvt (fun o s => writeLater s (.v o.vd (cvtMask (srcP s o.p) (codeWidth o.dst.toNat)))
    (fromElems (codeWidth o.dst.toNat) 128 fun e => convertCode o.src.toNat o.dst.toNat ((curTask s).fmt.getLsbD 15)
      (elem (srcV s o.va) (codeWidth o.src.toNat) e)) 3) ∧
  Issues .vcvtF32I16 (fun o s => writeLater s (.v o.vd (cvtMask (srcP s o.p) 32))
    (fromElems 32 128 fun e => intToF32 (BitVec.ofNat 16 (elem (srcV s o.va) 16 e)).toInt) 3) ∧
  Issues .vcvtI16F32 (fun o s => writeLater s (.v o.vd (cvtMask (srcP s o.p) 16))
    (fromElems 16 128 fun e => f32ToInt 16 (elem (srcV s o.va) 32 e)) 3) ∧
  (∀ word f lat, (word, f, lat) ∈ ([(.vrcpF32, fRcp, 8), (.vrsqrtF32, fRsqrt, 8), (.vexp2F32, fExp2, 12),
      (.vlog2F32, fLog2, 12), (.vtanhF32, fTanh, 12)] : List ((VR1 → Instr) × (Nat → Nat) × Nat)) →
    Issues word fun o s => writeLaterV s o.vd (srcP s o.p) (fromLanes fun k =>
      BitVec.ofNat 32 (f (lane (srcV s o.va) k).toNat)) lat)

/-- A vector built from elements has them at their places and zeros above. A predicated write changes the active lanes and
keeps the others; a conversion's write changes the marked elements and everything above element 127 (R113, R115, R122). -/
def Obligations.VectorElements : Prop :=
  (∀ w n f e, 0 < w → w * n ≤ 4096 → elem (fromElems w n f) w e = if e < n then f e % 2 ^ w else 0) ∧
  (∀ f i, lane (fromLanes f) i = if i < 128 then f i else 0) ∧
  (∀ y d p v i, i < 128 → (lane (readV (writeV y d (laneMask p) v) d) i) =
    if p.getLsbD i then lane v i else lane (readV y d) i) ∧
  (∀ y d p v w e, w = 16 ∨ w = 32 ∨ w = 8 ∨ w = 4 → e < 128 → elem (readV (writeV y d (cvtMask p w) v) d) w e =
    if p.getLsbD e then elem v w e else elem (readV y d) w e) ∧
  (∀ y d p v w e, w = 16 ∨ w = 32 ∨ w = 8 ∨ w = 4 → 128 ≤ e →
    elem (readV (writeV y d (cvtMask p w) v) d) w e = elem v w e) ∧
  (∀ y d e mask v, d ≠ e → readV (writeV y d mask v) e = readV y e)

/-- Packing the number that a code names gives the code back, for every code of every floating-point format that is no NaN
(R28, R30, R31, R41). -/
def Obligations.FloatCodes : Prop :=
  ∀ F ∈ [f32F, f16F, bf16F, e5m2F, e4m3F, e2m1F], ∀ sat x, x < 2 ^ F.width → (decodeF F x).isNan = false →
    packNum F sat (decodeF F x) = x

/-- A NaN source gives the first one, quieted; infinities that cancel and a product of an infinity and a zero give the
default NaN; an exact zero sum is +0 but for −0 + −0; the lesser of the zeros is −0 and the greater +0 (R43, R117). -/
def Obligations.FloatCases : Prop :=
  (∀ F ∈ [f32F, f16F, bf16F], ∀ sat x y,
    ((decodeF F x).isNan = true → fAdd F sat x y = quiet F x ∧ fMul F sat x y = quiet F x) ∧
    ((decodeF F x).isNan = false → (decodeF F y).isNan = true → fAdd F sat x y = quiet F y ∧ fMul F sat x y = quiet F y) ∧
    fAdd F sat (infCode F false) (infCode F true) = defaultNan F ∧
    fMul F sat (infCode F false) (F.sign true) = defaultNan F ∧
    fFma F sat (infCode F false) 0 0 = defaultNan F ∧
    fAdd F sat 0 (F.sign true) = 0 ∧ fAdd F sat (F.sign true) (F.sign true) = F.sign true) ∧
  (∀ x y, (decodeF f32F x).isNan = true → fMin f32F x y = quiet f32F x ∧ fMax f32F x y = quiet f32F x) ∧
  fMin f32F 0 0x80000000 = 0x80000000 ∧ fMax f32F 0x80000000 0 = 0 ∧
  defaultNan f32F = 0x7FC00000 ∧ defaultNan bf16F = 0x7FC0 ∧ defaultNan f16F = 0x7E00

/-! ### T words -/

/-- The transposer's words in the slot that may use it. trin adds its vector as the next row, unless block b − 2 has pops to issue,
when it stalls; the row that ends a block is noted with its hc. tpop marks vd empty and adds a pop of the next output vector; tmode
and tclr free the blocks, set the counts to 0 and let every outstanding pop end with zeros in the next hc at the latest. From
another slot, while the transposer is busy, each is fault 0x15 (that empty and pending registers come before that fault: log 104).
A pop whose time has come writes its output vector, or zeros after a clear, makes vd full and is gone (R127 to R130). -/
def Obligations.TransposerWords : Prop :=
  (∀ o s t k x, Ready (.trin o) s → s.cur.core = .tile t k → x = (tileOf s t).xp → x.foreign k = false →
    ¬(2 ≤ x.m / 128 ∧ x.n < 128 * (x.m / 128 - 1)) → ∃ s', exec (.trin o) s = .next s' ∧
    (tileOf s' t).xp = { x with owner := if x.busy then x.owner else k, m := x.m + 1, rows := tset x.rows x.m (srcV s o.va), done := if x.m % 128 = 127 then tset x.done (x.m / 128) s.hc else x.done } ∧
    SameMemory s s') ∧
  (∀ o s t k x, Ready (.trin o) s → s.cur.core = .tile t k → x = (tileOf s t).xp → x.foreign k = false →
    2 ≤ x.m / 128 → x.n < 128 * (x.m / 128 - 1) → exec (.trin o) s = .next s) ∧
  (∀ o s t k x, Ready (.tpop o) s → s.cur.core = .tile t k → x = (tileOf s t).xp → x.foreign k = false →
    ∃ s', exec (.tpop o) s = .next s' ∧
    (tileOf s' t).xp = { x with owner := if x.busy then x.owner else k, n := x.n + 1, popSeq := x.popSeq + 1, pops := x.pops ++ [⟨x.popSeq, x.n, o.vd, s.hc, none⟩] } ∧
    isEmpty (taskOf s' t k) (.v o.vd) = true ∧ SameMemory s s') ∧
  (∀ o s t k x, Ready (.tmode o) s → s.cur.core = .tile t k → x = (tileOf s t).xp → x.foreign k = false →
    ∃ s', exec (.tmode o) s = .next s' ∧
    (tileOf s' t).xp = { x with mode := o.mode.toNat, m := 0, n := 0, rows := [], done := [], pops := x.pops.map fun p => { p with zeroAt := some (p.zeroAt.getD (s.hc + 1)) } } ∧
    SameMemory s s') ∧
  (∀ s t k x, Ready .tclr s → s.cur.core = .tile t k → x = (tileOf s t).xp → x.foreign k = false →
    ∃ s', exec .tclr s = .next s' ∧
    (tileOf s' t).xp = { x with m := 0, n := 0, rows := [], done := [], pops := x.pops.map fun p => { p with zeroAt := some (p.zeroAt.getD (s.hc + 1)) } } ∧
    SameMemory s s') ∧
  (∀ i s t k, Ready i s → i = .tclr ∨ (∃ o, i = .tmode o) ∨ (∃ o, i = .trin o) ∨ (∃ o, i = .tpop o) →
    s.cur.core = .tile t k → (tileOf s t).xp.foreign k = true → exec i s = .next (preciseFault s 0x15)) ∧
  (∀ t n s p h, ((tileOf s t).xp.pops.find? fun q => q.id == n) = some p → popDue (tileOf s t).xp p = some h → h ≤ s.hc →
    (taskOf s t (tileOf s t).xp.owner).st ≠ .stopped →
    ∃ s' v, exec (.tpopResult t n) s = .next s' ∧
      v = (if p.zeroAt.isSome then 0 else xpOutput (tileOf s t).xp (p.n / 128) (p.n % 128)) ∧
      readV (taskOf s' t (tileOf s t).xp.owner) p.vd = v ∧
      isEmpty (taskOf s' t (tileOf s t).xp.owner) (.v p.vd) = false ∧
      (tileOf s' t).xp.pops = (tileOf s t).xp.pops.filter fun q => q.id != n)

/-! ### E words -/

/-- The latch forms: mvl and mvli write the bits that the latch has, mvlh puts its immediate into the top bits and keeps the
others, mvs reads the latch into sd at 2 hc; a latch written reads back what its bits hold, and no other latch changes
(R62, R66, R186). -/
def Obligations.LatchWords : Prop :=
  Issues .mvl (fun o s => writeLatch s o.latch.toNat (srcS s o.sa)) ∧
  Issues .mvli (fun o s => writeLatch s o.latch.toNat (sextImm o.imm o.lend)) ∧
  Issues .mvlh (fun o s => writeLatch s o.latch.toNat (BitVec.ofNat 64
    (immNat o.imm o.lend * 2 ^ (64 - immWidth 16 o.lend) +
      (latchIn (curTask s).lat o.latch.toNat).toNat % 2 ^ (64 - immWidth 16 o.lend)))) ∧
  Issues .mvs (fun o s => writeLaterS s o.sd (latchValue s o.latch.toNat) 2) ∧
  (∀ s n v, latchMask n ≠ 0 → latchIn (curTask (writeLatch s n v)).lat n = v &&& latchMask n) ∧
  (∀ s n k v, n ≠ k → latchIn (curTask (writeLatch s n v)).lat k = latchIn (curTask s).lat k) ∧
  (∀ s n v, latchMask n = 0 → writeLatch s n v = s)

/-- The ten copy triggers. A shape that R189 forbids is fault 0x30; an engine that refuses the command lets the queue stall;
otherwise the command, a snapshot of the engine's latches, joins the end of the engine's queue, and a request that returns a
value marks sd empty (R189, R190, R198, R199, R390). -/
def Obligations.CopyTriggers : Prop :=
  (∀ i s e op ty sd, Ready i s →
    ((∃ o, i = .trigCpy o ∧ o.fo = false ∧ e = o.eng.toNat ∧ op = 0 ∧ ty = 0 ∧ sd = 0) ∨
     (∃ word k o, (word, k) ∈ ([(.trigCpyAwAdd, 1), (.trigCpyAwMin, 2), (.trigCpyAwMax, 3), (.trigCpyAwAnd, 4),
        (.trigCpyAwOr, 5), (.trigCpyAwXor, 6)] : List ((ECa → Instr) × Nat)) ∧ i = word o ∧ e = o.eng.toNat ∧ op = k ∧
        ty = o.ty.toNat ∧ sd = 0) ∨
     (∃ word k o, (word, k) ∈ ([(.trigCpyFadd, 7), (.trigCpySwap, 8), (.trigCpyCas, 9)] : List ((ECr → Instr) × Nat)) ∧
        i = word o ∧ e = o.eng.toNat ∧ op = k ∧ ty = o.ty.toNat ∧ sd = o.sd)) →
    (copyShapeBad (takeCmd s e op ty sd none) (curTile s) = true → exec i s = .next (preciseFault s 0x30)) ∧
    (copyShapeBad (takeCmd s e op ty sd none) (curTile s) = false →
      copyRefuses (tileOf s (curTile s)) e (takeCmd s e op ty sd none) = true →
      exec i s = .next (noteStall s (4 + e))) ∧
    (copyShapeBad (takeCmd s e op ty sd none) (curTile s) = false →
      copyRefuses (tileOf s (curTile s)) e (takeCmd s e op ty sd none) = false →
      exec i s = .next (advance (acceptCopy
        (if 7 ≤ op then startLong s (.s sd) (4 + e) ((tileOf s (curTile s)).cpySeq + 1) else s) (curTile s) e
        (takeCmd s e op ty sd none))))) ∧
  (∀ o s f, Ready (.trigCpy o) s → o.fo = true → f = takeSnap s 0 → snapFault s f = none → f.toReg = false →
    copyShapeBad (takeCmd s o.eng.toNat 0 0 0 (some f)) (curTile s) = false →
    copyRefuses (tileOf s (curTile s)) o.eng.toNat (takeCmd s o.eng.toNat 0 0 0 (some f)) = false →
    exec (.trigCpy o) s = .next (advance
      (acceptCopy s (curTile s) o.eng.toNat (takeCmd s o.eng.toNat 0 0 0 (some f))))) ∧
  (∀ s t e c, (tget ({} : CopyEng) (tileOf (acceptCopy s t e c) t).cpy e).cmds =
    (tget ({} : CopyEng) (tileOf s t).cpy e).cmds ++ [{ c with wm := c.armsWm }]) ∧
  (∀ s e op ty sd f, (takeCmd s e op ty sd f).lat = engineLatches (curTask s).lat e ∧
    (takeCmd s e op ty sd f).st = .queued ∧ (takeCmd s e op ty sd f).task = curSlot s)

/-- trig.cube, trig.nib and trig.lnk: a snapshot that breaks the conditions is a fault of its own code, a unit that refuses it
lets the queue stall, and one that takes it holds the snapshot of the task's latches after those it held (R138, R143, R144,
R162, R342, R343, R390). -/
def Obligations.UnitTriggers : Prop :=
  (∀ o s c, Ready (.trigCube o) s → c = takeSnap s o.vd → c.toReg = false →
    (∀ code, snapFault s c = some code → exec (.trigCube o) s = .next (preciseFault s code)) ∧
    (snapFault s c = none → cubeRefuses (tileOf s (curTile s)) c = true →
      exec (.trigCube o) s = .next (noteStall s 8)) ∧
    (snapFault s c = none → cubeRefuses (tileOf s (curTile s)) c = false →
      exec (.trigCube o) s = .next (advance
        (acceptCube s (curTile s) (curSlot s) c none (curEntry s) s.cur.addr)))) ∧
  (∀ o s c, Ready (.trigCube o) s → c = takeSnap s o.vd → c.toReg = true → snapFault s c = none →
    cubeRefuses (tileOf s (curTile s)) c = false → isEmpty (gateTask s) (.v o.vd) = false →
    isPending (gateTask s) (.v o.vd) = false →
    exec (.trigCube o) s = .next (advance (acceptCube
      (startLong s (.v o.vd) 8 (tileOf s (curTile s)).cubeSeq) (curTile s) (curSlot s) c none (curEntry s) s.cur.addr))) ∧
  (∀ s t k c x n a, ((tileOf (acceptCube s t k c x n a) t).cubeOps.map fun o => (o.snap, o.st, o.task)) =
    ((tileOf s t).cubeOps.map fun o => (o.snap, o.st, o.task)) ++ [(c, .accepted, k)]) ∧
  (∀ o s l, Ready (.trigNib o) s → (l = (curTask s).lat.filter fun e => 0x140 ≤ e.1 && e.1 < 0x180) →
    ((latchBad 0x142 (latchIn l 0x142) = true ∨ nibK l = 0 ∨ (nibX l).toNat % 64 ≠ 0) →
      exec (.trigNib o) s = .next (preciseFault s 0x12)) ∧
    (¬(latchBad 0x142 (latchIn l 0x142) = true ∨ nibK l = 0 ∨ (nibX l).toNat % 64 ≠ 0) →
      (nibFmtOk (curTask s).fmt = false → exec (.trigNib o) s = .next (preciseFault s 0x10)) ∧
      (nibFmtOk (curTask s).fmt = true → nibFree (tileOf s (curTile s)) = none →
        exec (.trigNib o) s = .next (noteStall s 9)) ∧
      (nibFmtOk (curTask s).fmt = true → ∀ id, nibFree (tileOf s (curTile s)) = some id →
        ∃ t, exec (.trigNib o) s = .next (advance t) ∧
          ((tileOf t (curTile s)).nib.map fun r => (r.id, r.lat, r.fmt, r.vd, r.task)) =
            ((tileOf s (curTile s)).nib.map fun r => (r.id, r.lat, r.fmt, r.vd, r.task)) ++
              [(id, l, (curTask s).fmt, o.vd, curSlot s)]))) ∧
  (∀ s l, Ready .trigLnk s → (l = (curTask s).lat.filter fun e => 0x180 ≤ e.1) →
    (lnkBad s l = true → exec .trigLnk s = .next (preciseFault s 0x30)) ∧
    (lnkBad s l = false → 16 ≤ (tileOf s (curTile s)).lnk.length → exec .trigLnk s = .next (noteStall s 10)) ∧
    (lnkBad s l = false → (tileOf s (curTile s)).lnk.length < 16 → ∃ t, exec .trigLnk s = .next (advance t) ∧
      ((tileOf t (curTile s)).lnk.map fun c => (c.n, c.lat, c.task)) =
        ((tileOf s (curTile s)).lnk.map fun c => (c.n, c.lat, c.task)) ++
          [((tileOf s (curTile s)).lnkSeq, l, curSlot s)]))

/-! ### C words -/

/-- nop has no effect; halt lets the task retire once no long-latency result is outstanding, and stops the bellows core; rdts
reads the timestamp at 2 hc; setfmt writes fmt at 4 hc, and a reserved value is fault 0x01; ksync empties the code buffer; trap
is fault 0x05 on a tile, with its code beside it, and an interrupt of class 1 on the bellows core. ewait issues at once where its unit has no open work of the task slot, and otherwise parks the task until the work it
found ends, beside that of another ewait of its bundle; wmwait issues at once where the channel is idle or has reached x[23:0], and otherwise parks the task (R28, R66, R91, R108 to R110, R158, R195,
R196, R280). -/
def Obligations.ControlAndWaitWords : Prop :=
  (∀ s, Ready .nop s → exec .nop s = .next (advance s)) ∧
  (∀ s t k, Ready .halt s → s.cur.core = .tile t k → ∃ s', exec .halt s = .next (advance s') ∧
    s' = (if (taskOf s t k).outst = [] then
      scheduleOnce (updTask s t k fun x => { x with halting := true }) s.hc (.taskRetire t k)
      else updTask s t k fun x => { x with halting := true })) ∧
  (∀ s, Ready .halt s → s.cur.core = .bellows →
    exec .halt s = .next (advance { s with bellows := { s.bellows with st := .halted } })) ∧
  (∀ o s, Ready (.rdts o) s → exec (.rdts o) s = .next (advance (writeLaterS s o.sd (BitVec.ofNat 64 s.ts) 2))) ∧
  (∀ o s, Ready (.setfmt o) s → fmtReserved o.imm = false →
    exec (.setfmt o) s = .next (advance (writeLater s .fmt (o.imm.setWidth 4096) 4))) ∧
  (∀ o s, Ready (.setfmt o) s → fmtReserved o.imm = true → exec (.setfmt o) s = .next (preciseFault s 0x01)) ∧
  (∀ s t k, Ready .ksync s → s.cur.core = .tile t k → ∃ s', exec .ksync s = .next (advance s') ∧
    (tileOf s' t).codeBuf = [] ∧ (∀ x ∈ (tileOf s' t).halves, x.2.stale = true ∨ (x.2.v = false ∧ x.2.entries = []))) ∧
  (∀ o s t k c, Ready (.trap o) s → s.cur.core = .tile t k → (tileOf s t).ctx = some c → (ctxOf s c).st = .running →
    ∃ s' x, exec (.trap o) s = .next s' ∧ x = ctxOf s' c ∧ x.st = .halting ∧ x.faulted = true ∧ x.code = 0x05 ∧ x.trap = o.imm ∧
    x.src = unitId t k ∧ x.addr = s.cur.addr ∧ x.prec = true ∧ x.haltTiles = ctxTiles s c) ∧
  (∀ o s, Ready (.trap o) s → onBellows s = true →
    exec (.trap o) s = .next (advance (bellowsEnter s 0x01 o.imm.toNat (curSuccessor s)))) ∧
  (∀ o s w, Ready (.ewait o) s →
    w = openWork s (curTile s) (curSlot s) o.unit.toNat (latchIn (curTask s).lat 0x108).toNat →
    (w = [] → exec (.ewait o) s = .next (advance s)) ∧
    (w ≠ [] → ∃ t, t = advance (updCur s fun x => { x with ewait := if x.wait.onEngine then x.ewait ++ w else w }) ∧
      exec (.ewait o) s = .next (parkTask t t.cur.core (.engine o.unit.toNat)))) ∧
  (∀ o s c, Ready (.wmwait o) s → c = tget ({} : Watermark) (tileOf s (curTile s)).wm o.wm.toNat →
    ((c.armed = false ∨ (srcS s o.sa).toNat % 2 ^ 24 ≤ c.wm) → exec (.wmwait o) s = .next (advance s)) ∧
    (c.armed = true → c.wm < (srcS s o.sa).toNat % 2 ^ 24 →
      exec (.wmwait o) s = .next (parkTask (advance s) s.cur.core (.watermark o.wm.toNat ((srcS s o.sa).toNat % 2 ^ 24)))))

/-- rdsr of a register that the core may read writes its value to sd at 2 hc; wrsr of one that it may name writes it at 2 hc;
any other number is fault 0x01 (R66, R109). -/
def Obligations.SystemRegisterWords : Prop :=
  (∀ o s v t, Ready (.rdsr o) s → readSr s o.num.toNat = some (v, t) →
    exec (.rdsr o) s = .next (advance (writeLaterS t o.sd v 2))) ∧
  (∀ o s, Ready (.rdsr o) s → readSr s o.num.toNat = none → exec (.rdsr o) s = .next (preciseFault s 0x01)) ∧
  (∀ o s n, Ready (.wrsr o) s → effectiveSr s o.num.toNat = some n →
    exec (.wrsr o) s = .next (advance (storeLater s (.sr (taggedSr s o.num.toNat) (srcS s o.sa)) 2))) ∧
  (∀ o s, Ready (.wrsr o) s → effectiveSr s o.num.toNat = none → exec (.wrsr o) s = .next (preciseFault s 0x01))

/-- step, bar and rdv let the member arrive with its tag and park the task; a scope or reserved bits of bar that R244 forbids
are fault 0x01. An arrival at an idle instance begins it with the tag, one with the same tag joins it, and one with another
tag is fault 0x41 in the context. probe marks sd empty and begins a walk (R239, R244 to R246, R250). -/
def Obligations.BarrierWords : Prop :=
  (∀ i s b tag, Ready i s →
    ((i = .step ∧ b = .step ∧ tag = 0) ∨ (∃ o, i = .rdv o ∧ b = .rdv ∧ tag = o.imm.toNat) ∨
     (∃ o, i = .bar o ∧ o.imm.toNat / 2 ^ 8 < 3 ∧ b = barId s o.imm ∧ tag = o.imm.toNat % 2 ^ 8)) →
    ∃ t, t = advance (arrive s b tag) ∧ exec i s = .next (parkTask t t.cur.core (.barrier b))) ∧
  (∀ o s, Ready (.bar o) s → 3 ≤ o.imm.toNat / 2 ^ 8 → exec (.bar o) s = .next (preciseFault s 0x01)) ∧
  (∀ s b tag gid g, (curTask s).gid = some gid → groupOf s gid = some g →
    ((g.bar b).st ≠ .idle → (g.bar b).tag ≠ tag →
      arrive s b tag = raiseFault s g.ctx 0x41 (unitId (curTile s) (curSlot s)) s.cur.addr false) ∧
    ((g.bar b).st = .idle ∨ (g.bar b).tag = tag →
      arrive s b tag = checkGather (updGroup s gid fun h =>
        { h.setBar b { g.bar b with
            st := if (g.bar b).st = .idle then .gathering else (g.bar b).st, tag := tag,
            arrived := (curTask s).rank :: (g.bar b).arrived } with
          st := if b = .step then h.st.atStep else h.st }) gid b)) ∧
  (∀ o s n, Ready (.probe o) s → n = (curTask s).gaccNext → ∃ t, exec (.probe o) s = .next (advance
      (schedule t s.hc (.probeWalkEnd (curTile s) (curSlot s) n))) ∧
    t = updCur (startLong s (.s o.sd) 14 n) fun x => { x with
      gaccNext := n + 1,
      probes := x.probes ++ [⟨n, o.sd, (srcS s o.sa).toNat % 2 ^ 16, (srcS s o.sa).toNat % 2 ^ 16, 0⟩] })

/-- The region words: bits above [31:0] or a region that the table does not have are fault 0x38; a full unit, or one that has a
request of the kind for the region, lets the queue stall; otherwise the request joins the unit's. pfh places a hint, or drops
and counts one that is malformed, late or one too many (R207, R225, R226). -/
def Obligations.RegionWords : Prop :=
  (∀ i s op x ts, Ready i s →
    ((∃ o, i = .seal o ∧ op = .seal ∧ x = srcS s o.sa ∧ ts = 0) ∨ (∃ o, i = .unseal o ∧ op = .unseal ∧ x = srcS s o.sa ∧ ts = 0) ∨
     (∃ o, i = .pub o ∧ op = .pub ∧ x = srcS s o.sa ∧ ts = 0) ∨
     (∃ o, i = .wswap o ∧ op = .wswap ∧ x = srcS s o.sa ∧ ts = srcS s o.sb)) →
    ((2 ^ 32 ≤ x.toNat ∨ (tileOf s (curTile s)).rgtlen.toNat ≤ x.toNat) → exec i s = .next (preciseFault s 0x38)) ∧
    (x.toNat < 2 ^ 32 → x.toNat < (tileOf s (curTile s)).rgtlen.toNat →
      (regionRefuses s (curCtx s) op (descAddr (tileOf s (curTile s)).rgtbase x.toNat) = true → exec i s = .next (noteStall s 13)) ∧
      (regionRefuses s (curCtx s) op (descAddr (tileOf s (curTile s)).rgtbase x.toNat) = false → ∃ t r, exec i s = .next (advance t) ∧
        (ctxOf t (curCtx s)).regs = (ctxOf s (curCtx s)).regs ++ [r] ∧
        r.op = op ∧ r.region = x.toNat ∧ r.ts = ts ∧ r.tile = curTile s ∧ r.task = curSlot s))) ∧
  (∀ o s, Ready (.pfh o) s →
    ((srcS s o.sa).toNat / 2 ^ 41 ≠ 0 ∨ 8 ≤ (tileOf s (curTile s)).hints.length ∨ (srcS s o.sb).toNat < s.ts →
      exec (.pfh o) s = .next (advance (updTile s (curTile s) fun x => { x with pfhDrop := x.pfhDrop + 1 }))) ∧
    ((srcS s o.sa).toNat / 2 ^ 41 = 0 → (tileOf s (curTile s)).hints.length < 8 → s.ts ≤ (srcS s o.sb).toNat →
      ∃ t h, exec (.pfh o) s = .next (advance t) ∧
        (tileOf t (curTile s)).hints = (tileOf s (curTile s)).hints ++ [h] ∧
        (tileOf t (curTile s)).pfhAcc = (tileOf s (curTile s)).pfhAcc + 1 ∧
        h.handle = (srcS s o.sa).setWidth 32 ∧ h.victim = (srcS s o.sa).toNat / 2 ^ 32 % 512 ∧ h.deadline = srcS s o.sb))

/-! ### The core's own events -/

/-- FIXED_LATENCY_WRITE on a tile writes, in order, the results of the task slot whose hc has come and keeps the others, and
lets the slot's stores whose hc has come become visible in the order of their issue; on the bellows core likewise. A floor or well
store whose hc has come writes its bytes and no other, where no engine's access meets it in that hc; its slot's other stores stay.
PENDING_WRITE_APPLY writes the due results of a running task. Neither changes another task slot's registers when it has no
store to land (R66 to R68). -/
def Obligations.ResultsAndStores : Prop :=
  (∀ s t k, t ≠ 64 → ∃ s', exec (.fixedLatencyWrite t k) s = .next s' ∧
    ((∀ p ∈ (tileOf s t).stores, p.task = k → s.hc < p.due) → (taskOf s t k).st ≠ .stopped →
      taskOf s' t k = writeDue s.hc (taskOf s t k) ∧
      (∀ t' k', (t', k') ≠ (t, k) → taskOf s' t' k' = taskOf s t' k') ∧ SameMemory s s')) ∧
  (∀ s t k p, t ≠ 64 → (tileOf s t).stores.filter (fun q => q.task == k && decide (q.due ≤ s.hc)) = [p] →
    ∃ s', exec (.fixedLatencyWrite t k) s = .next s' ∧
      (tileOf s' t).stores = (tileOf s t).stores.filter (fun q => !(q.task == k && decide (q.due ≤ s.hc))) ∧
      (∀ a bs, p.kind = .floor (addrBytes a bs) → (tileOf s t).raceHc ≠ s.hc → (tileOf s t).floor.wf = true →
        mbytes (tileOf s' t).floor a bs.length = bs ∧
        (∀ b, b < a ∨ a + bs.length ≤ b → mread (tileOf s' t).floor b = mread (tileOf s t).floor b) ∧
        (tileOf s' t).wells = (tileOf s t).wells) ∧
      (∀ a bs, p.kind = .well (addrBytes a bs) → (tileOf s t).wells.wf = true →
        mbytes (tileOf s' t).wells a bs.length = bs ∧
        (∀ b, b < a ∨ a + bs.length ≤ b → mread (tileOf s' t).wells b = mread (tileOf s t).wells b) ∧
        (tileOf s' t).floor = (tileOf s t).floor) ∧
      ∀ bs, p.kind = .lanes bs → (tileOf s t).raceHc ≠ s.hc → (tileOf s' t).floor = mwriteAll (tileOf s t).floor bs) ∧
  (∀ hc x, (writeDue hc x).pend = x.pend.filter fun w => decide (hc < w.due)) ∧
  (∀ hc x w y, x.pend = [w] → w.due ≤ hc → y = writeDue hc x →
    y = { writeDest x w.dest w.val with pend := [], recent := y.recent } ∧
    ∀ r, w.dest.reg = some r → tget [] y.recent (Reg.key r) = (w.pos, regValue x r) :: tget [] x.recent (Reg.key r)) ∧
  (∀ hc x n v w ws, n ≠ 0 → x.pend = ws → ws = [v, w] ∨ ws = [w, v] → v.dest = .s n → w.dest = .s n → w.due ≤ hc →
    v.due < w.due ∨ (v.due = w.due ∧ v.order < w.order) → readS (writeDue hc x) n = w.val.setWidth 64) ∧
  (∀ s, ∃ s', exec (.fixedLatencyWrite 64 0) s = .next (rearmWrite s' 64 0) ∧ s' = bellowsWrites s) ∧
  (∀ s t k, (taskOf s t k).st.occupied = true → (taskOf s t k).st ≠ .stopped →
    ∃ s', exec (.pendingWriteApply t k) s = .next s' ∧ taskOf s' t k = writeDue s.hc (taskOf s t k) ∧
      (∀ t' k', (t', k') ≠ (t, k) → taskOf s' t' k' = taskOf s t' k') ∧ SameMemory s s')

/-- The events by which a core's tasks go on, each on its normal path, by the fields it leaves. Of the ready tasks the one that
became ready earliest, the lower slot on a tie, becomes the issuing one and issues 2 hc later. A sync bundle at which every queue
stands, with every result written and every store visible, opens: the queues without a word in it pass it; the first bundle of a
rewindable segment, with no long-latency result outstanding, leaves the snapshot too. At the end of the innermost loop's body the
next iteration begins, or the level ends, or with a pre-emption requested its drain begins; a drained task is held, its level armed
to go on where it stopped. A halted task with nothing outstanding retires, and its group counts it; a group that retires is looked
at again while operations of it are under way. An expansion adds one bundle to its half; a miss abandons it for the segment that
contains the target, or leaves a bundle that faults where no segment contains it. A task whose bundle no half holds any longer
waits for it. A word that
decodes to nothing halts its context with fault 0x01 at its bundle (R73, R79, R92, R101, R105, R106, R108, R273, R302, R310; that
these are steps of their own is the model's, log 3). -/
def Obligations.CoreEvents : Prop :=
  (∀ s t k, (tileOf s t).issuing = none → k < 4 → (taskOf s t k).st = .ready →
    (∀ j < 4, (taskOf s t j).st = .ready → (taskOf s t k).readyAt < (taskOf s t j).readyAt ∨
      (taskOf s t k).readyAt = (taskOf s t j).readyAt ∧ k ≤ j) →
    ∃ s', exec (.issueSelection t) s = .next s' ∧ (tileOf s' t).issuing = some k ∧
      taskOf s' t k = { taskOf s t k with
        st := .issuing, issueFrom := max (tileOf s t).freedAt (taskOf s t k).readyAt + 2, needs := lostBundle s t k } ∧
      (∀ t' k', (t', k') ≠ (t, k) → taskOf s' t' k' = taskOf s t' k') ∧ SameMemory s s') ∧
  (∀ s t k b x, x = taskOf s t k → x.st = .issuing → (∀ p : Pos, tget 0 x.qpos p.idx = b.n) → bundleAt x b.n = some b →
    b.isSync = true → b.fault = none → x.syncOpen ≠ some b.n → x.preq = false → x.pend = [] →
    (∀ p ∈ (tileOf s t).stores, p.task ≠ k) →
    ((b.enters && b.rw) = false → ∃ s' y, exec (.syncBundleIssue t k) s = .next s' ∧ y = taskOf s' t k ∧
      y.syncOpen = some b.n ∧ y.recent = [] ∧ SameRegs x y ∧ SameMemory s s' ∧
      (∀ p : Pos, tget 0 y.qpos p.idx = if (slotAt b.slots p).isSome then b.n else b.n + 1)) ∧
    ((b.enters && b.rw) = true → x.outst = [] → ∃ s' y, exec (.rewindSnapshot t k) s = .next s' ∧ y = taskOf s' t k ∧
      y.syncOpen = some b.n ∧ SameRegs x y ∧ SameMemory s s' ∧
      y.snap = some { sreg := x.sreg, vreg := x.vreg, preg := x.preg, fmt := x.fmt, emptyS := x.emptyS, emptyV := x.emptyV,
                      loops := b.loops, addr := b.addr, seg := b.seg, entry := b.entry })) ∧
  (∀ s t k l x y, t < 64 → x = taskOf s t k → x.flow.hold = .iterEnd → l < 6 → y = loopIn x.loops l → y.act = true →
    (∀ j < 6, l < j → (loopIn x.loops j).act = false) →
    (x.preq = false → (y.idx + 1).toNat < min y.cnt.toNat y.lim.toNat + y.dm1 → ∃ s' z,
      exec (.loopIterationEnd t k) s = .next s' ∧ z = taskOf s' t k ∧ loopIn z.loops l = { y with idx := y.idx + 1 } ∧
      z.flow.next = y.bodyAddr ∧ z.flow.hold = .run ∧ (∀ j, j ≠ l → loopIn z.loops j = loopIn x.loops j) ∧
      SameRegs x z ∧ SameMemory s s') ∧
    (x.preq = false → min y.cnt.toNat y.lim.toNat + y.dm1 ≤ (y.idx + 1).toNat → y.cnt.toNat ≤ y.lim.toNat →
      (∀ j < l, (loopIn x.loops j).act = false) → ∃ s' z,
      exec (.loopIterationEnd t k) s = .next s' ∧ z = taskOf s' t k ∧ (loopIn z.loops l).act = false ∧
      z.flow.hold = .run ∧ z.flow.next = x.flow.next ∧ SameRegs x z ∧ SameMemory s s') ∧
    (x.preq = true → y.drn = false → y.dm1 = 0 → (y.idx + 1).toNat < y.cnt.toNat → ∃ s' z,
      exec (.loopIterationEnd t k) s = .next s' ∧ z = taskOf s' t k ∧ z.flow.hold = .drain ∧
      loopIn z.loops l = { y with idx := y.idx + 1, lim := y.idx + 1, drn := true } ∧ SameRegs x z ∧ SameMemory s s')) ∧
  (∀ s t k l x y, x = taskOf s t k → x.flow.hold = .drain → x.st = .issuing → x.preq = true → drained x = true → l < 6 →
    y = loopIn x.loops l → y.act = true → (∀ j < 6, l < j → (loopIn x.loops j).act = false) → ∃ s' z,
      exec (.preemptDrainHold t k) s = .next s' ∧ z = taskOf s' t k ∧ z.st = .held ∧ (tileOf s' t).issuing = none ∧
      loopIn z.loops l = { y with beg := y.lim, idx := y.lim, lim := BitVec.allOnes 64, drn := false } ∧
      z.flow.next = y.bodyAddr ∧ z.flow.hold = .run ∧ SameRegs x z ∧ SameMemory s s') ∧
  (∀ s t k x, x = taskOf s t k → x.st = .issuing → (tileOf s t).issuing = some k → x.halting = true → x.outst = [] →
    ∃ s' z, exec (.taskRetire t k) s = .next s' ∧ z = taskOf s' t k ∧ z.st = .retired ∧ z.loops = [] ∧
      (tileOf s' t).issuing = none ∧ SameRegs x z ∧ SameMemory s s' ∧
      ∀ gid g, x.gid = some gid → groupOf s gid = some g → ∃ g', groupOf s' gid = some g' ∧ x.rank ∈ g'.retiredRanks) ∧
  (∀ s t k x g, x = taskOf s t k → x.st = .retired → retiringAt s t k = some g → groupBusy s g = true →
    ∃ s', exec (.taskRetire t k) s = .next s' ∧ s'.groups = s.groups ∧ s'.tiles = s.tiles ∧ SameMemory s s' ∧
      ∃ p ∈ s'.events, p.ev = .taskRetire t k ∧ p.due ≤ s.hc + 1) ∧
  (∀ s t h e r c x, t ≤ 64 → c = nameCore t 0 → x = halfOf s c h → x.v = true → x.cut = false → x.todo = e :: r →
    ∃ s', exec (.prefetchExpansion t h) s = .next s' ∧ SameMemory s s' ∧
      (r ≠ [] → (∃ p ∈ s'.events, p.ev = .prefetchExpansion t h ∧ p.due ≤ s.hc + 1) ∧
        halfOf s' c h = { x with entries := x.entries ++ [e], todo := r }) ∧
      (r = [] → h = coreExec s c → halfOf s' c h = { x with entries := x.entries ++ [e], todo := [] }) ∧
      (r = [] → t < 64 → coreExec s c = 1 - h → (∀ k < 4, (taskOf s t k).st ≠ .bound) → ∀ y, y = halfOf s c (1 - h) →
        x.holdsSeg y.ctx y.kimg y.next.toNat = true →
        halfOf s' c h = { x with entries := x.entries ++ [e], todo := [] })) ∧
  (∀ s t k va, t < 64 → look s (.tile t k) va = .miss →
    (∀ h, findSegment s (.tile t k) (taskOf s t k).kimg.toNat va.toNat = some h → ∃ s',
      exec (.bufferMiss t k va) s = .next s' ∧
      halfOf s' (.tile t 0) (1 - (tileOf s t).exec) = loadSegment s (.tile t k) (taskOf s t k).kimg h ∧
      (∃ p ∈ s'.events, p.ev = .prefetchExpansion t (1 - (tileOf s t).exec)) ∧ SameMemory s s') ∧
    (findSegment s (.tile t k) (taskOf s t k).kimg.toNat va.toNat = none → (taskOf s t k).needs ≠ some va → ∃ s' b,
      exec (.bufferMiss t k va) s = .next s' ∧ (taskOf s' t k).stream = (taskOf s t k).stream ++ [b] ∧ b.addr = va ∧
      b.fault = some .kernel ∧ (taskOf s' t k).flow.hold = .halted ∧ SameMemory s s') ∧
    (findSegment s (.tile t k) (taskOf s t k).kimg.toNat va.toNat = none → (taskOf s t k).needs = some va → ∃ s',
      exec (.bufferMiss t k va) s = .next s' ∧ (taskOf s' t k).needs = none ∧
      (taskOf s' t k).stream =
        ((taskOf s t k).stream.map fun b => if b.addr = va then { b with fault := some .kernel } else b) ∧ SameMemory s s')) ∧
  (∀ s t k c, s.cur.core = .tile t k → (tileOf s t).ctx = some c → (ctxOf s c).st = .running → ∃ s',
    exec .illegalInstructionWord s = .next s' ∧ (ctxOf s' c).st = .halting ∧ (ctxOf s' c).code = 0x01 ∧
    (ctxOf s' c).src = t + 64 * k ∧ (ctxOf s' c).addr = s.cur.addr ∧ (ctxOf s' c).prec = true ∧
    s'.tiles = s.tiles ∧ s'.hbm = s.hbm)

/-! ### Cube operations -/

/-- The events of a cube operation, each on its normal path, by the fields it leaves. A resolving operation whose chunks are all
valid begins to stage: its operands as the slots hold them, its end after the hc that its bytes take on the flues. A fill ends with
the chunk's bytes in its slot, valid under its tag. The end of staging writes the well halves, and the operation is staged; once its
layers are free it runs for its steps, and the next pass of a grouped one is accepted; each hc takes a step or, where the hold line
is asserted, counts as held; after the last step a plane operation awaits the drain, an accumulate one rises first. A replayed beat
adds two held hc, and one that fails, or the 65th of its flue in 1 ms, retires the flue. An awaiting operation whose turn it is drains to the slots that its destination chunks have; the last hc of the
drain writes the floor slots and the row of vd, sets the done bits of the layers that no later operation uses, and the operation is
gone, at once or when the slots that it claimed have taken their tags (R144, R146, R147, R149 to R156, R369; that these are steps of their own is the model's, log 3). -/
def Obligations.CubeEvents : Prop :=
  (∀ s t n o, opOf s t n = some o → o.st = .resolving → (∀ u ∈ o.chunks, u.tag = 0) → chunksHeld s t o = false →
    stagesBefore s t o = false → (tileOf s t).stageFree ≤ s.hc → (tileOf s t).fluert = 0 → ∃ s' o',
    exec (.cubeResolution t n) s = .next s' ∧ opOf s' t n = some o' ∧ o'.st = .staging ∧
    o'.aBytes = gather (tileOf s t) o.chunks 0 ∧ o'.bBytes = gather (tileOf s t) o.chunks 1 ∧
    o'.addBytes = gather (tileOf s t) o.chunks 2 ∧ o'.halves = o.layers.map (freeHalf (tileOf s t) o) ∧
    o'.stepsLeft = s.hc + ((List.range o.layers.length).map fun i => ceilDiv (stageBytes o' i).length 2048).sum ∧
    (tileOf s' t).stageFree = o'.stepsLeft ∧ o'.out = (List.range o.layers.length).flatMap (stageBytes o') ∧
    (∃ p ∈ s'.events, p.ev = .cubeStagingEnd t n ∧ p.due = o'.stepsLeft) ∧ SameMemory s s') ∧
  (∀ s t n c o u bs, opOf s t n = some o → o.st = .resolving → o.chunks[c]? = some u → u.own = true → u.tag ≠ 0 →
    (∀ i v, o.chunks[i]? = some v → i ≠ c → v.tag = 0) → fillBefore (tileOf s t) n c = false →
    fillHeld (tileOf s t) u.slot u.tag = false → storesAt (tileOf s t) o u.slot = false → (tileOf s t).raceHc ≠ s.hc →
    ∀ s1, ensureUnit s t o.task (tileCtx s t) (chunkFirst (o.desc u.operand) u.chunk) false = (true, s1) →
    chunkBytes s1 (tileCtx s1 t) (o.desc u.operand) u.chunk = .ok bs → holders (tileOf s t).tags u.slot u.tag = [] →
    isShared (tileOf s t) (u.slot * 16384) = false → ∃ s' e, exec (.cubeChunkFillEnd t n c) s = .next s' ∧
    (tileOf s' t).floor = mwriteAll (tileOf s t).floor (addrBytes (16384 * u.slot) bs) ∧
    e = tget ({} : TagEntry) (tileOf s' t).tags u.slot ∧ e.st = .valid ∧ e.tag = u.tag) ∧
  (∀ s t n o, opOf s t n = some o → o.st = .staging → o.holdLeft = 0 → o.stepsLeft ≤ s.hc →
    (∀ l ∈ o.layers, pathLost s t 0 (dieOf s l) = false) → ∃ s', exec (.cubeStagingEnd t n) s = .next s' ∧
    opOf s' t n = some { o with st := .staged, out := [] } ∧
    (tileOf s' t).wells = mwriteAll (tileOf s t).wells o.out ∧ (tileOf s' t).floor = (tileOf s t).floor ∧
    (∃ p ∈ s'.events, p.ev = .cubeRunStart t n ∧ p.due = s.hc)) ∧
  (∀ s t n o, opOf s t n = some o → o.st = .staged → mayRun (tileOf s t) o = true → wellsHeld (tileOf s t) o = false →
    ∃ s' o', exec (.cubeRunStart t n) s = .next s' ∧ opOf s' t n = some o' ∧ o'.st = .running ∧ o'.stepsLeft = o.ck + 254 ∧
    (o.dA.layout ≠ 1 → o'.aBytes = o.aBytes) ∧ (o.dB.layout ≠ 1 → o'.bBytes = o.bBytes) ∧ o'.halves = o.halves ∧
    (tileOf s' t).cubeOps.length = (tileOf s t).cubeOps.length + (if o.pass + 1 < o.passes then 1 else 0) ∧ SameMemory s s') ∧
  (∀ s t n o, opOf s t n = some o → o.st = .running → o.stepsLeft ≠ 0 →
    (runHeld s t o = false → ∃ s', exec (.cubeRunEnd t n) s = .next s' ∧
      opOf s' t n = some { o with stepsLeft := o.stepsLeft - 1 } ∧ (tileOf s' t).held = (tileOf s t).held ∧
      (∃ p ∈ s'.events, p.ev = .cubeRunEnd t n ∧ p.due = s.hc + 1) ∧ SameMemory s s') ∧
    (runHeld s t o = true → (∀ p ∈ (tileOf s t).cubeOps, p.heldHc ≠ s.hc + 1) → ∃ s' o',
      exec (.cubeRunEnd t n) s = .next s' ∧ opOf s' t n = some o' ∧ o'.st = .running ∧ o'.stepsLeft = o.stepsLeft ∧
      (tileOf s' t).held = (tileOf s t).held + 1 ∧
      (∃ p ∈ s'.events, p.ev = .cubeRunEnd t n ∧ p.due = s.hc + 1) ∧ SameMemory s s')) ∧
  (∀ s t n o, opOf s t n = some o → o.st = .running → o.stepsLeft = 0 →
    (o.snap.plane = true → ∃ s', exec (.cubeRunEnd t n) s = .next s' ∧
      opOf s' t n = some { o with st := .awaiting, readyAt := s.hc } ∧ SameMemory s s') ∧
    (o.snap.plane = false → ∃ s' o', exec (.cubeRunEnd t n) s = .next s' ∧ opOf s' t n = some o' ∧ o'.st = .rising ∧
      (o.layers.length ≤ 1 → o'.stepsLeft = 0) ∧ SameMemory s s')) ∧
  (∀ s t n o, opOf s t n = some o → o.st = .rising → (tileOf s t).fluert = 0 →
    (o.stepsLeft = 0 → ∃ s', exec (.cubeRiseEnd t n) s = .next s' ∧
      opOf s' t n = some { o with st := .awaiting, readyAt := s.hc } ∧
      (∃ p ∈ s'.events, p.ev = .cubeDrainStart t n ∧ p.due = s.hc)) ∧
    (o.stepsLeft ≠ 0 → o.holdLeft = 0 → ∃ s', exec (.cubeRiseEnd t n) s = .next s' ∧
      opOf s' t n = some { o with stepsLeft := o.stepsLeft - 1 } ∧
      (∃ p ∈ s'.events, p.ev = .cubeRiseEnd t n ∧ p.due = s.hc + 1))) ∧
  (∀ s t r o, opOf s t r.op = some o → (o.st = .staging ∨ o.st = .running ∨ o.st = .rising ∨ o.st = .draining) → ∃ s',
    exec (.flueBeatReplay t r) s = .next s' ∧ opOf s' t r.op = some { o with holdLeft := o.holdLeft + 2 } ∧ SameMemory s s' ∧
    (flueLive s t r.boundary r.flue = true → r.boundary ≠ 0 →
      (r.fails = true ∨ 64 ≤ ((tget [] (tileOf s t).replays (4 * r.boundary + r.flue)).filter
        fun h => decide (s.hc < h + 700000)).length) → (tileOf s' t).fluert.getLsbD (4 * r.boundary + r.flue) = true)) ∧
  (∀ s t n o, opOf s t n = some o → o.st = .awaiting → drainTurn (tileOf s t) o = true → o.poison = false →
    (tileOf s t).fluert = 0 → (∀ c ∈ o.dstChunks o.dDst.d0, ∃ v e, findTag (tileOf s t) (chunkTag o 3 c) = some (v, e) ∧
      e.st ≠ .filling) → ∃ s' o', exec (.cubeDrainStart t n) s = .next s' ∧ opOf s' t n = some o' ∧ o'.st = .draining ∧
    o'.stepsLeft = 32 ∧ o'.dstSlots.map (·.1) = o.dstChunks o.dDst.d0 ∧
    (∀ c v, (c, v) ∈ o'.dstSlots → ∃ e, findTag (tileOf s t) (chunkTag o 3 c) = some (v, e)) ∧
    o'.out = drainOut (tileOf s t) { o with dstSlots := o'.dstSlots } ∧
    (∃ p ∈ s'.events, p.ev = .cubeDrainEnd t n ∧ p.due = s.hc + 1) ∧ SameMemory s s') ∧
  (∀ s t n o, opOf s t n = some o → o.st = .draining → o.holdLeft = 0 → (o.out = [] ∨ copyLandsAt s t = false) →
    (1 < o.stepsLeft → ∃ s', exec (.cubeDrainEnd t n) s = .next s' ∧
      opOf s' t n = some { o with stepsLeft := o.stepsLeft - 1 } ∧
      (∃ p ∈ s'.events, p.ev = .cubeDrainEnd t n ∧ p.due = s.hc + 1) ∧ SameMemory s s') ∧
    (o.stepsLeft ≤ 1 → drainHeld (tileOf s t) o = false → (tileOf s t).fluert = 0 → (tileOf s t).raceHc ≠ s.hc →
      o.mismatch (tileOf s t).chktol = none → claimedDst (tileOf s t) o = [] → ∃ s',
      exec (.cubeDrainEnd t n) s = .next s' ∧ opOf s' t n = none ∧
      (tileOf s' t).floor = mwriteAll (tileOf s t).floor
        ((drainBytes (tileOf s t).floor o o.dstSlots).filter fun c => o.out.any fun d => d.1 == c.1) ∧
      (o.marks = true → o.snap.drow / 128 = o.pass → readV (taskOf s' t o.task) o.snap.vd = drainRow o ∧
        isEmpty (taskOf s' t o.task) (.v o.snap.vd) = false) ∧
      (o.pass + 1 = o.passes → ∀ l < 8, (tileOf s' t).cubeDone.getLsbD l = ((tileOf s t).cubeDone.getLsbD l ||
        (o.layers.contains l && !(tileOf s t).cubeOps.any fun p => decide (o.trig < p.trig) && p.layers.contains l))))) ∧
  (∀ s t n o, opOf s t n = some o → o.st = .complete →
    (∀ sl ∈ claimedDst (tileOf s t) o, tagWait (tileOf s t) sl.2 (chunkTag o 3 sl.1) = none) → ∃ s',
    exec (.cubeDrainEnd t n) s = .next s' ∧ opOf s' t n = none ∧ SameMemory s s')

/-! ### Nib requests, copy commands, hints -/

/-- The events of a nib request, of a copy command and of a prefetch hint, each on its normal path, by the fields it leaves. A
request whose x can be read and whose descriptors pass the checks is resolved, with both; then its rows are read and the product
vector becomes vd, full. A
queued command whose turn it is and whose checks pass starts: its claimed slots are filling, its source slot evicting. A piece of a
plain copy is read, from global memory as the page reads; then it lands in the floor, the wells or the page that it goes to, and
nowhere else, and the command is landing, or completes; an element of an accumulate-on-write lands combined with what stands there.
The oldest command whose last byte has landed ends: its channel is at its limit, its follow-on stands with the engine, and the cube
takes it once it can. A notice marks a command that still reaches some tile, and ends any other. An idle engine takes the oldest
hint and claims a slot for its first missing chunk; a hint whose deadline has passed is dropped and counted (R162 to R164, R182 to
R184, R187, R188, R192, R194, R197, R198, R207, R385; that these are steps of their own is the model's, log 3). -/
def Obligations.EngineEvents : Prop :=
  (∀ s t n r d sc, nibOf s t n = some r → r.resolved = false → (taskOf s t r.task).st ≠ .stopped →
    earlierGlobal s t r.task r.after = false → (tget ({} : BootEntry) s.bootRec 9).st ≠ 4 →
    ∀ s1 x, ensureUnit s t r.task (tileCtx s t) (nibX r.lat) false = (true, s1) → nibDescs s1 t r = .ok (d, sc) →
    nibXRead s1 t r = .ok x → ∃ s', exec (.nibResolution t n) s = .next s' ∧
    nibOf s' t n = some { r with resolved := true, w := d, sc := sc, x := some x } ∧
    (∃ p ∈ s'.events, p.ev = .nibRequestComplete t n ∧ s.hc < p.due) ∧ SameMemory s s') ∧
  (∀ s t r d sc, nibDescs s t r = .ok (d, sc) → fetchDesc s t (nibW r.lat) = .ok d ∧ nibFault r d = none ∧
    (sc.isSome = scaled r.fmt 6 d) ∧ (∀ x, sc = some x → x.kind = 2 ∧ scaleBad d.d0 (nibK r.lat) x = false)) ∧
  (∀ s t n r v, nibOf s t n = some r → r.resolved = true → (taskOf s t r.task).st ≠ .stopped →
    nibBefore (tileOf s t) n = false → nibVector s t r = .ok v → ∃ s', exec (.nibRequestComplete t n) s = .next s' ∧
    nibOf s' t n = none ∧ readV (taskOf s' t r.task) r.vd = v ∧ isEmpty (taskOf s' t r.task) (.v r.vd) = false ∧
    SameMemory s s') ∧
  (∀ s t e c, (tget ({} : CopyEng) (tileOf s t).cpy e).hint = none →
    nextCmd (tget ({} : CopyEng) (tileOf s t).cpy e) = some c → cmdOf s t e c.n = some c →
    (taskOf s t c.task).st ≠ .stopped → earlierGlobal s t c.task c.after = false →
    earlierStores s t c.task c.acceptedAt = false → claimHeld s t c = false → sourceClosed s t c = false →
    (c.dsp = 1 → reachable s t c ≠ []) → startFault s t c = none → ∃ s' c', exec (.copyStart t e) s = .next s' ∧
    cmdOf s' t e c.n = some c' ∧ c'.st = .fetching ∧ c'.landed = c.landed ∧ c'.bytes = c.bytes ∧
    c'.fetched = c.landed + c.bytes.length ∧
    (c.tagm = 1 → c.evict = false → ∀ d ∈ c.dstTiles t, closedTile s d = false →
      (tget ({} : TagEntry) (tileOf s' d).tags (slotOf c.dst.toNat)).st = .filling) ∧
    (c.evict = true → (tget ({} : TagEntry) (tileOf s' t).tags (slotOf c.src.toNat)).st = .evicting) ∧
    (∃ p ∈ s'.events, p.ev = moveEvent t e c ∧ s.hc < p.due) ∧ SameMemory s s') ∧
  (∀ s t e n c, n ≠ 0 → cmdOf s t e n = some c → c.op = 0 → c.sent = false → c.st ≠ .queued → atHead s t e c = true →
    engineWaits s t e n = false → c.bytes = [] → c.fetched < c.total → (c.dsp = 1 → reachable s t c ≠ []) →
    (c.ssp = 1 → sourceClosed s t c = false ∧ floorHeld (tileOf s (c.srcTile t)) (ownEngine t e (c.srcTile t))
      (c.srcAt c.fetched) (pieceLen c c.fetched false) = false) →
    (c.ssp = 2 → wmBlocked (tileOf s t) [e] true (c.srcAt c.fetched) (pieceLen c c.fetched false) = false) →
    (c.ssp ≠ 1 → c.ssp ≠ 2 →
      ∃ l, locate s t c.task (BitVec.ofNat 64 (c.srcAt c.fetched)) false = .here l) →
    ∃ s' c', exec (.copyLanding t e n) s = .next s' ∧ cmdOf s' t e n = some c' ∧
    c'.fetched = c.fetched + pieceLen c c.fetched false ∧ c'.landed = c.landed ∧
    c'.bytes.map (·.1) = (List.range (pieceLen c c.fetched false)).map (c.dstAt c.fetched + ·) ∧
    (∀ l, c.ssp ≠ 1 → c.ssp ≠ 2 →
      locate s t c.task (BitVec.ofNat 64 (c.srcAt c.fetched)) false = .here l →
      c'.bytes.map (·.2) = pageBytes s l (BitVec.ofNat 64 (c.srcAt c.fetched)) (pieceLen c c.fetched false)) ∧
    (∃ p ∈ s'.events, p.ev = .copyLanding t e n ∧ s.hc < p.due) ∧ SameMemory s s') ∧
  (∀ s t e n c, n ≠ 0 → cmdOf s t e n = some c → c.op = 0 → c.sent = false → c.st ≠ .queued → atHead s t e c = true →
    engineWaits s t e n = false → c.bytes ≠ [] → c.poison = false →
    (∀ d, c.dsp = 1 → c.dstTiles t = [d] → routeOpen s t d = true → progAt c d = c.landed → landHeld s t e c d = false →
      (tileOf s d).raceHc ≠ s.hc → (∀ b ∈ c.bytes, isShared (tileOf s d) b.1 = false) →
      ∃ s' c', exec (.copyLanding t e n) s = .next s' ∧ cmdOf s' t e n = some c' ∧ c'.st = .landing ∧ c'.landed = c.fetched ∧
      (tileOf s' d).floor = mwriteAll (tileOf s d).floor c.bytes ∧ (∀ d', d' ≠ d → (tileOf s' d').floor = (tileOf s d').floor) ∧
      s'.hbm = s.hbm ∧ (c.total ≤ c.fetched → ∃ p ∈ s'.events, p.ev = .copyComplete t e ∧ p.due ≤ s.hc)) ∧
    (c.dsp = 2 → (∀ b ∈ c.bytes, wmBlocked (tileOf s t) [e] true b.1 1 = false) →
      ∃ s' c', exec (.copyLanding t e n) s = .next s' ∧ cmdOf s' t e n = some c' ∧ c'.st = .landing ∧ c'.landed = c.fetched ∧
      (tileOf s' t).wells = mwriteAll (tileOf s t).wells c.bytes ∧ (∀ d, (tileOf s' d).floor = (tileOf s d).floor) ∧
      s'.hbm = s.hbm) ∧
    (∀ a b r l, c.dsp = 0 → c.bytes = (a, b) :: r →
      locate s t c.task (BitVec.ofNat 64 a) true = .here l → (l.pp = false ∨ l.nw = true) → channelHeld s t e c l = false →
      ∃ s' c', exec (.copyLanding t e n) s = .next s' ∧ cmdOf s' t e n = some c' ∧ c'.st = .landing ∧ c'.landed = c.fetched ∧
      s'.hbm = mwriteAll s.hbm (addrBytes (l.writePa (BitVec.ofNat 64 a)) (c.bytes.map (·.2))) ∧
      (∀ d, (tileOf s' d).floor = (tileOf s d).floor))) ∧
  (∀ s t e c d, (tget ({} : CopyEng) (tileOf s t).cpy e).cmds.head? = some c → cmdOf s t e c.n = some c →
    1 ≤ c.op → c.op < 7 → c.st ≠ .queued → (taskOf s t c.task).st ≠ .stopped → c.landed < c.total →
    engineWaits s t e c.n = false → c.bytes.length = c.esize → c.dsp = 1 → c.dstTiles t = [d] → routeOpen s t d = true →
    progAt c d = c.landed → landHeld s t e c d = false → (tileOf s d).raceHc ≠ s.hc →
    (∀ p ∈ (tileOf s d).stores, p.due ≤ s.hc → p.kind.floorUnits = []) →
    ∃ s' c', exec (.awPortApply t e) s = .next s' ∧ cmdOf s' t e c.n = some c' ∧ c'.landed = c.fetched ∧
    (tileOf s' d).floor = mwriteAll (tileOf s d).floor (awBytes (tileOf s d).floor c c.bytes) ∧
    (∀ d', d' ≠ d → (tileOf s' d').floor = (tileOf s d').floor) ∧ s'.hbm = s.hbm) ∧
  (∀ s t e c, (tget ({} : CopyEng) (tileOf s t).cpy e).cmds.head? = some c → c.op < 7 → c.total ≤ c.landed →
    (taskOf s t c.task).st ≠ .stopped → c.noticed = false →
    (∀ v ∈ c.claimed, tagWait (tileOf s v.1) v.2 (finalTag c) = none) → ∃ s', exec (.copyComplete t e) s = .next s' ∧
    cmdOf s' t e c.n = none ∧ (∀ w, c.wm = some w →
      (tget ({} : Watermark) (tileOf s' t).wm w).wm = (tget ({} : Watermark) (tileOf s t).wm w).lim) ∧
    (∀ f, c.follow = some f → (tget ({} : CopyEng) (tileOf s' t).cpy e).follow =
      (tget ({} : CopyEng) (tileOf s t).cpy e).follow ++ [(c.n, c.task, f, c.entry, c.addr)]) ∧
    (c.follow = none → (tget ({} : CopyEng) (tileOf s' t).cpy e).follow = (tget ({} : CopyEng) (tileOf s t).cpy e).follow) ∧
    SameMemory s s') ∧
  (∀ s t e n k f entry a rest, (tget ({} : CopyEng) (tileOf s t).cpy e).follow = (n, k, f, entry, a) :: rest →
    (taskOf s t k).st ≠ .stopped → cubeRefuses (tileOf s t) f = false → ∃ s' o, exec (.followOnCube t e) s = .next s' ∧
    (tget ({} : CopyEng) (tileOf s' t).cpy e).follow = rest ∧ (tileOf s' t).cubeOps = (tileOf s t).cubeOps ++ [o] ∧
    o.st = .accepted ∧ o.origin = some n ∧ o.task = k ∧ o.snap = f ∧ o.layers = snapLayers f ∧ o.marks = false ∧
    (∃ p ∈ s'.events, p.ev = .cubeResolution t o.n ∧ p.due = s.hc + 1) ∧ SameMemory s s') ∧
  (∀ s t e c, (tget ({} : CopyEng) (tileOf s t).cpy e).cmds.head? = some c → cmdOf s t e c.n = some c → c.st ≠ .queued →
    c.op < 7 → ((c.named t).any fun d => !routeOpen s t d) = true →
    (c.dsp = 1 → reachable s t c ≠ [] → sourceClosed s t c = false → ∃ s', exec (.noticeArrival t e) s = .next s' ∧
      cmdOf s' t e c.n = some { c with noticed := true } ∧ SameMemory s s') ∧
    ((c.dsp = 1 → reachable s t c = [] ∨ sourceClosed s t c = true) → ∃ s', exec (.noticeArrival t e) s = .next s' ∧
      cmdOf s' t e c.n = none ∧ SameMemory s s')) ∧
  (∀ s t e h r d c cs v, idleEngine (tileOf s t) = some e → (tileOf s t).hints = h :: r → s.ts ≤ h.deadline.toNat →
    readDesc s t h.handle = some d → d.kind = 0 → d.layout = 0 → allChunks d = c :: cs →
    findTag (tileOf s t) (operandTag h.handle c) = none → findVictim (tileOf s t) h.victim = some v →
    tagWait (tileOf s t) v (operandTag h.handle c) = none → ∃ s' u, exec (.hintStart t e) s = .next s' ∧ (tileOf s' t).hints = r ∧
    (tget ({} : CopyEng) (tileOf s' t).cpy e).hint = some ⟨h, 0, some v, 1, (tileOf s t).cubeSeq, s.hc, hintWay s t (chunkFirst d c)⟩ ∧
    tget ({} : TagEntry) (tileOf s' t).tags v = u ∧ u.st = .filling ∧ u.tag = operandTag h.handle c ∧
    (∃ p ∈ s'.events, p.ev = .copyLanding t e 0) ∧ SameMemory s s') ∧
  (∀ s t n, (∃ h ∈ (tileOf s t).hints, h.id = n ∧ h.deadline.toNat < s.ts) → ∃ s',
    exec (.hintDeadlineExpiry t n) s = .next s' ∧ (tileOf s' t).hints = (tileOf s t).hints.filter (fun h => h.id != n) ∧
    (tileOf s' t).pfhDrop = (tileOf s t).pfhDrop + 1 ∧ SameMemory s s')

/-! ### Returning atomics -/

/-- The events of a returning atomic, each on its normal path, by the fields it leaves. The port of a floor or of HBM performs a
request that no record answers, writes the word and a record, and answers with the old value; one that a record answers changes no
byte. A router passes a request on where combining is off, else adds it to the open entry of its key or opens one; when the hold
time is over the entry's list goes on as one request and the entry is a record; a reply takes the record away and goes on; a record
also goes with its time or its loss. An answer ends the command: sd holds the old value, cpyN.out the outcome, its watermark stands at the limit. Without an answer
the request is sent again as a retry, and after the last retry sd is 0 and the outcome 2. Old records free their room (R199 to
R205; that these are steps of their own is the model's, log 3). -/
def Obligations.AtomicEvents : Prop :=
  (∀ s q c, q.comps = [c] → c.tile < 64 → c.via = [] → recordOf s q.port c = none →
    (q.retry = true → s.ts ≤ q.firstTs + recordWindow s) → portHeld s q = false →
    (∀ d, q.port = .floor d → routeOpen s c.tile d = true → (d < 64 → routeOpen s d c.tile = true) → (tileOf s d).raceHc ≠ s.hc →
      (∀ p ∈ (tileOf s d).stores, p.due ≤ s.hc → p.kind.floorUnits = []) →
      (tileOf s d).atomRecs.length < 256 → ∃ s' v, exec (.atomicPortArrival q) s = .next s' ∧ v = portRead s q ∧
      (tileOf s' d).floor = mwriteAll (tileOf s d).floor (addrBytes q.addr (leBytes (if q.wide then 8 else 4) (atomResult q q.comps v))) ∧
      (tileOf s' d).atomRecs = (tileOf s d).atomRecs ++
        [⟨c.tile, c.eng, c.id, BitVec.ofInt 64 (signedOf (if q.wide then 64 else 32) (v % 2 ^ (if q.wide then 64 else 32))), s.ts⟩] ∧
      s'.hbm = s.hbm ∧ ∃ p ∈ s'.events, p.ev = .atomicReplyArrival { status := 0, combined := false, olds :=
        [(c, BitVec.ofInt 64 (signedOf (if q.wide then 64 else 32) (v % 2 ^ (if q.wide then 64 else 32))))] }) ∧
    (∀ g l, q.port = .hbm g → (∀ a, q.att = some a → routeOpen s c.tile a = true) →
      translateAt s q.ctx q.va true q.firstTs = .here l → l.seal = false → (l.pp = false ∨ l.nw = true) →
      (tget [] s.hbmRecs (homeChannel (l.writePa q.va))).length < 2048 → ∃ s' v, exec (.atomicPortArrival q) s = .next s' ∧
      v = mword s.hbm (l.writePa q.va) (if q.wide then 8 else 4) ∧
      s'.hbm = mwriteAll s.hbm (addrBytes (l.writePa q.va) (leBytes (if q.wide then 8 else 4) (atomResult q q.comps v))) ∧
      (∀ d, (tileOf s' d).floor = (tileOf s d).floor) ∧ ∃ p ∈ s'.events, p.ev = .atomicReplyArrival
        { status := 0, combined := false, olds :=
        [(c, BitVec.ofInt 64 (signedOf (if q.wide then 64 else 32) (v % 2 ^ (if q.wide then 64 else 32))))] })) ∧
  (∀ s q c x, q.comps = [c] → c.tile < 64 → c.via = [] → recordOf s q.port c = some x →
    (∀ d, meshEnd q = some d → routeOpen s c.tile d = true) →
    (∀ d, portTile q.port = some d → d < 64 → routeOpen s d c.tile = true) → ∃ s', exec (.atomicPortArrival q) s = .next s' ∧
    SameMemory s s' ∧ ∃ p ∈ s'.events, p.ev = .atomicReplyArrival { status := 0, combined := false, olds := [(c, x.old)] }) ∧
  (∀ s p, ∃ s', exec (.atomicRecordAging p) s = .next s' ∧
    portRecs s' p = (portRecs s p).filter (fun r => decide (s.ts < r.ts + 1000000)) ∧ SameMemory s s') ∧
  (∀ s r q, laterHere s r q = false → combWin s r = 0 →
    (∀ n, nextRouter r q = some n → (n < 64 → closedTile s n = false) → ∃ s', exec (.combineRequestArrival r q) s = .next s' ∧
      (∃ p ∈ s'.events, p.ev = .combineRequestArrival n q ∧ s.hc < p.due) ∧ combTable s' r = combTable s r ∧ SameMemory s s') ∧
    (nextRouter r q = none → ∃ s', exec (.combineRequestArrival r q) s = .next s' ∧
      (∃ p ∈ s'.events, p.ev = .atomicPortArrival q ∧ s.hc < p.due) ∧ combTable s' r = combTable s r ∧ SameMemory s s')) ∧
  (∀ s r q, laterHere s r q = false → combWin s r ≠ 0 →
    ((combTable s r).find? (fun e => e.sameKey q) = none → (combTable s r).length < combRoom r → q.comps.length < 8 →
      ∃ s' e, exec (.combineRequestArrival r q) s = .next s' ∧ combTable s' r = combTable s r ++ [e] ∧ e.req = q ∧
      e.isOpen = true ∧ e.deadline = s.hc + combWin s r ∧
      (∃ p ∈ s'.events, p.ev = .combineWindowExpiry r e.id ∧ p.due = e.deadline) ∧ SameMemory s s') ∧
    (∀ e, (combTable s r).find? (fun e => e.sameKey q) = some e → e.req.comps.length + q.comps.length < 8 →
      ∃ s', exec (.combineRequestArrival r q) s = .next s' ∧
      combTable s' r = (combTable s r).map (fun x => if x.id = e.id then
        { e with req := { e.req with comps := e.req.comps ++ q.comps } } else x) ∧ SameMemory s s')) ∧
  (∀ s r id e, (combTable s r).find? (fun e => e.id == id && e.isOpen && decide (e.deadline ≤ s.hc)) = some e →
    (∀ p ∈ s.events, s.hc < p.due) → (∀ n, nextRouter r e.req = some n → n < 64 → closedTile s n = false) → ∃ s' q, exec (.combineWindowExpiry r id) s = .next s' ∧
    combTable s' r = (combTable s r).map (fun x => if x.id = id then
      { x with isOpen := false, deadline := s.hc + nsToHc (recordWindow s) } else x) ∧
    q = { e.req with comps := e.req.comps.map fun c => { c with via := (r, id) :: c.via } } ∧
    (nextRouter r e.req = none → ∃ p ∈ s'.events, p.ev = .atomicPortArrival q) ∧
    (∀ n, nextRouter r e.req = some n → ∃ p ∈ s'.events, p.ev = .combineRequestArrival n q) ∧
    (∃ p ∈ s'.events, p.ev = .decombineRecordTimeout r id ∧ p.due = s.hc + nsToHc (recordWindow s)) ∧ SameMemory s s') ∧
  (∀ s r id st b c v, (∃ e ∈ combTable s r, e.id = id ∧ e.isOpen = false) → c.tile < 64 → closedTile s c.tile = false →
    (r < 64 → routeOpen s r c.tile = true) → c.via.length ≤ 1 → ∃ s', exec (.decombineReplyArrival r id { status := st, combined := b, olds := [(c, v)] }) s = .next s' ∧
    combTable s' r = (combTable s r).filter (fun e => !(e.id == id && !e.isOpen)) ∧
    (∃ p ∈ s'.events, p.ev = .atomicReplyArrival { status := st, combined := b, olds := [({ c with via := [] }, v)] }) ∧
    SameMemory s s') ∧
  (∀ s r id, (∃ e ∈ combTable s r, e.id = id ∧ e.isOpen = false ∧ e.deadline ≤ s.hc) → ∃ s',
    exec (.decombineRecordTimeout r id) s = .next s' ∧
    combTable s' r = (combTable s r).filter (fun e => !(e.id == id && !e.isOpen)) ∧ SameMemory s s') ∧
  (∀ s r id, ∃ s', exec (.combiningRecordLost r id) s = .next s' ∧
    combTable s' r = (combTable s r).filter (fun e => !(e.id == id && !e.isOpen)) ∧ SameMemory s s') ∧
  (∀ s st b x v c, x.tile < 64 → atomOf s x.tile x.eng x.id = some c → st < 0x20 → (taskOf s x.tile c.task).st ≠ .stopped →
    ∃ s', exec (.atomicReplyArrival { status := st, olds := [(x, v)], combined := b }) s = .next s' ∧
    cmdOf s' x.tile x.eng c.n = none ∧ latchIn (taskOf s' x.tile c.task).lat (64 * x.eng + 7) =
      BitVec.ofNat 64 (st + 4 * b.toNat + 2 ^ 8 * c.id) ∧
    (∀ n, c.wm = some n → (tget ({} : Watermark) (tileOf s' x.tile).wm n).wm = (tget ({} : Watermark) (tileOf s x.tile).wm n).lim) ∧
    (c.sd ≠ 0 → readS (taskOf s' x.tile c.task) c.sd = (if st = 0 then v else 0) ∧
      isEmpty (taskOf s' x.tile c.task) (.s c.sd) = false) ∧
    (∀ n, n ≠ c.sd → readS (taskOf s' x.tile c.task) n = readS (taskOf s x.tile c.task) n) ∧ SameMemory s s') ∧
  (∀ s t e id c, atomOf s t e id = some c → cmdOf s t e c.n = some c →
    (∀ d, c.tries < wfld (srWord s 0x210) 16 4 → c.dsp = 1 → c.dstTiles t = [d] → routeOpen s t d = true → ∃ s',
      exec (.atomicRetryExpiry t e id) s = .next s' ∧
      cmdOf s' t e c.n = some { c with tries := c.tries + 1, sent := true } ∧
      (∃ p ∈ s'.events, ∃ q, p.ev = .atomicPortArrival q ∧ q.retry = true ∧ q.port = .floor d ∧ q.addr = c.dst.toNat ∧
        q.comps = [⟨t, e, c.id, c.l 4, []⟩]) ∧
      (∃ p ∈ s'.events, p.ev = .atomicRetryExpiry t e c.id ∧ p.due = s.hc + usToHc (wfld (srWord s 0x210) 0 16)) ∧
      SameMemory s s') ∧
    (wfld (srWord s 0x210) 16 4 ≤ c.tries → (taskOf s t c.task).st ≠ .stopped → ∃ s',
      exec (.atomicRetryExpiry t e id) s = .next s' ∧ cmdOf s' t e c.n = none ∧
      latchIn (taskOf s' t c.task).lat (64 * e + 7) = BitVec.ofNat 64 (2 + 2 ^ 8 * c.id) ∧
      (c.sd ≠ 0 → readS (taskOf s' t c.task) c.sd = 0) ∧ SameMemory s s'))

/-! ### Global memory -/

/-- The events of a global access, each on its normal path, by the fields it leaves. A store at the head of its source's order
writes its 8 bytes where writes of the page land, and ends; to another package it goes as a write message. A load at the head takes
the 8 bytes that the page shows, and then fills its register. A store to the step-shared space goes to the next plane of its
granule by the region's rule. A walk that ends at a local leaf leaves a cached translation, at a remote leaf an export request,
which goes again until its tries are used up. A probe step moves to the unit that the one before it publishes, or ends with its
word in sd. The frames of a zeroed page read as zero and its leaf is valid; a frame that nothing holds is free (R217, R250, R255 to
R257, R268, R318, R319, R322, R326; that these are steps of their own is the model's, log 3). -/
def Obligations.GlobalEvents : Prop :=
  (∀ s t k a, t < 64 → firstUnsent (taskOf s t k) = some a → a.load = false →
    behindNib s t k a = false → (inUtlb s t (tileCtx s t) a.va = true ∨ inHtlb s (tileCtx s t) a.va = true) →
    (∀ l, a.remote = false → askedRemote s (tileCtx s t) a.va = false →
      translateAt s (tileCtx s t) a.va true a.issuedTs = .here l → l.seal = false → (l.pp = false ∨ l.nw = true) →
      ∃ s', exec (.globalWritePerform t k) s = .next s' ∧
      s'.hbm = mwriteAll s.hbm (addrBytes (l.writePa a.va) (leBytes 8 a.val.toNat)) ∧
      (taskOf s' t k).gacc = (taskOf s t k).gacc.filter (fun b => b.n != a.n) ∧
      (∀ n, readS (taskOf s' t k) n = readS (taskOf s t k) n) ∧ (∀ d, (tileOf s' d).floor = (tileOf s d).floor)) ∧
    (∀ l r, a.remote = true → translate s (rootOf s (tileCtx s t)) a.va true = .remote l →
      remoteXlat s (tileCtx s t) a.va = some r → r.sealed = false → r.w = true → (routeOf s l.pkg).isSome = true →
      queueRoom s l.pkg 1 8 = true → ∃ s', exec (.globalWritePerform t k) s = .next s' ∧
      (∃ m ∈ (peerOf s' l.pkg).sent, m.kind = 1 ∧ m.msg.va = a.va ∧ m.msg.rctx = r.rctx ∧
        m.msg.payload = leBytes 8 a.val.toNat) ∧
      (∀ b ∈ (taskOf s' t k).gacc, b.n = a.n → b.sent = true) ∧ SameMemory s s')) ∧
  (∀ s t k n a l, t < 64 → (taskOf s t k).gacc.find? (fun a => a.n == n && a.load) = some a → a.sent = false →
    firstUnsent (taskOf s t k) = some a → (taskOf s t k).st ≠ .stopped → a.remote = false →
    askedRemote s (tileCtx s t) a.va = false →
    (inUtlb s t (tileCtx s t) a.va = true ∨ inHtlb s (tileCtx s t) a.va = true) →
    translate s (rootOf s (tileCtx s t)) a.va false = .here l → ∃ s', exec (.globalLoadReply t k n) s = .next s' ∧
    (∃ b ∈ (taskOf s' t k).gacc, b.n = n ∧ b.sent = true ∧ b.val = BitVec.ofNat 64 (leNat (pageBytes s l a.va 8))) ∧
    (∃ p ∈ s'.events, p.ev = .globalLoadReply t k n ∧ s.hc < p.due) ∧ SameMemory s s') ∧
  (∀ s t k n a, t < 64 → (taskOf s t k).gacc.find? (fun a => a.n == n && a.load) = some a → a.sent = true →
    a.remote = false → (taskOf s t k).st ≠ .stopped → ∃ s', exec (.globalLoadReply t k n) s = .next s' ∧
    isEmpty (taskOf s' t k) (.s a.sd) = false ∧ readS (taskOf s' t k) a.sd = (if a.sd = 0 then 0 else a.val) ∧
    (∀ r, r ≠ a.sd → readS (taskOf s' t k) r = readS (taskOf s t k) r) ∧ (∀ b ∈ (taskOf s' t k).gacc, b.n ≠ n) ∧
    SameMemory s s') ∧
  (∀ s t addr rank n v w e, isShared (tileOf s t) addr = true → ssEntry (tileOf s t) addr = some e →
    ((n = 8 ∧ granBytes (tileOf s t) addr = 8 ∧ w = v) ∨ (n = 4 ∧ w = (v.setWidth 32 : Word32).setWidth 64)) → ∃ s' g g',
    exec (.sshareStoreArrival t addr rank n v) s = .next s' ∧ g = tget ({} : Granule) (tileOf s t).gran addr ∧
    g' = tget ({} : Granule) (tileOf s' t).gran addr ∧ g'.written = true ∧
    (e.rule = 0 → (g'.next = if !g.written || decide (rank ≤ g.writer) then w else g.next) ∧
      (g'.writer = if !g.written || decide (rank ≤ g.writer) then rank else g.writer)) ∧
    (e.rule = 1 → (g'.next = if !g.written || decide (g.writer ≤ rank) then w else g.next) ∧
      (g'.writer = if !g.written || decide (g.writer ≤ rank) then rank else g.writer)) ∧
    (e.rule = 2 → g'.next = granAdd e.ty (if g.written then g.next else granSeed (tileOf s t) addr n) w) ∧
    (e.rule = 3 → g'.col = (g.col || (g.written && g.writer != rank)) ∧
      (g'.next = if !g.written || decide (rank ≤ g.writer) then w else g.next)) ∧
    (∀ a, a ≠ addr → tget ({} : Granule) (tileOf s' t).gran a = tget {} (tileOf s t).gran a) ∧ SameMemory s s') ∧
  (∀ s n w l, s.walks.find? (fun w => w.n == n && !w.remote) = some w → w.tile < 64 →
    (translate s (rootOf s w.ctx) w.va w.write = .here l → ∃ s', exec (.translationWalkEnd n) s = .next s' ∧
      s'.walks = s.walks.filter (fun x => x.n != n) ∧ inUtlb s' w.tile w.ctx w.va = true ∧ SameMemory s s') ∧
    (translate s (rootOf s w.ctx) w.va w.write = .remote l → w.far = true → remoteXlat s w.ctx w.va = none →
      (routeOf s l.pkg).isSome = true → queueRoom s l.pkg 8 1 = true → ∃ s',
      exec (.translationWalkEnd n) s = .next s' ∧
      s'.walks = s.walks.map (fun x => if x.n = n then { w with remote := true, pkg := l.pkg, tries := w.tries + 1 } else x) ∧
      (∃ m ∈ (peerOf s' l.pkg).sent, m.kind = 8 ∧ m.msg.va = w.va ∧ m.msg.rctx = l.rctx) ∧ SameMemory s s')) ∧
  (∀ s n w l, s.walks.find? (fun w => w.n == n && w.remote) = some w → w.tries ≤ wfld (srWord s 0x210) 16 4 →
    translate s (rootOf s w.ctx) w.va w.write = .remote l → queueRoom s l.pkg 8 1 = true → ∃ s', exec (.remoteTranslationRetry n) s = .next s' ∧
    s'.walks = s.walks.map (fun x => if x.n = n then { w with remote := true, pkg := l.pkg, tries := w.tries + 1 } else x) ∧
    (∃ m ∈ (peerOf s' l.pkg).sent, m.kind = 8 ∧ m.msg.va = w.va ∧ m.msg.rctx = l.rctx) ∧
    (∃ p ∈ s'.events, p.ev = .remoteTranslationRetry n ∧ p.due = s.hc + usToHc (wfld (srWord s 0x210) 0 16)) ∧
    SameMemory s s') ∧
  (∀ s t k n p, (taskOf s t k).probes.find? (fun p => p.n == n) = some p → (taskOf s t k).st ≠ .stopped → p.hops < 128 →
    (14 ≤ p.cur / 64 → p.sd ≠ 0 → ∃ s', exec (.probeWalkEnd t k n) s = .next s' ∧
      readS (taskOf s' t k) p.sd = BitVec.ofNat 64 (4 * p.hops + 2 ^ 9 * p.cur) ∧
      isEmpty (taskOf s' t k) (.s p.sd) = false ∧ (taskOf s' t k).probes = (taskOf s t k).probes.filter (fun q => q.n != n) ∧
      SameMemory s s') ∧
    (p.cur / 64 < 14 → (tileOf s (p.cur % 64)).ctx = (tileOf s t).ctx → leavesPackage s p.cur = false →
      published s p.cur / 64 ≠ 14 → published s p.cur / 64 ≠ 15 → published s p.cur ≠ p.start → p.hops + 1 ≠ 64 → ∃ s',
      exec (.probeWalkEnd t k n) s = .next s' ∧ (taskOf s' t k).probes.find? (fun p => p.n == n) =
        some { p with cur := published s p.cur, hops := p.hops + 1 } ∧
      (∃ q ∈ s'.events, q.ev = .probeWalkEnd t k n ∧
        q.due = s.hc + 4 + (route (p.cur % 64) (published s p.cur % 64)).length) ∧ SameMemory s s')) ∧
  (∀ s c va f, (ctxFrames s c .zeroing).filter (fun f => leafSlot s va f.2.bytes 4 0 (rootOf s c).toNat == some f.2.leaf) = [f] →
    ∃ s' m, exec (.frameZeroingEnd c va) s = .next s' ∧ m = mzero s.hbm (65536 * f.1) f.2.bytes ∧
    s'.hbm = mwriteAll m (addrBytes f.2.leaf (leBytes 8 (setBit (BitVec.ofNat 64 (mword m f.2.leaf 8)) 0 true).toNat)) ∧
    (frameOf s' f.1).st = .mapped) ∧
  (∀ s n, (frameOf s n).st = .invalidating → (frameOf s n).holders = 0 → frameAwaited s n = false → ∃ s', exec (.frameFreed n) s = .next s' ∧
    s'.frames = s.frames.filter (fun x => x.1 != n) ∧ SameMemory s s')

/-- The work of the region unit. A request whose descriptor is of its kind, the pages of a pair paired, is read; one whose
descriptor is not accepted or not of its kind ends with the region fault at the descriptor. Once the writes before it are performed
a request takes effect and is gone: the leaves of its region take new bits (seal set by a seal; cleared by an unseal where no other
sealed region covers the page; the planes of a written publish page exchanged, or zr set where the seed is zero; the halves of a
pair exchanged), then the descriptor takes epoch and sealed, and then tx: nothing else in HBM changes (R212, R220, R222 to R224,
R226, R317; that these are steps of their own is the model's, log 3). -/
def Obligations.RegionEvents : Prop :=
  (∀ s c n r l d, reqOf s c n = some r → r.read = false → translate s (rootOf s c) (reqAddr r) false = .here l →
    readRegion s (rootOf s c) (reqAddr r) = some d →
    (d.ok = true → d.kind = r.op.needs → (r.op.needs = 0 ∨ ∀ l ∈ regionLeaves s c d, l.pp = true) → ∃ s',
      exec (.regionDescriptorRead c n) s = .next s' ∧ reqOf s' c n = some { r with read := true } ∧
      (∃ p ∈ s'.events, p.due = s.hc ∧ (r.op = .seal → p.ev = .sealTakesEffect c n) ∧
        (r.op = .unseal → p.ev = .unsealTakesEffect c n) ∧ (r.op = .pub → p.ev = .pubExchange c n) ∧
        (r.op = .wswap → p.ev = .wswapExchange c n)) ∧ SameMemory s s') ∧
    (d.ok = false ∨ d.kind ≠ r.op.needs → (ctxOf s c).st = .running → ∃ s',
      exec (.regionDescriptorRead c n) s = .next s' ∧ reqOf s' c n = none ∧ (ctxOf s' c).st = .halting ∧
      (ctxOf s' c).code = 0x38 ∧ (ctxOf s' c).addr = reqAddr r ∧ SameMemory s s')) ∧
  (∀ s c n r d l1 l2 word h1 h2 epoch sealed tx, ∀ bits : Leaf → Word, reqOf s c n = some r → r.read = true →
    readRegion s (rootOf s c) (reqAddr r) = some d → writesOpen s c r d = false →
    (r.op = .seal → word = Instr.sealTakesEffect c n ∧ (∀ l, bits l = setBit l.bits 4 true) ∧ epoch = d.epoch ∧
      sealed = true ∧ tx = s.ts) →
    (r.op = .unseal → word = Instr.unsealTakesEffect c n ∧ (∀ t ∈ ctxTiles s c, expandsFrom d (ctxRegions s c) (tileOf s t) = false) ∧
      (∀ l, bits l = if otherSealed (ctxRegions s c) d.addr l.base l.bytes then l.bits else setBit l.bits 4 false) ∧
      epoch = d.epoch ∧ sealed = false ∧ tx = s.ts) →
    (r.op = .pub → word = Instr.pubExchange c n ∧
      (∀ l, bits l = if l.nw then setBit (setBit (setBit l.bits 7 (!l.cur)) 8 false) 9 false
        else if d.carry then l.bits else setBit l.bits 9 true) ∧ epoch = d.epoch + 1 ∧ sealed = d.sealed ∧ tx = s.ts) →
    (r.op = .wswap → word = Instr.wswapExchange c n ∧ (∀ l, bits l = setBit (setBit l.bits 7 (!l.cur)) 8 false) ∧
      epoch = d.epoch + 1 ∧ sealed = d.sealed ∧ r.ts.toNat ≤ s.ts ∧
      tx = if tsBefore s < r.ts.toNat then r.ts.toNat else s.ts) →
    h1 = (regionLeaves s c d).foldl
      (fun h l => if bits l = l.bits then h else mwriteAll h (addrBytes l.pte (leBytes 8 (bits l).toNat))) s.hbm →
    translate { s with hbm := h1 } (rootOf s c) (d.addr + 0x20) false = .here l1 → l1.pp = false →
    h2 = mwriteAll h1 (addrBytes (l1.writePa (d.addr + 0x20)) (leBytes 8 (epoch % 2 ^ 32 + 2 ^ 32 * sealed.toNat))) →
    translate { s with hbm := h2 } (rootOf s c) (d.addr + 0x28) false = .here l2 → l2.pp = false → ∃ s',
    exec word s = .next s' ∧ s'.hbm = mwriteAll h2 (addrBytes (l2.writePa (d.addr + 0x28)) (leBytes 8 tx)) ∧
    reqOf s' c n = none ∧ ∀ t, (tileOf s' t).floor = (tileOf s t).floor ∧ (tileOf s' t).wells = (tileOf s t).wells)

/-! ### Groups -/

/-- The events of a group, each on its normal path, by the fields it leaves. Once its traffic has drained a step instance
exchanges, and a rdv one is releasing, 8 + 2(W + H − 2) hc on; until then it is looked at in each hc. The exchange writes every
granule's next plane and nstep rises. A release makes the barrier idle and the tasks that wait on it ready. A forming group
takes the rectangle chosen for it: its tasks are bound, with s1 their place and s2 the arguments. One that has waited ptmo ms
is removed with status 4 in its completion word; a retiring one, once nothing that its members triggered is under way, frees
its slots, and cseq rises. A pre-emption request marks every task; one that waits at a barrier, an engine or a watermark is
held at once (R217, R218, R228 to R230, R238, R240 to R242, R285, R290, R291; that these are steps of their own is the model's,
log 3; the number a group takes is the model's choice, log 41). -/
def Obligations.GroupEvents : Prop :=
  (∀ s g x, groupOf s g = some x → (x.bar .step).st = .draining → groupDrained s x = true → groupSaved s x = false →
    ∃ s' y, exec (.barrierDrainEnd g .step) s = .next s' ∧ groupOf s' g = some y ∧
    y.bar .step = { x.bar .step with st := .exchanging, due := s.hc + 8 + 2 * (x.w + x.h - 2) } ∧ (∀ b, b ≠ .step → y.bar b = x.bar b) ∧ y.st = x.st ∧
    (∃ p ∈ s'.events, p.ev = .stepExchange g ∧ p.due = s.hc + 8 + 2 * (x.w + x.h - 2)) ∧ SameMemory s s') ∧
  (∀ s g x, groupOf s g = some x → (x.bar .rdv).st = .draining → groupDrained s x = true → groupSaved s x = false →
    ∃ s' y, exec (.barrierDrainEnd g .rdv) s = .next s' ∧ groupOf s' g = some y ∧
    y.bar .rdv = { x.bar .rdv with st := .releasing, due := s.hc + 9 + 2 * (x.w + x.h - 2) } ∧ (∀ b, b ≠ .rdv → y.bar b = x.bar b) ∧
    (∃ p ∈ s'.events, p.ev = .barrierRelease g .rdv ∧ p.due = s.hc + 9 + 2 * (x.w + x.h - 2)) ∧ SameMemory s s') ∧
  (∀ s g x b, groupOf s g = some x → (x.bar b).st = .draining → groupDrained s x = false →
    ∃ s', exec (.barrierDrainEnd g b) s = .next s' ∧ s'.groups = s.groups ∧
    (∃ p ∈ s'.events, p.ev = .barrierDrainEnd g b ∧ p.due ≤ s.hc + 1) ∧ SameMemory s s') ∧
  (∀ s g x r t a v, groupOf s g = some x → (x.bar .step).st = .exchanging → (x.bar .step).fencedIn = [] →
    groupSaved s x = false → x.liveRanks = [r] → t = x.tile r → (tileOf s t).ssGid = some g →
    (∀ e ∈ (tileOf s t).ssmap, e.2.carry = true) → (tileOf s t).gran = [(a, v)] → v.written = true → v.col = false →
    ∃ s' y, exec (.stepExchange g) s = .next s' ∧ (tileOf s' t).gran = [] ∧ (tileOf s' t).ssCol = 0 ∧
    (tileOf s' t).floor = mwriteAll (tileOf s t).floor (addrBytes a (leBytes (granBytes (tileOf s t) a) v.next.toNat)) ∧
    groupOf s' g = some y ∧ y.nstep = x.nstep + 1 ∧ y.bar .step = { x.bar .step with st := .releasing, due := s.hc + 1 } ∧
    (∃ p ∈ s'.events, p.ev = .barrierRelease g .step ∧ p.due = s.hc + 1)) ∧
  (∀ s g x b r, groupOf s g = some x → (x.bar b).st = .releasing → (x.bar b).arrived = [r] → groupSaved s x = false →
    (taskOf s (x.tile r) (x.slot r)).wait = .barrier b → (taskOf s (x.tile r) (x.slot r)).st = .parked →
    (taskOf s (x.tile r) (x.slot r)).also = [] → x.allRetired = false → ∃ s' y,
    exec (.barrierRelease g b) s = .next s' ∧ exec (.barComplete g b) s = .next s' ∧ groupOf s' g = some y ∧
    (y.bar b).st = .idle ∧ (y.bar b).arrived = [] ∧ (∀ c, c ≠ b → y.bar c = x.bar c) ∧
    (b = .step → x.st = .stepping → y.st = (if x.everFenced then .degraded else .running)) ∧ (b ≠ .step → y.st = x.st) ∧
    (taskOf s' (x.tile r) (x.slot r)).st = .ready ∧ (taskOf s' (x.tile r) (x.slot r)).wait = .none ∧ SameMemory s s') ∧
  (∀ s g x o gid, groupOf s g = some x → 64 ≤ g → x.st = .forming → shapeFits s x = true →
    ((ctxOf s x.ctx).st = .runnable ∨ (ctxOf s x.ctx).st = .running) → chooseRect s { x with ssNeeded := groupShared s x } = some o → freeGid s = some gid →
    (readHeader s x.ctx x.kimg).nrg = 0 → ∃ s' y, exec (.groupPlacement g) s = .next s' ∧ groupOf s' g = none ∧
    groupOf s' gid = some y ∧ y.x0 = o.1 ∧ y.y0 = o.2 ∧ y.w = x.w ∧ y.h = x.h ∧ y.live = BitVec.ofNat 64 (2 ^ (x.w * x.h) - 1) ∧
    (y.st = .placed ∨ y.st = .running) ∧ (ctxOf s' x.ctx).st = .running ∧ (queueOf s' x.queue).dispatching = false ∧
    (∀ r < x.w * x.h, (tileOf s' (y.tile r)).ctx = some x.ctx ∧ (taskOf s' (y.tile r) (y.slot r)).gid = some gid ∧
      (taskOf s' (y.tile r) (y.slot r)).rank = r ∧ (taskOf s' (y.tile r) (y.slot r)).st.occupied = true ∧
      readS (taskOf s' (y.tile r) (y.slot r)) 1 = BitVec.ofNat 64 (r % x.w + 2 ^ 16 * (r / x.w) + 2 ^ 32 * x.w + 2 ^ 48 * x.h) ∧
      readS (taskOf s' (y.tile r) (y.slot r)) 2 = x.args)) ∧
  (∀ s g x, groupOf s g = some x → x.st = .forming → wfld (srWord s 0x226) 8 16 ≠ 0 →
    x.acceptedNs + wfld (srWord s 0x226) 8 16 * 1000000 ≤ s.ts → ∃ s', exec (.placementTimeout g) s = .next s' ∧
    groupOf s' g = none ∧ (queueOf s' x.queue).dispatching = false ∧
    (∀ l, x.cwa ≠ 0 → translate s (rootOf s x.ctx) x.cwa true = .here l → l.seal = false → l.pp = false →
      s'.hbm = mwriteAll (mwriteAll s.hbm (addrBytes (l.writePa x.cwa) (leBytes 8 (x.seq.toNat + 2 ^ 32 * 4))))
        (addrBytes (queueAddr s x.queue) ((queueOf s' x.queue).words.flatMap (leBytes 8))))) ∧
  (∀ s g x, groupOf s g = some x → x.st = .retiring → groupStands s x = true →
    (groupBusy s x = true → ∃ s', exec (.groupRetirement g) s = .next s' ∧ s'.groups = s.groups ∧
      (∃ p ∈ s'.events, p.ev = .taskRetire (lookSlot x).1 (lookSlot x).2 ∧ p.due ≤ s.hc + 1) ∧ SameMemory s s') ∧
    (groupBusy s x = false → (queueOf s x.queue).ended = [] → x.seq = (queueOf s x.queue).cseq + 1 → ∃ s',
      exec (.groupRetirement g) s = .next s' ∧ groupOf s' g = none ∧ (queueOf s' x.queue).cseq = x.seq ∧
      ∀ r ∈ x.liveRanks, (taskOf s (x.tile r) (x.slot r)).gid = some g → (taskOf s' (x.tile r) (x.slot r)).st = .free)) ∧
  (∀ s c, (ctxOf s c).st = .running → ∃ s', exec (.preemptionRequest c) s = .next s' ∧ (ctxOf s' c).st = .preempting ∧
    (∃ p ∈ s'.events, p.ev = .preemptSaveEnd c ∧ p.due ≤ s.hc + 1) ∧ SameMemory s s' ∧
    ∀ t ∈ ctxTiles s c, ∀ k < 4, (taskOf s t k).st.occupied = true → (taskOf s' t k).preq = true ∧
      (taskOf s' t k).st = (if (taskOf s t k).st = .parked ∧ (taskOf s t k).wait.holds = true then .held
        else (taskOf s t k).st))

/-! ### Launch queues -/

/-- The events of the queues, each on its normal path, by the fields it leaves. A doorbell writes the window's record at the
tail of an enabled queue with room, and the tail advances; else a rejection is counted. A rotation takes the hardware slots of
the untimed queues and gives them to those with work. The first queue in order has its head record accepted, and a group forms,
or rejected with the reason. When a head record's not-before time has come the dispatcher looks at the next multiple of 250 ns.
A timetable slot gives its queue a hardware slot; one that ends without a record is counted and raises line 6 (R281 to R284,
R286 to R289, R293 to R295; that these are steps of their own is the model's, log 3). -/
def Obligations.QueueEvents : Prop :=
  (∀ s q w, q < 4096 →
    ((queueOf s q).en = false ∨ 2 ^ (queueOf s q).lring ≤ ((queueOf s q).tail - (queueOf s q).head).toNat) →
    ∃ s', exec (.queueDoorbell q w) s = .next s' ∧ (queueOf s' q).rej = (queueOf s q).rej + 1 ∧
      (queueOf s' q).tail = (queueOf s q).tail ∧ (queueOf s' q).head = (queueOf s q).head) ∧
  (∀ s q w x z l, q < 4096 → x = queueOf s q → x.en = true → (x.tail - x.head).toNat < 2 ^ x.lring →
    z = updQueue s q (fun y => { y with window := fillWindow y w }) →
    translate z (rootOf z x.ctx) (recordAddr x x.tail) true = .here l → l.seal = false → l.pp = false →
    ∃ s', exec (.queueDoorbell q w) s = .next s' ∧ (queueOf s' q).tail = x.tail + 1 ∧ (queueOf s' q).head = x.head ∧
      (queueOf s' q).rej = x.rej ∧
      s'.hbm = mwriteAll (mwriteAll z.hbm (addrBytes (l.writePa (recordAddr x x.tail)) (fillWindow x w)))
        (addrBytes (queueAddr s q) ((queueOf s' q).words.flatMap (leBytes 8)))) ∧
  (∀ s q x, s.queues = [(q, x)] → x.timed = false → ∃ s', exec .rotationBoundary s = .next s' ∧
    (queueOf s' q).hw = (x.en && x.hasHead && !x.dispatching && headDue s x) ∧
    s'.qrot = (if x.en && x.hasHead && !x.dispatching && headDue s x then (q + 1) % 4096 else s.qrot) ∧
    ∃ p ∈ s'.events, p.ev = .rotationBoundary ∧ p.ts = some ((s.ts / 100000 + 1) * 100000)) ∧
  (∀ s q bs, bestQueue s = some q → headRecord s (queueOf s q) = some bs →
    (recordWhy s q (queueOf s q) bs = 0 → ∃ s' g, exec (.queueAdmission q) s = .next s' ∧
      (queueOf s' q).head = (queueOf s q).head + 1 ∧ (queueOf s' q).nseq = (queueOf s q).nseq + 1 ∧
      (queueOf s' q).hw = false ∧ (queueOf s' q).dispatching = true ∧ g ∈ s'.groups ∧ g.gid = 64 + q ∧ g.st = .forming ∧
      g.queue = q ∧ g.w = nfld (recWord bs 0) 0 3 + 1 ∧ g.h = nfld (recWord bs 0) 3 3 + 1 ∧ g.seq = recSeq bs ∧
      g.kimg = BitVec.ofNat 64 (recWord bs 1) ∧ g.args = BitVec.ofNat 64 (recWord bs 2) ∧
      g.cwa = BitVec.ofNat 64 (recWord bs 8) ∧ ∃ p ∈ s'.events, p.ev = .groupPlacement (64 + q)) ∧
    (recordWhy s q (queueOf s q) bs ≠ 0 → ∃ s', exec (.queueAdmission q) s = .next s' ∧ (queueOf s' q).en = false ∧
      (queueOf s' q).why = recordWhy s q (queueOf s q) bs ∧ (queueOf s' q).head = (queueOf s q).head + 1 ∧
      (queueOf s' q).rej = (queueOf s q).rej + 1 ∧ s'.groups = s.groups)) ∧
  (∀ s q n, queueCode s (queueOf s q) = 3 → bestQueue s = some n → (∀ p ∈ s.events, isAdmission p.ev = false) → ∃ s',
    exec (.notBeforeTimeReached q) s = .next s' ∧ s'.queues = s.queues ∧ SameMemory s s' ∧
    ∃ p ∈ s'.events, p.ev = .queueAdmission n ∧ p.ts = some ((s.ts / 250 + 1) * 250)) ∧
  (∀ s i t, s.slotRun.nextAt = some (i, t) → ttOn s = true → s.ts < t → ∃ s',
    exec (.timetableSlotStart i) s = .next s' ∧ s'.slotRun = s.slotRun ∧ s'.queues = s.queues ∧
    ∃ p ∈ s'.events, p.ev = .timetableSlotStart i ∧ p.ts = some t) ∧
  (∀ s i t e q, s.slotRun.nextAt = some (i, t) → ttOn s = true → t ≤ s.ts → (∀ g ∈ s.groups, g.slotIndex = none ∨ g.overran = true) →
    e = ((if i = 0 then ttEntries s else s.slotRun.live).drop i).headD 0 → q = wfld e 2 12 → ∃ s',
    exec (.timetableSlotStart i) s = .next s' ∧ s'.slotRun.idx = i ∧ s'.slotRun.running = true ∧
    s'.slotRun.accepted = false ∧ s'.slotRun.ends = t + wfld e 16 32 ∧
    (∃ p ∈ s'.events, p.ev = .timetableSlotEnd i ∧ p.ts = some (t + wfld e 16 32)) ∧
    (wbitAt e 0 = true → 1000 ≤ wfld e 16 32 → (queueOf s q).timed = true → (queueOf s' q).hw =
      ((queueOf s q).en && !(queueOf s q).overrun && !(queueOf s q).dispatching))) ∧
  (∀ s q i, s.slotRun.running = true → s.slotRun.idx = i → s.slotRun.ends ≤ s.ts →
    q = wfld ((s.slotRun.live.drop i).headD 0) 2 12 → ∃ s', exec (.timetableSlotEnd i) s = .next s' ∧
    s'.slotRun = { s.slotRun with running := false } ∧ ((queueOf s q).timed = true → (queueOf s' q).hw = false) ∧
    (s.slotRun.accepted = true → s'.ttMiss = s.ttMiss ∧ s'.bellows.birq = s.bellows.birq) ∧
    (s.slotRun.accepted = false → s'.ttMiss = satCount s.ttMiss ∧ s'.bellows.birq = s.bellows.birq ||| (1 <<< 6)))

/-! ### Contexts -/

/-- The events of a context, each on its normal path, by the fields it leaves. The halt line stops every task of a tile and
keeps the state it was in. Once every tile has stopped and no record is open the context is halted and line 5 rises; until then
it is looked at in each hc. A pre-empted context whose tiles hold nothing back is saved: its tiles are free, an image of each in
its save area, and a restore is pending; an atomic of a held task that 100 µs left unanswered is saved so. The restore writes
the images back as soon as the tiles are free; two hc later results in flight are written at their hc, and copies and abandoned
cube operations go on. The scrub zeroes the tiles of a destroyed context, which is then empty (R105, R209, R233, R290, R298,
R299, R303, R304, R308, R309; that these are steps of their own is the model's, log 3). -/
def Obligations.ContextEvents : Prop :=
  (∀ s c t, (ctxOf s c).st = .halting → t ∈ (ctxOf s c).haltTiles → ∃ s', exec (.haltLineArrival c t) s = .next s' ∧
    (ctxOf s' c).haltTiles = (ctxOf s c).haltTiles.filter (fun u => u != t) ∧ (tileOf s' t).hints = [] ∧
    ∀ k < 4, (taskOf s t k).st.occupied = true → (taskOf s t k).st ≠ .stopped → (taskOf s' t k).st = .stopped ∧
      (taskOf s' t k).stSave = (taskOf s t k).st ∧ (taskOf s' t k).preq = false ∧ (tileOf s' t).issuing ≠ some k) ∧
  (∀ s c, (ctxOf s c).st = .halting → (ctxOf s c).haltTiles = [] →
    ((∀ t ∈ ctxTiles s c, recordOpen s t = false) → (ctxOf s c).destroyAfter = false → ∃ s',
      exec (.stopRecordClose c) s = .next s' ∧ (ctxOf s' c).st = .halted ∧ (ctxOf s' c).code = (ctxOf s c).code ∧
      (ctxOf s' c).src = (ctxOf s c).src ∧ (ctxOf s' c).addr = (ctxOf s c).addr ∧
      s'.bellows.birq = s.bellows.birq ||| (1 <<< 5) ∧
      ((∀ t ∈ ctxTiles s c, ∀ o ∈ (tileOf s t).cubeOps, haltDrops s t o = false) → SameMemory s s')) ∧
    ((∃ t ∈ ctxTiles s c, recordOpen s t = true) → ∃ s', exec (.stopRecordClose c) s = .next s' ∧
      s'.contexts = s.contexts ∧ (∃ p ∈ s'.events, p.ev = .stopRecordClose c ∧ p.due ≤ s.hc + 1) ∧ SameMemory s s')) ∧
  (∀ s c, (ctxOf s c).st = .preempting → (∀ t ∈ ctxTiles s c, saveHeld s t = false) → ∃ s',
    exec (.preemptSaveEnd c) s = .next s' ∧ (ctxOf s' c).st = .saved ∧ (ctxOf s' c).restorePending = true ∧
    (ctxOf s' c).save.map (·.tile) = ctxTiles s c ∧ (∀ t ∈ ctxTiles s c, (tileOf s' t).ctx = none) ∧
    ∃ p ∈ s'.events, p.ev = .restorePlacement c ∧ p.due ≤ s.hc + 2) ∧
  (∀ s c t x, (ctxOf s c).st = .preempting → ctxTiles s c = [t] → x = tileOf s t → ∃ s',
    exec (.preemptAtomicTimeout c) s = .next s' ∧ (tileOf s' t).cpy = x.cpy.map (fun e =>
      (e.1, { e.2 with cmds := e.2.cmds.map fun c =>
        if c.atomic && c.sent && c.answered.isNone && (tget ({} : Task) x.tasks c.task).st == .held then
          { c with unanswered := true } else c })) ∧ SameMemory s s') ∧
  (∀ s c v, (ctxOf s c).st = .saved → (ctxOf s c).restorePending = true → tilesFree s c = true → restoreYields s c = false →
    ((ctxOf s c).save.map (·.tile)).Nodup → v ∈ (ctxOf s c).save → tileLost s v.tile = false →
    (∀ g ∈ s.groups, g.ctx = c → ∀ r ∈ g.liveRanks, tileLost s (g.tile r) = false) → ∃ s',
    exec (.restorePlacement c) s = .next s' ∧ (ctxOf s' c).st = .running ∧ (ctxOf s' c).save = [] ∧ (ctxOf s' c).code = 0 ∧
    (tileOf s' v.tile).ctx = some c ∧ (tileOf s' v.tile).floor = v.image.floor ∧ (tileOf s' v.tile).wells = v.image.wells ∧
    (∀ k, (∀ n, readS (taskOf s' v.tile k) n = readS (tget {} v.image.tasks k) n) ∧
      (∀ n, readV (taskOf s' v.tile k) n = readV (tget {} v.image.tasks k) n) ∧
      ((tget {} v.image.tasks k).st = .stopped → (taskOf s' v.tile k).st =
        (if (tget {} v.image.tasks k).stSave = .retired then .retired
         else if (tget {} v.image.tasks k).wait = .none then .ready else .parked))) ∧
    ∃ p ∈ s'.events, p.ev = .restoreResume c ∧ p.due = s.hc + 2) ∧
  (∀ s c t, (ctxOf s c).st = .running → t ∈ ctxTiles s c → ∃ s', exec (.restoreResume c) s = .next s' ∧
    (tileOf s' t).cubeOps = (tileOf s t).cubeOps.map (fun o =>
      if o.st = .abandoned then { o with st := .accepted, acceptedAt := s.hc } else o) ∧
    (∀ o ∈ (tileOf s t).cubeOps, o.st = .abandoned → ∃ p ∈ s'.events, p.ev = .cubeResolution t o.n ∧ p.due ≤ s.hc + 1) ∧
    (∀ e < 4, ∃ p ∈ s'.events, p.ev = .copyStart t e ∧ p.due ≤ s.hc + 1) ∧
    ∀ k < 4, ∀ w ∈ (taskOf s t k).pend, s.hc < w.due → ∃ p ∈ s'.events, p.ev = .fixedLatencyWrite t k ∧ p.due = w.due) ∧
  (∀ s t k, (taskOf s t k).st.occupied = true → (taskOf s t k).st ≠ .stopped →
    exec (.pendingWriteApply t k) s = .next (updTask s t k (writeDue s.hc))) ∧
  (∀ s c, (ctxOf s c).st = .destroyed → (∀ f ∈ s.frames, f.2.ctx = c → f.2.st = .free) → ∃ s',
    exec (.scrubEnd c) s = .next s' ∧ (ctxOf s' c).st = .empty ∧ (ctxOf s' c).keys = [] ∧
    ∀ t ∈ ctxTiles s c, (tileOf s' t).ctx = none ∧ (tileOf s' t).floor = [] ∧ (tileOf s' t).wells = [])

/-! ### The link -/

/-- The events of the link, each on its normal path, by the fields it leaves. A message that is next of its pair moves the
pair's number on; a write is performed and acknowledged, a read answered with its bytes, an atomic goes to its channel's port, a
request for a translation is granted and its holder noted; an answer ends the one access that awaits it: a load's register holds
its bytes, an atomic's sd the old value, a store is off its list, a translation is kept; a notice faults. An invalidation drops
the entry and is acknowledged; an acknowledgement clears the holder. Clock records raise the clock; an acknowledged message is
off the queue. A held message is applied once its causes are met, and reported after its limit. Slots of the circuit table
disconnect and connect the ports; a flit occupies its fibre; a link command's bytes are queued; a message without an answer is
sent again, and after the last try the peer is lost; keys are agreed anew when the links are quiet (R260, R262, R322 to R324,
R334, R335, R337, R340, R341, R343, R386; that these are steps of their own is the model's, log 3). -/
def Obligations.LinkEvents : Prop :=
  (∀ s m l, InTurn s 1 m → accessStale s m = false → targetOf s m true = .ok l → l.pp = false → ∃ s',
    exec (.writeMessage m) s = .next s' ∧ (peerOf s' (msgPeer m)).rackIn = m.seq ∧
    s'.hbm = mwriteAll s.hbm (addrBytes (l.writePa m.va) m.payload) ∧ (∀ t, (tileOf s' t).floor = (tileOf s t).floor) ∧
    (msgPeer m < 16 → tget 0 s'.clockA (msgPeer m) = tget 0 s.clockA (msgPeer m) + 1) ∧
    Queued s' (msgPeer m) 6 fun a => a.status = 0 ∧ a.va.setWidth 32 = m.seq) ∧
  (∀ s m r, InTurn s 1 m → accessStale s m = false → targetOf s m true = .error r → ∃ s',
    exec (.writeMessage m) s = .next s' ∧ (peerOf s' (msgPeer m)).rackIn = m.seq ∧ SameMemory s s' ∧
    Queued s' (msgPeer m) 7 fun a => a.status = 1 ∧ a.va = BitVec.ofNat 64 (m.seq.toNat + 2 ^ 32 * r)) ∧
  (∀ s m l, InTurn s 2 m → accessStale s m = false → targetOf s m false = .ok l → ∃ s',
    exec (.readMessage m) s = .next s' ∧ (peerOf s' (msgPeer m)).rackIn = m.seq ∧ SameMemory s s' ∧
    Queued s' (msgPeer m) 3 fun a => a.status = 0 ∧ a.va.setWidth 32 = m.seq ∧ a.payload = pageBytes s l m.va 8) ∧
  (∀ s m l, InTurn s 4 m → accessStale s m = false → targetOf s m true = .ok l → ∃ s' p q,
    exec (.atomicMessage m) s = .next s' ∧ (peerOf s' (msgPeer m)).rackIn = m.seq ∧ SameMemory s s' ∧ p ∈ s'.events ∧
    p.ev = .atomicPortArrival q ∧ p.due = s.hc ∧ q.port = .hbm (homeChannel (l.writePa m.va)) ∧
    q.addr = l.writePa m.va / 4 * 4 ∧ q.retry = m.retry) ∧
  (∀ s m l, InTurn s 8 m → msgPeer m < 16 → isMember s (msgPeer m) = true →
    translate s (rootOf s m.rctx) m.va (m.payload.head? == some 1) = .here l → l.x = true →
    exportRoom s l = true → ∃ s',
    exec (.translationRequest m) s = .next s' ∧ (peerOf s' (msgPeer m)).rackIn = m.seq ∧ SameMemory s s' ∧
    (frameOf s' (frameNo l.pa0)).holders.getLsbD (msgPeer m) = true ∧ (frameOf s' (frameNo l.pa0)).st = .exported ∧
    Queued s' (msgPeer m) 9 fun a => a.status = 0 ∧ a.va.setWidth 32 = m.seq ∧ a.gen = (frameOf s' (frameNo l.pa0)).gen ∧
      a.payload = leBytes 8 l.bits.toNat ++ leBytes 8 l.bytes) ∧
  (∀ s m w t k n a, InTurn s 3 m → Awaited s m w → w.kind = 2 → m.status ≠ 2 → w.sender = .slot t k n → t < 64 →
    (taskOf s t k).gacc.find? (fun a => a.n == n) = some a → a.load = true → (taskOf s t k).st ≠ .stopped → ∃ s',
    exec (.readReply m) s = .next s' ∧ (peerOf s' (msgPeer m)).waiting = [] ∧ SameMemory s s' ∧
    readS (taskOf s' t k) a.sd = (if a.sd = 0 then 0 else BitVec.ofNat 64 (leNat m.payload)) ∧
    isEmpty (taskOf s' t k) (.s a.sd) = false ∧ (∀ r, r ≠ a.sd → readS (taskOf s' t k) r = readS (taskOf s t k) r) ∧
    (taskOf s' t k).gacc = (taskOf s t k).gacc.filter (fun b => b.n != n)) ∧
  (∀ s m w t e n c, InTurn s 5 m → Awaited s m w → w.kind = 4 → m.status = 0 → w.sender = .engine t e n →
    cmdOf s t e n = some c → c.n = n → c.atomic = true → c.answered = none → c.unanswered = false →
    (taskOf s t c.task).st ≠ .stopped → ∃ s', exec (.atomicReply m) s = .next s' ∧ cmdOf s' t e n = none ∧
    (peerOf s' (msgPeer m)).waiting = [] ∧ SameMemory s s' ∧
    (c.sd ≠ 0 → readS (taskOf s' t c.task) c.sd = BitVec.ofInt 64 (signedOf (if c.ty = 2 then 64 else 32)
      ((BitVec.ofNat 64 (leNat m.payload) : Word).toNat % 2 ^ (if c.ty = 2 then 64 else 32)))) ∧
    latchIn (taskOf s' t c.task).lat (64 * e + 7) = BitVec.ofNat 64 (2 ^ 8 * c.id)) ∧
  (∀ s m w t k n a, InTurn s 6 m → Awaited s m w → w.kind = 1 → m.status ≠ 2 → w.sender = .slot t k n → t < 64 →
    (taskOf s t k).gacc.find? (fun a => a.n == n) = some a → a.load = false → ∃ s',
    exec (.writeAcknowledgement m) s = .next s' ∧ (peerOf s' (msgPeer m)).waiting = [] ∧ SameMemory s s' ∧
    (taskOf s' t k).gacc = (taskOf s t k).gacc.filter (fun b => b.n != n)) ∧
  (∀ s m w t k n a c, InTurn s 7 m → Awaited s m w → w.kind = 1 → w.sender = .slot t k n → t < 64 →
    (taskOf s t k).gacc.find? (fun a => a.n == n) = some a → a.load = false → (tileOf s t).ctx = some c →
    (ctxOf s c).st = .running → ∃ s', exec (.noticeMessage m) s = .next s' ∧
    (taskOf s' t k).gacc = (taskOf s t k).gacc.filter (fun b => b.n != n) ∧ (ctxOf s' c).st = .halting ∧
    (ctxOf s' c).addr = a.va ∧ (ctxOf s' c).code =
      (if wfld m.va 32 8 = 2 then 0x22 else if wfld m.va 32 8 = 0 then 0x48 else 0x4A) ∧ SameMemory s s') ∧
  (∀ s m w n x, InTurn s 9 m → Awaited s m w → w.kind = 8 → m.status = 0 → w.sender = .walk n →
    s.walks.find? (fun x => x.n == n) = some x → ∃ s' r, exec (.translationReply m) s = .next s' ∧ r ∈ s'.remotes ∧
    r.ctx = x.ctx ∧ r.pkg = msgPeer m ∧ r.rctx = w.msg.rctx ∧ r.gen = m.gen ∧ r.va ≤ x.va.toNat ∧
    x.va.toNat < r.va + r.bytes ∧ r.bytes = max 1 (leNat (m.payload.drop 8)) ∧ r.dropped = false ∧ SameMemory s s') ∧
  (∀ s m r, InTurn s 10 m → s.remotes = [r] → r.pkg = msgPeer m → r.rctx = m.rctx → r.va ≤ m.va.toNat →
    m.va.toNat < r.va + r.bytes → xlatInUse s r = false → ∃ s', exec (.invalidation m) s = .next s' ∧ s'.remotes = [] ∧
    SameMemory s s' ∧ Queued s' (msgPeer m) 11 fun a => a.va = BitVec.ofNat 64 r.va ∧ a.rctx = r.rctx ∧ a.gen = m.gen) ∧
  (∀ s m n f, InTurn s 11 m → msgPeer m < 16 → s.frames = [(n, f)] → f.ctx = m.rctx → f.va = m.va.toNat →
    (tget 0 f.granted (msgPeer m) - m.gen).msb = true →
    (∀ x ∈ s.peers, x.2.replies = []) → ∃ s', exec (.invalidationAcknowledgement m) s = .next s' ∧
    (frameOf s' n).holders.getLsbD (msgPeer m) = false ∧
    (∀ q < 16, q ≠ msgPeer m → (frameOf s' n).holders.getLsbD q = f.holders.getLsbD q) ∧ SameMemory s s') ∧
  (∀ s m r i, InTurn s 12 m → msgPeer m < 16 → (peerOf s (msgPeer m)).clockSeen = [] → m.recs = [r] →
    i = 16 * wfld (r.setWidth 64) 4 4 + wfld (r.setWidth 64) 0 4 → ∃ s', exec (.clockOnly m) s = .next s' ∧
    (peerOf s' (msgPeer m)).rackIn = m.seq ∧ tget 0 (peerOf s' (msgPeer m)).clockSeen i = r >>> 8 ∧
    tget 0 s'.clockK i = (if (tget 0 s.clockK i - r >>> 8).msb then r >>> 8 else tget 0 s.clockK i) ∧
    (∀ j, j ≠ i → tget 0 s'.clockK j = tget 0 s.clockK j) ∧ SameMemory s s') ∧
  (∀ s m, strayFrame s m = false → msgValid s 13 m = true → ∃ s', exec (.linkAcknowledgement m) s = .next s' ∧ SameMemory s s' ∧
    (peerOf s' (msgPeer m)).sent = (peerOf s (msgPeer m)).sent.filter (fun x => x.pass || x.again || (m.rack - x.msg.seq).msb) ∧
    (peerOf s' (msgPeer m)).rackIn = (peerOf s (msgPeer m)).rackIn) ∧
  (∀ s n h l, s.cwHeld.find? (fun h => heldName h.msg == n) = some h →
    s.cwHeld.find? (fun x => msgPeer x.msg == msgPeer h.msg) = some h → mustWait s (msgPeer h.msg) h.kind h.clock = false →
    h.kind = 1 → accessStale s h.msg = false → targetOf s h.msg true = .ok l → l.pp = false → ∃ s',
    exec (.heldMessageApply n) s = .next s' ∧ s'.cwHeld = s.cwHeld.filter (fun x => x != h) ∧
    s'.hbm = mwriteAll s.hbm (addrBytes (l.writePa h.msg.va) h.msg.payload) ∧
    Queued s' (msgPeer h.msg) 6 fun a => a.status = 0 ∧ a.va.setWidth 32 = h.msg.seq) ∧
  (∀ s n h, h ∈ waitingMsgs s → heldName h.msg = n → h.reported = false →
    h.at_ + 1000 * wfld (srWord s 0x215) 16 16 < s.ts → ∃ s', exec (.causalWaitLimit n) s = .next s' ∧
    s'.cwLate = satCount s.cwLate ∧ SameMemory s s' ∧
    s'.cwHeld = s.cwHeld.map fun h => if heldName h.msg == n then { h with reported := true } else h) ∧
  (∀ s i t c, s.circuitRun.nextAt = some (i, false, t) → i ≠ 0 → t ≤ s.ts →
    c = (s.circuitRun.live.drop i).headD ({} : Circuit) → ∃ s', exec (.circuitSlotStart i false) s = .next s' ∧
    s'.circuitRun.idx = i ∧ s'.circuitRun.data = false ∧ s'.circuitRun.ends = t + c.g.toNat ∧
    (∀ k < 16, (portOf s' k).peer = none) ∧ SameMemory s s' ∧
    ∃ p ∈ s'.events, p.ev = .circuitSlotStart i true ∧ p.ts = some (t + c.g.toNat)) ∧
  (∀ s i t c, s.circuitRun.nextAt = some (i, true, t) → t ≤ s.ts →
    c = (s.circuitRun.live.drop i).headD ({} : Circuit) → circuitOk c = true → ∃ s',
    exec (.circuitSlotStart i true) s = .next s' ∧ s'.circuitRun.data = true ∧ s'.circuitRun.ends = t + c.l.toNat ∧
    SameMemory s s' ∧ ∀ k < 16, (portOf s' k).peer =
      (if circuitPeer c k = selfIdx s then none else some (circuitPeer c k))) ∧
  (∀ s p q m l, (∀ k < 16, wakeDue s k = false) → waitingFor s p = [(q, m)] → m ∈ (peerOf s q).sent → m.left = 1 → m.pass = false →
    (peerOf s q).backlog = [] →
    bestLane (lanesTo s p (4200 * m.lastSent)) = some l → l.start ≤ fineNow s → ∃ s',
    exec (.messageSend p) s = .next s' ∧ (fibreOf s' l.port l.fib).started = l.start ∧
    (fibreOf s' l.port l.fib).busy = l.ends ∧ SameMemory s s' ∧ (peerOf s' q).sent = ((peerOf s q).sent.map fun y =>
      if y = m then { m with left := 0, lastSent := ceilDiv l.ends 4200 } else y) ∧
    ∃ e ∈ s'.events, e.ev = .linkResendExpiry q m.msg.seq.toNat ∧
      e.ts = some (ceilDiv l.ends 4200 + 1000 * wfld (srWord s 0x245) 0 16)) ∧
  (∀ s t c n bs s1, (tileOf s t).lnk = [c] → c.offset < lnkLen c.lat → (taskOf s t c.task).st ≠ .stopped →
    earlierGlobal s t c.task c.after = false → earlierStores s t c.task c.acceptedAt = false → lnkRoutes s c = true →
    n = min (lnkLen c.lat - c.offset) (4096 - ((latchIn c.lat 0x182).toNat + c.offset) % 4096) →
    queueRoom s c.peer 1 n = true → ensureUnit s t c.task (tileCtx s t) (BitVec.ofNat 64 ((latchIn c.lat 0x181).toNat + c.offset))
      false = (true, s1) → readGlobal s1 (tileCtx s t) ((latchIn c.lat 0x181).toNat + c.offset) n = .ok bs → ∃ s' d,
    exec (.linkCommandTake t) s = .next s' ∧ (tileOf s' t).lnk = [d] ∧ d.offset = c.offset + n ∧ SameMemory s s' ∧
    (∃ q, d.pendingSeqs = c.pendingSeqs ++ [q]) ∧ Queued s' c.peer 1 fun a => a.payload = bs ∧
      a.va = BitVec.ofNat 64 ((latchIn c.lat 0x182).toNat + c.offset)) ∧
  (∀ s p q m, (∀ w ∈ (peerOf s p).waiting, w.stale = 0) →
    (peerOf s p).sent.find? (fun m => !m.pass && m.msg.seq.toNat == q && m.left == 0) = some m →
    m.lastSent + resendNs s ≤ s.ts →
    (m.tries < wfld (srWord s 0x245) 16 4 → queueTakes s (if 16 ≤ p then p else m.msg.via) (msgFlits m.msg) = true → ∃ s',
      exec (.linkResendExpiry p q) s = .next s' ∧ SameMemory s s' ∧
      ∃ x ∈ (peerOf s' p).sent, x.kind = m.kind ∧ x.msg.seq = m.msg.seq ∧ x.msg.payload = m.msg.payload ∧
        x.tries = m.tries + 1 ∧ x.left = msgFlits m.msg ∧ x.msg.rack = (peerOf s p).rackIn) ∧
    (wfld (srWord s 0x245) 16 4 ≤ m.tries → (m.again && m.kind == 12) = false → (peerOf s p).waiting = [] → ∃ s', exec (.linkResendExpiry p q) s = .next s' ∧
      (s.remotes = [] → (peerOf s' p).sent = []) ∧ s'.bellows.birq = s.bellows.birq ||| (1 <<< 7) ∧ SameMemory s s')) ∧
  (∀ s p, (peerOf s p).ackDue.isSome = true → queueTakes s ((routeOf s p).getD p) 1 = true → ∃ s' x, exec (.linkAckTimer p) s = .next s' ∧
    (peerOf s' p).ackDue = none ∧ (peerOf s' p).sent = (peerOf s p).sent ++ [x] ∧ x.kind = 13 ∧
    x.msg.rack = (peerOf s p).rackIn ∧ SameMemory s s') ∧
  (∀ s w, s.cgrpPend = some w → linksQuiet s = true → ethWorn s = false → ∃ s',
    exec .keyReagreement s = .next s' ∧ s'.clockK = [] ∧ s'.clockA = [] ∧ s'.cgrpPend = none ∧
    wfld (srWord s' 0x214) 0 4 = wfld w 0 4 ∧
    (∀ q < 16, wbitAt (srWord s' 0x214) (16 + q) = (wbitAt w (16 + q) && (q == wfld w 0 4 || Config.pairOk q s.free))) ∧
    (∀ p < 16, (peerOf s' p).nextSeq = 1 ∧ (peerOf s' p).rackIn = 0 ∧ (peerOf s' p).sent = []) ∧
    (∀ p, 16 ≤ p → peerOf s' p = peerOf s p) ∧ SameMemory s s')

/-! ### Wavelengths and time -/

/-- The events of the wavelengths and of the counter's time source, each on its normal path, by the fields it leaves. A change of
a fibre's active set is announced for a multiple of 16 ns: the join of a wavelength that passed its training, of those that have
woken, of one that passed its retraining; the leave of the highest one of an idle fibre, or of one handed out. A failed training
leaves the wavelength dark. A wake trigger starts the parked ones. At its time a change applies. Corrected bits, crossings and
uncorrectable flits are counted; a failed retraining counts and begins again, or leaves the wavelength dark. A sync gives an
offset: the first steps the counter forward or slews it, later ones slew it, and sixteen near ones lock; a follow-up gives the
origin of a two-step sync, a delay response the path delay; of the masters announced twice the best one is followed (log 130). A pulse sets the counter and raises
line 8, and lock goes with the pulses (R329 to R333, R346, R347, R374, R387, R388; that these are steps of their own is the
model's, log 3). -/
def Obligations.WaveAndTimeEvents : Prop :=
  (∀ s p f l, laneOk p f l = true → (waveOf (fibreOf s p f) l).st = .training →
    (joining (fibreOf s p f)).contains l = false →
    (∃ s', exec (.trainingEnd p f l true) s = .next s' ∧ Announced s s' p f (.join [l]) s.ts ∧ SameMemory s s') ∧
    (∃ s', exec (.trainingEnd p f l false) s = .next s' ∧ (waveOf (fibreOf s' p f) l).st = .dark ∧
      (∀ m, m ≠ l → waveOf (fibreOf s' p f) m = waveOf (fibreOf s p f) m) ∧ SameMemory s s')) ∧
  (∀ s p f l ls, mayPark s p f = true →
    (wavesIn s p f .up).filter (fun l => !(leaving (fibreOf s p f)).contains l) = ls ++ [l] → parkKeep s < ls.length + 1 →
    ∃ s', exec (.parkDecision p f) s = .next s' ∧ Announced s s' p f (.leave l false) (s.ts / 16 * 16) ∧ SameMemory s s') ∧
  (∀ s p f l, p < 16 → wakeDue s p = true → f < 8 → l < 8 → (waveOf (fibreOf s p f) l).st = .parked → ∃ s',
    exec (.wakeTrigger p) s = .next s' ∧ (waveOf (fibreOf s' p f) l).st = .waking ∧
    (waveOf (fibreOf s' p f) l).since = s.ts ∧
    (∃ q ∈ s'.events, q.ev = .wakeEnd p f ∧ q.ts = some (s.ts + 400)) ∧ SameMemory s s') ∧
  (∀ s p f ls, (wavesIn s p f .waking).filter (fun l => decide ((waveOf (fibreOf s p f) l).since + 400 ≤ s.ts) &&
      !(joining (fibreOf s p f)).contains l) = ls → ls ≠ [] → ∃ s', exec (.wakeEnd p f) s = .next s' ∧
    Announced s s' p f (.join ls) s.ts ∧ SameMemory s s') ∧
  (∀ s p f c h, (fibreOf s p f).changes = [(c, h)] → c ≤ s.ts → (fibreOf s p f).busy ≤ fineNow s →
    (∀ q, (portOf s p).peer = some q → wakeDue s p = false) → ∃ s', exec (.linkChangeEffect p f) s = .next s' ∧ (fibreOf s' p f).changes = [] ∧
    (∀ l, h = .join [l] → (waveOf (fibreOf s' p f) l).st = .up ∧ (waveOf (fibreOf s' p f) l).fails = 0) ∧
    (∀ l, h = .leave l true → (waveOf (fibreOf s' p f) l).st = .retraining ∧ (waveOf (fibreOf s' p f) l).since = c) ∧
    (∀ l, h = .leave l false → (waveOf (fibreOf s p f) l).wake = false → (waveOf (fibreOf s' p f) l).st = .parked) ∧
    (∀ l, h = .leave l false → (waveOf (fibreOf s p f) l).wake = true → (waveOf (fibreOf s' p f) l).st = .waking) ∧
    SameMemory s s') ∧
  (∀ s p f l n, laneOk p f l = true → ∃ s', exec (.berWindowClose p f l n) s = .next s' ∧ (n.up = false → s' = s) ∧
    (n.up = true → (fibreOf s' p f).cbits = (fibreOf s p f).cbits + BitVec.ofNat 32 n.bits ∧
      (fibreOf s' p f).hout = (if wfld (srWord s 0x243) 0 16 < n.bits then satCount (fibreOf s p f).hout else (fibreOf s p f).hout)) ∧
    (fibreOf s' p f).waves = (fibreOf s p f).waves ∧ SameMemory s s') ∧
  (∀ s p f l, laneOk p f l = true → (waveOf (fibreOf s p f) l).st = .up → (leaving (fibreOf s p f)).contains l = false →
    (wavesIn s p f .up).filter (fun k => k != l && !(leaving (fibreOf s p f)).contains k) ≠ [] → ∃ s',
    exec (.handOut p f l) s = .next s' ∧ Announced s s' p f (.leave l true) s.ts ∧ SameMemory s s') ∧
  (∀ s p f l n lim w, laneOk p f l = true → w = waveOf (fibreOf s p f) l → w.st = .retraining →
    w.since + 42768 ≤ s.ts → (joining (fibreOf s p f)).contains l = false → ∃ s',
    exec (.retrainAttemptEnd p f l n lim false) s = .next s' ∧ SameMemory s s' ∧
    (n ≤ max (lim / 8) 1 → Announced s s' p f (.join [l]) s.ts) ∧
    (max (lim / 8) 1 < n → (waveOf (fibreOf s' p f) l).fails = w.fails + 1 ∧
      (wfld (srWord s 0x243) 16 4 ≤ w.fails + 1 → (waveOf (fibreOf s' p f) l).st = .dark) ∧
      (w.fails + 1 < wfld (srWord s 0x243) 16 4 → (waveOf (fibreOf s' p f) l).st = .retraining ∧
        (waveOf (fibreOf s' p f) l).since = s.ts))) ∧
  (∀ s p f l n lim, laneOk p f l = true → ∃ s', exec (.retrainAttemptEnd p f l n lim true) s = .next s' ∧
    (fibreOf s' p f).cbits = (fibreOf s p f).cbits + BitVec.ofNat 32 n ∧
    (fibreOf s' p f).waves = (fibreOf s p f).waves ∧ SameMemory s s') ∧
  (∀ s p f, laneOk p f 0 = true → ∃ s', exec (.uncorrectableFlit p f) s = .next s' ∧
    (fibreOf s' p f).ucf = satCount (fibreOf s p f).ucf ∧ (fibreOf s' p f).waves = (fibreOf s p f).waves ∧ SameMemory s s') ∧
  (∀ s p o g, fromMaster s p = true → p.twoStep = false → o = Int.ofNat s.ts - p.origin - s.disc.pathDelay →
    g = (if o ≤ 100 ∧ -100 ≤ o then s.disc.good + 1 else 0) → ∃ s', exec (.ptpSync p) s = .next s' ∧
    s'.disc.syncOrigin = some p.origin ∧ s'.disc.good = g ∧ s'.locked = decide (16 ≤ g) ∧ s'.disc.stepped = true ∧
    (s.disc.stepped = true ∨ 0 ≤ o → s'.ts = s.ts ∧ s'.disc.slew = -o) ∧
    (s.disc.stepped = false → o < 0 → s'.ts = s.ts + (-o).toNat ∧ s'.disc.slew = 0) ∧ SameMemory s s') ∧
  (∀ s p, fromMaster s p = true → p.twoStep = true → ∃ s', exec (.ptpSync p) s = .next s' ∧ s'.disc.syncSeq = p.seq ∧
    s'.disc.syncRecv = Int.ofNat s.ts ∧ s'.disc.syncOrigin = none ∧ s'.ts = s.ts ∧ SameMemory s s') ∧
  (∀ s p o, fromMaster s p = true → p.seq = s.disc.syncSeq → s.disc.syncOrigin = none → s.disc.stepped = true →
    o = s.disc.syncRecv - p.origin - s.disc.pathDelay → ∃ s', exec (.ptpFollowUp p) s = .next s' ∧
    s'.disc.syncOrigin = some p.origin ∧ s'.ts = s.ts ∧ s'.disc.slew = -o ∧ SameMemory s s') ∧
  (∀ s p o, fromMaster s p = true → s.disc.syncOrigin = some o → s.disc.reqSeq = some p.seq → ∃ s',
    exec (.ptpDelayResp p) s = .next s' ∧ s'.disc.pathDelay = ((s.disc.syncRecv - o) + (p.origin - s.disc.reqSent)) / 2 ∧ s'.ts = s.ts ∧ SameMemory s s') ∧
  (∀ s p, ptpHeard s p = true → ∃ s', exec (.ptpAnnounce p) s = .next s' ∧ SameMemory s s' ∧ s'.ts = s.ts ∧
    (s'.disc.master.map (·.2) ≠ s.disc.master.map (·.2) → s'.locked = false ∧ s'.disc.good = 0 ∧ s'.disc.pathDelay = 0) ∧
    (s.disc.master = none → s.disc.heard = [] → s'.disc.master = none) ∧
    (∀ r h, s.disc.master = none → s.disc.heard = [⟨p.master, r, [h]⟩] → s.hc ≤ h + 4 * announceHc →
      s'.disc.master = some (p.priority, p.master)) ∧
    (∀ b r h k g, s.disc.master = some b → b.2 ≠ p.master → s.disc.heard = [⟨p.master, r, [h]⟩, ⟨b.2, b.1, k :: g⟩] →
      s.hc ≤ h + 4 * announceHc → s.hc ≤ k + 4 * announceHc →
      s'.disc.master = (if p.priority < b.1 ∨ (p.priority = b.1 ∧ p.master < b.2) then some (p.priority, p.master) else some b))) ∧
  (∀ s, ∃ s', exec .ppsEdge s = .next s' ∧ s'.bellows.birq = s.bellows.birq ||| (1 <<< 8) ∧ SameMemory s s' ∧
    (timeSource s ≠ 1 → s'.ts = s.ts) ∧
    (timeSource s = 1 → s'.ts = (srWord s 0x24D).toNat ∧ s'.tsPhase = 0 ∧ s'.disc.lastEdge = some s.hc ∧
      (s'.locked = true ↔ ∃ h, s.disc.lastEdge = some h ∧ h + 700000000 ≤ s.hc + 700 ∧ s.hc ≤ h + 700000000 + 700) ∧
      ∃ q ∈ s'.events, q.ev = .ppsLockLost ∧ q.due = s.hc + 700000701)) ∧
  (∀ s h, timeSource s = 1 → s.disc.lastEdge = some h → h + 700000700 < s.hc → ∃ s',
    exec .ppsLockLost s = .next s' ∧ s'.locked = false ∧ s'.ts = s.ts ∧ SameMemory s s')

/-! ### Health -/

/-- The events of the tiles' health, each on its normal path, by the fields it leaves. A beating tile signs a beat for every
neighbour at each multiple of 1,000 ns. A good beat in time counts; one whose tile, sequence or signature is wrong is a babble
event, and a second within 8,000 ns, or silence for 4,050 ns, accuses the neighbour. A vote that a tile has not seen is kept and
goes to its live neighbours; the one that completes a quorum sets the declaration 2,000 ns later. A fenced tile stops beating and
holds nothing. The rotation's tile is swept once it is free, or skipped and counted; a passed sweep frees the tile, a failed one
records its window; the passed sweep of a fenced tile begins its appeal, which is accepted at its time, or refused and counted,
and the last refusal retires the tile (R350 to R356, R358 to R361; that these are steps of their own is the model's, log 3). -/
def Obligations.HealthEvents : Prop :=
  (∀ s t, (∀ p ∈ neighbours t, s.ts ≤ (nbOf (healthOf s t) p.1).lastGood + 1000) → beats (healthOf s t) = true →
    ∃ s', exec (.heartbeatSend t) s = .next s' ∧ (healthOf s' t).miss = (healthOf s t).miss ∧
    (∃ p ∈ s'.events, p.ev = .heartbeatSend t ∧ p.ts = some ((s.ts / 1000 + 1) * 1000)) ∧ SameMemory s s' ∧
    ∀ d n, (d, n) ∈ neighbours t → (nbOf (healthOf s' t) d).sent = (nbOf (healthOf s t) d).sent + 1 ∧
      ∃ p ∈ s'.events, ∃ b : Beat, p.ev = .heartbeatReceive n (opposite d) b ∧
        b.seq = (nbOf (healthOf s t) d).sent + 1 ∧ b.tile = BitVec.ofNat 6 t ∧ b.stamp = BitVec.ofNat 32 s.ts ∧
        b.sig = Config.beatSig s.beatKey (beatBits b)) ∧
  (∀ s t d b n x r, t < 64 → neighbour t d = some n → closedTile s t = false → x = nbOf (healthOf s t) d →
    b.tile.toNat = n → b.sig = Config.beatSig s.beatKey (beatBits b) → b.seq = x.expect + 1 → x.lastGood + 900 ≤ s.ts →
    r = (if s.ts ≤ x.lastGood + 1100 then x.run + 1 else 1) → ∃ s', exec (.heartbeatReceive t d b) s = .next s' ∧
    (r < 16 → nbOf (healthOf s' t) d = { x with expect := b.seq, lastGood := s.ts, run := r }) ∧
    (16 ≤ r → x.accused = true → (nbOf (healthOf s' t) d).accused = false) ∧
    (∃ p ∈ s'.events, p.ev = .heartbeatSilence t d ∧ p.due ≤ s.hc + 1) ∧ SameMemory s s') ∧
  (∀ s t d b n, t < 64 → neighbour t d = some n → closedTile s t = false → closedTile s n = false → b.tile.toNat ≠ n →
    (nbOf (healthOf s t) d).accused = false → ∃ s', exec (.heartbeatReceive t d b) s = .next s' ∧
    (healthOf s' t).bab = satCount (healthOf s t).bab ∧ (nbOf (healthOf s' t) d).run = 0 ∧
    (nbOf (healthOf s' t) d).babbles =
      (nbOf (healthOf s t) d).babbles.filter (fun b => decide (s.ts ≤ b + 8000)) ++ [s.ts] ∧
    ((∀ b ∈ (nbOf (healthOf s t) d).babbles, b + 8000 < s.ts) → (nbOf (healthOf s' t) d).accused = false) ∧
    ((∃ b ∈ (nbOf (healthOf s t) d).babbles, s.ts ≤ b + 8000) → (nbOf (healthOf s' t) d).accused = true ∧
      (healthOf s' n).st = .accused ∧ ⟨.accuse, t, n, s.ts⟩ ∈ (healthOf s' t).votes) ∧ SameMemory s s') ∧
  (∀ s t d n x, t < 64 → neighbour t d = some n → x = nbOf (healthOf s t) d →
    (s.ts < x.lastGood + 4050 → ∃ s', exec (.heartbeatSilence t d) s = .next s' ∧ s'.tiles = s.tiles ∧
      ∃ p ∈ s'.events, p.ev = .heartbeatSilence t d ∧ p.ts = some (x.lastGood + 4050)) ∧
    (x.lastGood + 4050 ≤ s.ts → x.accused = false → closedTile s t = false → closedTile s n = false → ∃ s',
      exec (.heartbeatSilence t d) s = .next s' ∧ (nbOf (healthOf s' t) d).accused = true ∧
      (healthOf s' n).st = .accused ∧ (healthOf s' t).accd = satCount (healthOf s t).accd ∧
      ⟨.accuse, t, n, s.ts⟩ ∈ (healthOf s' t).votes ∧ SameMemory s s')) ∧
  (∀ s t v, t < 64 → closedTile s t = false → seenVote (healthOf s t) v = false → voidVote s v = false → ∃ s',
    exec (.voteMessage t v) s = .next s' ∧ v ∈ (healthOf s' t).votes ∧ SameMemory s s' ∧
    (∀ p ∈ liveNeighbours s t, p.2 ≠ v.accused ∨ v.kind = .appeal → ∃ e ∈ s'.events, e.ev = .voteMessage p.2 v) ∧
    ∀ q, v.kind = .accuse → closedTile s v.accused = false → earlierThan q (healthOf s v.accused).fenceAt = true →
      quorumAt s' t v.accused .accuse = some q → (healthOf s' v.accused).fenceAt = some (q + 2000, q) ∧
      ∃ e ∈ s'.events, e.ev = .fenceDeclaration v.accused ∧ e.ts = some (q + 2000)) ∧
  (∀ s t td x, (healthOf s t).fenceAt = some (td, x) →
    (s.ts < td → ∃ s', exec (.fenceDeclaration t) s = .next s' ∧ s'.tiles = s.tiles ∧
      ∃ e ∈ s'.events, e.ev = .fenceDeclaration t ∧ e.ts = some td) ∧
    (td ≤ s.ts → dueFence s = some t → quorumAt s (viewerOf s t) t .accuse ≠ none → ∃ s',
      exec (.fenceDeclaration t) s = .next s' ∧ (healthOf s' t).st = .fenced ∧ (healthOf s' t).beating = false ∧
      (tileOf s' t).ctx = none ∧ (tileOf s' t).floor = [] ∧ (tileOf s' t).wells = [] ∧
      ∀ k, (taskOf s' t k).st = .free)) ∧
  (∀ s, s.sweep.en = true → s.sweep.waiting = none → closedTile s s.sweep.next = false → ∃ s',
    exec .sweepRotation s = .next s' ∧ s'.sweep = { s.sweep with waiting := some s.sweep.next } ∧
    (∃ e ∈ s'.events, e.ev = .sweepStart s.sweep.next ∧ e.due ≤ s.hc) ∧
    (∃ e ∈ s'.events, e.ev = .sweepWaitExpiry s.sweep.next ∧ e.ts = some (s.ts + 1000000 * s.sweep.wait)) ∧
    (∃ e ∈ s'.events, e.ev = .sweepRotation ∧ e.ts = some (s.ts + 1000000 * s.sweep.ivl)) ∧ SameMemory s s') ∧
  (∀ s t, (s.sweep.waiting = some t → (healthOf s t).st = .free → islandRuns s t = true → ∃ s',
      exec (.sweepStart t) s = .next s' ∧ (healthOf s' t).st = .sweeping ∧ (healthOf s' t).sweepStart = tsWord s ∧
      s'.sweep.cur = t ∧ s'.sweep.act = true ∧ s'.sweep.waiting = none ∧ (healthOf s' t).testing = true ∧
      (∃ e ∈ s'.events, ∃ p b, e.ev = .sweepEnd t p b ∧ e.due ≤ s.hc + usToHc 2200) ∧ SameMemory s s') ∧
    ((healthOf s t).st = .fenced → (healthOf s t).bond = false → (healthOf s t).testing = false → islandRuns s t = true →
      ∃ s', exec (.sweepStart t) s = .next s' ∧ (healthOf s' t).testing = true ∧ (healthOf s' t).sweepStart = tsWord s ∧
      (healthOf s' t).st = .fenced ∧
      (∃ e ∈ s'.events, ∃ p b, e.ev = .sweepEnd t p b ∧ e.due ≤ s.hc + usToHc 2200) ∧ SameMemory s s')) ∧
  (∀ s t, s.sweep.waiting = some t → ∃ s', exec (.sweepWaitExpiry t) s = .next s' ∧ s'.sweep.waiting = none ∧
    s'.sweep.skip = satCount s.sweep.skip ∧ s'.tiles = s.tiles) ∧
  (∀ s t p, (healthOf s t).st = .sweeping → (healthOf s t).testing = true →
    (∃ s', exec (.sweepEnd t p true) s = .next s' ∧ (healthOf s' t).st = .free ∧
      (healthOf s' t).lastpass = (healthOf s t).sweepStart ∧ (healthOf s' t).testing = false ∧
      ((∀ u, u ≠ t → (healthOf s u).testing = false) → s'.sweep.act = false) ∧ SameMemory s s') ∧
    (∃ s', exec (.sweepEnd t p false) s = .next s' ∧ (healthOf s' t).sv = true ∧ (healthOf s' t).pat = BitVec.ofNat 8 p ∧
      (healthOf s' t).swsus0 = (healthOf s t).lastpass ∧ (healthOf s' t).swsus1 = (healthOf s t).sweepStart ∧
      (healthOf s' t).beating = false ∧ s'.sweep.fail = satCount s.sweep.fail ∧
      s'.bellows.birq = s.bellows.birq ||| (1 <<< 1) ∧ SameMemory s s')) ∧
  (∀ s t p, (healthOf s t).st = .fenced → (healthOf s t).testing = true → ∃ s', exec (.sweepEnd t p true) s = .next s' ∧
    (healthOf s' t).st = .appealing ∧ (healthOf s' t).beating = true ∧ (healthOf s' t).appealAt = some s.ts ∧
    (∃ e ∈ s'.events, e.ev = .appealTimeout t ∧ e.ts = some (s.ts + 100000)) ∧ SameMemory s s') ∧
  (∀ s t ta x, (healthOf s t).acceptAt = some (ta, x) →
    (s.ts < ta → ∃ s', exec (.appealAccept t) s = .next s' ∧ s'.tiles = s.tiles ∧
      ∃ e ∈ s'.events, e.ev = .appealAccept t ∧ e.ts = some ta) ∧
    (ta ≤ s.ts → ∃ s', exec (.appealAccept t) s = .next s' ∧ (healthOf s' t).st = .free ∧ (healthOf s' t).afail = 0 ∧
      (healthOf s' t).appealAt = none ∧ (healthOf s' t).acceptAt = none ∧ SameMemory s s')) ∧
  (∀ s t a, (healthOf s t).appealAt = some a → (healthOf s t).st = .appealing → (healthOf s t).acceptAt = none →
    a + 100000 ≤ s.ts → ∃ s', exec (.appealTimeout t) s = .next s' ∧ (healthOf s' t).beating = false ∧ SameMemory s s' ∧
      (s.sweep.tries ≤ (healthOf s t).afail + 1 → (healthOf s' t).st = .retired) ∧
      ((healthOf s t).afail + 1 < s.sweep.tries → (healthOf s' t).st = .fenced ∧
        (healthOf s' t).afail = min 15 ((healthOf s t).afail + 1)))

/-! ### Layers, error banks, registers with effects -/

/-- The events of the layers, the banks and the registers, each on its normal path, by the fields it leaves. A sample of the
sensors is held, and a layer at its critical temperature takes its largest damper step; a due evaluation steps a damper up, down,
or to the manual step. A failing flue is retired, at boundary 0 after its bank's repair; a suspect bond stops the tile's beats; a
restarted island runs. A detected error stands in its bank, and a consumed one also raises line 1. Reads of sr.ttstat, sr.lnkcnt
and sr.hbcnt clear their counts; writes of 1 clear sr.birq's lines, sr.errst's record and sr.swres.sv; sr.islctl stops and restarts an
island, sr.cgrp agrees a group, sr.dmpctl sets a layer's damper, the others take a write by their scope (R4, R21, R164, R311,
R314, R315, R337, R358, R361, R367, R368, R371; that these are steps of their own is the model's, log 3). -/
def Obligations.LayersAndRegisters : Prop :=
  (∀ s p ts d, s.layermap = [d] → ∃ s', exec (.sensorSample p ts) s = .next s' ∧ s'.power = p.power ∧ s'.sample = ts ∧
    (∀ n v, (p.volts.take 72)[n]? = some v → (tget ({} : Island) s'.islands n).vmeas = v.toNat) ∧
    (∃ e ∈ s'.events, isSample e.ev = true) ∧
    (layerOf s' 0).temps = ts.take 16 ∧ SameMemory s s' ∧
    (layerOf s' 0).d = (if (layerOf s 0).crit.toInt ≤ layerTemp { layerOf s 0 with temps := ts.take 16 }
      then (layerOf s 0).dmax else (layerOf s 0).d)) ∧
  (∀ s d x, s.layermap = [d] → x = layerOf s 0 →
    x.evalTs / (1000 * max 1 x.ivl) < s.ts / (1000 * max 1 x.ivl) → ∃ s', exec .damperEvaluation s = .next s' ∧
    (layerOf s' 0).evalTs = s.ts ∧ SameMemory s s' ∧
    (x.crit.toInt ≤ layerTemp x → (layerOf s' 0).d = x.dmax) ∧
    (layerTemp x < x.crit.toInt → x.auto = false → (layerOf s' 0).d = x.man) ∧
    (layerTemp x < x.crit.toInt → x.auto = true → x.hi.toInt ≤ layerTemp x → (layerOf s' 0).d = min (x.d + 1) x.dmax) ∧
    (layerTemp x < x.crit.toInt → x.auto = true → layerTemp x < x.hi.toInt → wfld (srWord s 0x268) 0 12 < s.power →
      (layerOf s' 0).d = min (x.d + 1) x.dmax) ∧
    (layerTemp x < x.crit.toInt → x.auto = true → layerTemp x < x.hi.toInt → s.power ≤ wfld (srWord s 0x268) 0 12 →
      layerTemp x ≤ x.hi.toInt - x.hys.toNat → s.power + wfld (srWord s 0x268) 32 8 ≤ wfld (srWord s 0x268) 0 12 →
      (layerOf s' 0).d = max (x.d - 1) x.dmin)) ∧
  (∀ s t b f, t < 64 → b < 9 → f < 4 → (tileOf s t).fluert.getLsbD (4 * b + f) = false →
    (b ≠ 0 → ∃ s', exec (.flueRetirement t b f) s = .next s' ∧
      (tileOf s' t).fluert = (tileOf s t).fluert ||| (1 <<< (4 * b + f)) ∧ s'.bellows.birq.getLsbD 3 = true ∧ SameMemory s s') ∧
    (b = 0 → (tileOf s t).repair.contains f = false → ∃ s', exec (.flueRetirement t b f) s = .next s' ∧
      (tileOf s' t).repair = f :: (tileOf s t).repair ∧ (tileOf s' t).fluert = (tileOf s t).fluert ∧
      s'.bellows.birq = s.bellows.birq ||| (1 <<< 3) ∧ SameMemory s s')) ∧
  (∀ s t f, t < 64 → (tileOf s t).repair.contains f = true → ∃ s', exec (.floorBankRepairEnd t f true) s = .next s' ∧
    (tileOf s' t).repair = (tileOf s t).repair.filter (fun g => g != f) ∧
    (tileOf s' t).fluert = (tileOf s t).fluert ||| (1 <<< f) ∧ SameMemory s s') ∧
  (∀ s n, n < 64 → ∃ s', exec (.bondSuspectDroop n) s = .next s' ∧ s'.bondst = s.bondst ||| (1 <<< n) ∧
    (healthOf s' n).bond = true ∧ (healthOf s' n).beating = false ∧
    s'.bellows.birq = s.bellows.birq ||| (1 <<< 4) ∧ SameMemory s s') ∧
  (∀ s n, (tget ({} : Island) s.islands n).run = true → ∃ s', exec (.islandRestartEnd n) s = .next s' ∧
    tget ({} : Island) s'.islands n = { tget ({} : Island) s.islands n with act := true } ∧ SameMemory s s') ∧
  (∀ s b e x, b < 350 → (tget ({} : ErrBank) s.errBanks b).v = false → x = tget ({} : ErrBank) s.errBanks b → ∃ s',
    exec (.errorBankUpdate b e) s = .next s' ∧ tget ({} : ErrBank) s'.errBanks b =
      { x with v := true, ue := e.ue, kind := e.kind, ctx := if e.own then e.ctx else 0, own := e.own, cons := e.cons,
               addr := e.addr, ts := tsWord s } ∧
    s'.bellows.birq = (if e.cons then s.bellows.birq ||| (1 <<< 1) else s.bellows.birq) ∧ SameMemory s s') ∧
  (∀ s t k n b a c, (tileOf s t).ctx = some c → (taskOf s t k).st.occupied = true → b < 350 →
    withinEntry (taskOf s t k) n = none → (ctxOf s c).st = .running →
    (tget ({} : ErrBank) s.errBanks b).v = false → ∃ s', exec (.ueConsumption t k n b a) s = .next s' ∧
    (tget ({} : ErrBank) s'.errBanks b).v = true ∧ (tget ({} : ErrBank) s'.errBanks b).ue = true ∧
    (tget ({} : ErrBank) s'.errBanks b).cons = true ∧ (tget ({} : ErrBank) s'.errBanks b).addr = a ∧
    (ctxOf s' c).st = .halting ∧ (ctxOf s' c).code = 0x50 ∧ (ctxOf s' c).addr = a ∧
    s'.bellows.birq = s.bellows.birq ||| (1 <<< 1) ∧ SameMemory s s') ∧
  (∀ s, ∃ s', exec .ttstatRead s = .next s' ∧ s'.ttOvr = 0 ∧ s'.ttMiss = 0 ∧ s'.sr = s.sr ∧ SameMemory s s') ∧
  (∀ s, ∃ s', exec .lnkcntRead s = .next s' ∧ (fibreOf s' (selPort s) (selFibre s)).cbits = 0 ∧
    (fibreOf s' (selPort s) (selFibre s)).ucf = 0 ∧ (fibreOf s' (selPort s) (selFibre s)).hout = 0 ∧
    (fibreOf s' (selPort s) (selFibre s)).waves = (fibreOf s (selPort s) (selFibre s)).waves ∧ SameMemory s s') ∧
  (∀ s t, t < 64 → ∃ s', exec (.hbcntRead t) s = .next s' ∧ healthOf s' t =
    { healthOf s t with miss := 0, bab := 0, accd := 0 } ∧ SameMemory s s') ∧
  (∀ s x, ∃ s', exec (.errstClear x) s = .next s' ∧ SameMemory s s' ∧
    tget ({} : ErrBank) s'.errBanks (selBank s) =
      (if x.getLsbD 0 then ({} : ErrBank) else tget ({} : ErrBank) s.errBanks (selBank s))) ∧
  (∀ s x, ∃ s', exec (.birqClear x) s = .next s' ∧ SameMemory s s' ∧
    ∀ n < 12, s'.bellows.birq.getLsbD n = (s.bellows.birq.getLsbD n && !x.getLsbD n)) ∧
  (∀ s t x, t < 64 → x.getLsbD 0 = true → ∃ s', exec (.swresClear t x) s = .next s' ∧
    healthOf s' t = { healthOf s t with sv := false } ∧ SameMemory s s') ∧
  (∀ s x i, i = tget ({} : Island) s.islands (selIsland s) → ∃ s', exec (.islctlWrite x) s = .next s' ∧ SameMemory s s' ∧
    (10 ≤ wfld x 0 8 → wfld x 0 8 ≤ 50 → (tget ({} : Island) s'.islands (selIsland s)).vset = wfld x 0 8) ∧
    (x.getLsbD 8 = false → i.run = true → mayStop s (selIsland s) = true →
      (tget ({} : Island) s'.islands (selIsland s)).run = false ∧ (tget ({} : Island) s'.islands (selIsland s)).act = false) ∧
    (x.getLsbD 8 = true → i.run = false → (tget ({} : Island) s'.islands (selIsland s)).run = true ∧
      ∃ p ∈ s'.events, p.ev = .islandRestartEnd (selIsland s) ∧ p.due ≤ s.hc + 1400)) ∧
  (∀ s x, (wfld x 16 16 = wfld (srWord s 0x214) 16 16 → s.cgrpPend = none →
      exec (.cgrpWrite x) s = .next { s with sr := tset s.sr 0x214 (x &&& 0xFFFF000F) }) ∧
    (wfld x 16 16 ≠ wfld (srWord s 0x214) 16 16 ∨ s.cgrpPend ≠ none → linksQuiet s = true → ∃ s', exec (.cgrpWrite x) s = .next s' ∧ s'.clockK = [] ∧ s'.cgrpPend = none ∧
      wfld (srWord s' 0x214) 0 4 = wfld x 0 4 ∧ SameMemory s s') ∧
    (wfld x 16 16 ≠ wfld (srWord s 0x214) 16 16 ∨ s.cgrpPend ≠ none → linksQuiet s = false → ∃ s', exec (.cgrpWrite x) s = .next s' ∧ s'.cgrpPend = some (x &&& 0xFFFF000F) ∧
      s'.peers = s.peers ∧ (∃ p ∈ s'.events, p.ev = .keyReagreement ∧ p.due ≤ s.hc + 1) ∧ SameMemory s s')) ∧
  (∀ s x, x.toNat / 2 ^ 9 % 16 ≤ x.toNat / 2 ^ 13 % 16 → ∃ s', exec (.dmpctlWrite x) s = .next s' ∧
    (layerOf s' (selLayer s)).dmin = x.toNat / 2 ^ 9 % 16 ∧ (layerOf s' (selLayer s)).dmax = x.toNat / 2 ^ 13 % 16 ∧
    (layerOf s' (selLayer s)).auto = x.getLsbD 0 ∧ (layerOf s' (selLayer s)).man = x.toNat / 2 ^ 5 % 16 ∧ SameMemory s s') ∧
  (∀ s t x, (∃ s', exec (.registerWrite t 0x008 x) s = .next s' ∧ s'.bellows.evec = x &&& 0xFFFFFFFFFFFFFFF0 ∧ SameMemory s s') ∧
    (∃ s', exec (.registerWrite t 0x236 x) s = .next s' ∧
      (ctxOf s' (wfld (srWord s 0x230) 0 6)).ptroot = x &&& 0x0000007FFFFFF000 ∧ SameMemory s s') ∧
    (t < 64 → ∃ s', exec (.registerWrite t 0x110 x) s = .next s' ∧ (tileOf s' t).tdtbase = x &&& 0xFFFFFFFFFFFFFFC0 ∧
      SameMemory s s') ∧
    (∃ s', exec (.registerWrite t 0x271 x) s = .next s' ∧ s'.bellows.bien = x.setWidth 12 ∧ SameMemory s s') ∧
    (∃ s', exec (.registerWrite t 0x230 x) s = .next s' ∧ wfld (srWord s' 0x230) 0 6 = wfld x 0 6 ∧ SameMemory s s') ∧
    (∃ s', exec (.registerWrite t 0x24B x) s = .next s' ∧ srWord s' 0x24B = x ∧ SameMemory s s'))

/-! ### The bellows core, power, management -/

/-- The events of the bellows core and of the package's power, by the fields they leave. An entry whose results are written sets
sr.epc, sr.ecause and inh and goes on at sr.evec; the lowest enabled pending line is taken where ie is 1, inh is 0 and no delay
bundle is open; eret goes to sr.epc after its delay bundle, which clears inh. Losing power keeps the boot flash and loses the rest;
a write of the reset word resets the package; a kindling in which nothing fails passes every step: eight dies are mapped, the ninth
is the spare, and the bellows core awaits its program; one that loses power in its first step leaves it running in the record
(R109, R110, R363, R364, R374, R375, R380, R381; that these are steps of their own is the model's, log 3). -/
def Obligations.BellowsEvents : Prop :=
  (∀ s cls code epc, s.bellows.clearInh = none → s.bellows.pendEntry = some (cls, code, epc) → s.bellows.core.pend = [] →
    ∃ s', exec .interruptEntry s = .next s' ∧ s'.bellows.epc = epc &&& 0xFFFFFFFFFFFFFFF0 ∧
      s'.bellows.ecode = BitVec.ofNat 16 code ∧ s'.bellows.eclass = BitVec.ofNat 8 cls ∧ s'.bellows.inh = true ∧
      s'.bellows.ie = s.bellows.ie ∧ s'.bellows.core.flow.next = s.bellows.evec ∧ s'.bellows.core.stream = [] ∧
      s'.bellows.st = .running ∧ (∀ n, readS s'.bellows.core n = readS s.bellows.core n) ∧ s'.tiles = s.tiles) ∧
  (∀ s l, s.bellows.clearInh = none → s.bellows.pendEntry = none →
    (s.bellows.st = .running ∨ s.bellows.st = .halted) → s.bellows.ie = true → s.bellows.inh = false →
    pendingLine s.bellows = some l → (s.bellows.st = .running → inDelay s.bellows.core = false) → ∃ s', exec .interruptEntry s = .next s' ∧
    s'.bellows = { s.bellows with pendEntry := some (6, l, nextBundle s .bellows) } ∧ s'.tiles = s.tiles ∧
    ∃ p ∈ s'.events, p.ev = .interruptEntry ∧ p.due = lastWrite s s.bellows.core) ∧
  (∀ b l, pendingLine b = some l → l < 12 ∧ b.birq.getLsbD l = true ∧ b.bien.getLsbD l = true ∧
    ∀ k < l, (b.birq.getLsbD k && b.bien.getLsbD k) = false) ∧
  (∀ s, Ready .eret s → transferMisplaced s true = false → ∃ s', exec .eret s = .next (advance s') ∧
    s' = { takeTransfer s (some s.bellows.epc) none with
      bellows := { (takeTransfer s (some s.bellows.epc) none).bellows with clearInh := some s.cur.n } }) ∧
  (∀ s n, s.bellows.clearInh = some n → n + 1 < minPos s.bellows.core → (settleInh s).bellows.inh = false) ∧
  (∀ s, ∃ s', exec .powerLoss s = .next s' ∧ s'.powered = false ∧ s'.flash = s.flash ∧ s'.tiles = [] ∧ s'.hbm = [] ∧
    s'.contexts = [] ∧ s'.sr = []) ∧
  (∀ s, ∃ s', exec (.resetRequest 0x52455345) s = .next s' ∧ s'.flash = s.flash ∧ s'.hc = 0 ∧ s'.tiles = [] ∧
    s'.contexts = [] ∧ s'.bootDone = false) ∧
  (∀ s x, x ≠ 0x52455345 → exec (.resetRequest x) s = .next s) ∧
  (∀ s r, s.powered = true → s.bootDone = true ∨ s.bootStop = true → exec (.kindling r) s = .next s) ∧
  (∀ s r, s.powered = true → s.bootDone = false → s.bootStop = false → s.flash = [] → (∀ t, (tileOf s t).fluert = 0) →
    r.failed = [] → r.badTiles = [] → r.badRouters = [] → r.badDies = [] → r.badFlues = [] → r.sweepFails = [] →
    r.lostAt = none → ∃ s', exec (.kindling r) s = .next s' ∧ s'.bootDone = true ∧ s'.bellows.st = .waitingLoad ∧
    s'.layermap = List.range 8 ∧ s'.spare = some 8 ∧ s'.power = r.power ∧ s'.sample = r.temps ∧
    ∀ k < 16, bootEntry s' k = { st := 2, tries := 0, det := 0, ts := r.ts }) ∧
  (∀ s r, s.powered = true → s.bootDone = false → s.bootStop = false → s.flash = [] → r.lostAt = some 0 → ∃ s',
    exec (.kindling r) s = .next s' ∧ s'.powered = false ∧ s'.tiles = [] ∧
    (tget ({} : BootEntry) s'.flash 0).st = 1)

/-- A command's doorbell with another command in the window does nothing; before kindling is done, after a stop or a
management fault, or while a command is served, only the window changes; a wrong sequence number is result 0x08; otherwise
the number is served, and the first failing check gives the result: 0x02, a state that the command does not allow, 0x01, or
that of the command itself; a refused command changes nothing else (R376 to R379). -/
def Obligations.ManagementCommands : Prop :=
  (∀ word x n, (word, x, n) ∈ ([(.create, createCmd, 1), (.load, loadCmd, 2), (.queueSet, queueSetCmd, 3),
      (.finalise, finaliseCmd, 4), (.map, mapCmd, 5), (.unmap, unmapCmd, 6), (.queueEnable, queueEnableCmd, 7),
      (.save, saveCmd, 8), (.restore, restoreCmd, 9), (.destroy, destroyCmd, 10), (.readBootRecord, bootRecordCmd, 11),
      (.readIdentity, identityCmd, 12), (.sealCommand, sealCmd, 13)] : List ((List Byte → Instr) × Command × Nat)) →
    x.op = n ∧ ∀ w s, w.length = 256 →
    (winNat w 0 2 = n → s.bootDone = true → s.bootStop = false → s.mf = false → s.mgmt.stat ≠ 1 → s.mgmt.exhausted = false →
      BitVec.ofNat 32 (winNat w 4 4) = s.mgmt.seqf + 1 → ∃ s', exec (word w) s = .next (judgeCommand x s' w) ∧
        s'.mgmt.seqf = s.mgmt.seqf + 1 ∧ s'.tiles = s.tiles ∧ s'.contexts = s.contexts ∧ s'.queues = s.queues ∧
        s'.bellows.birq.getLsbD 0 = true) ∧
    (winNat w 0 2 = n → s.bootDone = true → s.bootStop = false → s.mf = false → s.mgmt.stat ≠ 1 →
      BitVec.ofNat 32 (winNat w 4 4) ≠ s.mgmt.seqf + 1 → ∃ s', exec (word w) s = .next s' ∧
        s'.mgmt.result = 8 ∧ s'.mgmt.stat = 2 ∧ s'.mgmt.seqf = s.mgmt.seqf ∧ s'.contexts = s.contexts) ∧
    (winNat w 0 2 = n → s.bootDone = false ∨ s.bootStop = true ∨ s.mf = true ∨ s.mgmt.stat = 1 →
      exec (word w) s = .next { s with mgmt := { s.mgmt with cmd := w } }) ∧
    (1 ≤ winNat w 0 2 → winNat w 0 2 ≤ 13 → winNat w 0 2 ≠ n → exec (word w) s = .next s)) ∧
  (∀ x s w, s.mf = false → s.bootStop = false →
    (x.ranges w = false → ∃ s', judgeCommand x s w = s' ∧ s'.mgmt.result = 2 ∧ s'.mgmt.stat = 2 ∧
      s' = { s with mgmt := s'.mgmt }) ∧
    (winNat w 0 2 = x.op → winZero w 2 2 = true → winNat w 8 8 < 64 → x.noCtx = false → x.ranges w = true →
      (x.tagged (ctxOf s (winNat w 8 8)).st = true ∨ winZero w 0xF0 16 = true) →
      (x.allowed (ctxOf s (winNat w 8 8)).st = false → ∃ s', judgeCommand x s w = s' ∧ s'.mgmt.result = x.stateCode ∧
        s' = { s with mgmt := s'.mgmt }) ∧
      (x.allowed (ctxOf s (winNat w 8 8)).st = true → x.tagged (ctxOf s (winNat w 8 8)).st = true →
        cmdTagOk s (winNat w 8 8) w = false → ∃ s', judgeCommand x s w = s' ∧ s'.mgmt.result = 1 ∧
        s' = { s with mgmt := s'.mgmt }) ∧
      (x.allowed (ctxOf s (winNat w 8 8)).st = true → x.tagged (ctxOf s (winNat w 8 8)).st = false →
        ∀ s', x.act s (winNat w 8 8) w = .ok s' → judgeCommand x s w = s')))

/-! ### Rules over all words, all steps -/

/-- A slot word whose sources are all full reads them whatever W is; with an empty source whose W is 1 it does not issue and
the context takes fault 0x03; with an empty one whose W is 0, and none whose W is 1, it does not issue and its task parks on an
empty register, until that is full. bfi, movz and movnz read sd as though W = 0 (R64). A word of a bundle that issues as a
whole meets the registers as the bundle found them (gateTask, R73). openReads i s is s with the reads of results of other queues
settled (IssueOrder says what it changes). -/
def Obligations.IssueRules : Prop :=
  (∀ i s, isWord i = true → coreForbids s i = false →
    (∃ x ∈ sources i, (Source.reg x).2 = true ∧ isEmpty (gateTask s) (Source.reg x).1 = true) →
    exec i s = .next (preciseFault (openReads i s) 0x03)) ∧
  (∀ i s t, isWord i = true → coreForbids s i = false →
    (∀ x ∈ sources i, (Source.reg x).2 = true → isEmpty (gateTask s) (Source.reg x).1 = false) →
    (∃ x ∈ sources i, isEmpty (gateTask s) (Source.reg x).1 = true) → t = openReads i s →
    ∃ x ∈ sources i, isEmpty (gateTask s) (Source.reg x).1 = true ∧
      exec i s = .next (parkTask t t.cur.core (.reg (Source.reg x).1))) ∧
  (∀ i s, isWord i = true → placeForbids s i = false →
    (∀ x ∈ sources i, isEmpty (gateTask s) (Source.reg x).1 = false) →
    (∀ r ∈ dests i, isEmpty (gateTask s) r = false) → pendingHit (gateTask s) s.cur.n i = false →
    Ready i (openReads i s) ∧ exec i s = exec i (openReads i s)) ∧
  (∀ s t k r f, (taskOf s t k).st = .parked → (taskOf s t k).wait = .reg r →
    (∀ x, (f x).st = x.st ∧ (f x).wait = x.wait ∧ (f x).halting = x.halting) →
    (taskOf (fillReg s (.tile t k) r f) t k).st = .ready ∧ isEmpty (taskOf (fillReg s (.tile t k) r f) t k) r =
      isEmpty (markFull (f (taskOf s t k)) r) r) ∧
  (∀ o, Source.s o.sd false ∈ sources (.bfi o)) ∧
  (∀ o, Source.s o.sd false ∈ sources (.movz o) ∧ Source.s o.sd false ∈ sources (.movnz o))

/-- What every word meets at the head of its queue. First its reads of results of other queues are settled: each such register is
seen with its present value or with one of the values that it has or had besides, at a free choice; nothing but what the word has
seen and the counter of free choices changes, and a word runs as from the state so settled (R74; the choice: log 12). Then, in this order: a core
that its form may not take is fault 0x01, an empty source with W = 1 is fault 0x03, any other empty source or destination
parks its task, a form that its segment forbids is fault 0x01, a pending register under sr.issuectl.pend is fault 0x04; past
these it is ready (R55, R64, R65, R69, R77, R109, R390, R393). -/
def Obligations.IssueOrder : Prop :=
  (∀ i s t, isWord i = true → t = openReads i s →
    (coreForbids s i = true → exec i s = .next (preciseFault t 0x01)) ∧
    (coreForbids s i = false →
      (emptyFault (gateTask s) i = true → exec i s = .next (preciseFault t 0x03)) ∧
      (emptyFault (gateTask s) i = false →
        (∀ r, emptyWait (gateTask s) i = some r → exec i s = .next (parkTask t t.cur.core (.reg r))) ∧
        (emptyWait (gateTask s) i = none →
          (segmentForbids s i = true → exec i s = .next (preciseFault t 0x01)) ∧
          (segmentForbids s i = false →
            (pendingHit (gateTask s) s.cur.n i = true → exec i s = .next (preciseFault t 0x04)) ∧
            (pendingHit (gateTask s) s.cur.n i = false → Ready i t)))))) ∧
  (∀ i s, isWord i = true → exec i (openReads i s) = exec i s ∧ openReads i (openReads i s) = openReads i s) ∧
  (∀ i s, ∃ f x, openReads i s = { s with free := f, cur := { s.cur with seen := x } } ∧
    ∀ e ∈ x, e ∈ s.cur.seen ∨ (e.1 ∈ readRegs i ∧ e.2 ∈ regValue (curTask s) e.1 :: rivalValues (gateTask s) s.cur.pos e.1)) ∧
  (∀ s t k r, s.cur.core = .tile t k → (tileOf (parkTask s s.cur.core (.reg r)) t).issuing = none ∧
    (taskOf (parkTask s s.cur.core (.reg r)) t k).wait = .reg r ∧
    (taskOf (parkTask s s.cur.core (.reg r)) t k).st = .parked)

/-- s0 reads as zero, is always full and drops writes; p0 reads as all ones and drops writes; every other register reads what
was written last, and a write changes no other register. The q bits are the stage predicates of the innermost active level,
and all ones outside every loop; stage st of an iteration idx is on where st < depth and beg ≤ idx − st < min(cnt, lim)
(R59). -/
def Obligations.FixedRegisters : Prop :=
  (∀ t, readS t 0 = 0 ∧ isEmpty t (.s 0) = false ∧ ∀ v, writeS t 0 v = t) ∧
  (∀ t, readP t 0 = BitVec.allOnes 128 ∧ isEmpty t (.p 0) = false ∧ ∀ v, writeP t 0 v = t) ∧
  (∀ t n m v, n ≠ 0 → readS (writeS t n v) m = if m = n then v else readS t m) ∧
  (∀ t n m v, n ≠ 0 → readP (writeP t n v) m = if m = n then v else readP t m) ∧
  (∀ t n m v w, m = n ∨ readV (writeV t n w v) m = readV t m) ∧
  (∀ t n v, readV (writeV t n (BitVec.allOnes 4096) v) n = v) ∧
  (∀ t n m v w, readP (writeS t n v) m = readP t m ∧ readV (writeS t n v) w = readV t w ∧ (writeS t n v).fmt = t.fmt) ∧
  (∀ ls, (∀ l < 6, (loopIn ls l).act = false) → qBits ls = BitVec.allOnes 8) ∧
  (∀ ls l, l < 6 → (loopIn ls l).act = true → (∀ k < 6, l < k → (loopIn ls k).act = false) →
    ∀ st < 8, (qBits ls).getLsbD st = (decide (st < (loopIn ls l).dm1 + 1) &&
      decide ((loopIn ls l).beg.toNat + st ≤ (loopIn ls l).idx.toNat) &&
      decide ((loopIn ls l).idx.toNat < min (loopIn ls l).cnt.toNat (loopIn ls l).lim.toNat + st)))

/-- A slot word as it issues, parks, stalls or faults changes no byte of any memory and no s, v or p register nor fmt of any
task: its results and stores take effect later (R66 to R68). Neither the hc count nor the timestamp moves. -/
def Obligations.WordsChangeNoByte : Prop :=
  ∀ i s t, isWord i = true → exec i s = .next t → SameMemory s t ∧ SameRegisters s t ∧ t.hc = s.hc ∧ t.ts = s.ts

/-- Every memory of the package keeps its canonical form at every step, from every state in which it has it: HBM, the floor
stores, the wells, the bellows core's memory and the saved images (an inference from R1, R66 and R255; the form is the
model's, log 5). -/
def Obligations.StepKeepsMemories : Prop :=
  ∀ s t, memOk s = true → step s = .next t → memOk t = true

/-- After reset no task slot is occupied, no register is empty and no loop active, fmt is 0x0911, every context is empty, no
queue is enabled, no group exists, and the registers with a reset value have it; the memories are canonical and list nothing
(what an unlisted byte and a register without a reset value read is the model's choice: logs 1 and 5). -/
def Obligations.ResetState : Prop :=
  memOk State.reset = true ∧ State.reset.hbm = [] ∧ State.reset.hc = 0 ∧
  (∀ t k, (taskOf State.reset t k).st = .free ∧ (taskOf State.reset t k).fmt = 0x0911 ∧
    (taskOf State.reset t k).emptyS = [] ∧ (taskOf State.reset t k).emptyV = [] ∧
    (∀ l, (loopIn (taskOf State.reset t k).loops l).act = false) ∧ (tileOf State.reset t).ctx = none ∧
    (tileOf State.reset t).issuing = none) ∧
  (∀ c, (ctxOf State.reset c).st = .empty) ∧ (∀ q, (queueOf State.reset q).en = false) ∧ State.reset.groups = [] ∧
  srWord State.reset 0x243 = 0x00030010 ∧ srWord State.reset 0x245 = 0x00080014 ∧ srWord State.reset 0x250 = 0x88B5 ∧
  srWord State.reset 0x24B = 0 ∧ srWord State.reset 0x24C = 0 ∧
  State.reset.sweep.en = true ∧ State.reset.sweep.ivl = 200 ∧ State.reset.sweep.tries = 3 ∧ State.reset.sweep.wait = 400 ∧
  State.reset.bellows.evec = 0 ∧ State.reset.bellows.epc = 0 ∧ State.reset.bellows.inh = false ∧
  State.reset.bellows.ie = false
end

