-- ==== Sys2Proof/Laws/Table.lean ====
section
/-! SUPPORT. What the sparse tables do: a read after a write. -/

namespace Sys2Proof.Machine

@[simp] theorem tget_nil {α : Type} (d : α) (k : Nat) : tget d ([] : Table α) k = d := rfl

theorem tget_tset {α : Type} (d v : α) (t : Table α) (k j : Nat) :
    tget d (tset t k v) j = if k = j then v else tget d t j := by
  induction t with
  | nil => rfl
  | cons e r ih =>
    obtain ⟨k', v'⟩ := e
    simp only [tset]
    split
    · subst k'
      simp only [tget]
      split <;> rfl
    · split
      · rfl
      · simp only [tget, ih]
        split
        · subst j
          split <;> simp_all
        · rfl

@[simp] theorem tget_tset_self {α : Type} (d v : α) (t : Table α) (k : Nat) : tget d (tset t k v) k = v := by
  simp [tget_tset]

theorem tget_tset_ne {α : Type} (d v : α) (t : Table α) {k j : Nat} (h : k ≠ j) :
    tget d (tset t k v) j = tget d t j := by simp [tget_tset, h]

/-- Every entry of a written table is the one written or an old one. -/
theorem mem_tset {α : Type} {t : Table α} {k : Nat} {v : α} {e : Nat × α} (h : e ∈ tset t k v) : e = (k, v) ∨ e ∈ t := by
  induction t with
  | nil => simpa [tset] using h
  | cons x r ih =>
    obtain ⟨k', v'⟩ := x
    simp only [tset] at h
    split at h
    · rcases List.mem_cons.1 h with h | h
      · exact .inl h
      · exact .inr (List.mem_cons_of_mem _ h)
    · split at h
      · rcases List.mem_cons.1 h with h | h
        · exact .inl h
        · exact .inr h
      · rcases List.mem_cons.1 h with h | h
        · exact .inr (by rw [h]; exact List.mem_cons_self ..)
        · rcases ih h with h | h
          · exact .inl h
          · exact .inr (List.mem_cons_of_mem _ h)

/-- What a table answers is the default or one of its entries. -/
theorem tget_mem {α : Type} (d : α) (t : Table α) (k : Nat) : tget d t k = d ∨ (k, tget d t k) ∈ t := by
  induction t with
  | nil => exact .inl rfl
  | cons x r ih =>
    obtain ⟨k', v'⟩ := x
    simp only [tget]
    split
    · subst k'
      exact .inr (List.mem_cons_self ..)
    · rcases ih with h | h
      · exact .inl h
      · exact .inr (List.mem_cons_of_mem _ h)

end Sys2Proof.Machine
end

