-- ==== Sys2Proof/Laws/Memory.lean ====
section
/-! SUPPORT. What the byte memories do: a read after a write, and the canonical form, which every operation keeps. -/

namespace Sys2Proof.Machine

/-! ### Reads after writes -/

theorem mread_of_lt {m : Memory} {lo a : Nat} (h : wfFrom lo m = true) (ha : a < lo) : mread m a = 0 := by
  induction m generalizing lo with
  | nil => rfl
  | cons e r ih =>
    obtain ⟨a', b⟩ := e
    simp only [wfFrom, Bool.and_eq_true, decide_eq_true_eq] at h
    have : a' ≠ a := by omega
    simp only [mread, if_neg this]
    exact ih h.2 (by omega)

/-- A byte written to a canonical memory reads back, and every other byte reads as before. -/
theorem mread_mwrite {m : Memory} {lo : Nat} (h : wfFrom lo m = true) (a : Nat) (b : Byte) (j : Nat) :
    mread (mwrite m a b) j = if a = j then b else mread m j := by
  induction m generalizing lo with
  | nil =>
    simp only [mwrite]
    split
    · subst b
      split <;> rfl
    · rfl
  | cons e r ih =>
    obtain ⟨a', b'⟩ := e
    simp only [wfFrom, Bool.and_eq_true, decide_eq_true_eq] at h
    obtain ⟨⟨h1, h2⟩, h3⟩ := h
    simp only [mwrite]
    split
    · subst a'
      split
      · subst b
        simp only [mread]
        split
        · subst j
          exact mread_of_lt h3 (by omega)
        · rfl
      · simp only [mread]
        split <;> rfl
    · split
      · split
        · subst b
          simp only [mread]
          by_cases hj : a = j
          · subst j
            simp only [if_pos, if_neg ‹_›]
            exact mread_of_lt h3 (by omega)
          · simp [hj]
        · simp only [mread]
      · simp only [mread, ih h3]
        by_cases hj : a = j
        · subst j
          simp [*]
        · simp [hj]

theorem wfFrom_le {m : Memory} {lo lo' : Nat} (h : wfFrom lo m = true) (hl : lo' ≤ lo) : wfFrom lo' m = true := by
  cases m with
  | nil => rfl
  | cons e r =>
    obtain ⟨a, b⟩ := e
    simp only [wfFrom, Bool.and_eq_true, decide_eq_true_eq] at h ⊢
    exact ⟨⟨by omega, h.1.2⟩, h.2⟩

theorem wfFrom_mwrite {m : Memory} {lo : Nat} (h : wfFrom lo m = true) {a : Nat} (ha : lo ≤ a) (b : Byte) :
    wfFrom lo (mwrite m a b) = true := by
  induction m generalizing lo with
  | nil =>
    simp only [mwrite]
    split <;> simp_all [wfFrom]
  | cons e r ih =>
    obtain ⟨a', b'⟩ := e
    have h0 := h
    simp only [wfFrom, Bool.and_eq_true, decide_eq_true_eq] at h
    obtain ⟨⟨h1, h2⟩, h3⟩ := h
    simp only [mwrite]
    split
    · subst a'
      split
      · exact wfFrom_le h3 (by omega)
      · simp_all [wfFrom]
    · split
      · split
        · exact h0
        · simp only [wfFrom, Bool.and_eq_true, decide_eq_true_eq]
          exact ⟨⟨ha, by assumption⟩, ⟨by omega, h2⟩, h3⟩
      · simp only [wfFrom, Bool.and_eq_true, decide_eq_true_eq]
        exact ⟨⟨h1, h2⟩, ih h3 (by omega)⟩

/-- Writing a byte keeps the canonical form. -/
@[simp] theorem wf_mwrite {m : Memory} (h : m.wf = true) (a : Nat) (b : Byte) : (mwrite m a b).wf = true :=
  wfFrom_mwrite h (Nat.zero_le a) b

/-- Writing bytes keeps the canonical form. -/
@[simp] theorem wf_mwriteAll {m : Memory} (h : m.wf = true) (l : List (Nat × Byte)) : (mwriteAll m l).wf = true := by
  induction l generalizing m with
  | nil => exact h
  | cons e r ih => exact ih (wf_mwrite h e.1 e.2)

theorem wfFrom_filter {m : Memory} {lo : Nat} (h : wfFrom lo m = true) (p : Nat × Byte → Bool) :
    wfFrom lo (m.filter p) = true := by
  induction m generalizing lo with
  | nil => rfl
  | cons e r ih =>
    obtain ⟨a, b⟩ := e
    simp only [wfFrom, Bool.and_eq_true, decide_eq_true_eq] at h
    simp only [List.filter_cons]
    split
    · simp only [wfFrom, Bool.and_eq_true, decide_eq_true_eq]
      exact ⟨h.1, ih h.2⟩
    · exact ih (wfFrom_le h.2 (by omega))

/-- Zeroing a range keeps the canonical form. -/
@[simp] theorem wf_mzero {m : Memory} (h : m.wf = true) (a n : Nat) : (mzero m a n).wf = true := wfFrom_filter h _

@[simp] theorem wf_nil : Memory.wf [] = true := rfl

/-- A byte written to a canonical memory reads back. -/
theorem mread_mwrite_self {m : Memory} (h : m.wf = true) (a : Nat) (b : Byte) : mread (mwrite m a b) a = b := by
  simp [mread_mwrite h]

/-- A byte that a write does not address reads as before. -/
theorem mread_mwrite_ne {m : Memory} (h : m.wf = true) {a j : Nat} (b : Byte) (hne : a ≠ j) :
    mread (mwrite m a b) j = mread m j := by simp [mread_mwrite h, hne]

/-- A byte outside the addresses of a list of writes reads as before. -/
theorem mread_mwriteAll_other {m : Memory} (h : m.wf = true) (l : List (Nat × Byte)) (j : Nat)
    (hj : ∀ e ∈ l, e.1 ≠ j) : mread (mwriteAll m l) j = mread m j := by
  induction l generalizing m with
  | nil => rfl
  | cons e r ih =>
    obtain ⟨a, b⟩ := e
    rw [mwriteAll, ih (wf_mwrite h a b) fun x hx => hj x (List.mem_cons_of_mem _ hx)]
    exact mread_mwrite_ne h b (hj (a, b) (List.mem_cons_self ..))

/-- The addresses of the bytes from `a` on. -/
theorem mem_addrBytes {a : Nat} {l : List Byte} {e : Nat × Byte} (h : e ∈ addrBytes a l) :
    a ≤ e.1 ∧ e.1 < a + l.length := by
  induction l generalizing a with
  | nil => simp [addrBytes] at h
  | cons b r ih =>
    rcases List.mem_cons.1 h with h | h
    · subst h
      simp
    · have := ih h
      simp only [List.length_cons]
      omega

/-- Bytes written from an address on read back. -/
theorem mbytes_mwriteAll {m : Memory} (h : m.wf = true) (a : Nat) (l : List Byte) :
    mbytes (mwriteAll m (addrBytes a l)) a l.length = l := by
  induction l generalizing m a with
  | nil => rfl
  | cons b r ih =>
    simp only [addrBytes, mwriteAll, List.length_cons, mbytes]
    rw [ih (wf_mwrite h a b), mread_mwriteAll_other (wf_mwrite h a b) _ a fun e he => by have := mem_addrBytes he; omega,
      mread_mwrite_self h]

@[simp] theorem length_mbytes (m : Memory) (a n : Nat) : (mbytes m a n).length = n := by
  induction n generalizing a with
  | zero => rfl
  | succ n ih => simp [mbytes, ih]

@[simp] theorem length_leBytes (n v : Nat) : (leBytes n v).length = n := by
  induction n generalizing v with
  | zero => rfl
  | succ n ih => simp [leBytes, ih]

/-- The bytes of a value, read as a value again, are the value's low bytes (R1). -/
theorem leNat_leBytes (n v : Nat) : leNat (leBytes n v) = v % 256 ^ n := by
  induction n generalizing v with
  | zero => simp [leBytes, leNat, Nat.mod_one]
  | succ n ih =>
    simp only [leBytes, leNat, ih, BitVec.toNat_ofNat]
    rw [show 256 ^ (n + 1) = 256 * 256 ^ n from Nat.pow_succ', Nat.mod_mul]

/-- A value stored in `n` bytes is loaded again. -/
theorem mword_stored {m : Memory} (h : m.wf = true) (a n v : Nat) :
    mword (mwriteAll m (addrBytes a (leBytes n v))) a n = v % 256 ^ n := by
  have := mbytes_mwriteAll h a (leBytes n v)
  rw [length_leBytes] at this
  rw [mword, this, leNat_leBytes]

/-- A range that was zeroed reads as zero, the rest as before. -/
theorem mread_mzero (m : Memory) (a n j : Nat) : mread (mzero m a n) j = if a ≤ j ∧ j < a + n then 0 else mread m j := by
  induction m with
  | nil => simp [mzero, mread]
  | cons e r ih =>
    obtain ⟨a', b⟩ := e
    simp only [mzero, List.filter_cons] at ih ⊢
    by_cases hr : a ≤ a' ∧ a' < a + n
    · simp only [hr, decide_true, Bool.and_self, Bool.not_true, Bool.false_eq_true, if_false, ih, mread]
      split
      · rfl
      · have : a' ≠ j := by intro h; subst h; contradiction
        simp [this]
    · have hd : (!(decide (a ≤ a') && decide (a' < a + n))) = true := by simp; omega
      simp only [hd, if_true, mread, ih]
      by_cases hj : a' = j
      · subst hj
        simp [hr]
      · simp [hj]

end Sys2Proof.Machine
end

