-- ==== Sys2Proof/Laws/State.lean ====
section
/-! SUPPORT. Each update of the state leaves every other field as it was, one lemma for each update and field; and what the
updates of tiles, tasks, contexts and queues leave to read. -/

namespace Sys2Proof.Machine

/-! ### updTile -/

@[simp] theorem updTile_hc (s : State) (t : Nat) (f : Tile → Tile) : (updTile s t f).hc = s.hc := rfl
@[simp] theorem updTile_ts (s : State) (t : Nat) (f : Tile → Tile) : (updTile s t f).ts = s.ts := rfl
@[simp] theorem updTile_tsPhase (s : State) (t : Nat) (f : Tile → Tile) : (updTile s t f).tsPhase = s.tsPhase := rfl
@[simp] theorem updTile_events (s : State) (t : Nat) (f : Tile → Tile) : (updTile s t f).events = s.events := rfl
@[simp] theorem updTile_delays (s : State) (t : Nat) (f : Tile → Tile) : (updTile s t f).delays = s.delays := rfl
@[simp] theorem updTile_free (s : State) (t : Nat) (f : Tile → Tile) : (updTile s t f).free = s.free := rfl
@[simp] theorem updTile_turn (s : State) (t : Nat) (f : Tile → Tile) : (updTile s t f).turn = s.turn := rfl
@[simp] theorem updTile_cur (s : State) (t : Nat) (f : Tile → Tile) : (updTile s t f).cur = s.cur := rfl
@[simp] theorem updTile_powered (s : State) (t : Nat) (f : Tile → Tile) : (updTile s t f).powered = s.powered := rfl
@[simp] theorem updTile_hbm (s : State) (t : Nat) (f : Tile → Tile) : (updTile s t f).hbm = s.hbm := rfl
@[simp] theorem updTile_groups (s : State) (t : Nat) (f : Tile → Tile) : (updTile s t f).groups = s.groups := rfl
@[simp] theorem updTile_queues (s : State) (t : Nat) (f : Tile → Tile) : (updTile s t f).queues = s.queues := rfl
@[simp] theorem updTile_timetable (s : State) (t : Nat) (f : Tile → Tile) : (updTile s t f).timetable = s.timetable := rfl
@[simp] theorem updTile_slotRun (s : State) (t : Nat) (f : Tile → Tile) : (updTile s t f).slotRun = s.slotRun := rfl
@[simp] theorem updTile_contexts (s : State) (t : Nat) (f : Tile → Tile) : (updTile s t f).contexts = s.contexts := rfl
@[simp] theorem updTile_errBanks (s : State) (t : Nat) (f : Tile → Tile) : (updTile s t f).errBanks = s.errBanks := rfl
@[simp] theorem updTile_frames (s : State) (t : Nat) (f : Tile → Tile) : (updTile s t f).frames = s.frames := rfl
@[simp] theorem updTile_genSeq (s : State) (t : Nat) (f : Tile → Tile) : (updTile s t f).genSeq = s.genSeq := rfl
@[simp] theorem updTile_walks (s : State) (t : Nat) (f : Tile → Tile) : (updTile s t f).walks = s.walks := rfl
@[simp] theorem updTile_walkSeq (s : State) (t : Nat) (f : Tile → Tile) : (updTile s t f).walkSeq = s.walkSeq := rfl
@[simp] theorem updTile_combSeq (s : State) (t : Nat) (f : Tile → Tile) : (updTile s t f).combSeq = s.combSeq := rfl
@[simp] theorem updTile_htlb (s : State) (t : Nat) (f : Tile → Tile) : (updTile s t f).htlb = s.htlb := rfl
@[simp] theorem updTile_remotes (s : State) (t : Nat) (f : Tile → Tile) : (updTile s t f).remotes = s.remotes := rfl
@[simp] theorem updTile_ptPool (s : State) (t : Nat) (f : Tile → Tile) : (updTile s t f).ptPool = s.ptPool := rfl
@[simp] theorem updTile_sr (s : State) (t : Nat) (f : Tile → Tile) : (updTile s t f).sr = s.sr := rfl
@[simp] theorem updTile_islands (s : State) (t : Nat) (f : Tile → Tile) : (updTile s t f).islands = s.islands := rfl
@[simp] theorem updTile_mantelComb (s : State) (t : Nat) (f : Tile → Tile) : (updTile s t f).mantelComb = s.mantelComb := rfl
@[simp] theorem updTile_mantelCombComb (s : State) (t : Nat) (f : Tile → Tile) : (updTile s t f).mantelCombComb = s.mantelCombComb := rfl
@[simp] theorem updTile_mantelCombOvf (s : State) (t : Nat) (f : Tile → Tile) : (updTile s t f).mantelCombOvf = s.mantelCombOvf := rfl
@[simp] theorem updTile_hbmRecs (s : State) (t : Nat) (f : Tile → Tile) : (updTile s t f).hbmRecs = s.hbmRecs := rfl
@[simp] theorem updTile_wslate (s : State) (t : Nat) (f : Tile → Tile) : (updTile s t f).wslate = s.wslate := rfl
@[simp] theorem updTile_clockK (s : State) (t : Nat) (f : Tile → Tile) : (updTile s t f).clockK = s.clockK := rfl
@[simp] theorem updTile_clockA (s : State) (t : Nat) (f : Tile → Tile) : (updTile s t f).clockA = s.clockA := rfl
@[simp] theorem updTile_cwHeld (s : State) (t : Nat) (f : Tile → Tile) : (updTile s t f).cwHeld = s.cwHeld := rfl
@[simp] theorem updTile_cwLate (s : State) (t : Nat) (f : Tile → Tile) : (updTile s t f).cwLate = s.cwLate := rfl
@[simp] theorem updTile_cgrpPend (s : State) (t : Nat) (f : Tile → Tile) : (updTile s t f).cgrpPend = s.cgrpPend := rfl
@[simp] theorem updTile_ports (s : State) (t : Nat) (f : Tile → Tile) : (updTile s t f).ports = s.ports := rfl
@[simp] theorem updTile_peers (s : State) (t : Nat) (f : Tile → Tile) : (updTile s t f).peers = s.peers := rfl
@[simp] theorem updTile_circuit (s : State) (t : Nat) (f : Tile → Tile) : (updTile s t f).circuit = s.circuit := rfl
@[simp] theorem updTile_circuitRun (s : State) (t : Nat) (f : Tile → Tile) : (updTile s t f).circuitRun = s.circuitRun := rfl
@[simp] theorem updTile_ethPeers (s : State) (t : Nat) (f : Tile → Tile) : (updTile s t f).ethPeers = s.ethPeers := rfl
@[simp] theorem updTile_disc (s : State) (t : Nat) (f : Tile → Tile) : (updTile s t f).disc = s.disc := rfl
@[simp] theorem updTile_locked (s : State) (t : Nat) (f : Tile → Tile) : (updTile s t f).locked = s.locked := rfl
@[simp] theorem updTile_ttOvr (s : State) (t : Nat) (f : Tile → Tile) : (updTile s t f).ttOvr = s.ttOvr := rfl
@[simp] theorem updTile_ttMiss (s : State) (t : Nat) (f : Tile → Tile) : (updTile s t f).ttMiss = s.ttMiss := rfl
@[simp] theorem updTile_qrot (s : State) (t : Nat) (f : Tile → Tile) : (updTile s t f).qrot = s.qrot := rfl
@[simp] theorem updTile_sweep (s : State) (t : Nat) (f : Tile → Tile) : (updTile s t f).sweep = s.sweep := rfl
@[simp] theorem updTile_beatKey (s : State) (t : Nat) (f : Tile → Tile) : (updTile s t f).beatKey = s.beatKey := rfl
@[simp] theorem updTile_dies (s : State) (t : Nat) (f : Tile → Tile) : (updTile s t f).dies = s.dies := rfl
@[simp] theorem updTile_layermap (s : State) (t : Nat) (f : Tile → Tile) : (updTile s t f).layermap = s.layermap := rfl
@[simp] theorem updTile_spare (s : State) (t : Nat) (f : Tile → Tile) : (updTile s t f).spare = s.spare := rfl
@[simp] theorem updTile_layers (s : State) (t : Nat) (f : Tile → Tile) : (updTile s t f).layers = s.layers := rfl
@[simp] theorem updTile_power (s : State) (t : Nat) (f : Tile → Tile) : (updTile s t f).power = s.power := rfl
@[simp] theorem updTile_sample (s : State) (t : Nat) (f : Tile → Tile) : (updTile s t f).sample = s.sample := rfl
@[simp] theorem updTile_dmpOld (s : State) (t : Nat) (f : Tile → Tile) : (updTile s t f).dmpOld = s.dmpOld := rfl
@[simp] theorem updTile_dmpNew (s : State) (t : Nat) (f : Tile → Tile) : (updTile s t f).dmpNew = s.dmpNew := rfl
@[simp] theorem updTile_dmpLyr (s : State) (t : Nat) (f : Tile → Tile) : (updTile s t f).dmpLyr = s.dmpLyr := rfl
@[simp] theorem updTile_dmpCause (s : State) (t : Nat) (f : Tile → Tile) : (updTile s t f).dmpCause = s.dmpCause := rfl
@[simp] theorem updTile_dmpCnt (s : State) (t : Nat) (f : Tile → Tile) : (updTile s t f).dmpCnt = s.dmpCnt := rfl
@[simp] theorem updTile_dmpTs (s : State) (t : Nat) (f : Tile → Tile) : (updTile s t f).dmpTs = s.dmpTs := rfl
@[simp] theorem updTile_bondst (s : State) (t : Nat) (f : Tile → Tile) : (updTile s t f).bondst = s.bondst := rfl
@[simp] theorem updTile_bellows (s : State) (t : Nat) (f : Tile → Tile) : (updTile s t f).bellows = s.bellows := rfl
@[simp] theorem updTile_mgmt (s : State) (t : Nat) (f : Tile → Tile) : (updTile s t f).mgmt = s.mgmt := rfl
@[simp] theorem updTile_bootRec (s : State) (t : Nat) (f : Tile → Tile) : (updTile s t f).bootRec = s.bootRec := rfl
@[simp] theorem updTile_flash (s : State) (t : Nat) (f : Tile → Tile) : (updTile s t f).flash = s.flash := rfl
@[simp] theorem updTile_bootStep (s : State) (t : Nat) (f : Tile → Tile) : (updTile s t f).bootStep = s.bootStep := rfl
@[simp] theorem updTile_bootDone (s : State) (t : Nat) (f : Tile → Tile) : (updTile s t f).bootDone = s.bootDone := rfl
@[simp] theorem updTile_bootStop (s : State) (t : Nat) (f : Tile → Tile) : (updTile s t f).bootStop = s.bootStop := rfl
@[simp] theorem updTile_mf (s : State) (t : Nat) (f : Tile → Tile) : (updTile s t f).mf = s.mf := rfl

/-! ### updTask -/

@[simp] theorem updTask_hc (s : State) (t k : Nat) (f : Task → Task) : (updTask s t k f).hc = s.hc := rfl
@[simp] theorem updTask_ts (s : State) (t k : Nat) (f : Task → Task) : (updTask s t k f).ts = s.ts := rfl
@[simp] theorem updTask_tsPhase (s : State) (t k : Nat) (f : Task → Task) : (updTask s t k f).tsPhase = s.tsPhase := rfl
@[simp] theorem updTask_events (s : State) (t k : Nat) (f : Task → Task) : (updTask s t k f).events = s.events := rfl
@[simp] theorem updTask_delays (s : State) (t k : Nat) (f : Task → Task) : (updTask s t k f).delays = s.delays := rfl
@[simp] theorem updTask_free (s : State) (t k : Nat) (f : Task → Task) : (updTask s t k f).free = s.free := rfl
@[simp] theorem updTask_turn (s : State) (t k : Nat) (f : Task → Task) : (updTask s t k f).turn = s.turn := rfl
@[simp] theorem updTask_cur (s : State) (t k : Nat) (f : Task → Task) : (updTask s t k f).cur = s.cur := rfl
@[simp] theorem updTask_powered (s : State) (t k : Nat) (f : Task → Task) : (updTask s t k f).powered = s.powered := rfl
@[simp] theorem updTask_hbm (s : State) (t k : Nat) (f : Task → Task) : (updTask s t k f).hbm = s.hbm := rfl
@[simp] theorem updTask_groups (s : State) (t k : Nat) (f : Task → Task) : (updTask s t k f).groups = s.groups := rfl
@[simp] theorem updTask_queues (s : State) (t k : Nat) (f : Task → Task) : (updTask s t k f).queues = s.queues := rfl
@[simp] theorem updTask_timetable (s : State) (t k : Nat) (f : Task → Task) : (updTask s t k f).timetable = s.timetable := rfl
@[simp] theorem updTask_slotRun (s : State) (t k : Nat) (f : Task → Task) : (updTask s t k f).slotRun = s.slotRun := rfl
@[simp] theorem updTask_contexts (s : State) (t k : Nat) (f : Task → Task) : (updTask s t k f).contexts = s.contexts := rfl
@[simp] theorem updTask_errBanks (s : State) (t k : Nat) (f : Task → Task) : (updTask s t k f).errBanks = s.errBanks := rfl
@[simp] theorem updTask_frames (s : State) (t k : Nat) (f : Task → Task) : (updTask s t k f).frames = s.frames := rfl
@[simp] theorem updTask_genSeq (s : State) (t k : Nat) (f : Task → Task) : (updTask s t k f).genSeq = s.genSeq := rfl
@[simp] theorem updTask_walks (s : State) (t k : Nat) (f : Task → Task) : (updTask s t k f).walks = s.walks := rfl
@[simp] theorem updTask_walkSeq (s : State) (t k : Nat) (f : Task → Task) : (updTask s t k f).walkSeq = s.walkSeq := rfl
@[simp] theorem updTask_combSeq (s : State) (t k : Nat) (f : Task → Task) : (updTask s t k f).combSeq = s.combSeq := rfl
@[simp] theorem updTask_htlb (s : State) (t k : Nat) (f : Task → Task) : (updTask s t k f).htlb = s.htlb := rfl
@[simp] theorem updTask_remotes (s : State) (t k : Nat) (f : Task → Task) : (updTask s t k f).remotes = s.remotes := rfl
@[simp] theorem updTask_ptPool (s : State) (t k : Nat) (f : Task → Task) : (updTask s t k f).ptPool = s.ptPool := rfl
@[simp] theorem updTask_sr (s : State) (t k : Nat) (f : Task → Task) : (updTask s t k f).sr = s.sr := rfl
@[simp] theorem updTask_islands (s : State) (t k : Nat) (f : Task → Task) : (updTask s t k f).islands = s.islands := rfl
@[simp] theorem updTask_mantelComb (s : State) (t k : Nat) (f : Task → Task) : (updTask s t k f).mantelComb = s.mantelComb := rfl
@[simp] theorem updTask_mantelCombComb (s : State) (t k : Nat) (f : Task → Task) : (updTask s t k f).mantelCombComb = s.mantelCombComb := rfl
@[simp] theorem updTask_mantelCombOvf (s : State) (t k : Nat) (f : Task → Task) : (updTask s t k f).mantelCombOvf = s.mantelCombOvf := rfl
@[simp] theorem updTask_hbmRecs (s : State) (t k : Nat) (f : Task → Task) : (updTask s t k f).hbmRecs = s.hbmRecs := rfl
@[simp] theorem updTask_wslate (s : State) (t k : Nat) (f : Task → Task) : (updTask s t k f).wslate = s.wslate := rfl
@[simp] theorem updTask_clockK (s : State) (t k : Nat) (f : Task → Task) : (updTask s t k f).clockK = s.clockK := rfl
@[simp] theorem updTask_clockA (s : State) (t k : Nat) (f : Task → Task) : (updTask s t k f).clockA = s.clockA := rfl
@[simp] theorem updTask_cwHeld (s : State) (t k : Nat) (f : Task → Task) : (updTask s t k f).cwHeld = s.cwHeld := rfl
@[simp] theorem updTask_cwLate (s : State) (t k : Nat) (f : Task → Task) : (updTask s t k f).cwLate = s.cwLate := rfl
@[simp] theorem updTask_cgrpPend (s : State) (t k : Nat) (f : Task → Task) : (updTask s t k f).cgrpPend = s.cgrpPend := rfl
@[simp] theorem updTask_ports (s : State) (t k : Nat) (f : Task → Task) : (updTask s t k f).ports = s.ports := rfl
@[simp] theorem updTask_peers (s : State) (t k : Nat) (f : Task → Task) : (updTask s t k f).peers = s.peers := rfl
@[simp] theorem updTask_circuit (s : State) (t k : Nat) (f : Task → Task) : (updTask s t k f).circuit = s.circuit := rfl
@[simp] theorem updTask_circuitRun (s : State) (t k : Nat) (f : Task → Task) : (updTask s t k f).circuitRun = s.circuitRun := rfl
@[simp] theorem updTask_ethPeers (s : State) (t k : Nat) (f : Task → Task) : (updTask s t k f).ethPeers = s.ethPeers := rfl
@[simp] theorem updTask_disc (s : State) (t k : Nat) (f : Task → Task) : (updTask s t k f).disc = s.disc := rfl
@[simp] theorem updTask_locked (s : State) (t k : Nat) (f : Task → Task) : (updTask s t k f).locked = s.locked := rfl
@[simp] theorem updTask_ttOvr (s : State) (t k : Nat) (f : Task → Task) : (updTask s t k f).ttOvr = s.ttOvr := rfl
@[simp] theorem updTask_ttMiss (s : State) (t k : Nat) (f : Task → Task) : (updTask s t k f).ttMiss = s.ttMiss := rfl
@[simp] theorem updTask_qrot (s : State) (t k : Nat) (f : Task → Task) : (updTask s t k f).qrot = s.qrot := rfl
@[simp] theorem updTask_sweep (s : State) (t k : Nat) (f : Task → Task) : (updTask s t k f).sweep = s.sweep := rfl
@[simp] theorem updTask_beatKey (s : State) (t k : Nat) (f : Task → Task) : (updTask s t k f).beatKey = s.beatKey := rfl
@[simp] theorem updTask_dies (s : State) (t k : Nat) (f : Task → Task) : (updTask s t k f).dies = s.dies := rfl
@[simp] theorem updTask_layermap (s : State) (t k : Nat) (f : Task → Task) : (updTask s t k f).layermap = s.layermap := rfl
@[simp] theorem updTask_spare (s : State) (t k : Nat) (f : Task → Task) : (updTask s t k f).spare = s.spare := rfl
@[simp] theorem updTask_layers (s : State) (t k : Nat) (f : Task → Task) : (updTask s t k f).layers = s.layers := rfl
@[simp] theorem updTask_power (s : State) (t k : Nat) (f : Task → Task) : (updTask s t k f).power = s.power := rfl
@[simp] theorem updTask_sample (s : State) (t k : Nat) (f : Task → Task) : (updTask s t k f).sample = s.sample := rfl
@[simp] theorem updTask_dmpOld (s : State) (t k : Nat) (f : Task → Task) : (updTask s t k f).dmpOld = s.dmpOld := rfl
@[simp] theorem updTask_dmpNew (s : State) (t k : Nat) (f : Task → Task) : (updTask s t k f).dmpNew = s.dmpNew := rfl
@[simp] theorem updTask_dmpLyr (s : State) (t k : Nat) (f : Task → Task) : (updTask s t k f).dmpLyr = s.dmpLyr := rfl
@[simp] theorem updTask_dmpCause (s : State) (t k : Nat) (f : Task → Task) : (updTask s t k f).dmpCause = s.dmpCause := rfl
@[simp] theorem updTask_dmpCnt (s : State) (t k : Nat) (f : Task → Task) : (updTask s t k f).dmpCnt = s.dmpCnt := rfl
@[simp] theorem updTask_dmpTs (s : State) (t k : Nat) (f : Task → Task) : (updTask s t k f).dmpTs = s.dmpTs := rfl
@[simp] theorem updTask_bondst (s : State) (t k : Nat) (f : Task → Task) : (updTask s t k f).bondst = s.bondst := rfl
@[simp] theorem updTask_bellows (s : State) (t k : Nat) (f : Task → Task) : (updTask s t k f).bellows = s.bellows := rfl
@[simp] theorem updTask_mgmt (s : State) (t k : Nat) (f : Task → Task) : (updTask s t k f).mgmt = s.mgmt := rfl
@[simp] theorem updTask_bootRec (s : State) (t k : Nat) (f : Task → Task) : (updTask s t k f).bootRec = s.bootRec := rfl
@[simp] theorem updTask_flash (s : State) (t k : Nat) (f : Task → Task) : (updTask s t k f).flash = s.flash := rfl
@[simp] theorem updTask_bootStep (s : State) (t k : Nat) (f : Task → Task) : (updTask s t k f).bootStep = s.bootStep := rfl
@[simp] theorem updTask_bootDone (s : State) (t k : Nat) (f : Task → Task) : (updTask s t k f).bootDone = s.bootDone := rfl
@[simp] theorem updTask_bootStop (s : State) (t k : Nat) (f : Task → Task) : (updTask s t k f).bootStop = s.bootStop := rfl
@[simp] theorem updTask_mf (s : State) (t k : Nat) (f : Task → Task) : (updTask s t k f).mf = s.mf := rfl

/-! ### updCtx -/

@[simp] theorem updCtx_hc (s : State) (c : Nat) (f : Context → Context) : (updCtx s c f).hc = s.hc := rfl
@[simp] theorem updCtx_ts (s : State) (c : Nat) (f : Context → Context) : (updCtx s c f).ts = s.ts := rfl
@[simp] theorem updCtx_tsPhase (s : State) (c : Nat) (f : Context → Context) : (updCtx s c f).tsPhase = s.tsPhase := rfl
@[simp] theorem updCtx_events (s : State) (c : Nat) (f : Context → Context) : (updCtx s c f).events = s.events := rfl
@[simp] theorem updCtx_delays (s : State) (c : Nat) (f : Context → Context) : (updCtx s c f).delays = s.delays := rfl
@[simp] theorem updCtx_free (s : State) (c : Nat) (f : Context → Context) : (updCtx s c f).free = s.free := rfl
@[simp] theorem updCtx_turn (s : State) (c : Nat) (f : Context → Context) : (updCtx s c f).turn = s.turn := rfl
@[simp] theorem updCtx_cur (s : State) (c : Nat) (f : Context → Context) : (updCtx s c f).cur = s.cur := rfl
@[simp] theorem updCtx_powered (s : State) (c : Nat) (f : Context → Context) : (updCtx s c f).powered = s.powered := rfl
@[simp] theorem updCtx_tiles (s : State) (c : Nat) (f : Context → Context) : (updCtx s c f).tiles = s.tiles := rfl
@[simp] theorem updCtx_hbm (s : State) (c : Nat) (f : Context → Context) : (updCtx s c f).hbm = s.hbm := rfl
@[simp] theorem updCtx_groups (s : State) (c : Nat) (f : Context → Context) : (updCtx s c f).groups = s.groups := rfl
@[simp] theorem updCtx_queues (s : State) (c : Nat) (f : Context → Context) : (updCtx s c f).queues = s.queues := rfl
@[simp] theorem updCtx_timetable (s : State) (c : Nat) (f : Context → Context) : (updCtx s c f).timetable = s.timetable := rfl
@[simp] theorem updCtx_slotRun (s : State) (c : Nat) (f : Context → Context) : (updCtx s c f).slotRun = s.slotRun := rfl
@[simp] theorem updCtx_errBanks (s : State) (c : Nat) (f : Context → Context) : (updCtx s c f).errBanks = s.errBanks := rfl
@[simp] theorem updCtx_frames (s : State) (c : Nat) (f : Context → Context) : (updCtx s c f).frames = s.frames := rfl
@[simp] theorem updCtx_genSeq (s : State) (c : Nat) (f : Context → Context) : (updCtx s c f).genSeq = s.genSeq := rfl
@[simp] theorem updCtx_walks (s : State) (c : Nat) (f : Context → Context) : (updCtx s c f).walks = s.walks := rfl
@[simp] theorem updCtx_walkSeq (s : State) (c : Nat) (f : Context → Context) : (updCtx s c f).walkSeq = s.walkSeq := rfl
@[simp] theorem updCtx_combSeq (s : State) (c : Nat) (f : Context → Context) : (updCtx s c f).combSeq = s.combSeq := rfl
@[simp] theorem updCtx_htlb (s : State) (c : Nat) (f : Context → Context) : (updCtx s c f).htlb = s.htlb := rfl
@[simp] theorem updCtx_remotes (s : State) (c : Nat) (f : Context → Context) : (updCtx s c f).remotes = s.remotes := rfl
@[simp] theorem updCtx_ptPool (s : State) (c : Nat) (f : Context → Context) : (updCtx s c f).ptPool = s.ptPool := rfl
@[simp] theorem updCtx_sr (s : State) (c : Nat) (f : Context → Context) : (updCtx s c f).sr = s.sr := rfl
@[simp] theorem updCtx_islands (s : State) (c : Nat) (f : Context → Context) : (updCtx s c f).islands = s.islands := rfl
@[simp] theorem updCtx_mantelComb (s : State) (c : Nat) (f : Context → Context) : (updCtx s c f).mantelComb = s.mantelComb := rfl
@[simp] theorem updCtx_mantelCombComb (s : State) (c : Nat) (f : Context → Context) : (updCtx s c f).mantelCombComb = s.mantelCombComb := rfl
@[simp] theorem updCtx_mantelCombOvf (s : State) (c : Nat) (f : Context → Context) : (updCtx s c f).mantelCombOvf = s.mantelCombOvf := rfl
@[simp] theorem updCtx_hbmRecs (s : State) (c : Nat) (f : Context → Context) : (updCtx s c f).hbmRecs = s.hbmRecs := rfl
@[simp] theorem updCtx_wslate (s : State) (c : Nat) (f : Context → Context) : (updCtx s c f).wslate = s.wslate := rfl
@[simp] theorem updCtx_clockK (s : State) (c : Nat) (f : Context → Context) : (updCtx s c f).clockK = s.clockK := rfl
@[simp] theorem updCtx_clockA (s : State) (c : Nat) (f : Context → Context) : (updCtx s c f).clockA = s.clockA := rfl
@[simp] theorem updCtx_cwHeld (s : State) (c : Nat) (f : Context → Context) : (updCtx s c f).cwHeld = s.cwHeld := rfl
@[simp] theorem updCtx_cwLate (s : State) (c : Nat) (f : Context → Context) : (updCtx s c f).cwLate = s.cwLate := rfl
@[simp] theorem updCtx_cgrpPend (s : State) (c : Nat) (f : Context → Context) : (updCtx s c f).cgrpPend = s.cgrpPend := rfl
@[simp] theorem updCtx_ports (s : State) (c : Nat) (f : Context → Context) : (updCtx s c f).ports = s.ports := rfl
@[simp] theorem updCtx_peers (s : State) (c : Nat) (f : Context → Context) : (updCtx s c f).peers = s.peers := rfl
@[simp] theorem updCtx_circuit (s : State) (c : Nat) (f : Context → Context) : (updCtx s c f).circuit = s.circuit := rfl
@[simp] theorem updCtx_circuitRun (s : State) (c : Nat) (f : Context → Context) : (updCtx s c f).circuitRun = s.circuitRun := rfl
@[simp] theorem updCtx_ethPeers (s : State) (c : Nat) (f : Context → Context) : (updCtx s c f).ethPeers = s.ethPeers := rfl
@[simp] theorem updCtx_disc (s : State) (c : Nat) (f : Context → Context) : (updCtx s c f).disc = s.disc := rfl
@[simp] theorem updCtx_locked (s : State) (c : Nat) (f : Context → Context) : (updCtx s c f).locked = s.locked := rfl
@[simp] theorem updCtx_ttOvr (s : State) (c : Nat) (f : Context → Context) : (updCtx s c f).ttOvr = s.ttOvr := rfl
@[simp] theorem updCtx_ttMiss (s : State) (c : Nat) (f : Context → Context) : (updCtx s c f).ttMiss = s.ttMiss := rfl
@[simp] theorem updCtx_qrot (s : State) (c : Nat) (f : Context → Context) : (updCtx s c f).qrot = s.qrot := rfl
@[simp] theorem updCtx_sweep (s : State) (c : Nat) (f : Context → Context) : (updCtx s c f).sweep = s.sweep := rfl
@[simp] theorem updCtx_beatKey (s : State) (c : Nat) (f : Context → Context) : (updCtx s c f).beatKey = s.beatKey := rfl
@[simp] theorem updCtx_dies (s : State) (c : Nat) (f : Context → Context) : (updCtx s c f).dies = s.dies := rfl
@[simp] theorem updCtx_layermap (s : State) (c : Nat) (f : Context → Context) : (updCtx s c f).layermap = s.layermap := rfl
@[simp] theorem updCtx_spare (s : State) (c : Nat) (f : Context → Context) : (updCtx s c f).spare = s.spare := rfl
@[simp] theorem updCtx_layers (s : State) (c : Nat) (f : Context → Context) : (updCtx s c f).layers = s.layers := rfl
@[simp] theorem updCtx_power (s : State) (c : Nat) (f : Context → Context) : (updCtx s c f).power = s.power := rfl
@[simp] theorem updCtx_sample (s : State) (c : Nat) (f : Context → Context) : (updCtx s c f).sample = s.sample := rfl
@[simp] theorem updCtx_dmpOld (s : State) (c : Nat) (f : Context → Context) : (updCtx s c f).dmpOld = s.dmpOld := rfl
@[simp] theorem updCtx_dmpNew (s : State) (c : Nat) (f : Context → Context) : (updCtx s c f).dmpNew = s.dmpNew := rfl
@[simp] theorem updCtx_dmpLyr (s : State) (c : Nat) (f : Context → Context) : (updCtx s c f).dmpLyr = s.dmpLyr := rfl
@[simp] theorem updCtx_dmpCause (s : State) (c : Nat) (f : Context → Context) : (updCtx s c f).dmpCause = s.dmpCause := rfl
@[simp] theorem updCtx_dmpCnt (s : State) (c : Nat) (f : Context → Context) : (updCtx s c f).dmpCnt = s.dmpCnt := rfl
@[simp] theorem updCtx_dmpTs (s : State) (c : Nat) (f : Context → Context) : (updCtx s c f).dmpTs = s.dmpTs := rfl
@[simp] theorem updCtx_bondst (s : State) (c : Nat) (f : Context → Context) : (updCtx s c f).bondst = s.bondst := rfl
@[simp] theorem updCtx_bellows (s : State) (c : Nat) (f : Context → Context) : (updCtx s c f).bellows = s.bellows := rfl
@[simp] theorem updCtx_mgmt (s : State) (c : Nat) (f : Context → Context) : (updCtx s c f).mgmt = s.mgmt := rfl
@[simp] theorem updCtx_bootRec (s : State) (c : Nat) (f : Context → Context) : (updCtx s c f).bootRec = s.bootRec := rfl
@[simp] theorem updCtx_flash (s : State) (c : Nat) (f : Context → Context) : (updCtx s c f).flash = s.flash := rfl
@[simp] theorem updCtx_bootStep (s : State) (c : Nat) (f : Context → Context) : (updCtx s c f).bootStep = s.bootStep := rfl
@[simp] theorem updCtx_bootDone (s : State) (c : Nat) (f : Context → Context) : (updCtx s c f).bootDone = s.bootDone := rfl
@[simp] theorem updCtx_bootStop (s : State) (c : Nat) (f : Context → Context) : (updCtx s c f).bootStop = s.bootStop := rfl
@[simp] theorem updCtx_mf (s : State) (c : Nat) (f : Context → Context) : (updCtx s c f).mf = s.mf := rfl

/-! ### updQueue -/

@[simp] theorem updQueue_hc (s : State) (q : Nat) (f : Queue → Queue) : (updQueue s q f).hc = s.hc := by simp only [updQueue]
@[simp] theorem updQueue_ts (s : State) (q : Nat) (f : Queue → Queue) : (updQueue s q f).ts = s.ts := by simp only [updQueue]
@[simp] theorem updQueue_tsPhase (s : State) (q : Nat) (f : Queue → Queue) : (updQueue s q f).tsPhase = s.tsPhase := by simp only [updQueue]
@[simp] theorem updQueue_events (s : State) (q : Nat) (f : Queue → Queue) : (updQueue s q f).events = s.events := by simp only [updQueue]
@[simp] theorem updQueue_delays (s : State) (q : Nat) (f : Queue → Queue) : (updQueue s q f).delays = s.delays := by simp only [updQueue]
@[simp] theorem updQueue_free (s : State) (q : Nat) (f : Queue → Queue) : (updQueue s q f).free = s.free := by simp only [updQueue]
@[simp] theorem updQueue_turn (s : State) (q : Nat) (f : Queue → Queue) : (updQueue s q f).turn = s.turn := by simp only [updQueue]
@[simp] theorem updQueue_cur (s : State) (q : Nat) (f : Queue → Queue) : (updQueue s q f).cur = s.cur := by simp only [updQueue]
@[simp] theorem updQueue_powered (s : State) (q : Nat) (f : Queue → Queue) : (updQueue s q f).powered = s.powered := by simp only [updQueue]
@[simp] theorem updQueue_tiles (s : State) (q : Nat) (f : Queue → Queue) : (updQueue s q f).tiles = s.tiles := by simp only [updQueue]
@[simp] theorem updQueue_groups (s : State) (q : Nat) (f : Queue → Queue) : (updQueue s q f).groups = s.groups := by simp only [updQueue]
@[simp] theorem updQueue_timetable (s : State) (q : Nat) (f : Queue → Queue) : (updQueue s q f).timetable = s.timetable := by simp only [updQueue]
@[simp] theorem updQueue_slotRun (s : State) (q : Nat) (f : Queue → Queue) : (updQueue s q f).slotRun = s.slotRun := by simp only [updQueue]
@[simp] theorem updQueue_contexts (s : State) (q : Nat) (f : Queue → Queue) : (updQueue s q f).contexts = s.contexts := by simp only [updQueue]
@[simp] theorem updQueue_errBanks (s : State) (q : Nat) (f : Queue → Queue) : (updQueue s q f).errBanks = s.errBanks := by simp only [updQueue]
@[simp] theorem updQueue_frames (s : State) (q : Nat) (f : Queue → Queue) : (updQueue s q f).frames = s.frames := by simp only [updQueue]
@[simp] theorem updQueue_genSeq (s : State) (q : Nat) (f : Queue → Queue) : (updQueue s q f).genSeq = s.genSeq := by simp only [updQueue]
@[simp] theorem updQueue_walks (s : State) (q : Nat) (f : Queue → Queue) : (updQueue s q f).walks = s.walks := by simp only [updQueue]
@[simp] theorem updQueue_walkSeq (s : State) (q : Nat) (f : Queue → Queue) : (updQueue s q f).walkSeq = s.walkSeq := by simp only [updQueue]
@[simp] theorem updQueue_combSeq (s : State) (q : Nat) (f : Queue → Queue) : (updQueue s q f).combSeq = s.combSeq := by simp only [updQueue]
@[simp] theorem updQueue_htlb (s : State) (q : Nat) (f : Queue → Queue) : (updQueue s q f).htlb = s.htlb := by simp only [updQueue]
@[simp] theorem updQueue_remotes (s : State) (q : Nat) (f : Queue → Queue) : (updQueue s q f).remotes = s.remotes := by simp only [updQueue]
@[simp] theorem updQueue_ptPool (s : State) (q : Nat) (f : Queue → Queue) : (updQueue s q f).ptPool = s.ptPool := by simp only [updQueue]
@[simp] theorem updQueue_sr (s : State) (q : Nat) (f : Queue → Queue) : (updQueue s q f).sr = s.sr := by simp only [updQueue]
@[simp] theorem updQueue_islands (s : State) (q : Nat) (f : Queue → Queue) : (updQueue s q f).islands = s.islands := by simp only [updQueue]
@[simp] theorem updQueue_mantelComb (s : State) (q : Nat) (f : Queue → Queue) : (updQueue s q f).mantelComb = s.mantelComb := by simp only [updQueue]
@[simp] theorem updQueue_mantelCombComb (s : State) (q : Nat) (f : Queue → Queue) : (updQueue s q f).mantelCombComb = s.mantelCombComb := by simp only [updQueue]
@[simp] theorem updQueue_mantelCombOvf (s : State) (q : Nat) (f : Queue → Queue) : (updQueue s q f).mantelCombOvf = s.mantelCombOvf := by simp only [updQueue]
@[simp] theorem updQueue_hbmRecs (s : State) (q : Nat) (f : Queue → Queue) : (updQueue s q f).hbmRecs = s.hbmRecs := by simp only [updQueue]
@[simp] theorem updQueue_wslate (s : State) (q : Nat) (f : Queue → Queue) : (updQueue s q f).wslate = s.wslate := by simp only [updQueue]
@[simp] theorem updQueue_clockK (s : State) (q : Nat) (f : Queue → Queue) : (updQueue s q f).clockK = s.clockK := by simp only [updQueue]
@[simp] theorem updQueue_clockA (s : State) (q : Nat) (f : Queue → Queue) : (updQueue s q f).clockA = s.clockA := by simp only [updQueue]
@[simp] theorem updQueue_cwHeld (s : State) (q : Nat) (f : Queue → Queue) : (updQueue s q f).cwHeld = s.cwHeld := by simp only [updQueue]
@[simp] theorem updQueue_cwLate (s : State) (q : Nat) (f : Queue → Queue) : (updQueue s q f).cwLate = s.cwLate := by simp only [updQueue]
@[simp] theorem updQueue_cgrpPend (s : State) (q : Nat) (f : Queue → Queue) : (updQueue s q f).cgrpPend = s.cgrpPend := by simp only [updQueue]
@[simp] theorem updQueue_ports (s : State) (q : Nat) (f : Queue → Queue) : (updQueue s q f).ports = s.ports := by simp only [updQueue]
@[simp] theorem updQueue_peers (s : State) (q : Nat) (f : Queue → Queue) : (updQueue s q f).peers = s.peers := by simp only [updQueue]
@[simp] theorem updQueue_circuit (s : State) (q : Nat) (f : Queue → Queue) : (updQueue s q f).circuit = s.circuit := by simp only [updQueue]
@[simp] theorem updQueue_circuitRun (s : State) (q : Nat) (f : Queue → Queue) : (updQueue s q f).circuitRun = s.circuitRun := by simp only [updQueue]
@[simp] theorem updQueue_ethPeers (s : State) (q : Nat) (f : Queue → Queue) : (updQueue s q f).ethPeers = s.ethPeers := by simp only [updQueue]
@[simp] theorem updQueue_disc (s : State) (q : Nat) (f : Queue → Queue) : (updQueue s q f).disc = s.disc := by simp only [updQueue]
@[simp] theorem updQueue_locked (s : State) (q : Nat) (f : Queue → Queue) : (updQueue s q f).locked = s.locked := by simp only [updQueue]
@[simp] theorem updQueue_ttOvr (s : State) (q : Nat) (f : Queue → Queue) : (updQueue s q f).ttOvr = s.ttOvr := by simp only [updQueue]
@[simp] theorem updQueue_ttMiss (s : State) (q : Nat) (f : Queue → Queue) : (updQueue s q f).ttMiss = s.ttMiss := by simp only [updQueue]
@[simp] theorem updQueue_qrot (s : State) (q : Nat) (f : Queue → Queue) : (updQueue s q f).qrot = s.qrot := by simp only [updQueue]
@[simp] theorem updQueue_sweep (s : State) (q : Nat) (f : Queue → Queue) : (updQueue s q f).sweep = s.sweep := by simp only [updQueue]
@[simp] theorem updQueue_beatKey (s : State) (q : Nat) (f : Queue → Queue) : (updQueue s q f).beatKey = s.beatKey := by simp only [updQueue]
@[simp] theorem updQueue_dies (s : State) (q : Nat) (f : Queue → Queue) : (updQueue s q f).dies = s.dies := by simp only [updQueue]
@[simp] theorem updQueue_layermap (s : State) (q : Nat) (f : Queue → Queue) : (updQueue s q f).layermap = s.layermap := by simp only [updQueue]
@[simp] theorem updQueue_spare (s : State) (q : Nat) (f : Queue → Queue) : (updQueue s q f).spare = s.spare := by simp only [updQueue]
@[simp] theorem updQueue_layers (s : State) (q : Nat) (f : Queue → Queue) : (updQueue s q f).layers = s.layers := by simp only [updQueue]
@[simp] theorem updQueue_power (s : State) (q : Nat) (f : Queue → Queue) : (updQueue s q f).power = s.power := by simp only [updQueue]
@[simp] theorem updQueue_sample (s : State) (q : Nat) (f : Queue → Queue) : (updQueue s q f).sample = s.sample := by simp only [updQueue]
@[simp] theorem updQueue_dmpOld (s : State) (q : Nat) (f : Queue → Queue) : (updQueue s q f).dmpOld = s.dmpOld := by simp only [updQueue]
@[simp] theorem updQueue_dmpNew (s : State) (q : Nat) (f : Queue → Queue) : (updQueue s q f).dmpNew = s.dmpNew := by simp only [updQueue]
@[simp] theorem updQueue_dmpLyr (s : State) (q : Nat) (f : Queue → Queue) : (updQueue s q f).dmpLyr = s.dmpLyr := by simp only [updQueue]
@[simp] theorem updQueue_dmpCause (s : State) (q : Nat) (f : Queue → Queue) : (updQueue s q f).dmpCause = s.dmpCause := by simp only [updQueue]
@[simp] theorem updQueue_dmpCnt (s : State) (q : Nat) (f : Queue → Queue) : (updQueue s q f).dmpCnt = s.dmpCnt := by simp only [updQueue]
@[simp] theorem updQueue_dmpTs (s : State) (q : Nat) (f : Queue → Queue) : (updQueue s q f).dmpTs = s.dmpTs := by simp only [updQueue]
@[simp] theorem updQueue_bondst (s : State) (q : Nat) (f : Queue → Queue) : (updQueue s q f).bondst = s.bondst := by simp only [updQueue]
@[simp] theorem updQueue_bellows (s : State) (q : Nat) (f : Queue → Queue) : (updQueue s q f).bellows = s.bellows := by simp only [updQueue]
@[simp] theorem updQueue_mgmt (s : State) (q : Nat) (f : Queue → Queue) : (updQueue s q f).mgmt = s.mgmt := by simp only [updQueue]
@[simp] theorem updQueue_bootRec (s : State) (q : Nat) (f : Queue → Queue) : (updQueue s q f).bootRec = s.bootRec := by simp only [updQueue]
@[simp] theorem updQueue_flash (s : State) (q : Nat) (f : Queue → Queue) : (updQueue s q f).flash = s.flash := by simp only [updQueue]
@[simp] theorem updQueue_bootStep (s : State) (q : Nat) (f : Queue → Queue) : (updQueue s q f).bootStep = s.bootStep := by simp only [updQueue]
@[simp] theorem updQueue_bootDone (s : State) (q : Nat) (f : Queue → Queue) : (updQueue s q f).bootDone = s.bootDone := by simp only [updQueue]
@[simp] theorem updQueue_bootStop (s : State) (q : Nat) (f : Queue → Queue) : (updQueue s q f).bootStop = s.bootStop := by simp only [updQueue]
@[simp] theorem updQueue_mf (s : State) (q : Nat) (f : Queue → Queue) : (updQueue s q f).mf = s.mf := by simp only [updQueue]

/-! ### updGroup -/

@[simp] theorem updGroup_hc (s : State) (g : Nat) (f : Group → Group) : (updGroup s g f).hc = s.hc := rfl
@[simp] theorem updGroup_ts (s : State) (g : Nat) (f : Group → Group) : (updGroup s g f).ts = s.ts := rfl
@[simp] theorem updGroup_tsPhase (s : State) (g : Nat) (f : Group → Group) : (updGroup s g f).tsPhase = s.tsPhase := rfl
@[simp] theorem updGroup_events (s : State) (g : Nat) (f : Group → Group) : (updGroup s g f).events = s.events := rfl
@[simp] theorem updGroup_delays (s : State) (g : Nat) (f : Group → Group) : (updGroup s g f).delays = s.delays := rfl
@[simp] theorem updGroup_free (s : State) (g : Nat) (f : Group → Group) : (updGroup s g f).free = s.free := rfl
@[simp] theorem updGroup_turn (s : State) (g : Nat) (f : Group → Group) : (updGroup s g f).turn = s.turn := rfl
@[simp] theorem updGroup_cur (s : State) (g : Nat) (f : Group → Group) : (updGroup s g f).cur = s.cur := rfl
@[simp] theorem updGroup_powered (s : State) (g : Nat) (f : Group → Group) : (updGroup s g f).powered = s.powered := rfl
@[simp] theorem updGroup_tiles (s : State) (g : Nat) (f : Group → Group) : (updGroup s g f).tiles = s.tiles := rfl
@[simp] theorem updGroup_hbm (s : State) (g : Nat) (f : Group → Group) : (updGroup s g f).hbm = s.hbm := rfl
@[simp] theorem updGroup_queues (s : State) (g : Nat) (f : Group → Group) : (updGroup s g f).queues = s.queues := rfl
@[simp] theorem updGroup_timetable (s : State) (g : Nat) (f : Group → Group) : (updGroup s g f).timetable = s.timetable := rfl
@[simp] theorem updGroup_slotRun (s : State) (g : Nat) (f : Group → Group) : (updGroup s g f).slotRun = s.slotRun := rfl
@[simp] theorem updGroup_contexts (s : State) (g : Nat) (f : Group → Group) : (updGroup s g f).contexts = s.contexts := rfl
@[simp] theorem updGroup_errBanks (s : State) (g : Nat) (f : Group → Group) : (updGroup s g f).errBanks = s.errBanks := rfl
@[simp] theorem updGroup_frames (s : State) (g : Nat) (f : Group → Group) : (updGroup s g f).frames = s.frames := rfl
@[simp] theorem updGroup_genSeq (s : State) (g : Nat) (f : Group → Group) : (updGroup s g f).genSeq = s.genSeq := rfl
@[simp] theorem updGroup_walks (s : State) (g : Nat) (f : Group → Group) : (updGroup s g f).walks = s.walks := rfl
@[simp] theorem updGroup_walkSeq (s : State) (g : Nat) (f : Group → Group) : (updGroup s g f).walkSeq = s.walkSeq := rfl
@[simp] theorem updGroup_combSeq (s : State) (g : Nat) (f : Group → Group) : (updGroup s g f).combSeq = s.combSeq := rfl
@[simp] theorem updGroup_htlb (s : State) (g : Nat) (f : Group → Group) : (updGroup s g f).htlb = s.htlb := rfl
@[simp] theorem updGroup_remotes (s : State) (g : Nat) (f : Group → Group) : (updGroup s g f).remotes = s.remotes := rfl
@[simp] theorem updGroup_ptPool (s : State) (g : Nat) (f : Group → Group) : (updGroup s g f).ptPool = s.ptPool := rfl
@[simp] theorem updGroup_sr (s : State) (g : Nat) (f : Group → Group) : (updGroup s g f).sr = s.sr := rfl
@[simp] theorem updGroup_islands (s : State) (g : Nat) (f : Group → Group) : (updGroup s g f).islands = s.islands := rfl
@[simp] theorem updGroup_mantelComb (s : State) (g : Nat) (f : Group → Group) : (updGroup s g f).mantelComb = s.mantelComb := rfl
@[simp] theorem updGroup_mantelCombComb (s : State) (g : Nat) (f : Group → Group) : (updGroup s g f).mantelCombComb = s.mantelCombComb := rfl
@[simp] theorem updGroup_mantelCombOvf (s : State) (g : Nat) (f : Group → Group) : (updGroup s g f).mantelCombOvf = s.mantelCombOvf := rfl
@[simp] theorem updGroup_hbmRecs (s : State) (g : Nat) (f : Group → Group) : (updGroup s g f).hbmRecs = s.hbmRecs := rfl
@[simp] theorem updGroup_wslate (s : State) (g : Nat) (f : Group → Group) : (updGroup s g f).wslate = s.wslate := rfl
@[simp] theorem updGroup_clockK (s : State) (g : Nat) (f : Group → Group) : (updGroup s g f).clockK = s.clockK := rfl
@[simp] theorem updGroup_clockA (s : State) (g : Nat) (f : Group → Group) : (updGroup s g f).clockA = s.clockA := rfl
@[simp] theorem updGroup_cwHeld (s : State) (g : Nat) (f : Group → Group) : (updGroup s g f).cwHeld = s.cwHeld := rfl
@[simp] theorem updGroup_cwLate (s : State) (g : Nat) (f : Group → Group) : (updGroup s g f).cwLate = s.cwLate := rfl
@[simp] theorem updGroup_cgrpPend (s : State) (g : Nat) (f : Group → Group) : (updGroup s g f).cgrpPend = s.cgrpPend := rfl
@[simp] theorem updGroup_ports (s : State) (g : Nat) (f : Group → Group) : (updGroup s g f).ports = s.ports := rfl
@[simp] theorem updGroup_peers (s : State) (g : Nat) (f : Group → Group) : (updGroup s g f).peers = s.peers := rfl
@[simp] theorem updGroup_circuit (s : State) (g : Nat) (f : Group → Group) : (updGroup s g f).circuit = s.circuit := rfl
@[simp] theorem updGroup_circuitRun (s : State) (g : Nat) (f : Group → Group) : (updGroup s g f).circuitRun = s.circuitRun := rfl
@[simp] theorem updGroup_ethPeers (s : State) (g : Nat) (f : Group → Group) : (updGroup s g f).ethPeers = s.ethPeers := rfl
@[simp] theorem updGroup_disc (s : State) (g : Nat) (f : Group → Group) : (updGroup s g f).disc = s.disc := rfl
@[simp] theorem updGroup_locked (s : State) (g : Nat) (f : Group → Group) : (updGroup s g f).locked = s.locked := rfl
@[simp] theorem updGroup_ttOvr (s : State) (g : Nat) (f : Group → Group) : (updGroup s g f).ttOvr = s.ttOvr := rfl
@[simp] theorem updGroup_ttMiss (s : State) (g : Nat) (f : Group → Group) : (updGroup s g f).ttMiss = s.ttMiss := rfl
@[simp] theorem updGroup_qrot (s : State) (g : Nat) (f : Group → Group) : (updGroup s g f).qrot = s.qrot := rfl
@[simp] theorem updGroup_sweep (s : State) (g : Nat) (f : Group → Group) : (updGroup s g f).sweep = s.sweep := rfl
@[simp] theorem updGroup_beatKey (s : State) (g : Nat) (f : Group → Group) : (updGroup s g f).beatKey = s.beatKey := rfl
@[simp] theorem updGroup_dies (s : State) (g : Nat) (f : Group → Group) : (updGroup s g f).dies = s.dies := rfl
@[simp] theorem updGroup_layermap (s : State) (g : Nat) (f : Group → Group) : (updGroup s g f).layermap = s.layermap := rfl
@[simp] theorem updGroup_spare (s : State) (g : Nat) (f : Group → Group) : (updGroup s g f).spare = s.spare := rfl
@[simp] theorem updGroup_layers (s : State) (g : Nat) (f : Group → Group) : (updGroup s g f).layers = s.layers := rfl
@[simp] theorem updGroup_power (s : State) (g : Nat) (f : Group → Group) : (updGroup s g f).power = s.power := rfl
@[simp] theorem updGroup_sample (s : State) (g : Nat) (f : Group → Group) : (updGroup s g f).sample = s.sample := rfl
@[simp] theorem updGroup_dmpOld (s : State) (g : Nat) (f : Group → Group) : (updGroup s g f).dmpOld = s.dmpOld := rfl
@[simp] theorem updGroup_dmpNew (s : State) (g : Nat) (f : Group → Group) : (updGroup s g f).dmpNew = s.dmpNew := rfl
@[simp] theorem updGroup_dmpLyr (s : State) (g : Nat) (f : Group → Group) : (updGroup s g f).dmpLyr = s.dmpLyr := rfl
@[simp] theorem updGroup_dmpCause (s : State) (g : Nat) (f : Group → Group) : (updGroup s g f).dmpCause = s.dmpCause := rfl
@[simp] theorem updGroup_dmpCnt (s : State) (g : Nat) (f : Group → Group) : (updGroup s g f).dmpCnt = s.dmpCnt := rfl
@[simp] theorem updGroup_dmpTs (s : State) (g : Nat) (f : Group → Group) : (updGroup s g f).dmpTs = s.dmpTs := rfl
@[simp] theorem updGroup_bondst (s : State) (g : Nat) (f : Group → Group) : (updGroup s g f).bondst = s.bondst := rfl
@[simp] theorem updGroup_bellows (s : State) (g : Nat) (f : Group → Group) : (updGroup s g f).bellows = s.bellows := rfl
@[simp] theorem updGroup_mgmt (s : State) (g : Nat) (f : Group → Group) : (updGroup s g f).mgmt = s.mgmt := rfl
@[simp] theorem updGroup_bootRec (s : State) (g : Nat) (f : Group → Group) : (updGroup s g f).bootRec = s.bootRec := rfl
@[simp] theorem updGroup_flash (s : State) (g : Nat) (f : Group → Group) : (updGroup s g f).flash = s.flash := rfl
@[simp] theorem updGroup_bootStep (s : State) (g : Nat) (f : Group → Group) : (updGroup s g f).bootStep = s.bootStep := rfl
@[simp] theorem updGroup_bootDone (s : State) (g : Nat) (f : Group → Group) : (updGroup s g f).bootDone = s.bootDone := rfl
@[simp] theorem updGroup_bootStop (s : State) (g : Nat) (f : Group → Group) : (updGroup s g f).bootStop = s.bootStop := rfl
@[simp] theorem updGroup_mf (s : State) (g : Nat) (f : Group → Group) : (updGroup s g f).mf = s.mf := rfl

/-! ### schedule -/

@[simp] theorem schedule_hc (s : State) (due : Nat) (ev : Instr) : (schedule s due ev).hc = s.hc := rfl
@[simp] theorem schedule_ts (s : State) (due : Nat) (ev : Instr) : (schedule s due ev).ts = s.ts := rfl
@[simp] theorem schedule_tsPhase (s : State) (due : Nat) (ev : Instr) : (schedule s due ev).tsPhase = s.tsPhase := rfl
@[simp] theorem schedule_delays (s : State) (due : Nat) (ev : Instr) : (schedule s due ev).delays = s.delays := rfl
@[simp] theorem schedule_free (s : State) (due : Nat) (ev : Instr) : (schedule s due ev).free = s.free := rfl
@[simp] theorem schedule_turn (s : State) (due : Nat) (ev : Instr) : (schedule s due ev).turn = s.turn := rfl
@[simp] theorem schedule_cur (s : State) (due : Nat) (ev : Instr) : (schedule s due ev).cur = s.cur := rfl
@[simp] theorem schedule_powered (s : State) (due : Nat) (ev : Instr) : (schedule s due ev).powered = s.powered := rfl
@[simp] theorem schedule_tiles (s : State) (due : Nat) (ev : Instr) : (schedule s due ev).tiles = s.tiles := rfl
@[simp] theorem schedule_hbm (s : State) (due : Nat) (ev : Instr) : (schedule s due ev).hbm = s.hbm := rfl
@[simp] theorem schedule_groups (s : State) (due : Nat) (ev : Instr) : (schedule s due ev).groups = s.groups := rfl
@[simp] theorem schedule_queues (s : State) (due : Nat) (ev : Instr) : (schedule s due ev).queues = s.queues := rfl
@[simp] theorem schedule_timetable (s : State) (due : Nat) (ev : Instr) : (schedule s due ev).timetable = s.timetable := rfl
@[simp] theorem schedule_slotRun (s : State) (due : Nat) (ev : Instr) : (schedule s due ev).slotRun = s.slotRun := rfl
@[simp] theorem schedule_contexts (s : State) (due : Nat) (ev : Instr) : (schedule s due ev).contexts = s.contexts := rfl
@[simp] theorem schedule_errBanks (s : State) (due : Nat) (ev : Instr) : (schedule s due ev).errBanks = s.errBanks := rfl
@[simp] theorem schedule_frames (s : State) (due : Nat) (ev : Instr) : (schedule s due ev).frames = s.frames := rfl
@[simp] theorem schedule_genSeq (s : State) (due : Nat) (ev : Instr) : (schedule s due ev).genSeq = s.genSeq := rfl
@[simp] theorem schedule_walks (s : State) (due : Nat) (ev : Instr) : (schedule s due ev).walks = s.walks := rfl
@[simp] theorem schedule_walkSeq (s : State) (due : Nat) (ev : Instr) : (schedule s due ev).walkSeq = s.walkSeq := rfl
@[simp] theorem schedule_combSeq (s : State) (due : Nat) (ev : Instr) : (schedule s due ev).combSeq = s.combSeq := rfl
@[simp] theorem schedule_htlb (s : State) (due : Nat) (ev : Instr) : (schedule s due ev).htlb = s.htlb := rfl
@[simp] theorem schedule_remotes (s : State) (due : Nat) (ev : Instr) : (schedule s due ev).remotes = s.remotes := rfl
@[simp] theorem schedule_ptPool (s : State) (due : Nat) (ev : Instr) : (schedule s due ev).ptPool = s.ptPool := rfl
@[simp] theorem schedule_sr (s : State) (due : Nat) (ev : Instr) : (schedule s due ev).sr = s.sr := rfl
@[simp] theorem schedule_islands (s : State) (due : Nat) (ev : Instr) : (schedule s due ev).islands = s.islands := rfl
@[simp] theorem schedule_mantelComb (s : State) (due : Nat) (ev : Instr) : (schedule s due ev).mantelComb = s.mantelComb := rfl
@[simp] theorem schedule_mantelCombComb (s : State) (due : Nat) (ev : Instr) : (schedule s due ev).mantelCombComb = s.mantelCombComb := rfl
@[simp] theorem schedule_mantelCombOvf (s : State) (due : Nat) (ev : Instr) : (schedule s due ev).mantelCombOvf = s.mantelCombOvf := rfl
@[simp] theorem schedule_hbmRecs (s : State) (due : Nat) (ev : Instr) : (schedule s due ev).hbmRecs = s.hbmRecs := rfl
@[simp] theorem schedule_wslate (s : State) (due : Nat) (ev : Instr) : (schedule s due ev).wslate = s.wslate := rfl
@[simp] theorem schedule_clockK (s : State) (due : Nat) (ev : Instr) : (schedule s due ev).clockK = s.clockK := rfl
@[simp] theorem schedule_clockA (s : State) (due : Nat) (ev : Instr) : (schedule s due ev).clockA = s.clockA := rfl
@[simp] theorem schedule_cwHeld (s : State) (due : Nat) (ev : Instr) : (schedule s due ev).cwHeld = s.cwHeld := rfl
@[simp] theorem schedule_cwLate (s : State) (due : Nat) (ev : Instr) : (schedule s due ev).cwLate = s.cwLate := rfl
@[simp] theorem schedule_cgrpPend (s : State) (due : Nat) (ev : Instr) : (schedule s due ev).cgrpPend = s.cgrpPend := rfl
@[simp] theorem schedule_ports (s : State) (due : Nat) (ev : Instr) : (schedule s due ev).ports = s.ports := rfl
@[simp] theorem schedule_peers (s : State) (due : Nat) (ev : Instr) : (schedule s due ev).peers = s.peers := rfl
@[simp] theorem schedule_circuit (s : State) (due : Nat) (ev : Instr) : (schedule s due ev).circuit = s.circuit := rfl
@[simp] theorem schedule_circuitRun (s : State) (due : Nat) (ev : Instr) : (schedule s due ev).circuitRun = s.circuitRun := rfl
@[simp] theorem schedule_ethPeers (s : State) (due : Nat) (ev : Instr) : (schedule s due ev).ethPeers = s.ethPeers := rfl
@[simp] theorem schedule_disc (s : State) (due : Nat) (ev : Instr) : (schedule s due ev).disc = s.disc := rfl
@[simp] theorem schedule_locked (s : State) (due : Nat) (ev : Instr) : (schedule s due ev).locked = s.locked := rfl
@[simp] theorem schedule_ttOvr (s : State) (due : Nat) (ev : Instr) : (schedule s due ev).ttOvr = s.ttOvr := rfl
@[simp] theorem schedule_ttMiss (s : State) (due : Nat) (ev : Instr) : (schedule s due ev).ttMiss = s.ttMiss := rfl
@[simp] theorem schedule_qrot (s : State) (due : Nat) (ev : Instr) : (schedule s due ev).qrot = s.qrot := rfl
@[simp] theorem schedule_sweep (s : State) (due : Nat) (ev : Instr) : (schedule s due ev).sweep = s.sweep := rfl
@[simp] theorem schedule_beatKey (s : State) (due : Nat) (ev : Instr) : (schedule s due ev).beatKey = s.beatKey := rfl
@[simp] theorem schedule_dies (s : State) (due : Nat) (ev : Instr) : (schedule s due ev).dies = s.dies := rfl
@[simp] theorem schedule_layermap (s : State) (due : Nat) (ev : Instr) : (schedule s due ev).layermap = s.layermap := rfl
@[simp] theorem schedule_spare (s : State) (due : Nat) (ev : Instr) : (schedule s due ev).spare = s.spare := rfl
@[simp] theorem schedule_layers (s : State) (due : Nat) (ev : Instr) : (schedule s due ev).layers = s.layers := rfl
@[simp] theorem schedule_power (s : State) (due : Nat) (ev : Instr) : (schedule s due ev).power = s.power := rfl
@[simp] theorem schedule_sample (s : State) (due : Nat) (ev : Instr) : (schedule s due ev).sample = s.sample := rfl
@[simp] theorem schedule_dmpOld (s : State) (due : Nat) (ev : Instr) : (schedule s due ev).dmpOld = s.dmpOld := rfl
@[simp] theorem schedule_dmpNew (s : State) (due : Nat) (ev : Instr) : (schedule s due ev).dmpNew = s.dmpNew := rfl
@[simp] theorem schedule_dmpLyr (s : State) (due : Nat) (ev : Instr) : (schedule s due ev).dmpLyr = s.dmpLyr := rfl
@[simp] theorem schedule_dmpCause (s : State) (due : Nat) (ev : Instr) : (schedule s due ev).dmpCause = s.dmpCause := rfl
@[simp] theorem schedule_dmpCnt (s : State) (due : Nat) (ev : Instr) : (schedule s due ev).dmpCnt = s.dmpCnt := rfl
@[simp] theorem schedule_dmpTs (s : State) (due : Nat) (ev : Instr) : (schedule s due ev).dmpTs = s.dmpTs := rfl
@[simp] theorem schedule_bondst (s : State) (due : Nat) (ev : Instr) : (schedule s due ev).bondst = s.bondst := rfl
@[simp] theorem schedule_bellows (s : State) (due : Nat) (ev : Instr) : (schedule s due ev).bellows = s.bellows := rfl
@[simp] theorem schedule_mgmt (s : State) (due : Nat) (ev : Instr) : (schedule s due ev).mgmt = s.mgmt := rfl
@[simp] theorem schedule_bootRec (s : State) (due : Nat) (ev : Instr) : (schedule s due ev).bootRec = s.bootRec := rfl
@[simp] theorem schedule_flash (s : State) (due : Nat) (ev : Instr) : (schedule s due ev).flash = s.flash := rfl
@[simp] theorem schedule_bootStep (s : State) (due : Nat) (ev : Instr) : (schedule s due ev).bootStep = s.bootStep := rfl
@[simp] theorem schedule_bootDone (s : State) (due : Nat) (ev : Instr) : (schedule s due ev).bootDone = s.bootDone := rfl
@[simp] theorem schedule_bootStop (s : State) (due : Nat) (ev : Instr) : (schedule s due ev).bootStop = s.bootStop := rfl
@[simp] theorem schedule_mf (s : State) (due : Nat) (ev : Instr) : (schedule s due ev).mf = s.mf := rfl

/-! ### scheduleAt -/

@[simp] theorem scheduleAt_hc (s : State) (due : Nat) (ev : Instr) : (scheduleAt s due ev).hc = s.hc := rfl
@[simp] theorem scheduleAt_ts (s : State) (due : Nat) (ev : Instr) : (scheduleAt s due ev).ts = s.ts := rfl
@[simp] theorem scheduleAt_tsPhase (s : State) (due : Nat) (ev : Instr) : (scheduleAt s due ev).tsPhase = s.tsPhase := rfl
@[simp] theorem scheduleAt_delays (s : State) (due : Nat) (ev : Instr) : (scheduleAt s due ev).delays = s.delays := rfl
@[simp] theorem scheduleAt_free (s : State) (due : Nat) (ev : Instr) : (scheduleAt s due ev).free = s.free := rfl
@[simp] theorem scheduleAt_turn (s : State) (due : Nat) (ev : Instr) : (scheduleAt s due ev).turn = s.turn := rfl
@[simp] theorem scheduleAt_cur (s : State) (due : Nat) (ev : Instr) : (scheduleAt s due ev).cur = s.cur := rfl
@[simp] theorem scheduleAt_powered (s : State) (due : Nat) (ev : Instr) : (scheduleAt s due ev).powered = s.powered := rfl
@[simp] theorem scheduleAt_tiles (s : State) (due : Nat) (ev : Instr) : (scheduleAt s due ev).tiles = s.tiles := rfl
@[simp] theorem scheduleAt_hbm (s : State) (due : Nat) (ev : Instr) : (scheduleAt s due ev).hbm = s.hbm := rfl
@[simp] theorem scheduleAt_groups (s : State) (due : Nat) (ev : Instr) : (scheduleAt s due ev).groups = s.groups := rfl
@[simp] theorem scheduleAt_queues (s : State) (due : Nat) (ev : Instr) : (scheduleAt s due ev).queues = s.queues := rfl
@[simp] theorem scheduleAt_timetable (s : State) (due : Nat) (ev : Instr) : (scheduleAt s due ev).timetable = s.timetable := rfl
@[simp] theorem scheduleAt_slotRun (s : State) (due : Nat) (ev : Instr) : (scheduleAt s due ev).slotRun = s.slotRun := rfl
@[simp] theorem scheduleAt_contexts (s : State) (due : Nat) (ev : Instr) : (scheduleAt s due ev).contexts = s.contexts := rfl
@[simp] theorem scheduleAt_errBanks (s : State) (due : Nat) (ev : Instr) : (scheduleAt s due ev).errBanks = s.errBanks := rfl
@[simp] theorem scheduleAt_frames (s : State) (due : Nat) (ev : Instr) : (scheduleAt s due ev).frames = s.frames := rfl
@[simp] theorem scheduleAt_genSeq (s : State) (due : Nat) (ev : Instr) : (scheduleAt s due ev).genSeq = s.genSeq := rfl
@[simp] theorem scheduleAt_walks (s : State) (due : Nat) (ev : Instr) : (scheduleAt s due ev).walks = s.walks := rfl
@[simp] theorem scheduleAt_walkSeq (s : State) (due : Nat) (ev : Instr) : (scheduleAt s due ev).walkSeq = s.walkSeq := rfl
@[simp] theorem scheduleAt_combSeq (s : State) (due : Nat) (ev : Instr) : (scheduleAt s due ev).combSeq = s.combSeq := rfl
@[simp] theorem scheduleAt_htlb (s : State) (due : Nat) (ev : Instr) : (scheduleAt s due ev).htlb = s.htlb := rfl
@[simp] theorem scheduleAt_remotes (s : State) (due : Nat) (ev : Instr) : (scheduleAt s due ev).remotes = s.remotes := rfl
@[simp] theorem scheduleAt_ptPool (s : State) (due : Nat) (ev : Instr) : (scheduleAt s due ev).ptPool = s.ptPool := rfl
@[simp] theorem scheduleAt_sr (s : State) (due : Nat) (ev : Instr) : (scheduleAt s due ev).sr = s.sr := rfl
@[simp] theorem scheduleAt_islands (s : State) (due : Nat) (ev : Instr) : (scheduleAt s due ev).islands = s.islands := rfl
@[simp] theorem scheduleAt_mantelComb (s : State) (due : Nat) (ev : Instr) : (scheduleAt s due ev).mantelComb = s.mantelComb := rfl
@[simp] theorem scheduleAt_mantelCombComb (s : State) (due : Nat) (ev : Instr) : (scheduleAt s due ev).mantelCombComb = s.mantelCombComb := rfl
@[simp] theorem scheduleAt_mantelCombOvf (s : State) (due : Nat) (ev : Instr) : (scheduleAt s due ev).mantelCombOvf = s.mantelCombOvf := rfl
@[simp] theorem scheduleAt_hbmRecs (s : State) (due : Nat) (ev : Instr) : (scheduleAt s due ev).hbmRecs = s.hbmRecs := rfl
@[simp] theorem scheduleAt_wslate (s : State) (due : Nat) (ev : Instr) : (scheduleAt s due ev).wslate = s.wslate := rfl
@[simp] theorem scheduleAt_clockK (s : State) (due : Nat) (ev : Instr) : (scheduleAt s due ev).clockK = s.clockK := rfl
@[simp] theorem scheduleAt_clockA (s : State) (due : Nat) (ev : Instr) : (scheduleAt s due ev).clockA = s.clockA := rfl
@[simp] theorem scheduleAt_cwHeld (s : State) (due : Nat) (ev : Instr) : (scheduleAt s due ev).cwHeld = s.cwHeld := rfl
@[simp] theorem scheduleAt_cwLate (s : State) (due : Nat) (ev : Instr) : (scheduleAt s due ev).cwLate = s.cwLate := rfl
@[simp] theorem scheduleAt_cgrpPend (s : State) (due : Nat) (ev : Instr) : (scheduleAt s due ev).cgrpPend = s.cgrpPend := rfl
@[simp] theorem scheduleAt_ports (s : State) (due : Nat) (ev : Instr) : (scheduleAt s due ev).ports = s.ports := rfl
@[simp] theorem scheduleAt_peers (s : State) (due : Nat) (ev : Instr) : (scheduleAt s due ev).peers = s.peers := rfl
@[simp] theorem scheduleAt_circuit (s : State) (due : Nat) (ev : Instr) : (scheduleAt s due ev).circuit = s.circuit := rfl
@[simp] theorem scheduleAt_circuitRun (s : State) (due : Nat) (ev : Instr) : (scheduleAt s due ev).circuitRun = s.circuitRun := rfl
@[simp] theorem scheduleAt_ethPeers (s : State) (due : Nat) (ev : Instr) : (scheduleAt s due ev).ethPeers = s.ethPeers := rfl
@[simp] theorem scheduleAt_disc (s : State) (due : Nat) (ev : Instr) : (scheduleAt s due ev).disc = s.disc := rfl
@[simp] theorem scheduleAt_locked (s : State) (due : Nat) (ev : Instr) : (scheduleAt s due ev).locked = s.locked := rfl
@[simp] theorem scheduleAt_ttOvr (s : State) (due : Nat) (ev : Instr) : (scheduleAt s due ev).ttOvr = s.ttOvr := rfl
@[simp] theorem scheduleAt_ttMiss (s : State) (due : Nat) (ev : Instr) : (scheduleAt s due ev).ttMiss = s.ttMiss := rfl
@[simp] theorem scheduleAt_qrot (s : State) (due : Nat) (ev : Instr) : (scheduleAt s due ev).qrot = s.qrot := rfl
@[simp] theorem scheduleAt_sweep (s : State) (due : Nat) (ev : Instr) : (scheduleAt s due ev).sweep = s.sweep := rfl
@[simp] theorem scheduleAt_beatKey (s : State) (due : Nat) (ev : Instr) : (scheduleAt s due ev).beatKey = s.beatKey := rfl
@[simp] theorem scheduleAt_dies (s : State) (due : Nat) (ev : Instr) : (scheduleAt s due ev).dies = s.dies := rfl
@[simp] theorem scheduleAt_layermap (s : State) (due : Nat) (ev : Instr) : (scheduleAt s due ev).layermap = s.layermap := rfl
@[simp] theorem scheduleAt_spare (s : State) (due : Nat) (ev : Instr) : (scheduleAt s due ev).spare = s.spare := rfl
@[simp] theorem scheduleAt_layers (s : State) (due : Nat) (ev : Instr) : (scheduleAt s due ev).layers = s.layers := rfl
@[simp] theorem scheduleAt_power (s : State) (due : Nat) (ev : Instr) : (scheduleAt s due ev).power = s.power := rfl
@[simp] theorem scheduleAt_sample (s : State) (due : Nat) (ev : Instr) : (scheduleAt s due ev).sample = s.sample := rfl
@[simp] theorem scheduleAt_dmpOld (s : State) (due : Nat) (ev : Instr) : (scheduleAt s due ev).dmpOld = s.dmpOld := rfl
@[simp] theorem scheduleAt_dmpNew (s : State) (due : Nat) (ev : Instr) : (scheduleAt s due ev).dmpNew = s.dmpNew := rfl
@[simp] theorem scheduleAt_dmpLyr (s : State) (due : Nat) (ev : Instr) : (scheduleAt s due ev).dmpLyr = s.dmpLyr := rfl
@[simp] theorem scheduleAt_dmpCause (s : State) (due : Nat) (ev : Instr) : (scheduleAt s due ev).dmpCause = s.dmpCause := rfl
@[simp] theorem scheduleAt_dmpCnt (s : State) (due : Nat) (ev : Instr) : (scheduleAt s due ev).dmpCnt = s.dmpCnt := rfl
@[simp] theorem scheduleAt_dmpTs (s : State) (due : Nat) (ev : Instr) : (scheduleAt s due ev).dmpTs = s.dmpTs := rfl
@[simp] theorem scheduleAt_bondst (s : State) (due : Nat) (ev : Instr) : (scheduleAt s due ev).bondst = s.bondst := rfl
@[simp] theorem scheduleAt_bellows (s : State) (due : Nat) (ev : Instr) : (scheduleAt s due ev).bellows = s.bellows := rfl
@[simp] theorem scheduleAt_mgmt (s : State) (due : Nat) (ev : Instr) : (scheduleAt s due ev).mgmt = s.mgmt := rfl
@[simp] theorem scheduleAt_bootRec (s : State) (due : Nat) (ev : Instr) : (scheduleAt s due ev).bootRec = s.bootRec := rfl
@[simp] theorem scheduleAt_flash (s : State) (due : Nat) (ev : Instr) : (scheduleAt s due ev).flash = s.flash := rfl
@[simp] theorem scheduleAt_bootStep (s : State) (due : Nat) (ev : Instr) : (scheduleAt s due ev).bootStep = s.bootStep := rfl
@[simp] theorem scheduleAt_bootDone (s : State) (due : Nat) (ev : Instr) : (scheduleAt s due ev).bootDone = s.bootDone := rfl
@[simp] theorem scheduleAt_bootStop (s : State) (due : Nat) (ev : Instr) : (scheduleAt s due ev).bootStop = s.bootStop := rfl
@[simp] theorem scheduleAt_mf (s : State) (due : Nat) (ev : Instr) : (scheduleAt s due ev).mf = s.mf := rfl

/-! ### unschedule -/

@[simp] theorem unschedule_hc (s : State) (ev : Instr) : (unschedule s ev).hc = s.hc := rfl
@[simp] theorem unschedule_ts (s : State) (ev : Instr) : (unschedule s ev).ts = s.ts := rfl
@[simp] theorem unschedule_tsPhase (s : State) (ev : Instr) : (unschedule s ev).tsPhase = s.tsPhase := rfl
@[simp] theorem unschedule_delays (s : State) (ev : Instr) : (unschedule s ev).delays = s.delays := rfl
@[simp] theorem unschedule_free (s : State) (ev : Instr) : (unschedule s ev).free = s.free := rfl
@[simp] theorem unschedule_turn (s : State) (ev : Instr) : (unschedule s ev).turn = s.turn := rfl
@[simp] theorem unschedule_cur (s : State) (ev : Instr) : (unschedule s ev).cur = s.cur := rfl
@[simp] theorem unschedule_powered (s : State) (ev : Instr) : (unschedule s ev).powered = s.powered := rfl
@[simp] theorem unschedule_tiles (s : State) (ev : Instr) : (unschedule s ev).tiles = s.tiles := rfl
@[simp] theorem unschedule_hbm (s : State) (ev : Instr) : (unschedule s ev).hbm = s.hbm := rfl
@[simp] theorem unschedule_groups (s : State) (ev : Instr) : (unschedule s ev).groups = s.groups := rfl
@[simp] theorem unschedule_queues (s : State) (ev : Instr) : (unschedule s ev).queues = s.queues := rfl
@[simp] theorem unschedule_timetable (s : State) (ev : Instr) : (unschedule s ev).timetable = s.timetable := rfl
@[simp] theorem unschedule_slotRun (s : State) (ev : Instr) : (unschedule s ev).slotRun = s.slotRun := rfl
@[simp] theorem unschedule_contexts (s : State) (ev : Instr) : (unschedule s ev).contexts = s.contexts := rfl
@[simp] theorem unschedule_errBanks (s : State) (ev : Instr) : (unschedule s ev).errBanks = s.errBanks := rfl
@[simp] theorem unschedule_frames (s : State) (ev : Instr) : (unschedule s ev).frames = s.frames := rfl
@[simp] theorem unschedule_genSeq (s : State) (ev : Instr) : (unschedule s ev).genSeq = s.genSeq := rfl
@[simp] theorem unschedule_walks (s : State) (ev : Instr) : (unschedule s ev).walks = s.walks := rfl
@[simp] theorem unschedule_walkSeq (s : State) (ev : Instr) : (unschedule s ev).walkSeq = s.walkSeq := rfl
@[simp] theorem unschedule_combSeq (s : State) (ev : Instr) : (unschedule s ev).combSeq = s.combSeq := rfl
@[simp] theorem unschedule_htlb (s : State) (ev : Instr) : (unschedule s ev).htlb = s.htlb := rfl
@[simp] theorem unschedule_remotes (s : State) (ev : Instr) : (unschedule s ev).remotes = s.remotes := rfl
@[simp] theorem unschedule_ptPool (s : State) (ev : Instr) : (unschedule s ev).ptPool = s.ptPool := rfl
@[simp] theorem unschedule_sr (s : State) (ev : Instr) : (unschedule s ev).sr = s.sr := rfl
@[simp] theorem unschedule_islands (s : State) (ev : Instr) : (unschedule s ev).islands = s.islands := rfl
@[simp] theorem unschedule_mantelComb (s : State) (ev : Instr) : (unschedule s ev).mantelComb = s.mantelComb := rfl
@[simp] theorem unschedule_mantelCombComb (s : State) (ev : Instr) : (unschedule s ev).mantelCombComb = s.mantelCombComb := rfl
@[simp] theorem unschedule_mantelCombOvf (s : State) (ev : Instr) : (unschedule s ev).mantelCombOvf = s.mantelCombOvf := rfl
@[simp] theorem unschedule_hbmRecs (s : State) (ev : Instr) : (unschedule s ev).hbmRecs = s.hbmRecs := rfl
@[simp] theorem unschedule_wslate (s : State) (ev : Instr) : (unschedule s ev).wslate = s.wslate := rfl
@[simp] theorem unschedule_clockK (s : State) (ev : Instr) : (unschedule s ev).clockK = s.clockK := rfl
@[simp] theorem unschedule_clockA (s : State) (ev : Instr) : (unschedule s ev).clockA = s.clockA := rfl
@[simp] theorem unschedule_cwHeld (s : State) (ev : Instr) : (unschedule s ev).cwHeld = s.cwHeld := rfl
@[simp] theorem unschedule_cwLate (s : State) (ev : Instr) : (unschedule s ev).cwLate = s.cwLate := rfl
@[simp] theorem unschedule_cgrpPend (s : State) (ev : Instr) : (unschedule s ev).cgrpPend = s.cgrpPend := rfl
@[simp] theorem unschedule_ports (s : State) (ev : Instr) : (unschedule s ev).ports = s.ports := rfl
@[simp] theorem unschedule_peers (s : State) (ev : Instr) : (unschedule s ev).peers = s.peers := rfl
@[simp] theorem unschedule_circuit (s : State) (ev : Instr) : (unschedule s ev).circuit = s.circuit := rfl
@[simp] theorem unschedule_circuitRun (s : State) (ev : Instr) : (unschedule s ev).circuitRun = s.circuitRun := rfl
@[simp] theorem unschedule_ethPeers (s : State) (ev : Instr) : (unschedule s ev).ethPeers = s.ethPeers := rfl
@[simp] theorem unschedule_disc (s : State) (ev : Instr) : (unschedule s ev).disc = s.disc := rfl
@[simp] theorem unschedule_locked (s : State) (ev : Instr) : (unschedule s ev).locked = s.locked := rfl
@[simp] theorem unschedule_ttOvr (s : State) (ev : Instr) : (unschedule s ev).ttOvr = s.ttOvr := rfl
@[simp] theorem unschedule_ttMiss (s : State) (ev : Instr) : (unschedule s ev).ttMiss = s.ttMiss := rfl
@[simp] theorem unschedule_qrot (s : State) (ev : Instr) : (unschedule s ev).qrot = s.qrot := rfl
@[simp] theorem unschedule_sweep (s : State) (ev : Instr) : (unschedule s ev).sweep = s.sweep := rfl
@[simp] theorem unschedule_beatKey (s : State) (ev : Instr) : (unschedule s ev).beatKey = s.beatKey := rfl
@[simp] theorem unschedule_dies (s : State) (ev : Instr) : (unschedule s ev).dies = s.dies := rfl
@[simp] theorem unschedule_layermap (s : State) (ev : Instr) : (unschedule s ev).layermap = s.layermap := rfl
@[simp] theorem unschedule_spare (s : State) (ev : Instr) : (unschedule s ev).spare = s.spare := rfl
@[simp] theorem unschedule_layers (s : State) (ev : Instr) : (unschedule s ev).layers = s.layers := rfl
@[simp] theorem unschedule_power (s : State) (ev : Instr) : (unschedule s ev).power = s.power := rfl
@[simp] theorem unschedule_sample (s : State) (ev : Instr) : (unschedule s ev).sample = s.sample := rfl
@[simp] theorem unschedule_dmpOld (s : State) (ev : Instr) : (unschedule s ev).dmpOld = s.dmpOld := rfl
@[simp] theorem unschedule_dmpNew (s : State) (ev : Instr) : (unschedule s ev).dmpNew = s.dmpNew := rfl
@[simp] theorem unschedule_dmpLyr (s : State) (ev : Instr) : (unschedule s ev).dmpLyr = s.dmpLyr := rfl
@[simp] theorem unschedule_dmpCause (s : State) (ev : Instr) : (unschedule s ev).dmpCause = s.dmpCause := rfl
@[simp] theorem unschedule_dmpCnt (s : State) (ev : Instr) : (unschedule s ev).dmpCnt = s.dmpCnt := rfl
@[simp] theorem unschedule_dmpTs (s : State) (ev : Instr) : (unschedule s ev).dmpTs = s.dmpTs := rfl
@[simp] theorem unschedule_bondst (s : State) (ev : Instr) : (unschedule s ev).bondst = s.bondst := rfl
@[simp] theorem unschedule_bellows (s : State) (ev : Instr) : (unschedule s ev).bellows = s.bellows := rfl
@[simp] theorem unschedule_mgmt (s : State) (ev : Instr) : (unschedule s ev).mgmt = s.mgmt := rfl
@[simp] theorem unschedule_bootRec (s : State) (ev : Instr) : (unschedule s ev).bootRec = s.bootRec := rfl
@[simp] theorem unschedule_flash (s : State) (ev : Instr) : (unschedule s ev).flash = s.flash := rfl
@[simp] theorem unschedule_bootStep (s : State) (ev : Instr) : (unschedule s ev).bootStep = s.bootStep := rfl
@[simp] theorem unschedule_bootDone (s : State) (ev : Instr) : (unschedule s ev).bootDone = s.bootDone := rfl
@[simp] theorem unschedule_bootStop (s : State) (ev : Instr) : (unschedule s ev).bootStop = s.bootStop := rfl
@[simp] theorem unschedule_mf (s : State) (ev : Instr) : (unschedule s ev).mf = s.mf := rfl

/-! ### scheduleOnce, and the updates of the executing core -/

@[simp] theorem scheduleOnce_hc (s : State) (due : Nat) (ev : Instr) : (scheduleOnce s due ev).hc = s.hc := by
  unfold scheduleOnce
  split <;> rfl
@[simp] theorem scheduleOnce_ts (s : State) (due : Nat) (ev : Instr) : (scheduleOnce s due ev).ts = s.ts := by
  unfold scheduleOnce
  split <;> rfl
@[simp] theorem scheduleOnce_tsPhase (s : State) (due : Nat) (ev : Instr) : (scheduleOnce s due ev).tsPhase = s.tsPhase := by
  unfold scheduleOnce
  split <;> rfl
@[simp] theorem scheduleOnce_delays (s : State) (due : Nat) (ev : Instr) : (scheduleOnce s due ev).delays = s.delays := by
  unfold scheduleOnce
  split <;> rfl
@[simp] theorem scheduleOnce_free (s : State) (due : Nat) (ev : Instr) : (scheduleOnce s due ev).free = s.free := by
  unfold scheduleOnce
  split <;> rfl
@[simp] theorem scheduleOnce_turn (s : State) (due : Nat) (ev : Instr) : (scheduleOnce s due ev).turn = s.turn := by
  unfold scheduleOnce
  split <;> rfl
@[simp] theorem scheduleOnce_cur (s : State) (due : Nat) (ev : Instr) : (scheduleOnce s due ev).cur = s.cur := by
  unfold scheduleOnce
  split <;> rfl
@[simp] theorem scheduleOnce_powered (s : State) (due : Nat) (ev : Instr) : (scheduleOnce s due ev).powered = s.powered := by
  unfold scheduleOnce
  split <;> rfl
@[simp] theorem scheduleOnce_tiles (s : State) (due : Nat) (ev : Instr) : (scheduleOnce s due ev).tiles = s.tiles := by
  unfold scheduleOnce
  split <;> rfl
@[simp] theorem scheduleOnce_hbm (s : State) (due : Nat) (ev : Instr) : (scheduleOnce s due ev).hbm = s.hbm := by
  unfold scheduleOnce
  split <;> rfl
@[simp] theorem scheduleOnce_groups (s : State) (due : Nat) (ev : Instr) : (scheduleOnce s due ev).groups = s.groups := by
  unfold scheduleOnce
  split <;> rfl
@[simp] theorem scheduleOnce_queues (s : State) (due : Nat) (ev : Instr) : (scheduleOnce s due ev).queues = s.queues := by
  unfold scheduleOnce
  split <;> rfl
@[simp] theorem scheduleOnce_timetable (s : State) (due : Nat) (ev : Instr) : (scheduleOnce s due ev).timetable = s.timetable := by
  unfold scheduleOnce
  split <;> rfl
@[simp] theorem scheduleOnce_slotRun (s : State) (due : Nat) (ev : Instr) : (scheduleOnce s due ev).slotRun = s.slotRun := by
  unfold scheduleOnce
  split <;> rfl
@[simp] theorem scheduleOnce_contexts (s : State) (due : Nat) (ev : Instr) : (scheduleOnce s due ev).contexts = s.contexts := by
  unfold scheduleOnce
  split <;> rfl
@[simp] theorem scheduleOnce_errBanks (s : State) (due : Nat) (ev : Instr) : (scheduleOnce s due ev).errBanks = s.errBanks := by
  unfold scheduleOnce
  split <;> rfl
@[simp] theorem scheduleOnce_frames (s : State) (due : Nat) (ev : Instr) : (scheduleOnce s due ev).frames = s.frames := by
  unfold scheduleOnce
  split <;> rfl
@[simp] theorem scheduleOnce_genSeq (s : State) (due : Nat) (ev : Instr) : (scheduleOnce s due ev).genSeq = s.genSeq := by
  unfold scheduleOnce
  split <;> rfl
@[simp] theorem scheduleOnce_walks (s : State) (due : Nat) (ev : Instr) : (scheduleOnce s due ev).walks = s.walks := by
  unfold scheduleOnce
  split <;> rfl
@[simp] theorem scheduleOnce_walkSeq (s : State) (due : Nat) (ev : Instr) : (scheduleOnce s due ev).walkSeq = s.walkSeq := by
  unfold scheduleOnce
  split <;> rfl
@[simp] theorem scheduleOnce_combSeq (s : State) (due : Nat) (ev : Instr) : (scheduleOnce s due ev).combSeq = s.combSeq := by
  unfold scheduleOnce
  split <;> rfl
@[simp] theorem scheduleOnce_htlb (s : State) (due : Nat) (ev : Instr) : (scheduleOnce s due ev).htlb = s.htlb := by
  unfold scheduleOnce
  split <;> rfl
@[simp] theorem scheduleOnce_remotes (s : State) (due : Nat) (ev : Instr) : (scheduleOnce s due ev).remotes = s.remotes := by
  unfold scheduleOnce
  split <;> rfl
@[simp] theorem scheduleOnce_ptPool (s : State) (due : Nat) (ev : Instr) : (scheduleOnce s due ev).ptPool = s.ptPool := by
  unfold scheduleOnce
  split <;> rfl
@[simp] theorem scheduleOnce_sr (s : State) (due : Nat) (ev : Instr) : (scheduleOnce s due ev).sr = s.sr := by
  unfold scheduleOnce
  split <;> rfl
@[simp] theorem scheduleOnce_islands (s : State) (due : Nat) (ev : Instr) : (scheduleOnce s due ev).islands = s.islands := by
  unfold scheduleOnce
  split <;> rfl
@[simp] theorem scheduleOnce_mantelComb (s : State) (due : Nat) (ev : Instr) : (scheduleOnce s due ev).mantelComb = s.mantelComb := by
  unfold scheduleOnce
  split <;> rfl
@[simp] theorem scheduleOnce_mantelCombComb (s : State) (due : Nat) (ev : Instr) : (scheduleOnce s due ev).mantelCombComb = s.mantelCombComb := by
  unfold scheduleOnce
  split <;> rfl
@[simp] theorem scheduleOnce_mantelCombOvf (s : State) (due : Nat) (ev : Instr) : (scheduleOnce s due ev).mantelCombOvf = s.mantelCombOvf := by
  unfold scheduleOnce
  split <;> rfl
@[simp] theorem scheduleOnce_hbmRecs (s : State) (due : Nat) (ev : Instr) : (scheduleOnce s due ev).hbmRecs = s.hbmRecs := by
  unfold scheduleOnce
  split <;> rfl
@[simp] theorem scheduleOnce_wslate (s : State) (due : Nat) (ev : Instr) : (scheduleOnce s due ev).wslate = s.wslate := by
  unfold scheduleOnce
  split <;> rfl
@[simp] theorem scheduleOnce_clockK (s : State) (due : Nat) (ev : Instr) : (scheduleOnce s due ev).clockK = s.clockK := by
  unfold scheduleOnce
  split <;> rfl
@[simp] theorem scheduleOnce_clockA (s : State) (due : Nat) (ev : Instr) : (scheduleOnce s due ev).clockA = s.clockA := by
  unfold scheduleOnce
  split <;> rfl
@[simp] theorem scheduleOnce_cwHeld (s : State) (due : Nat) (ev : Instr) : (scheduleOnce s due ev).cwHeld = s.cwHeld := by
  unfold scheduleOnce
  split <;> rfl
@[simp] theorem scheduleOnce_cwLate (s : State) (due : Nat) (ev : Instr) : (scheduleOnce s due ev).cwLate = s.cwLate := by
  unfold scheduleOnce
  split <;> rfl
@[simp] theorem scheduleOnce_cgrpPend (s : State) (due : Nat) (ev : Instr) : (scheduleOnce s due ev).cgrpPend = s.cgrpPend := by
  unfold scheduleOnce
  split <;> rfl
@[simp] theorem scheduleOnce_ports (s : State) (due : Nat) (ev : Instr) : (scheduleOnce s due ev).ports = s.ports := by
  unfold scheduleOnce
  split <;> rfl
@[simp] theorem scheduleOnce_peers (s : State) (due : Nat) (ev : Instr) : (scheduleOnce s due ev).peers = s.peers := by
  unfold scheduleOnce
  split <;> rfl
@[simp] theorem scheduleOnce_circuit (s : State) (due : Nat) (ev : Instr) : (scheduleOnce s due ev).circuit = s.circuit := by
  unfold scheduleOnce
  split <;> rfl
@[simp] theorem scheduleOnce_circuitRun (s : State) (due : Nat) (ev : Instr) : (scheduleOnce s due ev).circuitRun = s.circuitRun := by
  unfold scheduleOnce
  split <;> rfl
@[simp] theorem scheduleOnce_ethPeers (s : State) (due : Nat) (ev : Instr) : (scheduleOnce s due ev).ethPeers = s.ethPeers := by
  unfold scheduleOnce
  split <;> rfl
@[simp] theorem scheduleOnce_disc (s : State) (due : Nat) (ev : Instr) : (scheduleOnce s due ev).disc = s.disc := by
  unfold scheduleOnce
  split <;> rfl
@[simp] theorem scheduleOnce_locked (s : State) (due : Nat) (ev : Instr) : (scheduleOnce s due ev).locked = s.locked := by
  unfold scheduleOnce
  split <;> rfl
@[simp] theorem scheduleOnce_ttOvr (s : State) (due : Nat) (ev : Instr) : (scheduleOnce s due ev).ttOvr = s.ttOvr := by
  unfold scheduleOnce
  split <;> rfl
@[simp] theorem scheduleOnce_ttMiss (s : State) (due : Nat) (ev : Instr) : (scheduleOnce s due ev).ttMiss = s.ttMiss := by
  unfold scheduleOnce
  split <;> rfl
@[simp] theorem scheduleOnce_qrot (s : State) (due : Nat) (ev : Instr) : (scheduleOnce s due ev).qrot = s.qrot := by
  unfold scheduleOnce
  split <;> rfl
@[simp] theorem scheduleOnce_sweep (s : State) (due : Nat) (ev : Instr) : (scheduleOnce s due ev).sweep = s.sweep := by
  unfold scheduleOnce
  split <;> rfl
@[simp] theorem scheduleOnce_beatKey (s : State) (due : Nat) (ev : Instr) : (scheduleOnce s due ev).beatKey = s.beatKey := by
  unfold scheduleOnce
  split <;> rfl
@[simp] theorem scheduleOnce_dies (s : State) (due : Nat) (ev : Instr) : (scheduleOnce s due ev).dies = s.dies := by
  unfold scheduleOnce
  split <;> rfl
@[simp] theorem scheduleOnce_layermap (s : State) (due : Nat) (ev : Instr) : (scheduleOnce s due ev).layermap = s.layermap := by
  unfold scheduleOnce
  split <;> rfl
@[simp] theorem scheduleOnce_spare (s : State) (due : Nat) (ev : Instr) : (scheduleOnce s due ev).spare = s.spare := by
  unfold scheduleOnce
  split <;> rfl
@[simp] theorem scheduleOnce_layers (s : State) (due : Nat) (ev : Instr) : (scheduleOnce s due ev).layers = s.layers := by
  unfold scheduleOnce
  split <;> rfl
@[simp] theorem scheduleOnce_power (s : State) (due : Nat) (ev : Instr) : (scheduleOnce s due ev).power = s.power := by
  unfold scheduleOnce
  split <;> rfl
@[simp] theorem scheduleOnce_sample (s : State) (due : Nat) (ev : Instr) : (scheduleOnce s due ev).sample = s.sample := by
  unfold scheduleOnce
  split <;> rfl
@[simp] theorem scheduleOnce_dmpOld (s : State) (due : Nat) (ev : Instr) : (scheduleOnce s due ev).dmpOld = s.dmpOld := by
  unfold scheduleOnce
  split <;> rfl
@[simp] theorem scheduleOnce_dmpNew (s : State) (due : Nat) (ev : Instr) : (scheduleOnce s due ev).dmpNew = s.dmpNew := by
  unfold scheduleOnce
  split <;> rfl
@[simp] theorem scheduleOnce_dmpLyr (s : State) (due : Nat) (ev : Instr) : (scheduleOnce s due ev).dmpLyr = s.dmpLyr := by
  unfold scheduleOnce
  split <;> rfl
@[simp] theorem scheduleOnce_dmpCause (s : State) (due : Nat) (ev : Instr) : (scheduleOnce s due ev).dmpCause = s.dmpCause := by
  unfold scheduleOnce
  split <;> rfl
@[simp] theorem scheduleOnce_dmpCnt (s : State) (due : Nat) (ev : Instr) : (scheduleOnce s due ev).dmpCnt = s.dmpCnt := by
  unfold scheduleOnce
  split <;> rfl
@[simp] theorem scheduleOnce_dmpTs (s : State) (due : Nat) (ev : Instr) : (scheduleOnce s due ev).dmpTs = s.dmpTs := by
  unfold scheduleOnce
  split <;> rfl
@[simp] theorem scheduleOnce_bondst (s : State) (due : Nat) (ev : Instr) : (scheduleOnce s due ev).bondst = s.bondst := by
  unfold scheduleOnce
  split <;> rfl
@[simp] theorem scheduleOnce_bellows (s : State) (due : Nat) (ev : Instr) : (scheduleOnce s due ev).bellows = s.bellows := by
  unfold scheduleOnce
  split <;> rfl
@[simp] theorem scheduleOnce_mgmt (s : State) (due : Nat) (ev : Instr) : (scheduleOnce s due ev).mgmt = s.mgmt := by
  unfold scheduleOnce
  split <;> rfl
@[simp] theorem scheduleOnce_bootRec (s : State) (due : Nat) (ev : Instr) : (scheduleOnce s due ev).bootRec = s.bootRec := by
  unfold scheduleOnce
  split <;> rfl
@[simp] theorem scheduleOnce_flash (s : State) (due : Nat) (ev : Instr) : (scheduleOnce s due ev).flash = s.flash := by
  unfold scheduleOnce
  split <;> rfl
@[simp] theorem scheduleOnce_bootStep (s : State) (due : Nat) (ev : Instr) : (scheduleOnce s due ev).bootStep = s.bootStep := by
  unfold scheduleOnce
  split <;> rfl
@[simp] theorem scheduleOnce_bootDone (s : State) (due : Nat) (ev : Instr) : (scheduleOnce s due ev).bootDone = s.bootDone := by
  unfold scheduleOnce
  split <;> rfl
@[simp] theorem scheduleOnce_bootStop (s : State) (due : Nat) (ev : Instr) : (scheduleOnce s due ev).bootStop = s.bootStop := by
  unfold scheduleOnce
  split <;> rfl
@[simp] theorem scheduleOnce_mf (s : State) (due : Nat) (ev : Instr) : (scheduleOnce s due ev).mf = s.mf := by
  unfold scheduleOnce
  split <;> rfl
@[simp] theorem updCore_hc (s : State) (c : CoreId) (f : Task → Task) : (updCore s c f).hc = s.hc := by
  cases c <;> rfl
@[simp] theorem updCore_ts (s : State) (c : CoreId) (f : Task → Task) : (updCore s c f).ts = s.ts := by
  cases c <;> rfl
@[simp] theorem updCore_tsPhase (s : State) (c : CoreId) (f : Task → Task) : (updCore s c f).tsPhase = s.tsPhase := by
  cases c <;> rfl
@[simp] theorem updCore_events (s : State) (c : CoreId) (f : Task → Task) : (updCore s c f).events = s.events := by
  cases c <;> rfl
@[simp] theorem updCore_delays (s : State) (c : CoreId) (f : Task → Task) : (updCore s c f).delays = s.delays := by
  cases c <;> rfl
@[simp] theorem updCore_free (s : State) (c : CoreId) (f : Task → Task) : (updCore s c f).free = s.free := by
  cases c <;> rfl
@[simp] theorem updCore_turn (s : State) (c : CoreId) (f : Task → Task) : (updCore s c f).turn = s.turn := by
  cases c <;> rfl
@[simp] theorem updCore_cur (s : State) (c : CoreId) (f : Task → Task) : (updCore s c f).cur = s.cur := by
  cases c <;> rfl
@[simp] theorem updCore_powered (s : State) (c : CoreId) (f : Task → Task) : (updCore s c f).powered = s.powered := by
  cases c <;> rfl
@[simp] theorem updCore_hbm (s : State) (c : CoreId) (f : Task → Task) : (updCore s c f).hbm = s.hbm := by
  cases c <;> rfl
@[simp] theorem updCore_groups (s : State) (c : CoreId) (f : Task → Task) : (updCore s c f).groups = s.groups := by
  cases c <;> rfl
@[simp] theorem updCore_queues (s : State) (c : CoreId) (f : Task → Task) : (updCore s c f).queues = s.queues := by
  cases c <;> rfl
@[simp] theorem updCore_timetable (s : State) (c : CoreId) (f : Task → Task) : (updCore s c f).timetable = s.timetable := by
  cases c <;> rfl
@[simp] theorem updCore_slotRun (s : State) (c : CoreId) (f : Task → Task) : (updCore s c f).slotRun = s.slotRun := by
  cases c <;> rfl
@[simp] theorem updCore_contexts (s : State) (c : CoreId) (f : Task → Task) : (updCore s c f).contexts = s.contexts := by
  cases c <;> rfl
@[simp] theorem updCore_errBanks (s : State) (c : CoreId) (f : Task → Task) : (updCore s c f).errBanks = s.errBanks := by
  cases c <;> rfl
@[simp] theorem updCore_frames (s : State) (c : CoreId) (f : Task → Task) : (updCore s c f).frames = s.frames := by
  cases c <;> rfl
@[simp] theorem updCore_genSeq (s : State) (c : CoreId) (f : Task → Task) : (updCore s c f).genSeq = s.genSeq := by
  cases c <;> rfl
@[simp] theorem updCore_walks (s : State) (c : CoreId) (f : Task → Task) : (updCore s c f).walks = s.walks := by
  cases c <;> rfl
@[simp] theorem updCore_walkSeq (s : State) (c : CoreId) (f : Task → Task) : (updCore s c f).walkSeq = s.walkSeq := by
  cases c <;> rfl
@[simp] theorem updCore_combSeq (s : State) (c : CoreId) (f : Task → Task) : (updCore s c f).combSeq = s.combSeq := by
  cases c <;> rfl
@[simp] theorem updCore_htlb (s : State) (c : CoreId) (f : Task → Task) : (updCore s c f).htlb = s.htlb := by
  cases c <;> rfl
@[simp] theorem updCore_remotes (s : State) (c : CoreId) (f : Task → Task) : (updCore s c f).remotes = s.remotes := by
  cases c <;> rfl
@[simp] theorem updCore_ptPool (s : State) (c : CoreId) (f : Task → Task) : (updCore s c f).ptPool = s.ptPool := by
  cases c <;> rfl
@[simp] theorem updCore_sr (s : State) (c : CoreId) (f : Task → Task) : (updCore s c f).sr = s.sr := by
  cases c <;> rfl
@[simp] theorem updCore_islands (s : State) (c : CoreId) (f : Task → Task) : (updCore s c f).islands = s.islands := by
  cases c <;> rfl
@[simp] theorem updCore_mantelComb (s : State) (c : CoreId) (f : Task → Task) : (updCore s c f).mantelComb = s.mantelComb := by
  cases c <;> rfl
@[simp] theorem updCore_mantelCombComb (s : State) (c : CoreId) (f : Task → Task) : (updCore s c f).mantelCombComb = s.mantelCombComb := by
  cases c <;> rfl
@[simp] theorem updCore_mantelCombOvf (s : State) (c : CoreId) (f : Task → Task) : (updCore s c f).mantelCombOvf = s.mantelCombOvf := by
  cases c <;> rfl
@[simp] theorem updCore_hbmRecs (s : State) (c : CoreId) (f : Task → Task) : (updCore s c f).hbmRecs = s.hbmRecs := by
  cases c <;> rfl
@[simp] theorem updCore_wslate (s : State) (c : CoreId) (f : Task → Task) : (updCore s c f).wslate = s.wslate := by
  cases c <;> rfl
@[simp] theorem updCore_clockK (s : State) (c : CoreId) (f : Task → Task) : (updCore s c f).clockK = s.clockK := by
  cases c <;> rfl
@[simp] theorem updCore_clockA (s : State) (c : CoreId) (f : Task → Task) : (updCore s c f).clockA = s.clockA := by
  cases c <;> rfl
@[simp] theorem updCore_cwHeld (s : State) (c : CoreId) (f : Task → Task) : (updCore s c f).cwHeld = s.cwHeld := by
  cases c <;> rfl
@[simp] theorem updCore_cwLate (s : State) (c : CoreId) (f : Task → Task) : (updCore s c f).cwLate = s.cwLate := by
  cases c <;> rfl
@[simp] theorem updCore_cgrpPend (s : State) (c : CoreId) (f : Task → Task) : (updCore s c f).cgrpPend = s.cgrpPend := by
  cases c <;> rfl
@[simp] theorem updCore_ports (s : State) (c : CoreId) (f : Task → Task) : (updCore s c f).ports = s.ports := by
  cases c <;> rfl
@[simp] theorem updCore_peers (s : State) (c : CoreId) (f : Task → Task) : (updCore s c f).peers = s.peers := by
  cases c <;> rfl
@[simp] theorem updCore_circuit (s : State) (c : CoreId) (f : Task → Task) : (updCore s c f).circuit = s.circuit := by
  cases c <;> rfl
@[simp] theorem updCore_circuitRun (s : State) (c : CoreId) (f : Task → Task) : (updCore s c f).circuitRun = s.circuitRun := by
  cases c <;> rfl
@[simp] theorem updCore_ethPeers (s : State) (c : CoreId) (f : Task → Task) : (updCore s c f).ethPeers = s.ethPeers := by
  cases c <;> rfl
@[simp] theorem updCore_disc (s : State) (c : CoreId) (f : Task → Task) : (updCore s c f).disc = s.disc := by
  cases c <;> rfl
@[simp] theorem updCore_locked (s : State) (c : CoreId) (f : Task → Task) : (updCore s c f).locked = s.locked := by
  cases c <;> rfl
@[simp] theorem updCore_ttOvr (s : State) (c : CoreId) (f : Task → Task) : (updCore s c f).ttOvr = s.ttOvr := by
  cases c <;> rfl
@[simp] theorem updCore_ttMiss (s : State) (c : CoreId) (f : Task → Task) : (updCore s c f).ttMiss = s.ttMiss := by
  cases c <;> rfl
@[simp] theorem updCore_qrot (s : State) (c : CoreId) (f : Task → Task) : (updCore s c f).qrot = s.qrot := by
  cases c <;> rfl
@[simp] theorem updCore_sweep (s : State) (c : CoreId) (f : Task → Task) : (updCore s c f).sweep = s.sweep := by
  cases c <;> rfl
@[simp] theorem updCore_beatKey (s : State) (c : CoreId) (f : Task → Task) : (updCore s c f).beatKey = s.beatKey := by
  cases c <;> rfl
@[simp] theorem updCore_dies (s : State) (c : CoreId) (f : Task → Task) : (updCore s c f).dies = s.dies := by
  cases c <;> rfl
@[simp] theorem updCore_layermap (s : State) (c : CoreId) (f : Task → Task) : (updCore s c f).layermap = s.layermap := by
  cases c <;> rfl
@[simp] theorem updCore_spare (s : State) (c : CoreId) (f : Task → Task) : (updCore s c f).spare = s.spare := by
  cases c <;> rfl
@[simp] theorem updCore_layers (s : State) (c : CoreId) (f : Task → Task) : (updCore s c f).layers = s.layers := by
  cases c <;> rfl
@[simp] theorem updCore_power (s : State) (c : CoreId) (f : Task → Task) : (updCore s c f).power = s.power := by
  cases c <;> rfl
@[simp] theorem updCore_sample (s : State) (c : CoreId) (f : Task → Task) : (updCore s c f).sample = s.sample := by
  cases c <;> rfl
@[simp] theorem updCore_dmpOld (s : State) (c : CoreId) (f : Task → Task) : (updCore s c f).dmpOld = s.dmpOld := by
  cases c <;> rfl
@[simp] theorem updCore_dmpNew (s : State) (c : CoreId) (f : Task → Task) : (updCore s c f).dmpNew = s.dmpNew := by
  cases c <;> rfl
@[simp] theorem updCore_dmpLyr (s : State) (c : CoreId) (f : Task → Task) : (updCore s c f).dmpLyr = s.dmpLyr := by
  cases c <;> rfl
@[simp] theorem updCore_dmpCause (s : State) (c : CoreId) (f : Task → Task) : (updCore s c f).dmpCause = s.dmpCause := by
  cases c <;> rfl
@[simp] theorem updCore_dmpCnt (s : State) (c : CoreId) (f : Task → Task) : (updCore s c f).dmpCnt = s.dmpCnt := by
  cases c <;> rfl
@[simp] theorem updCore_dmpTs (s : State) (c : CoreId) (f : Task → Task) : (updCore s c f).dmpTs = s.dmpTs := by
  cases c <;> rfl
@[simp] theorem updCore_bondst (s : State) (c : CoreId) (f : Task → Task) : (updCore s c f).bondst = s.bondst := by
  cases c <;> rfl
@[simp] theorem updCore_mgmt (s : State) (c : CoreId) (f : Task → Task) : (updCore s c f).mgmt = s.mgmt := by
  cases c <;> rfl
@[simp] theorem updCore_bootRec (s : State) (c : CoreId) (f : Task → Task) : (updCore s c f).bootRec = s.bootRec := by
  cases c <;> rfl
@[simp] theorem updCore_flash (s : State) (c : CoreId) (f : Task → Task) : (updCore s c f).flash = s.flash := by
  cases c <;> rfl
@[simp] theorem updCore_bootStep (s : State) (c : CoreId) (f : Task → Task) : (updCore s c f).bootStep = s.bootStep := by
  cases c <;> rfl
@[simp] theorem updCore_bootDone (s : State) (c : CoreId) (f : Task → Task) : (updCore s c f).bootDone = s.bootDone := by
  cases c <;> rfl
@[simp] theorem updCore_bootStop (s : State) (c : CoreId) (f : Task → Task) : (updCore s c f).bootStop = s.bootStop := by
  cases c <;> rfl
@[simp] theorem updCore_mf (s : State) (c : CoreId) (f : Task → Task) : (updCore s c f).mf = s.mf := by
  cases c <;> rfl

/-! ### What an update leaves to read -/

@[simp] theorem tileOf_updTile (s : State) (t : Nat) (f : Tile → Tile) (j : Nat) :
    tileOf (updTile s t f) j = if t = j then f (tileOf s t) else tileOf s j := tget_tset ..

@[simp] theorem taskOf_updTask (s : State) (t k : Nat) (f : Task → Task) (t' k' : Nat) :
    taskOf (updTask s t k f) t' k' = if t = t' ∧ k = k' then f (taskOf s t k) else taskOf s t' k' := by
  simp only [taskOf, updTask, tileOf_updTile]
  by_cases ht : t = t'
  · subst ht
    simp only [if_true, tget_tset, true_and]
  · simp [ht]

@[simp] theorem ctxOf_updCtx (s : State) (c : Nat) (f : Context → Context) (j : Nat) :
    ctxOf (updCtx s c f) j = if c = j then f (ctxOf s c) else ctxOf s j := tget_tset ..

@[simp] theorem queueOf_updQueue (s : State) (q : Nat) (f : Queue → Queue) (j : Nat) :
    queueOf (updQueue s q f) j = if q = j then f (queueOf s q) else queueOf s j := tget_tset ..

@[simp] theorem coreTask_updCore (s : State) (c : CoreId) (f : Task → Task) :
    coreTask (updCore s c f) c = f (coreTask s c) := by
  cases c with
  | tile t k => simp [coreTask, updCore]
  | bellows => rfl

/-- An update of a queue keeps the memory's canonical form. -/
theorem wf_updQueue {s : State} (h : s.hbm.wf = true) (q : Nat) (f : Queue → Queue) : (updQueue s q f).hbm.wf = true := by
  simp only [updQueue]
  exact wf_mwriteAll h _

/-- An update that leaves the tiles' table alone leaves every tile. -/
theorem tileOf_congr {s s' : State} (h : s'.tiles = s.tiles) (t : Nat) : tileOf s' t = tileOf s t := by
  simp [tileOf, h]

end Sys2Proof.Machine
end

