-- ==== Sys2Proof/Laws/Issue.lean ====
section
/-! SUPPORT. What the issue of a slot word can do: its reads are settled once; then the verdict of its own meaning where it is
ready, a wait or a precise fault where it is not. -/

namespace Sys2Proof.Machine

/-! ### Reads (R74) -/

/-- Whether the read of a register is settled. -/
def Settled (s : State) (r : Reg) : Prop := (seenOf s r).isSome = true ∨ rivalValues (gateTask s) s.cur.pos r = []

/-- Choosing among values draws free choices and changes nothing else. -/
theorem pickValue_state (s : State) (v : VWord) (ws : List VWord) :
    (pickValue s v ws).2 = { s with free := s.free + ws.length } := by
  induction ws generalizing s v with
  | nil => rfl
  | cons w r ih => simp [pickValue, ih, freshBool, Nat.add_assoc, Nat.add_comm]

/-- The choice is one of the values. -/
theorem pickValue_mem (s : State) (v : VWord) (ws : List VWord) : (pickValue s v ws).1 ∈ v :: ws := by
  induction ws generalizing s v with
  | nil => simp [pickValue]
  | cons w r ih =>
    have h := ih (freshBool s).2 (if (freshBool s).1 then w else v)
    simp only [pickValue]
    rcases List.mem_cons.1 h with h | h
    · rw [h]; split <;> simp
    · exact List.mem_cons_of_mem _ (List.mem_cons_of_mem _ h)

/-- Settling a read changes the free counter and what the word has seen, nothing else. -/
theorem viewReg_shape (s : State) (r : Reg) :
    ∃ f x, viewReg s r = { s with free := f, cur := { s.cur with seen := x } } := by
  unfold viewReg
  split
  · exact ⟨s.free, s.cur.seen, rfl⟩
  · split
    · exact ⟨s.free, s.cur.seen, rfl⟩
    · rename_i w ws _
      refine ⟨s.free + (w :: ws).length, (r, (pickValue s (regValue (curTask s) r) (w :: ws)).1) :: s.cur.seen, ?_⟩
      simp only [pickValue_state]

theorem openReads_shape (i : Instr) (s : State) :
    ∃ f x, openReads i s = { s with free := f, cur := { s.cur with seen := x } } := by
  unfold openReads
  generalize readRegs i = l
  induction l generalizing s with
  | nil => exact ⟨s.free, s.cur.seen, rfl⟩
  | cons r l ih =>
    obtain ⟨f, x, h⟩ := viewReg_shape s r
    obtain ⟨f', x', h'⟩ := ih (viewReg s r)
    exact ⟨f', x', by rw [List.foldl_cons, h', h]⟩

theorem viewReg_same {s : State} {r : Reg} (h : Settled s r) : viewReg s r = s := by
  unfold viewReg
  rcases h with h | h
  · simp [h]
  · simp [h]

theorem settled_viewReg (s : State) (r : Reg) : Settled (viewReg s r) r := by
  unfold viewReg
  split
  · exact .inl ‹_›
  · split
    · exact .inr ‹_›
    · left
      simp [seenOf]

theorem settled_keep {s : State} {q : Reg} (r : Reg) (h : Settled s q) : Settled (viewReg s r) q := by
  rcases h with h | h
  · left
    unfold viewReg
    split
    · exact h
    · split
      · exact h
      · simp only [seenOf, pickValue_state] at h ⊢
        simp only [List.find?_cons]
        split
        · rfl
        · exact h
  · right
    obtain ⟨f, x, e⟩ := viewReg_shape s r
    rw [e]
    exact h

theorem settled_foldl {l : List Reg} {s : State} {q : Reg} (h : Settled s q ∨ q ∈ l) : Settled (l.foldl viewReg s) q := by
  induction l generalizing s with
  | nil => simpa using h
  | cons r l ih =>
    refine ih ?_
    rcases h with h | h
    · exact .inl (settled_keep r h)
    · rcases List.mem_cons.1 h with rfl | h
      · exact .inl (settled_viewReg s _)
      · exact .inr h

/-- Once a word's reads are settled they stay so. -/
theorem openReads_openReads (i : Instr) (s : State) : openReads i (openReads i s) = openReads i s := by
  have h : ∀ q ∈ readRegs i, Settled (openReads i s) q := fun q hq => settled_foldl (.inr hq)
  generalize openReads i s = t at h
  unfold openReads
  generalize readRegs i = l at h
  induction l with
  | nil => rfl
  | cons r l ih =>
    rw [List.foldl_cons, viewReg_same (h r (List.mem_cons_self ..))]
    exact ih fun q hq => h q (List.mem_cons_of_mem _ hq)

/-- A word runs as from the state in which its reads are settled. -/
theorem gate_openReads (i : Instr) (s : State) (body : State → Verdict) : gate i (openReads i s) body = gate i s body := by
  simp [gate, openReads_openReads]

/-! ### The issue of a word -/

/-- A word without an empty register to wait for reads no empty register. -/
theorem emptyFault_of_emptyWait {t : Task} {i : Instr} (h : emptyWait t i = none) : emptyFault t i = false := by
  simp only [emptyWait, List.find?_eq_none, List.mem_append, List.mem_map] at h
  simp only [emptyFault, List.any_eq_false, Bool.and_eq_true, not_and]
  exact fun x hx _ => h _ (.inl ⟨x, hx, rfl⟩)

/-- A ready word gets the verdict of its own meaning. -/
theorem gateVerdict_ready {i : Instr} {s : State} (h : Ready i s) (body : State → Verdict) :
    gateVerdict i s body = body s := by
  obtain ⟨h1, h2, h3, _⟩ := h
  simp only [placeForbids, Bool.or_eq_false_iff] at h1
  simp [gateVerdict, h1.1, h1.2, emptyFault_of_emptyWait h2, h2, h3]

theorem gate_ready {i : Instr} {s : State} (h : Ready i s) (body : State → Verdict) :
    gate i s body = .next (settle s (body s)) := by
  simp only [gate, h.2.2.2, gateVerdict_ready h]

/-- What a word meets before its own meaning, its reads settled (R55, R64, R65, R69, R390, R393). -/
theorem gate_cases (i : Instr) (s : State) (body : State → Verdict) :
    let t := openReads i s
    gate i s body = .next (preciseFault t 0x01) ∨ gate i s body = .next (preciseFault t 0x03) ∨
    (∃ r, emptyWait (gateTask t) i = some r ∧ gate i s body = .next (parkTask t t.cur.core (.reg r))) ∨
    gate i s body = .next (preciseFault t 0x04) ∨ (Ready i t ∧ gate i s body = .next (settle t (body t))) := by
  simp only [gate, gateVerdict]
  generalize ht : openReads i s = t
  have hi : openReads i t = t := by rw [← ht]; exact openReads_openReads i s
  by_cases h1 : coreForbids t i = true
  · exact .inl (by simp [h1, settle])
  by_cases h2 : emptyFault (gateTask t) i = true
  · exact .inr (.inl (by simp [h1, h2, settle]))
  rcases h3 : emptyWait (gateTask t) i with _ | r
  · by_cases h4 : segmentForbids t i = true
    · exact .inl (by simp [h1, h2, h4, settle])
    by_cases h5 : pendingHit (gateTask t) t.cur.n i = true
    · exact .inr (.inr (.inr (.inl (by simp [h1, h2, h4, h5, settle]))))
    · refine .inr (.inr (.inr (.inr ⟨⟨?_, h3, by simpa using h5, hi⟩, by simp [h1, h2, h4, h5]⟩)))
      simp [placeForbids, h1, h4]
  · exact .inr (.inr (.inl ⟨r, rfl, by simp [h1, h2, settle]⟩))

end Sys2Proof.Machine
end

