-- ==== Sys2Proof/Tests/Slice0.lean ====
section
/-! SUPPORT. Our own tests: what WellFormed refuses, words written out from the layouts of R57 and the opcodes of R75, small
steps, and for every statement a state that meets its hypotheses. -/

namespace Sys2Proof.Tests

open Sys2Proof.Machine Sys2Proof.Operands

/-! ### WellFormed: an ill-formed term for each check (R55, R57, R60, R62, R95, R122, R128, R189, R244) -/

theorem test_wf_field : (Instr.bfx ⟨1, 2, false, 60, 4⟩).wf = false ∧ (Instr.bfxs ⟨1, 2, false, 1, 63⟩).wf = false ∧
    (Instr.bfi ⟨1, 2, false, 33, 31⟩).wf = false ∧ (Instr.bfi ⟨1, 2, false, 32, 31⟩).wf = true := by decide

theorem test_wf_level : (Instr.loop ⟨6, 2, false, 0⟩).wf = false ∧ (Instr.loopi ⟨7, 5, 0, .zero⟩).wf = false ∧
    (Instr.lexit ⟨6⟩).wf = false ∧ (Instr.lexit ⟨5⟩).wf = true := by decide

theorem test_wf_vcvt : (Instr.vcvt ⟨1, 2, false, 0, 9, 0⟩).wf = false ∧ (Instr.vcvt ⟨1, 2, false, 9, 9, 0⟩).wf = false ∧
    (Instr.vcvt ⟨1, 2, false, 1, 9, 0⟩).wf = true := by decide

theorem test_wf_tmode : (Instr.tmode ⟨3⟩).wf = false ∧ (Instr.tmode ⟨2⟩).wf = true := by decide

theorem test_wf_latch : (Instr.mvl ⟨0x3F, 1, false⟩).wf = false ∧ (Instr.mvli ⟨0x009, 0, .zero⟩).wf = false ∧
    (Instr.mvlh ⟨0x10F, 0, .zero⟩).wf = false ∧ (Instr.mvs ⟨0x1C0, 1⟩).wf = false ∧ (Instr.mvs ⟨0x008, 1⟩).wf = true := by
  decide

theorem test_wf_atomic_type : (Instr.trigCpyAwAdd ⟨0, 3⟩).wf = false ∧ (Instr.trigCpyAwXor ⟨0, 0⟩).wf = false ∧
    (Instr.trigCpyCas ⟨0, 0, 1⟩).wf = false ∧ (Instr.trigCpyFadd ⟨0, 3, 1⟩).wf = false ∧
    (Instr.trigCpyAwAdd ⟨0, 2⟩).wf = true := by decide

theorem test_wf_register : (Instr.rdsr ⟨1, 0x007⟩).wf = false ∧ (Instr.wrsr ⟨1, false, 0x26B⟩).wf = false ∧
    (Instr.rdsr ⟨1, 0x008⟩).wf = true := by decide

theorem test_wf_setfmt : (Instr.setfmt ⟨0x0910⟩).wf = false ∧ (Instr.setfmt ⟨0x3911⟩).wf = false ∧
    (Instr.setfmt ⟨0x0911⟩).wf = true := by decide

theorem test_wf_bar : (Instr.bar ⟨0x0300⟩).wf = false ∧ (Instr.bar ⟨0x0400⟩).wf = false ∧
    (Instr.bar ⟨0x02FF⟩).wf = true := by decide

/-! ### Decoding: each form's word from its fields, high to low -/
theorem test_decode_S_SR : ∀ x ∈ ([
      (0x0, .add), (0x1, .sub), (0x2, .and), (0x3, .or), (0x4, .xor), (0x5, .shl),
      (0x6, .shr), (0x7, .sar), (0x8, .mul), (0x9, .mulhs), (0xa, .mulhu), (0xb, .min),
      (0xc, .max), (0xd, .minu), (0xe, .maxu), (0x10, .ceq), (0x11, .cne), (0x12, .clt),
      (0x13, .cle), (0x14, .cltu), (0x15, .cleu), (0x16, .movnz), (0x17, .movz)] : List (BitVec 6 × (Operands.SR → Instr))),
    decodeSlot ⟨.S, x.1 ++ 0x29#6 ++ 0x16#6 ++ 1#1 ++ 0xd#6 ++ 0#1 ++ 0#6, .zero⟩ =
      .ok (x.2 ⟨0x29, 0x16, true, 0xd, false⟩) := by
  repeat refine List.forall_mem_cons.2 ⟨rfl, ?_⟩
  exact nofun

theorem test_decode_S_SR1 : ∀ x ∈ ([
      (0x18, .clz), (0x19, .ctz), (0x1a, .popc), (0x1b, .bswap)] : List (BitVec 6 × (Operands.SR1 → Instr))),
    decodeSlot ⟨.S, x.1 ++ 0x29#6 ++ 0x16#6 ++ 1#1 ++ 0#13, .zero⟩ =
      .ok (x.2 ⟨0x29, 0x16, true⟩) := by
  repeat refine List.forall_mem_cons.2 ⟨rfl, ?_⟩
  exact nofun

theorem test_decode_S_SI : ∀ x ∈ ([
      (0x20, .addi), (0x22, .andi), (0x23, .ori), (0x24, .xori), (0x28, .muli), (0x30, .ceqi),
      (0x31, .cnei), (0x32, .clti), (0x33, .clei), (0x34, .cltui), (0x35, .cleui), (0x3b, .sli)] : List (BitVec 6 × (Operands.SI → Instr))),
    decodeSlot ⟨.S, x.1 ++ 0x29#6 ++ 0x16#6 ++ 0#1 ++ 0x1a5c#13, .one 0x5⟩ =
      .ok (x.2 ⟨0x29, 0x16, false, 0x1a5c, .one 0x5⟩) := by
  repeat refine List.forall_mem_cons.2 ⟨rfl, ?_⟩
  exact nofun

theorem test_decode_S_SH : ∀ x ∈ ([
      (0x25, .shli), (0x26, .shri), (0x27, .sari)] : List (BitVec 6 × (Operands.SH → Instr))),
    decodeSlot ⟨.S, x.1 ++ 0x29#6 ++ 0x16#6 ++ 1#1 ++ 0#7 ++ 0x25#6, .zero⟩ =
      .ok (x.2 ⟨0x29, 0x16, true, 0x25⟩) := by
  repeat refine List.forall_mem_cons.2 ⟨rfl, ?_⟩
  exact nofun

theorem test_decode_S_SB : ∀ x ∈ ([
      (0x38, .bfx), (0x39, .bfxs), (0x3a, .bfi)] : List (BitVec 6 × (Operands.SB → Instr))),
    decodeSlot ⟨.S, x.1 ++ 0x29#6 ++ 0x16#6 ++ 0#1 ++ 0x14#6 ++ 0#1 ++ 0xa#6, .zero⟩ =
      .ok (x.2 ⟨0x29, 0x16, false, 0x14, 0xa⟩) := by
  repeat refine List.forall_mem_cons.2 ⟨rfl, ?_⟩
  exact nofun

theorem test_decode_A_ABr :
    decodeSlot ⟨.A, 0x0#6 ++ 0#7 ++ 0x7abcd#19, .one 0x5⟩ =
      .ok (.br ⟨0x7abcd, .one 0x5⟩) := rfl

theorem test_decode_A_ABc : ∀ x ∈ ([
      (0x1, .brz), (0x2, .brnz), (0x3, .brn), (0x4, .brnn)] : List (BitVec 6 × (Operands.ABc → Instr))),
    decodeSlot ⟨.A, x.1 ++ 0x16#6 ++ 1#1 ++ 0x7abcd#19, .one 0x5⟩ =
      .ok (x.2 ⟨0x16, true, 0x7abcd, .one 0x5⟩) := by
  repeat refine List.forall_mem_cons.2 ⟨rfl, ?_⟩
  exact nofun

theorem test_decode_A_ABl :
    decodeSlot ⟨.A, 0x5#6 ++ 0x29#6 ++ 0#1 ++ 0x7abcd#19, .one 0x5⟩ =
      .ok (.call ⟨0x29, 0x7abcd, .one 0x5⟩) := rfl

theorem test_decode_A_SR1 :
    decodeSlot ⟨.A, 0x6#6 ++ 0x29#6 ++ 0x16#6 ++ 1#1 ++ 0#13, .zero⟩ =
      .ok (.callr ⟨0x29, 0x16, true⟩) := rfl

theorem test_decode_A_S1 :
    decodeSlot ⟨.A, 0x7#6 ++ 0#6 ++ 0x16#6 ++ 1#1 ++ 0#13, .zero⟩ =
      .ok (.jr ⟨0x16, true⟩) := rfl

theorem test_decode_A_AA :
    decodeSlot ⟨.A, 0x8#6 ++ 0x29#6 ++ 0x16#6 ++ 0#1 ++ 0xd#6 ++ 1#1 ++ 5#3 ++ 0#3, .zero⟩ =
      .ok (.adda ⟨0x29, 0x16, false, 0xd, true, 5⟩) := rfl

theorem test_decode_A_SI :
    decodeSlot ⟨.A, 0x9#6 ++ 0x29#6 ++ 0x16#6 ++ 0#1 ++ 0x1a5c#13, .one 0x5⟩ =
      .ok (.addai ⟨0x29, 0x16, false, 0x1a5c, .one 0x5⟩) := rfl

theorem test_decode_A_AL :
    decodeSlot ⟨.A, 0x10#6 ++ 4#3 ++ 0x16#6 ++ 1#1 ++ 0#8 ++ 0xa7#8, .zero⟩ =
      .ok (.loop ⟨4, 0x16, true, 0xa7⟩) := rfl

theorem test_decode_A_ALI :
    decodeSlot ⟨.A, 0x11#6 ++ 4#3 ++ 0x5a5b#15 ++ 0xa7#8, .one 0x5⟩ =
      .ok (.loopi ⟨4, 0x5a5b, 0xa7, .one 0x5⟩) := rfl

theorem test_decode_A_AX :
    decodeSlot ⟨.A, 0x12#6 ++ 5#3 ++ 0#23, .zero⟩ =
      .ok (.lexit ⟨5⟩) := rfl

theorem test_decode_M_MSl : ∀ x ∈ ([
      (0x0, .fldB), (0x1, .fldH), (0x2, .fldW), (0x3, .fldD), (0x18, .gld), (0x1a, .rld)] : List (BitVec 6 × (Operands.MSl → Instr))),
    decodeSlot ⟨.M, x.1 ++ 0x29#6 ++ 0#1 ++ 0x16#6 ++ 1#1 ++ 0xb5c#12, .one 0x5⟩ =
      .ok (x.2 ⟨0x29, 0x16, true, 0xb5c, .one 0x5⟩) := by
  repeat refine List.forall_mem_cons.2 ⟨rfl, ?_⟩
  exact nofun

theorem test_decode_M_MSs : ∀ x ∈ ([
      (0x4, .fstB), (0x5, .fstH), (0x6, .fstW), (0x7, .fstD), (0x19, .gst), (0x1b, .rst)] : List (BitVec 6 × (Operands.MSs → Instr))),
    decodeSlot ⟨.M, x.1 ++ 0x29#6 ++ 1#1 ++ 0x16#6 ++ 0#1 ++ 0xb5c#12, .one 0x5⟩ =
      .ok (x.2 ⟨0x29, true, 0x16, false, 0xb5c, .one 0x5⟩) := by
  repeat refine List.forall_mem_cons.2 ⟨rfl, ?_⟩
  exact nofun

theorem test_decode_M_MVl : ∀ x ∈ ([
      (0x8, .vld), (0xc, .wld)] : List (BitVec 6 × (Operands.MVl → Instr))),
    decodeSlot ⟨.M, x.1 ++ 0x13#5 ++ 0#1 ++ 5#3 ++ 0x16#6 ++ 1#1 ++ 0x2d3#10, .one 0x5⟩ =
      .ok (x.2 ⟨0x13, 5, 0x16, true, 0x2d3, .one 0x5⟩) := by
  repeat refine List.forall_mem_cons.2 ⟨rfl, ?_⟩
  exact nofun

theorem test_decode_M_MVs : ∀ x ∈ ([
      (0x9, .vst), (0xd, .wst)] : List (BitVec 6 × (Operands.MVs → Instr))),
    decodeSlot ⟨.M, x.1 ++ 0x13#5 ++ 1#1 ++ 5#3 ++ 0x16#6 ++ 0#1 ++ 0x2d3#10, .one 0x5⟩ =
      .ok (x.2 ⟨0x13, true, 5, 0x16, false, 0x2d3, .one 0x5⟩) := by
  repeat refine List.forall_mem_cons.2 ⟨rfl, ?_⟩
  exact nofun

theorem test_decode_M_MGl :
    decodeSlot ⟨.M, 0xa#6 ++ 0x13#5 ++ 0#1 ++ 5#3 ++ 0x16#6 ++ 0#1 ++ 0xd#5 ++ 1#1 ++ 0#4, .zero⟩ =
      .ok (.vgath ⟨0x13, 5, 0x16, false, 0xd, true⟩) := rfl

theorem test_decode_M_MGs :
    decodeSlot ⟨.M, 0xb#6 ++ 0x13#5 ++ 1#1 ++ 5#3 ++ 0x16#6 ++ 0#1 ++ 0xd#5 ++ 1#1 ++ 0#4, .zero⟩ =
      .ok (.vscat ⟨0x13, true, 5, 0x16, false, 0xd, true⟩) := rfl

theorem test_decode_M_SR1 : ∀ x ∈ ([
      (0x10, .lookup), (0x13, .tagrd)] : List (BitVec 6 × (Operands.SR1 → Instr))),
    decodeSlot ⟨.M, x.1 ++ 0x29#6 ++ 0x16#6 ++ 1#1 ++ 0#13, .zero⟩ =
      .ok (x.2 ⟨0x29, 0x16, true⟩) := by
  repeat refine List.forall_mem_cons.2 ⟨rfl, ?_⟩
  exact nofun

theorem test_decode_M_SS :
    decodeSlot ⟨.M, 0x11#6 ++ 0#6 ++ 0x16#6 ++ 0#1 ++ 0x2d#6 ++ 1#1 ++ 0#6, .zero⟩ =
      .ok (.tagset ⟨0x16, false, 0x2d, true⟩) := rfl

theorem test_decode_M_S1 :
    decodeSlot ⟨.M, 0x12#6 ++ 0#6 ++ 0x16#6 ++ 1#1 ++ 0#13, .zero⟩ =
      .ok (.taginv ⟨0x16, true⟩) := rfl

theorem test_decode_M_bare : ∀ x ∈ ([(0x1f, .cfence)] : List (BitVec 6 × Instr)),
    decodeSlot ⟨.M, x.1 ++ 0#26, .zero⟩ = .ok x.2 := by
  repeat refine List.forall_mem_cons.2 ⟨rfl, ?_⟩
  exact nofun

theorem test_decode_V_VR : ∀ x ∈ ([
      (0x0, .vaddF32), (0x1, .vsubF32), (0x2, .vmulF32), (0x4, .vminF32), (0x5, .vmaxF32), (0x6, .vaddBf16),
      (0x7, .vmulBf16), (0x9, .vaddF16), (0xa, .vmulF16), (0xc, .vaddI32), (0xd, .vsubI32), (0xe, .vmulI32),
      (0xf, .vminI32), (0x10, .vmaxI32), (0x11, .vand), (0x12, .vor), (0x13, .vxor), (0x14, .vshl),
      (0x15, .vshr), (0x16, .vsar), (0x17, .vaddI16), (0x18, .vsubI16), (0x19, .vaddsI16), (0x1a, .vmulI16),
      (0x21, .vsel), (0x22, .vperm), (0x32, .vbscale)] : List (BitVec 6 × (Operands.VR → Instr))),
    decodeSlot ⟨.V, x.1 ++ 0x13#5 ++ 6#5 ++ 1#1 ++ 0xd#5 ++ 0#1 ++ 0#6 ++ 5#3, .zero⟩ =
      .ok (x.2 ⟨0x13, 6, true, 0xd, false, 5⟩) := by
  repeat refine List.forall_mem_cons.2 ⟨rfl, ?_⟩
  exact nofun

theorem test_decode_V_VR3 : ∀ x ∈ ([
      (0x3, .vfmaF32), (0x8, .vfmaBf16), (0xb, .vfmaF16)] : List (BitVec 6 × (Operands.VR3 → Instr))),
    decodeSlot ⟨.V, x.1 ++ 0x13#5 ++ 6#5 ++ 0#1 ++ 0xd#5 ++ 1#1 ++ 0x1a#5 ++ 0#1 ++ 5#3, .zero⟩ =
      .ok (x.2 ⟨0x13, 6, false, 0xd, true, 0x1a, false, 5⟩) := by
  repeat refine List.forall_mem_cons.2 ⟨rfl, ?_⟩
  exact nofun

theorem test_decode_V_VP : ∀ x ∈ ([
      (0x1c, .vcmpeqF32), (0x1d, .vcmpltF32), (0x1e, .vcmpleF32), (0x1f, .vcmpeqI32), (0x20, .vcmpltI32)] : List (BitVec 6 × (Operands.VP → Instr))),
    decodeSlot ⟨.V, x.1 ++ 0#2 ++ 6#3 ++ 0xb#5 ++ 0#1 ++ 0xd#5 ++ 1#1 ++ 0#6 ++ 5#3, .zero⟩ =
      .ok (x.2 ⟨6, 0xb, false, 0xd, true, 5⟩) := by
  repeat refine List.forall_mem_cons.2 ⟨rfl, ?_⟩
  exact nofun

theorem test_decode_V_VB :
    decodeSlot ⟨.V, 0x23#6 ++ 0x13#5 ++ 0x16#6 ++ 1#1 ++ 0#11 ++ 5#3, .zero⟩ =
      .ok (.vbcast ⟨0x13, 0x16, true, 5⟩) := rfl

theorem test_decode_V_VX :
    decodeSlot ⟨.V, 0x24#6 ++ 0x29#6 ++ 6#5 ++ 1#1 ++ 0x55#7 ++ 0#7, .zero⟩ =
      .ok (.vext ⟨0x29, 6, true, 0x55⟩) := rfl

theorem test_decode_V_VQ : ∀ x ∈ ([
      (0x25, .vredsumF32), (0x26, .vredmaxF32), (0x27, .vredminF32), (0x28, .vredsumI32)] : List (BitVec 6 × (Operands.VQ → Instr))),
    decodeSlot ⟨.V, x.1 ++ 0x29#6 ++ 6#5 ++ 1#1 ++ 0#11 ++ 5#3, .zero⟩ =
      .ok (x.2 ⟨0x29, 6, true, 5⟩) := by
  repeat refine List.forall_mem_cons.2 ⟨rfl, ?_⟩
  exact nofun

theorem test_decode_V_VC :
    decodeSlot ⟨.V, 0x29#6 ++ 0x13#5 ++ 6#5 ++ 1#1 ++ 8#4 ++ 9#4 ++ 0#4 ++ 5#3, .zero⟩ =
      .ok (.vcvt ⟨0x13, 6, true, 8, 9, 5⟩) := rfl

theorem test_decode_V_VR1 : ∀ x ∈ ([
      (0x2a, .vcvtF32I16), (0x2b, .vcvtI16F32), (0x2c, .vrcpF32), (0x2d, .vrsqrtF32), (0x2e, .vexp2F32), (0x2f, .vlog2F32),
      (0x30, .vtanhF32)] : List (BitVec 6 × (Operands.VR1 → Instr))),
    decodeSlot ⟨.V, x.1 ++ 0x13#5 ++ 6#5 ++ 1#1 ++ 0#12 ++ 5#3, .zero⟩ =
      .ok (x.2 ⟨0x13, 6, true, 5⟩) := by
  repeat refine List.forall_mem_cons.2 ⟨rfl, ?_⟩
  exact nofun

theorem test_decode_V_VG :
    decodeSlot ⟨.V, 0x31#6 ++ 0x13#5 ++ 6#5 ++ 1#1 ++ 0xb#4 ++ 0#8 ++ 5#3, .zero⟩ =
      .ok (.vgly ⟨0x13, 6, true, 0xb, 5⟩) := rfl

theorem test_decode_T_TI :
    decodeSlot ⟨.T, 0x0#6 ++ 0#5 ++ 6#5 ++ 1#1 ++ 0#15, .zero⟩ =
      .ok (.trin ⟨6, true⟩) := rfl

theorem test_decode_T_TP :
    decodeSlot ⟨.T, 0x1#6 ++ 0x13#5 ++ 0#21, .zero⟩ =
      .ok (.tpop ⟨0x13⟩) := rfl

theorem test_decode_T_TM :
    decodeSlot ⟨.T, 0x2#6 ++ 0#22 ++ 2#4, .zero⟩ =
      .ok (.tmode ⟨2⟩) := rfl

theorem test_decode_T_bare : ∀ x ∈ ([(0x3, .tclr)] : List (BitVec 6 × Instr)),
    decodeSlot ⟨.T, x.1 ++ 0#26, .zero⟩ = .ok x.2 := by
  repeat refine List.forall_mem_cons.2 ⟨rfl, ?_⟩
  exact nofun

theorem test_decode_E_EL :
    decodeSlot ⟨.E, 0x0#6 ++ 0x10b#10 ++ 0x16#6 ++ 1#1 ++ 0#9, .zero⟩ =
      .ok (.mvl ⟨0x10b, 0x16, true⟩) := rfl

theorem test_decode_E_EI : ∀ x ∈ ([
      (0x1, .mvli), (0x2, .mvlh)] : List (BitVec 6 × (Operands.EI → Instr))),
    decodeSlot ⟨.E, x.1 ++ 0xc3#10 ++ 0xc3a5#16, .one 0x5⟩ =
      .ok (x.2 ⟨0xc3, 0xc3a5, .one 0x5⟩) := by
  repeat refine List.forall_mem_cons.2 ⟨rfl, ?_⟩
  exact nofun

theorem test_decode_E_ES :
    decodeSlot ⟨.E, 0x3#6 ++ 0xc3#10 ++ 0x29#6 ++ 0#10, .zero⟩ =
      .ok (.mvs ⟨0xc3, 0x29⟩) := rfl

theorem test_decode_E_ECp :
    decodeSlot ⟨.E, 0x8#6 ++ 2#2 ++ 0#4 ++ 0#2 ++ 0#6 ++ 1#1 ++ 0#11, .zero⟩ =
      .ok (.trigCpy ⟨2, true⟩) := rfl

theorem test_decode_E_ECa : ∀ x ∈ ([(1, .trigCpyAwAdd), (2, .trigCpyAwMin), (3, .trigCpyAwMax), (4, .trigCpyAwAnd), (5, .trigCpyAwOr), (6, .trigCpyAwXor)] : List (BitVec 4 × (Operands.ECa → Instr))),
    decodeSlot ⟨.E, 0x8#6 ++ 2#2 ++ x.1 ++ 1#2 ++ 0#18, .zero⟩ = .ok (x.2 ⟨2, 1⟩) := by
  repeat refine List.forall_mem_cons.2 ⟨rfl, ?_⟩
  exact nofun

theorem test_decode_E_ECr : ∀ x ∈ ([(7, .trigCpyFadd), (8, .trigCpySwap), (9, .trigCpyCas)] : List (BitVec 4 × (Operands.ECr → Instr))),
    decodeSlot ⟨.E, 0x8#6 ++ 1#2 ++ x.1 ++ 2#2 ++ 0x29#6 ++ 0#12, .zero⟩ = .ok (x.2 ⟨1, 2, 0x29⟩) := by
  repeat refine List.forall_mem_cons.2 ⟨rfl, ?_⟩
  exact nofun

theorem test_decode_E_TP : ∀ x ∈ ([
      (0x9, .trigCube), (0xa, .trigNib)] : List (BitVec 6 × (Operands.TP → Instr))),
    decodeSlot ⟨.E, x.1 ++ 0x13#5 ++ 0#21, .zero⟩ =
      .ok (x.2 ⟨0x13⟩) := by
  repeat refine List.forall_mem_cons.2 ⟨rfl, ?_⟩
  exact nofun

theorem test_decode_E_bare : ∀ x ∈ ([(0xb, .trigLnk)] : List (BitVec 6 × Instr)),
    decodeSlot ⟨.E, x.1 ++ 0#26, .zero⟩ = .ok x.2 := by
  repeat refine List.forall_mem_cons.2 ⟨rfl, ?_⟩
  exact nofun

theorem test_decode_E_EW :
    decodeSlot ⟨.E, 0x10#6 ++ 6#3 ++ 0#23, .zero⟩ =
      .ok (.ewait ⟨6⟩) := rfl

theorem test_decode_E_EM :
    decodeSlot ⟨.E, 0x11#6 ++ 9#4 ++ 0x16#6 ++ 1#1 ++ 0#15, .zero⟩ =
      .ok (.wmwait ⟨9, 0x16, true⟩) := rfl

theorem test_decode_C_bare : ∀ x ∈ ([(0x0, .nop), (0x1, .halt), (0x3, .eret), (0x10, .step), (0x1d, .ksync)] : List (BitVec 6 × Instr)),
    decodeSlot ⟨.C, x.1 ++ 0#26, .zero⟩ = .ok x.2 := by
  repeat refine List.forall_mem_cons.2 ⟨rfl, ?_⟩
  exact nofun

theorem test_decode_C_CI : ∀ x ∈ ([
      (0x2, .trap), (0x8, .setfmt), (0x11, .bar), (0x12, .rdv)] : List (BitVec 6 × (Operands.CI → Instr))),
    decodeSlot ⟨.C, x.1 ++ 0#10 ++ 0x211#16, .zero⟩ =
      .ok (x.2 ⟨0x211⟩) := by
  repeat refine List.forall_mem_cons.2 ⟨rfl, ?_⟩
  exact nofun

theorem test_decode_C_CSr :
    decodeSlot ⟨.C, 0x4#6 ++ 0x29#6 ++ 0#8 ++ 0x112#12, .zero⟩ =
      .ok (.rdsr ⟨0x29, 0x112⟩) := rfl

theorem test_decode_C_CSw :
    decodeSlot ⟨.C, 0x5#6 ++ 0x16#6 ++ 1#1 ++ 0#7 ++ 0x112#12, .zero⟩ =
      .ok (.wrsr ⟨0x16, true, 0x112⟩) := rfl

theorem test_decode_C_SD :
    decodeSlot ⟨.C, 0x6#6 ++ 0x29#6 ++ 0#20, .zero⟩ =
      .ok (.rdts ⟨0x29⟩) := rfl

theorem test_decode_C_SR1 :
    decodeSlot ⟨.C, 0x13#6 ++ 0x29#6 ++ 0x16#6 ++ 1#1 ++ 0#13, .zero⟩ =
      .ok (.probe ⟨0x29, 0x16, true⟩) := rfl

theorem test_decode_C_S1 : ∀ x ∈ ([
      (0x18, .seal), (0x19, .unseal), (0x1a, .pub)] : List (BitVec 6 × (Operands.S1 → Instr))),
    decodeSlot ⟨.C, x.1 ++ 0#6 ++ 0x16#6 ++ 1#1 ++ 0#13, .zero⟩ =
      .ok (x.2 ⟨0x16, true⟩) := by
  repeat refine List.forall_mem_cons.2 ⟨rfl, ?_⟩
  exact nofun

theorem test_decode_C_SS : ∀ x ∈ ([
      (0x1b, .wswap), (0x1c, .pfh)] : List (BitVec 6 × (Operands.SS → Instr))),
    decodeSlot ⟨.C, x.1 ++ 0#6 ++ 0x16#6 ++ 0#1 ++ 0x2d#6 ++ 1#1 ++ 0#6, .zero⟩ =
      .ok (x.2 ⟨0x16, false, 0x2d, true⟩) := by
  repeat refine List.forall_mem_cons.2 ⟨rfl, ?_⟩
  exact nofun

/-! ### States for the tests -/

/-- A package whose tile 0 is `x`. -/
def onTile (x : Tile) : State := { State.reset with tiles := [(0, x)] }
/-- A package whose task slot 0 of tile 0 holds `x`. -/
def onTask (x : Task) : State := onTile { tasks := [(0, x)] }
/-- A package whose bellows core executes. -/
def atBellows (x : Bellows) : State := { State.reset with cur := { core := .bellows }, bellows := x }
/-- A package with context 0. -/
def onCtx (c : Context) (x : Tile) : State := { onTile { x with ctx := some 0 } with contexts := [(0, c)] }

/-! ### Small steps, with values worked out by hand -/

/-- R94: 2^64 − 1 + 1 wraps to 0; the destination may be a source. -/
theorem test_add_wraps : (exec (.add ⟨1, 1, false, 2, false⟩)
    (onTask { sreg := [(1, BitVec.allOnes 64), (2, 1)], emptyS := [] })) =
    .next (advance (writeLaterS (onTask { sreg := [(1, BitVec.allOnes 64), (2, 1)] }) 1 0 1)) := rfl

/-- R94: min reads its operands as signed, minu as unsigned. -/
theorem test_min_signed : exec (.min ⟨3, 1, false, 2, false⟩) (onTask { sreg := [(1, 0xFFFFFFFFFFFFFFFE), (2, 1)] }) =
    .next (advance (writeLaterS (onTask { sreg := [(1, 0xFFFFFFFFFFFFFFFE), (2, 1)] }) 3 0xFFFFFFFFFFFFFFFE 1)) := rfl

/-- R64: an empty source with W = 1 is fault 0x03, which does not issue. -/
theorem test_empty_source_faults : exec (.add ⟨1, 2, true, 3, false⟩) (onTask { emptyS := [2] }) =
    .next (preciseFault (onTask { emptyS := [2] }) 0x03) := rfl

/-- R66: a result is written at its hc, not before. -/
theorem test_result_due : readS (writeDue 5 { pend := [⟨5, .s 4, 9, 0, .S0⟩, ⟨6, .s 7, 8, 1, .M⟩] }) 4 = 9 ∧
    readS (writeDue 5 { pend := [⟨5, .s 4, 9, 0, .S0⟩, ⟨6, .s 7, 8, 1, .M⟩] }) 7 = 0 := by decide +kernel

/-- R59: s0 drops writes. -/
theorem test_s0 : readS (writeS {} 0 7) 0 = 0 := by decide

/-- R2: seven hc are ten ns. -/
theorem test_hc_ns : ((tick (tick (tick (tick (tick (tick (tick State.reset))))))).ts) = 10 := by decide

/-! ### Every statement's hypotheses are met somewhere -/

/-- Where no read is open, a word's reads are settled. -/
theorem openReads_none {s : State} (h : ∀ r, rivalValues (gateTask s) s.cur.pos r = []) (i : Instr) : openReads i s = s := by
  unfold openReads
  induction readRegs i with
  | nil => rfl
  | cons r l ih => rw [List.foldl_cons, viewReg_same (.inr (h r))]; exact ih

theorem rivals_none {t : Task} (h : t.pend = []) (g : t.recent = []) (p : Pos) (r : Reg) : rivalValues t p r = [] := by
  unfold rivalValues; split
  · rfl
  · simp [h, g, oldsOf]

/-- Every word but eret is ready at reset: the register, immediate, lane and latch forms, the waits and the others. -/
theorem witness_ready (i : Instr) (h : i ≠ .eret) : Ready i State.reset := by
  have e : ∀ r, isEmpty (gateTask State.reset) r = false := by
    intro r; cases r <;> simp [isEmpty, gateTask, curTask, coreTask, taskOf, tileOf, State.reset]
  refine ⟨?_, ?_, rfl, openReads_none (rivals_none rfl rfl _) i⟩
  · have hb : onBellows State.reset = false := rfl
    have hs : (curTask State.reset).stream = [] := rfl
    simp [placeForbids, coreForbids, segmentForbids, hb, hs, h]
  · rw [emptyWait, List.find?_eq_none]
    intro r _
    simp [e]

theorem witness_eret : Ready .eret (atBellows { epc := 32 }) ∧ transferMisplaced (atBellows { epc := 32 }) true = false := by
  exact ⟨⟨rfl, rfl, rfl, rfl⟩, rfl⟩

theorem witness_DecodeEncodeRoundTrip : (Instr.bfx ⟨63, 63, true, 63, 0⟩).wf = true ∧
    encode (.bfx ⟨63, 63, true, 63, 0⟩) = some ⟨.S, 0xE3FFFF80, .zero⟩ := by exact ⟨rfl, rfl⟩

theorem witness_EncodeDecodeRoundTrip : decodeSlot ⟨.S, 0x80500345, .two 0xFFFFFF⟩ =
    .ok (.addi ⟨5, 0, false, 0x345, .two 0xFFFFFF⟩) := rfl

/-- A word that is about to run: add s3, s1, s2 alone in a bundle. -/
def aboutToRun : State := State.reset.withFetchWord 32 0x00304100

theorem witness_StepRunsDecodedWord : aboutToRun.powered = true ∧ takeEvent 0 aboutToRun.hc aboutToRun.events = none ∧
    movesLeft aboutToRun = [] ++ (3, .tile 0 0, 3) :: (movesLeft aboutToRun).tail ∧ movePos 3 = some .S0 ∧
    (coreTask aboutToRun (.tile 0 0)).needs = none ∧
    headWord (coreTask aboutToRun (.tile 0 0)) aboutToRun.hc .S0 =
      some ({ n := 0, addr := 16, slots := [(.S0, ⟨.S, 0x00304100, .zero⟩)] }, ⟨.S, 0x00304100, .zero⟩) ∧
    (SeqBundle.live { n := 0, addr := 16, slots := [(.S0, ⟨.S, 0x00304100, .zero⟩)] } .S0) = true ∧
    decodeSlot ⟨.S, 0x00304100, .zero⟩ = .ok (.add ⟨3, 1, false, 2, false⟩) ∧
    decodeSlot ⟨.S, 0x00304101, .zero⟩ = .error .reservedField := by
  exact ⟨rfl, rfl, rfl, rfl, rfl, rfl, rfl, rfl, rfl⟩

/-- A word whose stage predicate is 0: in slot S0, a branch in slot A, an eret in slot C. -/
def deadBundle (p : Pos) (w : SlotWord) : SeqBundle := { n := 0, addr := 16, slots := [(p, w)], q := 0xFE }
def deadWord (p : Pos) (w : SlotWord) (j : Nat) : State :=
  { onTile { issuing := some 0, tasks := [(0, { st := .issuing, nextSeq := 1, syncOpen := some 0, stream := [deadBundle p w] })] } with
    turn := j }
/-- The slot of a dead bundle and the move that reaches it. -/
def deadAt (p : Pos) (w : SlotWord) (m : Nat) : Prop :=
  (deadWord p w m).powered = true ∧ takeEvent 0 (deadWord p w m).hc (deadWord p w m).events = none ∧
  movesLeft (deadWord p w m) = [] ++ (m, .tile 0 0, m) :: (movesLeft (deadWord p w m)).tail ∧ movePos m = some p ∧
  ¬(m = 10 ∧ isTriggerWord { deadWord p w m with turn := m + 1 } (.tile 0 0) = true) ∧
  (coreTask (deadWord p w m) (.tile 0 0)).needs = none ∧
  headWord (coreTask (deadWord p w m) (.tile 0 0)) (deadWord p w m).hc p = some (deadBundle p w, w) ∧
  (deadBundle p w).live p = false

theorem witness_dead_slots : deadAt .S0 ⟨.S, 0x00304100, .zero⟩ 3 ∧
    (∃ m, deadAt .A ⟨.A, 0x04C00012, .zero⟩ m) ∧
    (∃ i, (deadBundle .A ⟨.A, 0x04C00012, .zero⟩).instr .A = some i ∧ isBranch i = true) ∧
    (∃ m, deadAt .C ⟨.C, 0x0C000000, .zero⟩ m) ∧ (deadBundle .C ⟨.C, 0x0C000000, .zero⟩).instr .C = some .eret := by
  refine ⟨⟨rfl, rfl, rfl, rfl, by decide, rfl, rfl, rfl⟩, ⟨5, rfl, rfl, rfl, rfl, by decide, rfl, rfl, rfl⟩, ⟨_, rfl, rfl⟩,
    ⟨13, rfl, rfl, rfl, rfl, by decide, rfl, rfl, rfl⟩, rfl⟩

/-- The bellows core, running, before a bundle of one add. -/
def bellowsWord : State := atBellows { st := .running, core := { nextSeq := 1, flow := { hold := .halted }, stream :=
  [{ n := 0, addr := 16, slots := [(.S0, ⟨.S, 0x00304100, .zero⟩)] }] } }

theorem witness_whole_bundle : takeEvent 0 bellowsWord.hc bellowsWord.events = none ∧
    (∃ j rest, (movesLeft bellowsWord) = (movesLeft bellowsWord).take 2 ++ (j, .bellows, 2) :: rest ∧
      (∀ x ∈ (movesLeft bellowsWord).take 2, (moveAct { bellowsWord with turn := x.1 + 1 } x.2.1 x.2.2).isNone = true) ∧
      (coreTask bellowsWord .bellows).needs.isNone = true ∧
      reachedFault (coreTask bellowsWord .bellows) = none ∧ (syncHead (coreTask bellowsWord .bellows) true).isSome = true ∧
      ((syncHead (coreTask bellowsWord .bellows) true).bind (bundleStep { bellowsWord with turn := j + 1 } .bellows)).isSome = true) := by
  exact ⟨rfl, 1026, _, rfl, by decide +kernel, by decide +kernel, by decide +kernel, by decide +kernel, by decide +kernel⟩

/-- A bundle that issues whole: its add, which moves its queue past the bundle. -/
def wholeBundle : SeqBundle := { n := 0, addr := 16, slots := [(.S0, ⟨.S, 0x00304100, .zero⟩)] }
def atWhole : State := { bellowsWord with cur := { core := .bellows, pos := .S0, n := 0, addr := 16 } }

theorem witness_bundle_word : slotAt wholeBundle.slots .S0 = some ⟨.S, 0x00304100, .zero⟩ ∧ wholeBundle.live .S0 = true ∧
    (∃ t, exec (.add ⟨3, 1, false, 2, false⟩) atWhole = .next t ∧
      tget 0 (coreTask t .bellows).qpos Pos.S0.idx = wholeBundle.n + 1 ∧
      issueWord .bellows wholeBundle bellowsWord .S0 = some t) := by
  exact ⟨rfl, rfl, _, rfl, rfl, rfl⟩

theorem witness_StepOrder : (∃ s : State, s.powered = true ∧ s.events = [{ due := 0, ev := .powerLoss }] ∧ 0 ≤ s.hc) ∧
    (State.reset.powered = true ∧ State.reset.events = [] ∧ nextAct State.reset = none ∧ State.reset.disc.slew = 0) ∧
    (∃ s : State, takeEvent 0 s.hc s.events = none ∧ takeEvent 1 s.hc s.events = some ({ due := 0, ev := .powerLoss, phase := 1 }, [])) ∧
    (∃ s : State, s.powered = false ∧ s.events = []) :=
  ⟨⟨{ State.reset with events := [{ due := 0, ev := .powerLoss }] }, rfl, rfl, Nat.le_refl 0⟩, ⟨rfl, rfl, rfl, rfl⟩,
   ⟨{ State.reset with events := [{ due := 0, ev := .powerLoss, phase := 1 }] }, rfl, rfl⟩,
   ⟨{ State.reset with powered := false }, rfl, rfl⟩⟩

theorem witness_BitFieldForms : (Instr.bfx ⟨1, 2, false, 0, 63⟩).wf = true ∧ (Instr.bfxs ⟨1, 2, false, 63, 0⟩).wf = true ∧
    (Instr.bfi ⟨1, 2, false, 31, 32⟩).wf = true := by decide

/-- A task in a bundle at 0x100, with s1 = 0x200, s2 = 8, s3 negative. -/
def inBundle (b : SeqBundle) (h : FlowHold) : State :=
  { onTask { stream := [b], sreg := [(1, 0x200), (2, 8), (3, BitVec.allOnes 64)], flow := { next := 0x110, hold := h } } with
    cur := { addr := 0x100 } }
def plainBundle : SeqBundle := { n := 0, addr := 0x100, slots := [] }
/-- In the body [0x100, 0x140) of level 2. -/
def loopBundle : SeqBundle := { plainBundle with
  loops := [(2, { act := true, cnt := 5, bodyAddr := 0x100, endAddr := 0x140, afterAddr := 0x140 })] }

theorem witness_ready_inBundle (i : Instr) (h : i ≠ .eret) (b : SeqBundle) (hb : b.rw = false) (f : FlowHold) :
    Ready i (inBundle b f) := by
  have e : ∀ r, isEmpty (gateTask (inBundle b f)) r = false := by
    intro r; cases r <;> simp [isEmpty, gateTask, curTask, coreTask, taskOf, tileOf, inBundle, onTask, onTile, State.reset, tget]
  refine ⟨?_, ?_, rfl, openReads_none (rivals_none rfl rfl _) i⟩
  · have h1 : onBellows (inBundle b f) = false := rfl
    have h2 : (curTask (inBundle b f)).stream = [b] := rfl
    simp [placeForbids, coreForbids, segmentForbids, h1, h2, h, hb]
  · rw [emptyWait, List.find?_eq_none]
    intro r _
    simp [e]

theorem witness_Branches : transferMisplaced (inBundle loopBundle .run) true = false ∧
    outsideBody (inBundle loopBundle .run) (0x100 + (sextImm (3 : BitVec 19) .zero <<< 4)) = false ∧
    srcS (inBundle loopBundle .run) 0 = 0 ∧ srcS (inBundle loopBundle .run) 1 ≠ 0 ∧
    (srcS (inBundle loopBundle .run) 3).getLsbD 63 = true := by decide

theorem witness_CallsAndJumps : transferMisplaced (inBundle plainBundle (.transfer 0 true)) true = false ∧
    insideLoop (inBundle plainBundle (.transfer 0 true)) = false ∧
    linkOf (inBundle plainBundle (.transfer 0 true)) = some 0x110 ∧
    (srcS (inBundle plainBundle (.transfer 0 true)) 1).toNat % 16 = 0 ∧
    outsideBody (inBundle plainBundle (.transfer 0 true)) 0x200 = false := by decide

theorem witness_MisplacedTransfers : transferMisplaced (inBundle { plainBundle with delay := true } .run) true = true ∧
    isTransfer (.br ⟨0, .zero⟩) = true ∧
    outsideBody (inBundle loopBundle .run) (0x100 + (sextImm (4 : BitVec 19) .zero <<< 4)) = true ∧
    insideLoop (inBundle loopBundle .run) = true ∧ (srcS (inBundle plainBundle .run) 2).toNat % 16 ≠ 0 ∧
    (loopIn (curLoops (inBundle loopBundle .run)) 3).act = false := by decide

theorem witness_DelayBundle : (∃ (t : Task) (b : SeqBundle), t.flow.hold = .transfer 0 true ∧ t.stream.getLast? = some b ∧ b.transfers = false ∧
      b.setsLoop = false ∧ b.lastOfBody = false) ∧ (∃ t : Task, t.flow.hold = .transfer 0 false) ∧
    (∃ s : State, (taskOf s 0 0).flow.hold = .issued ∧ (taskOf s 0 0).flow.target = some 0x200 ∧
      (taskOf s 0 0).flow.lexit = none) :=
  ⟨⟨{ flow := { hold := .transfer 0 true }, stream := [plainBundle] }, plainBundle, rfl, rfl, rfl, rfl, rfl⟩,
   ⟨{ flow := { hold := .transfer 0 false } }, rfl⟩,
   ⟨onTask { flow := { hold := .issued, target := some 0x200 } }, rfl, rfl, rfl⟩⟩

/-- A half with a loop word at index 0 and a body of one bundle. -/
def oneBody : Half := { v := true, seg := 0, entries := [⟨0x100, 16, [], false, [], none⟩, ⟨0x110, 16, [], false, [], none⟩,
  ⟨0x120, 16, [], false, [], none⟩] }
def atLoopWord : State := { inBundle plainBundle (.loopSetup 0) with
  tiles := (inBundle plainBundle (.loopSetup 0)).tiles.map fun x => (x.1, { x.2 with halves := [(0, oneBody)] }) }

theorem witness_LoopWords : Ready (.loop ⟨5, 1, false, 0⟩) atLoopWord ∧ Ready (.loopi ⟨0, 0, 0, .zero⟩) atLoopWord ∧
    curBundle atLoopWord = some plainBundle ∧ curHalf atLoopWord = some oneBody ∧
    loopForbidden atLoopWord plainBundle oneBody 5 1 = false ∧ (curTask atLoopWord).flow.hold = .loopSetup atLoopWord.cur.n ∧
    loopForbidden (inBundle loopBundle .run) loopBundle oneBody 2 1 = true ∧
    loopForbidden atLoopWord plainBundle oneBody 0 3 = true ∧
    (loopIn (curLoops (inBundle loopBundle .run)) 2).act = true ∧
    transferMisplaced (inBundle loopBundle .run) true = false := by
  refine ⟨⟨rfl, rfl, rfl, rfl⟩, ⟨rfl, rfl, rfl, rfl⟩, rfl, rfl, ?_⟩
  decide

/-! Floor, wells, tags, global words: at reset every register is 0 and nothing hinders. -/

theorem witness_FloorLoads : floorOk (srcS State.reset 0 + sextImm (0xFF8 : BitVec 12) (.one 0x7FF)) 8 = true ∧
    Claims.Unhindered State.reset false false [(0x7FFFF8, 8)] ∧
    floorRivals State.reset (curTile State.reset) (some (curSlot State.reset)) 0x7FFFF8 8 = [] ∧
    onBellows (atBellows {}) = true ∧ Ready (.fldD ⟨1, 0, false, 0, .zero⟩) (atBellows {}) ∧
    (srcS (atBellows {}) 0 + sextImm (5 : BitVec 12) .zero).toNat < 2 ^ 22 := by
  refine ⟨by decide, fun _ => rfl, by decide +kernel, rfl, ⟨rfl, rfl, rfl, rfl⟩, by decide⟩

/-- A tile whose slot 511 is step-shared. -/
def sharedTile : Tile := { sshare := 1 }

theorem witness_FloorStores : floorOk (srcS State.reset 0 + sextImm (0xFF8 : BitVec 12) (.one 0x7FF)) 8 = true ∧
    Claims.Unhindered State.reset true false [(0x7FFFF8, 8)] ∧
    (∀ w ∈ wordsOf 0x7FFFF8 8, isShared (tileOf State.reset (curTile State.reset)) w = false) ∧
    Claims.Unhindered (onTile sharedTile) true false [(0x7FFFF8, 8)] ∧
    (∀ w ∈ wordsOf 0x7FFFF8 8, isShared (tileOf (onTile sharedTile) (curTile (onTile sharedTile))) w = true) ∧
    Ready (.fstD ⟨1, false, 0, false, 0, .zero⟩) (onTile sharedTile) ∧
    Ready (.fstD ⟨1, false, 0, false, 0, .zero⟩) (atBellows {}) := by
  refine ⟨by decide, fun _ => rfl, by decide, fun _ => rfl, by decide, ⟨rfl, rfl, rfl, rfl⟩, ⟨rfl, rfl, rfl, rfl⟩⟩

theorem witness_FloorAddressFaults : (2 ^ 23 ≤ (srcS State.reset 0 + sextImm (0x800 : BitVec 12) .zero).toNat) ∧
    ((srcS State.reset 0 + sextImm (4 : BitVec 12) .zero).toNat % 8 ≠ 0) ∧
    (2 ^ 22 ≤ (srcS (atBellows {}) 0 + sextImm (0 : BitVec 12) (.one 0x400)).toNat) ∧
    (vectorAddr (inBundle plainBundle .run) 2 0 .zero).toNat % 512 ≠ 0 ∧ 2 ^ 23 ≤ (vectorAddr State.reset 0 0x200 .zero).toNat ∧
    (srcP (onTask { sreg := [(1, 2)] }) 0).getLsbD 127 = true ∧
    (srcS (onTask { sreg := [(1, 2)] }) 1 + (lane (srcV (onTask { sreg := [(1, 2)] }) 0) 127).setWidth 64).toNat % 4 ≠ 0 := by
  decide +kernel

/-- A package with eight layers. -/
def layered : State := { State.reset with layermap := [0, 1, 2, 3, 4, 5, 6, 7] }

theorem witness_VectorMoves : floorOk (vectorAddr layered 0 511 .zero) 512 = true ∧
    layerExists layered (wellLayer (vectorAddr layered 0 511 .zero).toNat) = true ∧
    layerHeld layered (curTile layered) (wellLayer (vectorAddr layered 0 511 .zero).toNat) = false ∧
    Claims.Unhindered layered false false (laneSpans (rowLanes (srcP layered 0) 0x3FE00)) ∧
    Claims.Unhindered layered true true (laneSpans (rowLanes (srcP layered 0) 0x3FE00)) ∧
    isReplica (tileOf layered (curTile layered)) 0 = false ∧ (tileOf layered (curTile layered)).cubeOps = [] ∧
    (∀ a, floorRivals layered (curTile layered) (some (curSlot layered)) a 4 = []) ∧
    (∀ a, wellRivals layered (curTile layered) (some (curSlot layered)) a 4 = []) ∧
    gatherOk (gatherAddr (srcP layered 0) (srcS layered 0) (srcV layered 0)) = true ∧
    Ready (.wst ⟨1, false, 0, 0, false, 511, .zero⟩) layered := by
  refine ⟨by decide +kernel, by decide +kernel, by decide +kernel, fun _ => rfl, fun _ => rfl, rfl, rfl, fun _ => rfl, fun _ => rfl,
    by decide +kernel, ⟨rfl, rfl, rfl, rfl⟩⟩

/-- Slot 3 holds tag 77, slot 4 fills, slot 5 is evicted. -/
def tagged : State := { onTile { tags := [(3, ⟨.valid, 77, 0⟩), (4, ⟨.filling, 78, 4⟩), (5, ⟨.evicting, 79, 4⟩)] } with
  tiles := [(0, { tags := [(3, ⟨.valid, 77, 0⟩), (4, ⟨.filling, 78, 4⟩), (5, ⟨.evicting, 79, 4⟩)],
                  tasks := [(0, { sreg := [(1, 511), (2, 0x10000), (3, 3), (4, 4), (5, 512), (6, 0x101FF)] })] })] }

theorem witness_TagWords : tagsetBad (tileOf tagged 0) (srcS tagged 1) 0 = false ∧
    tagsetBad (tileOf tagged 0) (srcS tagged 4) 0 = true ∧ (srcS tagged 1).toNat < 512 ∧
    (tget ({} : TagEntry) (judgedTags (tileOf tagged 0)) 511).st = .empty ∧
    (tget ({} : TagEntry) (judgedTags (tileOf tagged 0)) 3).st = .valid ∧
    (tget ({} : TagEntry) (judgedTags (tileOf tagged 0)) 4).st = .filling ∧ 512 ≤ (srcS tagged 5).toNat ∧
    (srcS tagged 2).toNat / 512 = 128 ∧ (srcS tagged 6).toNat / 512 = 128 ∧
    tagBusy tagged 511 0 = false ∧ tagBusy tagged 4 0 = false ∧ tagBusy tagged 0 0 = false ∧
    tagBusy { tagged with tiles := [(0, { stores := [⟨3, 1, .tag 511 0 false, 0, 0⟩] })] } 511 0 = true ∧
    Ready (.taginv ⟨1, false⟩) tagged := by
  refine ⟨by decide, by decide, by decide, by decide, by decide, by decide, by decide, by decide, by decide, by decide, by decide, by decide, by decide, ⟨rfl, rfl, rfl, rfl⟩⟩

theorem witness_GlobalWords : (srcS State.reset 0 + sextImm (8 : BitVec 12) .zero).toNat % 8 = 0 ∧
    (srcS State.reset 0 + sextImm (4 : BitVec 12) .zero).toNat % 8 ≠ 0 ∧
    ensureXlat (atBellows {}) 64 0 64 8 true false = (true, atBellows {}) ∧ storeSealed (atBellows {}) 64 8 = false ∧
    storeNoRoom (atBellows {}) 64 8 = false ∧ Ready (.gst ⟨1, false, 0, false, 8, .zero⟩) (atBellows {}) ∧
    Ready .cfence State.reset ∧ fenceOpen State.reset State.reset.hc = false := by
  refine ⟨by decide, by decide, rfl, rfl, rfl, ⟨rfl, rfl, rfl, rfl⟩, ⟨rfl, rfl, rfl, rfl⟩, rfl⟩

/-! Vector words. -/

theorem witness_VectorCompares : (decodeF f32F (0x7FC00000 : Word32).toNat).isNan = true ∧
    (decodeF f32F (0x3F800000 : Word32).toNat).isNan = false := by decide

theorem witness_FloatCodes : (decodeF e4m3F 0x7E).isNan = false ∧ (decodeF f32F 0x7F800000).isNan = false := by decide

theorem witness_FloatCases : (decodeF bf16F 0x7F81).isNan = true ∧ (decodeF f16F 0x7C00).isNan = false := by decide

/-! ### T, E and C words -/

/-- The transposer of tile 0 holds 256 rows of slot 0, and a pop that is due. -/
def busyXp : Xpose := { m := 256, n := 1, done := [(0, 0)], pops := [⟨0, 0, 7, 0, some 0⟩], popSeq := 1 }

theorem witness_TransposerWords : ({ m := 1 } : Xpose).foreign (curSlot State.reset) = false ∧
    ¬(2 ≤ ({ m := 1 } : Xpose).m / 128 ∧ ({ m := 1 } : Xpose).n < 128 * (({ m := 1 } : Xpose).m / 128 - 1)) ∧
    busyXp.foreign (curSlot State.reset) = false ∧ 2 ≤ busyXp.m / 128 ∧ busyXp.n < 128 * (busyXp.m / 128 - 1) ∧
    Ready (.trin ⟨1, false⟩) (onTile { xp := busyXp }) ∧ Ready (.tpop ⟨31⟩) (onTile { xp := busyXp }) ∧
    Ready (.tmode ⟨2⟩) (onTile { xp := busyXp }) ∧ Ready .tclr (onTile { xp := busyXp }) ∧
    (onTile { xp := busyXp }).cur.core = .tile 0 0 ∧ (tileOf (onTile { xp := busyXp }) 0).xp = busyXp ∧
    ({ busyXp with owner := 1 } : Xpose).foreign (curSlot State.reset) = true ∧
    popDue busyXp ⟨0, 0, 7, 0, some 0⟩ = some 0 ∧ (taskOf (onTile { xp := busyXp }) 0 0).st ≠ .stopped := by
  refine ⟨by decide, by decide, by decide, by decide, by decide, ⟨rfl, rfl, rfl, rfl⟩, ⟨rfl, rfl, rfl, rfl⟩, ⟨rfl, rfl, rfl, rfl⟩,
    ⟨rfl, rfl, rfl, rfl⟩, rfl, rfl, by decide, by decide, by decide⟩

theorem witness_LatchWords : latchMask 0x10B ≠ 0 ∧ latchMask 7 = 0 ∧ (0 : Nat) ≠ 1 := by decide

/-- A task whose latches ask for a product of one step; with `ctl` 4 the row goes to a register. -/
def cubeTask (ctl : Word) : Task := { lat := [(0x100, ctl), (0x101, 0x100000000), (0x103, 1), (0x104, 2), (0x106, 3)] }
def atCube (ctl : Word) : State := { layered with tiles := [(0, { tasks := [(0, cubeTask ctl)] })] }

theorem witness_CopyTriggers : copyShapeBad (takeCmd State.reset 0 0 0 0 none) (curTile State.reset) = false ∧
    copyShapeBad (takeCmd State.reset 0 1 1 0 none) (curTile State.reset) = true ∧
    copyShapeBad (takeCmd State.reset 3 9 2 63 none) (curTile State.reset) = false ∧
    copyRefuses (tileOf State.reset (curTile State.reset)) 3 (takeCmd State.reset 3 9 2 63 none) = false ∧
    copyRefuses { cpy := [(0, { cmds := List.replicate 8 (takeCmd State.reset 0 0 0 0 none) })] } 0
      (takeCmd State.reset 0 0 0 0 none) = true ∧
    copyShapeBad (takeCmd layered 0 0 0 0 (some (takeSnap (atCube 0) 0))) 0 = false ∧
    copyRefuses {} 0 (takeCmd layered 0 0 0 0 (some (takeSnap (atCube 0) 0))) = false := by decide

/-- A cube operation of task slot 0 in a given state. -/
def cubeOp (st : CubeSt) : CubeOp :=
  { n := 0, trig := 0, origin := none, task := 0, snap := takeSnap (atCube 0) 0, st := st,
    pass := 0, passes := 1, layers := [0, 1], marks := false, entry := 0, addr := 0, acceptedAt := 0, after := 0 }

theorem witness_UnitTriggers : (takeSnap (atCube 0) 0).toReg = false ∧ snapFault (atCube 0) (takeSnap (atCube 0) 0) = none ∧
    cubeRefuses (tileOf (atCube 0) (curTile (atCube 0))) (takeSnap (atCube 0) 0) = false ∧
    cubeRefuses { cubeOps := [cubeOp .accepted] } (takeSnap (atCube 0) 0) = true ∧
    snapFault State.reset (takeSnap State.reset 0) = some 0x12 ∧ (takeSnap State.reset 0).toReg = false ∧
    (takeSnap (atCube 4) 0).toReg = true ∧ snapFault (atCube 4) (takeSnap (atCube 4) 0) = none ∧
    isPending (curTask (atCube 4)) (.v 31) = false ∧ nibK [] = 0 ∧
    ¬(latchBad 0x142 (latchIn [(0x142, 0x10000007F)] 0x142) = true ∨ nibK [(0x142, 0x10000007F)] = 0 ∨
      (nibX [(0x142, 0x10000007F)]).toNat % 64 ≠ 0) ∧ nibFmtOk 0x911 = true ∧ nibFmtOk 0x919 = false ∧
    nibFree {} = some 0 ∧ lnkBad State.reset [] = true ∧ lnkBad State.reset [(0x180, 1), (0x183, 8)] = false := by
  decide

theorem witness_ControlAndWaitWords : fmtReserved 0x0911 = false ∧ fmtReserved 0x0910 = true ∧
    Ready (.trap ⟨0xFFFF⟩) (onCtx { st := .running } {}) ∧ (tileOf (onCtx { st := .running } {}) 0).ctx = some 0 ∧
    (ctxOf (onCtx { st := .running } {}) 0).st = .running ∧
    onBellows (atBellows {}) = true ∧ Ready (.trap ⟨0xFFFF⟩) (atBellows {}) ∧ Ready .halt (atBellows {}) ∧
    openWork State.reset 0 0 7 0 = [] ∧ openWork (onTile { xp := busyXp }) 0 0 7 0 ≠ [] ∧
    ({} : Watermark).armed = false ∧ ({ lim := 9, wm := 3 } : Watermark).armed = true ∧
    Ready (.ewait ⟨7⟩) (onTile { xp := busyXp }) := by
  refine ⟨by decide, by decide, ⟨rfl, rfl, rfl, rfl⟩, rfl, rfl, rfl, ⟨rfl, rfl, rfl, rfl⟩, ⟨rfl, rfl, rfl, rfl⟩, rfl, by decide,
    by decide, by decide, ⟨rfl, rfl, rfl, rfl⟩⟩

theorem witness_SystemRegisterWords : (readSr State.reset 0x112).isSome = true ∧ readSr State.reset 0x007 = none ∧
    (effectiveSr State.reset 0x010).isSome = true ∧ effectiveSr State.reset 0x007 = none := by
  refine ⟨rfl, rfl, rfl, rfl⟩

/-- A group of one member on tile 0. -/
def oneGroup (bars : List (BarrierId × Barrier)) : Group :=
  { gid := 0, ctx := 0, st := .running, x0 := 0, y0 := 0, w := 1,
    h := 1, tol := false, minlive := 1, live := 1, everFenced := false, slots := [], retiredRanks := [], nstep := 0,
    bars := bars, queue := 0, seq := 1, cls := 0, kimg := 0, args := 0, cwa := 0, acceptedNs := 0, placedNs := 0,
    ssNeeded := false, slotIndex := none, faulted := false, overran := false }
def inGroup (bars : List (BarrierId × Barrier)) : State := 
  { onTask { st := .issuing, gid := some 0 } with
    groups := [oneGroup bars] }

theorem witness_BarrierWords : (0x02FF : BitVec 16).toNat / 2 ^ 8 < 3 ∧ 3 ≤ (0x0300 : BitVec 16).toNat / 2 ^ 8 ∧
    (curTask (inGroup [])).gid = some 0 ∧ groupOf (inGroup []) 0 = some (oneGroup []) ∧ ((oneGroup []).bar .rdv).st = .idle ∧
    ((oneGroup [(.rdv, { st := .gathering, tag := 5 })]).bar .rdv).st ≠ .idle ∧
    ((oneGroup [(.rdv, { st := .gathering, tag := 5 })]).bar .rdv).tag ≠ 6 ∧ Ready (.rdv ⟨6⟩) (inGroup []) := by
  refine ⟨by decide, by decide, rfl, rfl, rfl, by decide, by decide, ⟨rfl, rfl, rfl, rfl⟩⟩

/-- A table of regions, and registers: s1 = 2^32, s2 = 7, s3 = 8, s4 = 2^41. -/
def withRegions : State := onTile
  { rgtlen := 8,
    tasks := [(0, { sreg := [(1, 0x100000000), (2, 7), (3, 8), (4, 0x20000000000)] })] }
/-- A request for region 7. -/
def aReq (op : RegionOp) (read : Bool) : RegionReq :=
  { n := 0, op := op, region := 7, ts := 0, tile := 0, task := 0, table := 0,
    len := 8, mgmt := false, read := read, after := 0, cmds := 0, gid := none }

theorem witness_RegionWords : 2 ^ 32 ≤ (srcS withRegions 1).toNat ∧
    (tileOf withRegions (curTile withRegions)).rgtlen.toNat ≤ (srcS withRegions 3).toNat ∧
    (srcS withRegions 2).toNat < (tileOf withRegions (curTile withRegions)).rgtlen.toNat ∧
    regionRefuses withRegions (curCtx withRegions) .seal (descAddr (tileOf withRegions 0).rgtbase 7) = false ∧
    regionRefuses (onCtx { regs := [aReq .seal false] } {}) 0 .seal (descAddr 0 7) = true ∧
    (srcS withRegions 4).toNat / 2 ^ 41 ≠ 0 ∧ (srcS withRegions 2).toNat / 2 ^ 41 = 0 ∧
    (tileOf withRegions (curTile withRegions)).hints.length < 8 ∧ withRegions.ts ≤ (srcS withRegions 0).toNat ∧
    Ready (.seal ⟨2, false⟩) withRegions ∧ Ready (.pfh ⟨2, false, 0, false⟩) withRegions := by
  refine ⟨by decide, by decide, by decide, by decide, by decide, by decide, by decide, by decide, by decide, ⟨rfl, rfl, rfl, rfl⟩,
    ⟨rfl, rfl, rfl, rfl⟩⟩


/-! ### The core's events, the cube, the engines: for each clause a state and operands that meet its hypotheses -/

/-- Task slot 1 of tile 0 has a store that is due, slot 0 one that is not. -/
def dueStore (k : StoreKind) : State := { onTile { stores := [⟨0, 1, k, 0, 0⟩, ⟨9, 0, .floor [(3, 4)], 1, 0⟩] } with hc := 3 }

theorem witness_ResultsAndStores :
    ((∀ p ∈ (tileOf (dueStore (.floor [])) 0).stores, p.task = 0 → (dueStore (.floor [])).hc < p.due) ∧
      (taskOf (dueStore (.floor [])) 0 0).st ≠ .stopped) ∧
    (∀ k ∈ [StoreKind.floor (addrBytes 8 [1, 2]), .well (addrBytes 8 [1, 2]), .lanes [(8, 1)]],
      (tileOf (dueStore k) 0).stores.filter (fun q => q.task == 1 && decide (q.due ≤ (dueStore k).hc)) = [⟨0, 1, k, 0, 0⟩] ∧
      (tileOf (dueStore k) 0).raceHc ≠ (dueStore k).hc ∧ (tileOf (dueStore k) 0).floor.wf = true ∧
      (tileOf (dueStore k) 0).wells.wf = true) ∧
    (∃ (x : Task) (w : PendWrite), x.pend = [w] ∧ w.due ≤ 5 ∧ w.dest.reg = some (.s 3)) ∧
    (∃ (x : Task) (v w : PendWrite), x.pend = [v, w] ∧ v.dest = .s 3 ∧ w.dest = .s 3 ∧ w.due ≤ 5 ∧ v.due = w.due ∧
      v.order < w.order) ∧
    ((taskOf (onTask { st := .issuing }) 0 0).st.occupied = true ∧ (taskOf (onTask { st := .issuing }) 0 0).st ≠ .stopped) :=
  ⟨by decide +kernel, by decide +kernel, ⟨{ pend := [⟨5, .s 3, 7, 1, .S0⟩] }, _, rfl, by decide, rfl⟩,
   ⟨{ pend := [⟨5, .s 3, 7, 0, .S0⟩, ⟨5, .s 3, 6, 1, .S1⟩] }, _, _, rfl, rfl, rfl, by decide, rfl, by decide⟩, rfl, by decide⟩

/-- A sync bundle at which every queue of the issuing task stands. -/
def syncBundleAt (rw : Bool) : SeqBundle := { n := 0, addr := 16, slots := [], sy := true, enters := rw, rw := rw }
def atSync (rw : Bool) : State := onTile
  { issuing := some 0,
    tasks := [(0, { st := .issuing, stream := [syncBundleAt rw], nextSeq := 1 })] }
/-- A task in level 5 as the loop stands, with the sequencer held. -/
def loopTask (y : Loop) (h : FlowHold) (preq : Bool) : Task :=
  { st := .issuing, preq := preq, loops := [(5, y)], flow := { hold := h } }

/-! A package whose context 0 maps the first GiB: the page is sealed, its address in HBM is the virtual address; a tile
descriptor of a row of 64 nibbles stands at 0x10000, one of blocks of scales at 0x10040,
a scaled row at 0x10080, a kernel image at 0x40000 with one segment of one bundle at 0x40200. -/

def tables : Memory := mwriteAll [] (addrBytes 4096 (leBytes 8 8193) ++ addrBytes 8192 (leBytes 8 0x17) ++
  addrBytes 0x10000 (leBytes 8 0x4000000060) ++ addrBytes 0x10008 (leBytes 8 0x20000) ++ addrBytes 0x10010 (leBytes 8 0x100) ++
  addrBytes 0x10018 (leBytes 8 0xFFFFFFFF3F800000) ++
  addrBytes 0x10040 (leBytes 8 2) ++ addrBytes 0x10048 (leBytes 8 0x400) ++ addrBytes 0x10050 (leBytes 8 0x200) ++
  addrBytes 0x10080 (leBytes 8 0x4000000060) ++ addrBytes 0x10088 (leBytes 8 0x20000) ++ addrBytes 0x10090 (leBytes 8 0x100) ++
  addrBytes 0x10098 (leBytes 8 0x13F800000) ++ [(0x40004, 1), (0x40009, 1), (0x4000A, 4), (0x40101, 2), (0x40102, 4),
  (0x4020C, 16)])
def mappedPkg (x : Tile) : State :=
  { onCtx { st := .running, ptroot := 4096 } { x with tdtbase := 0x10000, tdtlen := 3 } with hbm := tables }
def codePkg : State := mappedPkg { issuing := some 0, tasks := [(0, { st := .issuing, kimg := 0x40000 })] }
/-- The code that slot 0 waits for is in no segment any longer. -/
def lostPkg : State := mappedPkg { issuing := some 0, tasks := [(0, { st := .issuing, kimg := 0x40000, needs := some 0x40220 })] }
/-- A retired group of which a region request has not ended. -/
def leavingPkg : State := { onCtx { st := .running, regs := [{ aReq .seal false with gid := some 0 }] }
  { tasks := [(0, { st := .retired, gid := some 0 })] } with groups := [{ oneGroup [] with st := .retiring }] }

theorem witness_CoreEvents :
    (∃ (s : State) (t : _) (k : _), ((tileOf s t).issuing = none) ∧ (k < 4) ∧ ((taskOf s t k).st = .ready) ∧ ((∀ j < 4,
        (taskOf s t j).st = .ready → (taskOf s t k).readyAt < (taskOf s t j).readyAt ∨ (taskOf s t k).readyAt = (taskOf s t
        j).readyAt ∧ k ≤ j))) ∧
    (∃ (s : State) (t : _) (k : _) (b : _) (x : _), (x = taskOf s t k) ∧ (x.st = .issuing) ∧ ((∀ p : Pos, tget 0 x.qpos p.idx
        = b.n)) ∧ (bundleAt x b.n = some b) ∧ (b.isSync = true) ∧ (b.fault = none) ∧ (x.syncOpen ≠ some b.n) ∧ (x.preq =
        false) ∧ (x.pend = []) ∧ ((∀ p ∈ (tileOf s t).stores, p.task ≠ k)) ∧ ((b.enters && b.rw) = false)) ∧
    (∃ (s : State) (t : _) (k : _) (b : _) (x : _), (x = taskOf s t k) ∧ (x.st = .issuing) ∧ ((∀ p : Pos, tget 0 x.qpos p.idx
        = b.n)) ∧ (bundleAt x b.n = some b) ∧ (b.isSync = true) ∧ (b.fault = none) ∧ (x.syncOpen ≠ some b.n) ∧ (x.preq =
        false) ∧ (x.pend = []) ∧ ((∀ p ∈ (tileOf s t).stores, p.task ≠ k)) ∧ ((b.enters && b.rw) = true) ∧ (x.outst = [])) ∧
    (∃ (s : State) (t : _) (k : _) (l : _) (x : _) (y : _), (t < 64) ∧ (x = taskOf s t k) ∧ (x.flow.hold = .iterEnd) ∧ (l <
        6) ∧ (y = loopIn x.loops l) ∧ (y.act = true) ∧ ((∀ j < 6, l < j → (loopIn x.loops j).act = false)) ∧ (x.preq = false)
        ∧ ((y.idx + 1).toNat < min y.cnt.toNat y.lim.toNat + y.dm1)) ∧
    (∃ (s : State) (t : _) (k : _) (l : _) (x : _) (y : _), (t < 64) ∧ (x = taskOf s t k) ∧ (x.flow.hold = .iterEnd) ∧ (l <
        6) ∧ (y = loopIn x.loops l) ∧ (y.act = true) ∧ ((∀ j < 6, l < j → (loopIn x.loops j).act = false)) ∧ (x.preq = false)
        ∧ (min y.cnt.toNat y.lim.toNat + y.dm1 ≤ (y.idx + 1).toNat) ∧ (y.cnt.toNat ≤ y.lim.toNat) ∧ ((∀ j < l, (loopIn
        x.loops j).act = false))) ∧
    (∃ (s : State) (t : _) (k : _) (l : _) (x : _) (y : _), (t < 64) ∧ (x = taskOf s t k) ∧ (x.flow.hold = .iterEnd) ∧ (l <
        6) ∧ (y = loopIn x.loops l) ∧ (y.act = true) ∧ ((∀ j < 6, l < j → (loopIn x.loops j).act = false)) ∧ (x.preq = true)
        ∧ (y.drn = false) ∧ (y.dm1 = 0) ∧ ((y.idx + 1).toNat < y.cnt.toNat)) ∧
    (∃ (s : State) (t : _) (k : _) (l : _) (x : _) (y : _), (x = taskOf s t k) ∧ (x.flow.hold = .drain) ∧ (x.st = .issuing) ∧
        (x.preq = true) ∧ (drained x = true) ∧ (l < 6) ∧ (y = loopIn x.loops l) ∧ (y.act = true) ∧ ((∀ j < 6, l < j → (loopIn
        x.loops j).act = false))) ∧
    (∃ (s : State) (t : _) (k : _) (x : _), (x = taskOf s t k) ∧ (x.st = .issuing) ∧ ((tileOf s t).issuing = some k) ∧
        (x.halting = true) ∧ (x.outst = [])) ∧
    (∃ (s : State) (t : _) (k : _) (x : _) (g : _), (x = taskOf s t k) ∧ (x.st = .retired) ∧ (retiringAt s t k = some g) ∧
        (groupBusy s g = true)) ∧
    (∃ (s : State) (t : _) (h : _) (e : _) (r : _) (c : _) (x : _), (t ≤ 64) ∧ (c = nameCore t 0) ∧ (x = halfOf s c h) ∧ (x.v
        = true) ∧ (x.cut = false) ∧ (x.todo = e :: r)) ∧
    (∃ (s : State) (t : _) (k : _) (va : _) (h : _), (t < 64) ∧ (look s (.tile t k) va = .miss) ∧ (findSegment s (.tile t k)
        (taskOf s t k).kimg.toNat va.toNat = some h)) ∧
    (∃ (s : State) (t : _) (k : _) (va : _), (t < 64) ∧ (look s (.tile t k) va = .miss) ∧ (findSegment s (.tile t k) (taskOf
        s t k).kimg.toNat va.toNat = none) ∧ ((taskOf s t k).needs ≠ some va)) ∧
    (∃ (s : State) (t : _) (k : _) (va : _), (t < 64) ∧ (look s (.tile t k) va = .miss) ∧ (findSegment s (.tile t k) (taskOf
        s t k).kimg.toNat va.toNat = none) ∧ ((taskOf s t k).needs = some va)) ∧
    (∃ (s : State) (t : _) (k : _) (c : _), (s.cur.core = .tile t k) ∧ ((tileOf s t).ctx = some c) ∧ ((ctxOf s c).st =
        .running)) :=
  ⟨⟨onTask { st := .ready }, 0, 0, by decide +kernel⟩,
   ⟨atSync false, 0, 0, syncBundleAt false, _, rfl, rfl, fun p => by cases p <;> rfl, by decide +kernel⟩,
   ⟨atSync true, 0, 0, syncBundleAt true, _, rfl, rfl, fun p => by cases p <;> rfl, by decide +kernel⟩,
   ⟨onTask (loopTask { act := true, cnt := 2 } .iterEnd false), 0, 0, 5, _, _, by decide, rfl, rfl, by decide, rfl,
       by decide +kernel⟩,
   ⟨onTask (loopTask { act := true, cnt := 2, idx := 1 } .iterEnd false), 0, 0, 5, _, _, by decide, rfl, rfl, by decide, rfl,
       by decide +kernel⟩,
   ⟨onTask (loopTask { act := true, cnt := 2 } .iterEnd true), 0, 0, 5, _, _, by decide, rfl, rfl, by decide, rfl,
       by decide +kernel⟩,
   ⟨onTask (loopTask { act := true, cnt := 2 } .drain true), 0, 0, 5, _, _, rfl, rfl, rfl, rfl, by decide +kernel, by decide,
       rfl, by decide +kernel⟩,
   ⟨onTile { issuing := some 3, tasks := [(3, { st := .issuing, halting := true })] }, 0, 3, _, rfl, by decide +kernel⟩,
   ⟨leavingPkg, 0, 0, _, _, rfl, by decide +kernel, rfl, by decide +kernel⟩,
   ⟨onTile { halves := [(0, { oneBody with v := true, todo := [⟨0x130, 16, [], false, [], none⟩] })] }, 0, 0, _, _, _, _, by
       decide, rfl, rfl, rfl, rfl, rfl⟩,
   ⟨codePkg, 0, 0, 0x40210, 0x40200, by decide +kernel⟩,
   ⟨codePkg, 0, 0, 0x40220, by decide +kernel⟩,
   ⟨lostPkg, 0, 0, 0x40220, by decide +kernel⟩,
   ⟨onCtx { st := .running } {}, 0, 0, 0, by decide +kernel⟩⟩



/-- A tile with one operation of task slot 0. -/
def withOp (o : CubeOp) : State := onTile { cubeOps := [o] }
/-- It still has to fill slot 9 with chunk 0 of operand A. -/
def fillingOp : CubeOp := { cubeOp .resolving with chunks := [⟨0, 0, 5, 9, true⟩] }
/-- Slot 7 holds the one chunk of its destination. -/
def drainingPkg (o : CubeOp) : State := onTile { cubeOps := [o], tags := [(7, ⟨.valid, operandTag 3 0, 4⟩)] }

theorem witness_CubeEvents :
    (∃ (s : State) (t : _) (n : _) (o : _), (opOf s t n = some o) ∧ (o.st = .resolving) ∧ ((∀ u ∈ o.chunks, u.tag = 0)) ∧
        (chunksHeld s t o = false) ∧ (stagesBefore s t o = false) ∧ ((tileOf s t).stageFree ≤ s.hc) ∧ ((tileOf s t).fluert =
        0)) ∧
    (∃ (s : State) (t : _) (n : _) (c : _) (o : _) (u : _) (bs : _) (s1 : _), (opOf s t n = some o) ∧ (o.st = .resolving) ∧
        (o.chunks[c]? = some u) ∧ (u.own = true) ∧ (u.tag ≠ 0) ∧ ((∀ i v, o.chunks[i]? = some v → i ≠ c → v.tag = 0)) ∧
        (fillBefore (tileOf s t) n c = false) ∧ (fillHeld (tileOf s t) u.slot u.tag = false) ∧ (storesAt (tileOf s t) o
        u.slot = false) ∧ ((tileOf s t).raceHc ≠ s.hc) ∧ (ensureUnit s t o.task (tileCtx s t) (chunkFirst (o.desc u.operand)
        u.chunk) false = (true, s1)) ∧ (chunkBytes s1 (tileCtx s1 t) (o.desc u.operand) u.chunk = .ok bs) ∧ (holders (tileOf
        s t).tags u.slot u.tag = []) ∧ (isShared (tileOf s t) (u.slot * 16384) = false)) ∧
    (∃ (s : State) (t : _) (n : _) (o : _), (opOf s t n = some o) ∧ (o.st = .staging) ∧ (o.holdLeft = 0) ∧ (o.stepsLeft ≤
        s.hc) ∧ ((∀ l ∈ o.layers, pathLost s t 0 (dieOf s l) = false))) ∧
    (∃ (s : State) (t : _) (n : _) (o : _), (opOf s t n = some o) ∧ (o.st = .staged) ∧ (mayRun (tileOf s t) o = true) ∧
        (wellsHeld (tileOf s t) o = false)) ∧
    (∃ (s : State) (t : _) (n : _) (o : _), (opOf s t n = some o) ∧ (o.st = .running) ∧ (o.stepsLeft ≠ 0) ∧ (runHeld s t o =
        false)) ∧
    (∃ (s : State) (t : _) (n : _) (o : _), (opOf s t n = some o) ∧ (o.st = .running) ∧ (o.stepsLeft ≠ 0) ∧ (runHeld s t o =
        true) ∧ ((∀ p ∈ (tileOf s t).cubeOps, p.heldHc ≠ s.hc + 1))) ∧
    (∃ (s : State) (t : _) (n : _) (o : _), (opOf s t n = some o) ∧ (o.st = .running) ∧ (o.stepsLeft = 0) ∧ (o.snap.plane =
        true)) ∧
    (∃ (s : State) (t : _) (n : _) (o : _), (opOf s t n = some o) ∧ (o.st = .running) ∧ (o.stepsLeft = 0) ∧ (o.snap.plane =
        false)) ∧
    (∃ (s : State) (t : _) (n : _) (o : _), (opOf s t n = some o) ∧ (o.st = .rising) ∧ ((tileOf s t).fluert = 0) ∧
        (o.stepsLeft = 0)) ∧
    (∃ (s : State) (t : _) (n : _) (o : _), (opOf s t n = some o) ∧ (o.st = .rising) ∧ ((tileOf s t).fluert = 0) ∧
        (o.stepsLeft ≠ 0) ∧ (o.holdLeft = 0)) ∧
    (∃ (s : State) (t : _) (r : FlueReplay) (o : _), (opOf s t r.op = some o) ∧ ((o.st = .staging ∨ o.st = .running ∨ o.st =
        .rising ∨ o.st = .draining))) ∧
    (∃ (s : State) (t : _) (n : _) (o : _), (opOf s t n = some o) ∧ (o.st = .awaiting) ∧ (drainTurn (tileOf s t) o = true) ∧
        (o.poison = false) ∧ ((tileOf s t).fluert = 0) ∧ ((∀ c ∈ o.dstChunks o.dDst.d0, ∃ v e, findTag (tileOf s t) (chunkTag
        o 3 c) = some (v, e) ∧ e.st ≠ .filling))) ∧
    (∃ (s : State) (t : _) (n : _) (o : _), (opOf s t n = some o) ∧ (o.st = .draining) ∧ (o.holdLeft = 0) ∧ ((o.out = [] ∨
        copyLandsAt s t = false)) ∧ (1 < o.stepsLeft)) ∧
    (∃ (s : State) (t : _) (n : _) (o : _), (opOf s t n = some o) ∧ (o.st = .draining) ∧ (o.holdLeft = 0) ∧ ((o.out = [] ∨
        copyLandsAt s t = false)) ∧ (o.stepsLeft ≤ 1) ∧ (drainHeld (tileOf s t) o = false) ∧ ((tileOf s t).fluert = 0) ∧
        ((tileOf s t).raceHc ≠ s.hc) ∧ (o.mismatch (tileOf s t).chktol = none) ∧ (claimedDst (tileOf s t) o = [])) ∧
    (∃ (s : State) (t : _) (n : _) (o : _), (opOf s t n = some o) ∧ (o.st = .complete) ∧ ((∀ sl ∈ claimedDst (tileOf s t) o,
        tagWait (tileOf s t) sl.2 (chunkTag o 3 sl.1) = none))) :=
  ⟨⟨withOp { cubeOp .resolving with chunks := [⟨0, 0, 0, 9, false⟩] }, 0, 0, _, rfl, by decide +kernel⟩,
   ⟨{ withOp fillingOp with hc := 5 }, 0, 0, 0, fillingOp, _, _, _, rfl, rfl, rfl, rfl, by decide, fun i v h hi => (by cases
       i with | zero => exact absurd rfl hi | succ j => cases h), by decide +kernel, by decide +kernel, by decide +kernel,
       by decide +kernel, rfl, rfl, by decide +kernel, by decide +kernel⟩,
   ⟨{ withOp { cubeOp .staging with stepsLeft := 9 } with hc := 9 }, 0, 0, _, rfl, by decide +kernel⟩,
   ⟨withOp (cubeOp .staged), 0, 0, _, rfl, by decide +kernel⟩,
   ⟨withOp { cubeOp .running with stepsLeft := 1 }, 0, 0, _, rfl, by decide +kernel⟩,
   ⟨withOp { cubeOp .running with stepsLeft := 1, holdLeft := 1 }, 0, 0, _, rfl, by decide +kernel⟩,
   ⟨withOp { cubeOp .running with snap := takeSnap (atCube 1) 0 }, 0, 0, _, rfl, by decide +kernel⟩,
   ⟨withOp (cubeOp .running), 0, 0, _, rfl, by decide +kernel⟩,
   ⟨withOp (cubeOp .rising), 0, 0, _, rfl, by decide +kernel⟩,
   ⟨withOp { cubeOp .rising with stepsLeft := 1 }, 0, 0, _, rfl, by decide +kernel⟩,
   ⟨withOp (cubeOp .rising), 0, ⟨0, 1, 2, true⟩, _, rfl, by decide +kernel⟩,
   ⟨drainingPkg (cubeOp .awaiting), 0, 0, cubeOp .awaiting, rfl, rfl, by decide +kernel, rfl, rfl, fun c hc => (by rw
       [List.mem_singleton.1 (show c ∈ [0] from hc)] <;> exact ⟨7, _, rfl, by decide⟩)⟩,
   ⟨drainingPkg { cubeOp .draining with stepsLeft := 2 }, 0, 0, _, rfl, by decide +kernel⟩,
   ⟨{ drainingPkg { cubeOp .draining with stepsLeft := 1, dstSlots := [(0, 7)], out := [(0x1C000, 5)] } with hc := 3 }, 0, 0,
       _, rfl, by decide +kernel⟩,
   ⟨withOp (cubeOp .complete), 0, 0, _, rfl, by decide +kernel⟩⟩



/-- The first GiB of context 0 in a micro-TLB. -/
def warm : TlbEntry := ⟨0, 0, 0x40000000, false⟩
def rowDesc : TileDesc := { format := 6, d0 := 1, d1 := 64, base := 0x20000, stride := 0x100 }
def aNib (done : Bool) : NibReq :=
  { id := 0, task := 0, lat := [(0x140, 0), (0x141, 0x30000), (0x142, 0x4000000000)], fmt := 0x911, vd := 3, ts := 0,
    resolved := done, entry := 0, addr := 0, poison := false, issued := 0, after := 0, flips := [],
    w := rowDesc, x := if done then some (List.replicate 256 0) else none }
/-- The page of `mappedPkg`, not sealed. -/
def openPage (x : Tile) : State := { mappedPkg x with
  hbm := mwriteAll [] (addrBytes 4096 (leBytes 8 8193) ++ addrBytes 8192 (leBytes 8 7)) }
/-- A copy command of task slot 0, number 1, on engine 0; its space fields and its multicast mask; `b` bytes on their way. -/
def aCmd (st : CopySt) (op : Nat) : CopyCmd := { takeCmd State.reset 0 op 1 0 none with n := 1, st := st }
def moving (ctl mask : Word) (op : Nat) (b : List (Nat × Byte)) : CopyCmd :=
  { aCmd .fetching op with lat := [(0, ctl), (6, mask)], bytes := b }
def withCmd (c : CopyCmd) : Tile :=
  { cpy := [(0, { cmds := [c] })], utlb := [warm] }
/-- Tile 0 with a command; tile 1 is fenced. -/
def nextFenced (c : CopyCmd) : State := { onTile (withCmd c) with tiles := [(0, withCmd c), (1, { health := { st := .fenced } })] }
def aHint : Hint := { id := 2, ctx := 0, handle := 0, victim := 511, deadline := 9 }

theorem witness_EngineEvents :
    (∃ (s : State) (t : _) (n : _) (r : _) (d : _) (sc : _) (s1 : _) (x : _), (nibOf s t n = some r) ∧ (r.resolved = false) ∧
        ((taskOf s t r.task).st ≠ .stopped) ∧ (earlierGlobal s t r.task r.after = false) ∧ ((tget ({} : BootEntry) s.bootRec
        9).st ≠ 4) ∧ (ensureUnit s t r.task (tileCtx s t) (nibX r.lat) false = (true, s1)) ∧ (nibDescs s1 t r = .ok (d, sc))
        ∧ (nibXRead s1 t r = .ok x)) ∧
    (∃ (s : State) (t : _) (r : _) (d : _) (sc : _) (x : _), (nibDescs s t r = .ok (d, sc)) ∧ (sc = some x)) ∧
    (∃ (s : State) (t : _) (r : _) (d : _) (sc : _), (nibDescs s t r = .ok (d, sc))) ∧
    (∃ (s : State) (t : _) (n : _) (r : _) (v : _), (nibOf s t n = some r) ∧ (r.resolved = true) ∧ ((taskOf s t r.task).st ≠
        .stopped) ∧ (nibBefore (tileOf s t) n = false) ∧ (nibVector s t r = .ok v)) ∧
    (∃ (s : State) (t : _) (e : _) (c : _), ((tget ({} : CopyEng) (tileOf s t).cpy e).hint = none) ∧ (nextCmd (tget ({} :
        CopyEng) (tileOf s t).cpy e) = some c) ∧ (cmdOf s t e c.n = some c) ∧ ((taskOf s t c.task).st ≠ .stopped) ∧
        (earlierGlobal s t c.task c.after = false) ∧ (earlierStores s t c.task c.acceptedAt = false) ∧ (claimHeld s t c =
        false) ∧ (sourceClosed s t c = false) ∧ ((c.dsp = 1 → reachable s t c ≠ [])) ∧ (startFault s t c = none)) ∧
    (∃ (s : State) (t : _) (e : _) (n : _) (c : _), (n ≠ 0) ∧ (cmdOf s t e n = some c) ∧ (c.op = 0) ∧ (c.sent = false) ∧
        (c.st ≠ .queued) ∧ (atHead s t e c = true) ∧ (engineWaits s t e n = false) ∧ (c.bytes = []) ∧ (c.fetched < c.total) ∧
        ((c.dsp = 1 → reachable s t c ≠ [])) ∧ ((c.ssp = 1 → sourceClosed s t c = false ∧ floorHeld (tileOf s (c.srcTile t))
        (ownEngine t e (c.srcTile t)) (c.srcAt c.fetched) (pieceLen c c.fetched false) = false)) ∧ ((c.ssp = 2 → wmBlocked
        (tileOf s t) [e] true (c.srcAt c.fetched) (pieceLen c c.fetched false) = false)) ∧ ((c.ssp ≠ 1 → c.ssp ≠ 2 → ∃ l,
        locate s t c.task (BitVec.ofNat 64 (c.srcAt c.fetched)) false = .here l))) ∧
    (∃ (s : State) (t : _) (e : _) (n : _) (c : _) (d : _), (n ≠ 0) ∧ (cmdOf s t e n = some c) ∧ (c.op = 0) ∧ (c.sent =
        false) ∧ (c.st ≠ .queued) ∧ (atHead s t e c = true) ∧ (engineWaits s t e n = false) ∧ (c.bytes ≠ []) ∧ (c.poison =
        false) ∧ (c.dsp = 1) ∧ (c.dstTiles t = [d]) ∧ (routeOpen s t d = true) ∧ (progAt c d = c.landed) ∧ (landHeld s t e c
        d = false) ∧ ((tileOf s d).raceHc ≠ s.hc) ∧ ((∀ b ∈ c.bytes, isShared (tileOf s d) b.1 = false))) ∧
    (∃ (s : State) (t : _) (e : _) (n : _) (c : _), (n ≠ 0) ∧ (cmdOf s t e n = some c) ∧ (c.op = 0) ∧ (c.sent = false) ∧
        (c.st ≠ .queued) ∧ (atHead s t e c = true) ∧ (engineWaits s t e n = false) ∧ (c.bytes ≠ []) ∧ (c.poison = false) ∧
        (c.dsp = 2) ∧ ((∀ b ∈ c.bytes, wmBlocked (tileOf s t) [e] true b.1 1 = false))) ∧
    (∃ (s : State) (t : _) (e : _) (n : _) (c : _) (a : _) (b : _) (r : _) (l : _), (n ≠ 0) ∧ (cmdOf s t e n = some c) ∧
        (c.op = 0) ∧ (c.sent = false) ∧ (c.st ≠ .queued) ∧ (atHead s t e c = true) ∧ (engineWaits s t e n = false) ∧ (c.bytes
        ≠ []) ∧ (c.poison = false) ∧ (c.dsp = 0) ∧ (c.bytes = (a, b) :: r) ∧ (locate s t c.task (BitVec.ofNat 64 a) true =
        .here l) ∧ ((l.pp = false ∨ l.nw = true)) ∧ (channelHeld s t e c l = false)) ∧
    (∃ (s : State) (t : _) (e : _) (c : _) (d : _), ((tget ({} : CopyEng) (tileOf s t).cpy e).cmds.head? = some c) ∧ (cmdOf s
        t e c.n = some c) ∧ (1 ≤ c.op) ∧ (c.op < 7) ∧ (c.st ≠ .queued) ∧ ((taskOf s t c.task).st ≠ .stopped) ∧ (c.landed <
        c.total) ∧ (engineWaits s t e c.n = false) ∧ (c.bytes.length = c.esize) ∧ (c.dsp = 1) ∧ (c.dstTiles t = [d]) ∧
        (routeOpen s t d = true) ∧ (progAt c d = c.landed) ∧ (landHeld s t e c d = false) ∧ ((tileOf s d).raceHc ≠ s.hc) ∧
        ((∀ p ∈ (tileOf s d).stores, p.due ≤ s.hc → p.kind.floorUnits = []))) ∧
    (∃ (s : State) (t : _) (e : _) (c : _), ((tget ({} : CopyEng) (tileOf s t).cpy e).cmds.head? = some c) ∧ (c.op < 7) ∧
        (c.total ≤ c.landed) ∧ ((taskOf s t c.task).st ≠ .stopped) ∧ (c.noticed = false) ∧ ((∀ v ∈ c.claimed, tagWait (tileOf
        s v.1) v.2 (finalTag c) = none))) ∧
    (∃ (s : State) (t : _) (e : _) (n : _) (k : _) (f : _) (entry : _) (a : _) (rest : _), ((tget ({} : CopyEng) (tileOf s
        t).cpy e).follow = (n, k, f, entry, a) :: rest) ∧ ((taskOf s t k).st ≠ .stopped) ∧ (cubeRefuses (tileOf s t) f =
        false)) ∧
    (∃ (s : State) (t : _) (e : _) (c : _), ((tget ({} : CopyEng) (tileOf s t).cpy e).cmds.head? = some c) ∧ (cmdOf s t e c.n
        = some c) ∧ (c.st ≠ .queued) ∧ (c.op < 7) ∧ (((c.named t).any fun d => !routeOpen s t d) = true) ∧ (c.dsp = 1) ∧
        (reachable s t c ≠ []) ∧ (sourceClosed s t c = false)) ∧
    (∃ (s : State) (t : _) (e : _) (c : _), ((tget ({} : CopyEng) (tileOf s t).cpy e).cmds.head? = some c) ∧ (cmdOf s t e c.n
        = some c) ∧ (c.st ≠ .queued) ∧ (c.op < 7) ∧ (((c.named t).any fun d => !routeOpen s t d) = true) ∧ ((c.dsp = 1 →
        reachable s t c = [] ∨ sourceClosed s t c = true))) ∧
    (∃ (s : State) (t : _) (e : _) (h : _) (r : _) (d : _) (c : _) (cs : _) (v : _), (idleEngine (tileOf s t) = some e) ∧
        ((tileOf s t).hints = h :: r) ∧ (s.ts ≤ h.deadline.toNat) ∧ (readDesc s t h.handle = some d) ∧ (d.kind = 0) ∧
        (d.layout = 0) ∧ (allChunks d = c :: cs) ∧ (findTag (tileOf s t) (operandTag h.handle c) = none) ∧ (findVictim
        (tileOf s t) h.victim = some v) ∧ (tagWait (tileOf s t) v (operandTag h.handle c) = none)) ∧
    (∃ (s : State) (t : _) (n : _), ((∃ h ∈ (tileOf s t).hints, h.id = n ∧ h.deadline.toNat < s.ts))) :=
  ⟨⟨mappedPkg { nib := [aNib false], utlb := [warm] }, 0, 0, aNib false, rowDesc, none, _, _, rfl, rfl, by decide,
      by decide +kernel, by decide, rfl, rfl, rfl⟩,
   ⟨mappedPkg { nib := [aNib false] }, 0,
       { aNib false with lat := [(0x140, 2), (0x141, 0x30000), (0x142, 0x4000000000)], fmt := 0x1911 }, _, _, _, rfl, rfl⟩,
   ⟨mappedPkg { nib := [aNib false] }, 0, aNib false, rowDesc, none, rfl⟩,
   ⟨mappedPkg { nib := [aNib true] }, 0, 0, aNib true, _, rfl, rfl, by decide, by decide +kernel, rfl⟩,
   ⟨mappedPkg (withCmd (aCmd .queued 0)), 0, 0, aCmd .queued 0, by decide +kernel⟩,
   ⟨mappedPkg (withCmd (aCmd .fetching 0)), 0, 0, 1, aCmd .fetching 0, by decide, rfl, rfl, rfl, by decide,
       by decide +kernel, by decide +kernel, rfl, by decide +kernel, by decide +kernel, by decide +kernel, by decide +kernel,
       fun _ _ => ⟨_, rfl⟩⟩,
   ⟨{ onTile (withCmd (moving 0x3FFF4 0 0 [(5, 9)])) with hc := 3 }, 0, 0, 1, moving 0x3FFF4 0 0 [(5, 9)], 0,
       by decide +kernel⟩,
   ⟨onTile (withCmd (moving 0x3FFF8 0 0 [(5, 9)])), 0, 0, 1, moving 0x3FFF8 0 0 [(5, 9)], by decide +kernel⟩,
   ⟨openPage (withCmd (moving 0x3FFF0 0 0 [(5, 9)])), 0, 0, 1, moving 0x3FFF0 0 0 [(5, 9)], 5, 9, [], _, by decide, rfl, rfl,
       rfl, by decide, by decide +kernel, by decide +kernel, by decide, rfl, rfl, rfl, rfl, by decide +kernel⟩,
   ⟨{ onTile (withCmd (moving 0x3FFF4 0 1 [(4, 9), (5, 0), (6, 0), (7, 0)])) with hc := 3 }, 0, 0, moving 0x3FFF4 0 1 [(4,
       9), (5, 0), (6, 0), (7, 0)], 0, by decide +kernel⟩,
   ⟨onTile (withCmd { aCmd .landing 0 with landed := 1 }), 0, 0, { aCmd .landing 0 with landed := 1 }, by decide +kernel⟩,
   ⟨onTile { cpy := [(0, { follow := [(1, 0, takeSnap (atCube 0) 0, 0, 0)] })] }, 0, 0, 1, 0, takeSnap (atCube 0) 0, 0, 0,
       [], by decide +kernel⟩,
   ⟨nextFenced (moving 0x407F4 3 0 []), 0, 0, moving 0x407F4 3 0 [], by decide +kernel⟩,
   ⟨nextFenced (moving 0xFF4 0 0 []), 0, 0, moving 0xFF4 0 0 [], by decide +kernel⟩,
   ⟨mappedPkg { hints := [aHint] }, 0, 0, aHint, [], rowDesc, 0, [], 511, by decide +kernel⟩,
   ⟨{ onTile { hints := [aHint] } with ts := 10 }, 0, 2, aHint, by decide +kernel⟩⟩



/-! ### Atomics, global memory, regions -/

def aComp : Component := { tile := 0, eng := 1, id := 5, inc := 1, via := [] }
def anAtomic (p : Port) : AtomReq :=
  { op := .fadd, wide := true, port := p, addr := 64, ctx := 0, opa := 1, opb := 0, comps := [aComp], retry := false,
    uncomb := false, firstTs := 0, va := 0x40, att := none }
/-- Tile 9 holds the record of the request. -/
def recorded : State := { State.reset with tiles := [(9, { atomRecs := [⟨0, 1, 5, 77, 0⟩] })] }
def anEntry (o : Bool) (n : Nat) : CombEntry :=
  { id := 2, req := { anAtomic (.floor 9) with comps := List.replicate n aComp }, opened := 0, deadline := 0, isOpen := o }
/-- A returning atomic of engine 1 that is on its way to tile 0's floor. -/
def sentAtomic (tries : Nat) : State :=
  onTile { cpy := [(1, { cmds := [{ moving 0x3FFF4 0 7 [] with id := 5, sent := true, tries := tries }] })] }

theorem witness_AtomicEvents :
    (∃ (s : State) (q : _) (c : _) (d : _), (q.comps = [c]) ∧ (c.tile < 64) ∧ (c.via = []) ∧ (recordOf s q.port c = none) ∧
        ((q.retry = true → s.ts ≤ q.firstTs + recordWindow s)) ∧ (portHeld s q = false) ∧ (q.port = .floor d) ∧ (routeOpen s
        c.tile d = true) ∧ ((d < 64 → routeOpen s d c.tile = true)) ∧ ((tileOf s d).raceHc ≠ s.hc) ∧ ((∀ p ∈ (tileOf s
        d).stores, p.due ≤ s.hc → p.kind.floorUnits = [])) ∧ ((tileOf s d).atomRecs.length < 256)) ∧
    (∃ (s : State) (q : _) (c : _) (g : _) (l : _), (q.comps = [c]) ∧ (c.tile < 64) ∧ (c.via = []) ∧ (recordOf s q.port c =
        none) ∧ ((q.retry = true → s.ts ≤ q.firstTs + recordWindow s)) ∧ (portHeld s q = false) ∧ (q.port = .hbm g) ∧ ((∀ a,
        q.att = some a → routeOpen s c.tile a = true)) ∧ (translateAt s q.ctx q.va true q.firstTs = .here l) ∧ (l.seal =
        false) ∧ ((l.pp = false ∨ l.nw = true)) ∧ ((tget [] s.hbmRecs (homeChannel (l.writePa q.va))).length < 2048)) ∧
    (∃ (s : State) (q : _) (c : _) (x : _), (q.comps = [c]) ∧ (c.tile < 64) ∧ (c.via = []) ∧ (recordOf s q.port c = some x) ∧
        ((∀ d, meshEnd q = some d → routeOpen s c.tile d = true)) ∧ ((∀ d, portTile q.port = some d → d < 64 → routeOpen s d
        c.tile = true))) ∧
    (∃ (s : State) (r : _) (q : _) (n : _), (laterHere s r q = false) ∧ (combWin s r = 0) ∧ (nextRouter r q = some n) ∧ ((n <
        64 → closedTile s n = false))) ∧
    (∃ (s : State) (r : _) (q : _), (laterHere s r q = false) ∧ (combWin s r = 0) ∧ (nextRouter r q = none)) ∧
    (∃ (s : State) (r : _) (q : _), (laterHere s r q = false) ∧ (combWin s r ≠ 0) ∧ ((combTable s r).find? (fun e =>
        e.sameKey q) = none) ∧ ((combTable s r).length < combRoom r) ∧ (q.comps.length < 8)) ∧
    (∃ (s : State) (r : _) (q : _) (e : _), (laterHere s r q = false) ∧ (combWin s r ≠ 0) ∧ ((combTable s r).find? (fun e =>
        e.sameKey q) = some e) ∧ (e.req.comps.length + q.comps.length < 8)) ∧
    (∃ (s : State) (r : _) (id : _) (e : _), ((combTable s r).find? (fun e => e.id == id && e.isOpen && decide (e.deadline ≤
        s.hc)) = some e) ∧ ((∀ p ∈ s.events, s.hc < p.due)) ∧ ((∀ n, nextRouter r e.req = some n → n < 64 → closedTile s n =
        false))) ∧
    (∃ (s : State) (r : _) (id : _) (c : Component), ((∃ e ∈ combTable s r, e.id = id ∧ e.isOpen = false)) ∧ (c.tile < 64) ∧
        (closedTile s c.tile = false) ∧ ((r < 64 → routeOpen s r c.tile = true)) ∧ (c.via.length ≤ 1)) ∧
    (∃ (s : State) (r : _) (id : _), ((∃ e ∈ combTable s r, e.id = id ∧ e.isOpen = false ∧ e.deadline ≤ s.hc))) ∧
    (∃ (s : State) (st : Nat) (x : Component) (c : _), (x.tile < 64) ∧ (atomOf s x.tile x.eng x.id = some c) ∧ (st < 0x20) ∧
        ((taskOf s x.tile c.task).st ≠ .stopped)) ∧
    (∃ (s : State) (t : _) (e : _) (id : _) (c : _) (d : _), (atomOf s t e id = some c) ∧ (cmdOf s t e c.n = some c) ∧
        (c.tries < wfld (srWord s 0x210) 16 4) ∧ (c.dsp = 1) ∧ (c.dstTiles t = [d]) ∧ (routeOpen s t d = true)) ∧
    (∃ (s : State) (t : _) (e : _) (id : _) (c : _), (atomOf s t e id = some c) ∧ (cmdOf s t e c.n = some c) ∧ (wfld (srWord
        s 0x210) 16 4 ≤ c.tries) ∧ ((taskOf s t c.task).st ≠ .stopped)) :=
  ⟨⟨{ State.reset with hc := 3 }, anAtomic (.floor 9), aComp, 9, by decide +kernel⟩,
   ⟨openPage {}, anAtomic (.hbm 0), aComp, 0, _, rfl, by decide, rfl, rfl, nofun, by decide +kernel, rfl, nofun, rfl, rfl,
       by decide +kernel⟩,
   ⟨recorded, anAtomic (.floor 9), aComp, _, rfl, by decide, rfl, rfl, fun d h => (by cases h <;> decide), fun d h _ => (by
       cases h <;> decide)⟩,
   ⟨onTile { combwin := 0 }, 0, anAtomic (.floor 9), _, by decide +kernel, by decide, rfl, by decide +kernel⟩,
   ⟨{ State.reset with tiles := [(9, { combwin := 0 })] }, 9, anAtomic (.floor 9), by decide +kernel⟩,
   ⟨State.reset, 0, anAtomic (.floor 9), by decide +kernel⟩,
   ⟨onTile { comb := [anEntry true 6] }, 0, anAtomic (.floor 9), anEntry true 6, by decide +kernel⟩,
   ⟨onTile { comb := [anEntry true 1] }, 0, 2, anEntry true 1, by decide +kernel, by decide, fun n h _ => (by cases h <;>
       decide)⟩,
   ⟨onTile { comb := [anEntry false 1] }, 0, 2, aComp, ⟨_, List.mem_singleton.2 rfl, rfl, rfl⟩, by decide +kernel⟩,
   ⟨onTile { comb := [anEntry false 1] }, 0, 2, anEntry false 1, by decide +kernel⟩,
   ⟨sentAtomic 0, 0x1F, aComp, _, by decide, rfl, by decide +kernel⟩,
   ⟨sentAtomic 0, 0, 1, 5, _, 0, rfl, by decide +kernel⟩,
   ⟨sentAtomic 15, 0, 1, 5, _, rfl, by decide +kernel⟩⟩


/-- An access of task slot 0. -/
def anAcc (load sent remote : Bool) : GAcc :=
  { n := 0, load := load, remote := remote, va := 8, val := 7, sd := 5, issuedTs := 0, sent := sent, entry := 0 }
def accTile (a : GAcc) : Tile := { utlb := [⟨0, 0, 1073741824, a.remote⟩], tasks := [(0, { st := .issuing, gacc := [a] })] }
/-- A probe of tile 0 at a unit. -/
def probing (u : Nat) : State := onTile { tasks := [(0, { st := .issuing, probes := [⟨4, 3, 5, u, 62⟩] })] }
def aWalk (remote : Bool) (tries : Nat) : Walk :=
  { n := 1, tile := 0, task := 0, ctx := 0, va := 0x30000, write := true, remote := remote, pkg := 1, tries := tries, far := true }
/-- Leaf 0 of the first GiB lies in package 1 of the connected group; package 2 is on the way to it. -/
def remotePkg (x : Tile) : State := { onCtx { st := .running, ptroot := 4096 } x with
  hbm := mwriteAll [] (addrBytes 4096 (leBytes 8 8193) ++ addrBytes 8192 (leBytes 8 0x10027)),
  sr := [(0x214, 0x30000), (0x24B, 0x20)] }
def aGrant : RemoteXlat := { ctx := 0, va := 0, bytes := 65536, pkg := 1, rctx := 0, w := true, sealed := false, gen := 0, dropped := false }
def sharedPkg : State := onTile { sshare := 1, ssmap := [(0, { v := true, ty := 2 })] }
def zeroingFrame : Frame := { st := .zeroing, bytes := 1073741824, ctx := 0, leaf := 8192, va := 0 }

theorem witness_GlobalEvents :
    (∃ (s : State) (t : _) (k : _) (a : _) (l : _), (t < 64) ∧ (firstUnsent (taskOf s t k) = some a) ∧ (a.load = false) ∧
        (behindNib s t k a = false) ∧ ((inUtlb s t (tileCtx s t) a.va = true ∨ inHtlb s (tileCtx s t) a.va = true)) ∧
        (a.remote = false) ∧ (askedRemote s (tileCtx s t) a.va = false) ∧ (translateAt s (tileCtx s t) a.va true a.issuedTs =
        .here l) ∧ (l.seal = false) ∧ ((l.pp = false ∨ l.nw = true))) ∧
    (∃ (s : State) (t : _) (k : _) (a : _) (l : _) (r : _), (t < 64) ∧ (firstUnsent (taskOf s t k) = some a) ∧ (a.load =
        false) ∧ (behindNib s t k a = false) ∧ ((inUtlb s t (tileCtx s t) a.va = true ∨ inHtlb s (tileCtx s t) a.va = true))
        ∧ (a.remote = true) ∧ (translate s (rootOf s (tileCtx s t)) a.va true = .remote l) ∧ (remoteXlat s (tileCtx s t) a.va
        = some r) ∧ (r.sealed = false) ∧ (r.w = true) ∧ ((routeOf s l.pkg).isSome = true) ∧ (queueRoom s l.pkg 1 8 = true)) ∧
    (∃ (s : State) (t : _) (k : _) (n : _) (a : _) (l : _), (t < 64) ∧ ((taskOf s t k).gacc.find? (fun a => a.n == n &&
        a.load) = some a) ∧ (a.sent = false) ∧ (firstUnsent (taskOf s t k) = some a) ∧ ((taskOf s t k).st ≠ .stopped) ∧
        (a.remote = false) ∧ (askedRemote s (tileCtx s t) a.va = false) ∧ ((inUtlb s t (tileCtx s t) a.va = true ∨ inHtlb s
        (tileCtx s t) a.va = true)) ∧ (translate s (rootOf s (tileCtx s t)) a.va false = .here l)) ∧
    (∃ (s : State) (t : _) (k : _) (n : _) (a : _), (t < 64) ∧ ((taskOf s t k).gacc.find? (fun a => a.n == n && a.load) =
        some a) ∧ (a.sent = true) ∧ (a.remote = false) ∧ ((taskOf s t k).st ≠ .stopped)) ∧
    (∃ (s : State) (t : _) (addr : _) (n : Nat) (v : Word) (w : Word) (e : _), (isShared (tileOf s t) addr = true) ∧ (ssEntry
        (tileOf s t) addr = some e) ∧ (((n = 8 ∧ granBytes (tileOf s t) addr = 8 ∧ w = v) ∨ (n = 4 ∧ w = (v.setWidth 32 :
        Word32).setWidth 64)))) ∧
    (∃ (s : State) (n : _) (w : _) (l : _), (s.walks.find? (fun w => w.n == n && !w.remote) = some w) ∧ (w.tile < 64) ∧
        (translate s (rootOf s w.ctx) w.va w.write = .here l)) ∧
    (∃ (s : State) (n : _) (w : _) (l : _), (s.walks.find? (fun w => w.n == n && !w.remote) = some w) ∧ (w.tile < 64) ∧
        (translate s (rootOf s w.ctx) w.va w.write = .remote l) ∧ (w.far = true) ∧ (remoteXlat s w.ctx w.va = none) ∧
        ((routeOf s l.pkg).isSome = true) ∧ (queueRoom s l.pkg 8 1 = true)) ∧
    (∃ (s : State) (n : _) (w : _) (l : _), (s.walks.find? (fun w => w.n == n && w.remote) = some w) ∧ (w.tries ≤ wfld
        (srWord s 0x210) 16 4) ∧ (translate s (rootOf s w.ctx) w.va w.write = .remote l) ∧ (queueRoom s l.pkg 8 1 = true)) ∧
    (∃ (s : State) (t : _) (k : _) (n : _) (p : _), ((taskOf s t k).probes.find? (fun p => p.n == n) = some p) ∧ ((taskOf s t
        k).st ≠ .stopped) ∧ (p.hops < 128) ∧ (14 ≤ p.cur / 64) ∧ (p.sd ≠ 0)) ∧
    (∃ (s : State) (t : _) (k : _) (n : _) (p : _), ((taskOf s t k).probes.find? (fun p => p.n == n) = some p) ∧ ((taskOf s t
        k).st ≠ .stopped) ∧ (p.hops < 128) ∧ (p.cur / 64 < 14) ∧ ((tileOf s (p.cur % 64)).ctx = (tileOf s t).ctx) ∧
        (leavesPackage s p.cur = false) ∧ (published s p.cur / 64 ≠ 14) ∧ (published s p.cur / 64 ≠ 15) ∧ (published s p.cur
        ≠ p.start) ∧ (p.hops + 1 ≠ 64)) ∧
    (∃ (s : State) (c : _) (va : _) (f : _), ((ctxFrames s c .zeroing).filter (fun f => leafSlot s va f.2.bytes 4 0 (rootOf s
        c).toNat == some f.2.leaf) = [f])) ∧
    (∃ (s : State) (n : _), ((frameOf s n).st = .invalidating) ∧ ((frameOf s n).holders = 0) ∧ (frameAwaited s n = false)) :=
  ⟨⟨openPage (accTile (anAcc false false false)), 0, 0, _, _, by decide, rfl, rfl, by decide +kernel, by decide +kernel, rfl,
      by decide +kernel, rfl, by decide +kernel⟩,
   ⟨{ remotePkg (accTile (anAcc false false true)) with remotes := [aGrant] }, 0, 0, _, _, _, by decide, rfl, rfl,
       by decide +kernel, by decide +kernel, rfl, rfl, rfl, by decide +kernel⟩,
   ⟨openPage (accTile (anAcc true false false)), 0, 0, 0, _, _, by decide, rfl, rfl, rfl, by decide, rfl, by decide +kernel,
       by decide +kernel, rfl⟩,
   ⟨openPage (accTile (anAcc true true false)), 0, 0, 0, _, by decide, rfl, by decide +kernel⟩,
   ⟨sharedPkg, 0, 0x7FC000, 8, 5, 5, _, by decide +kernel, rfl, by decide +kernel⟩,
   ⟨{ mappedPkg {} with walks := [{ aWalk false 0 with write := false }] }, 1, _, _, rfl, by decide, rfl⟩,
   ⟨{ remotePkg {} with walks := [aWalk false 0] }, 1, _, _, rfl, by decide, rfl, by decide +kernel⟩,
   ⟨{ remotePkg {} with walks := [aWalk true 0] }, 1, _, _, rfl, by decide +kernel, rfl, by decide +kernel⟩,
   ⟨probing 896, 0, 0, 4, _, rfl, by decide +kernel⟩,
   ⟨onTile { xp := busyXp, tasks := [(0, { st := .issuing, probes := [⟨4, 3, 5, 704, 62⟩] })] }, 0, 0, 4, _, rfl,
       by decide +kernel⟩,
   ⟨{ mappedPkg {} with frames := [(0, zeroingFrame)] }, 0, 0, (0, zeroingFrame), by decide +kernel⟩,
   ⟨{ State.reset with frames := [(7, { st := .invalidating })] }, 7, by decide +kernel⟩⟩


/-! The region table of context 0 stands at 0x10000: region 0 is [0x40000000, 0x40010000), of a kind, its leaf a page of the second
GiB; the table's own page is sealed or not. -/

def regionPkg (kind page : Nat) (r : RegionReq) : State := { onCtx { st := .running, ptroot := 4096, regs := [r] } {} with
  hbm := mwriteAll [] (addrBytes 4096 (leBytes 8 8193) ++ addrBytes 8192 (leBytes 8 page) ++ addrBytes 0x10000 (leBytes 8 kind) ++
    addrBytes 0x10008 (leBytes 8 0x40000000) ++ addrBytes 0x10010 (leBytes 8 0x10000)) }
def regionReq (op : RegionOp) (read : Bool) : RegionReq := { aReq op read with region := 0, table := 0x10000 }
def plainDesc (kind : Nat) : RegionDesc := ⟨BitVec.ofNat 64 kind, 0x40000000, 0x10000, 0, [0, 0, 0], 0x10000⟩

theorem witness_RegionEvents :
    (∃ (s : State) (c : _) (n : _) (r : _) (l : _) (d : _), (reqOf s c n = some r) ∧ (r.read = false) ∧ (translate s (rootOf
        s c) (reqAddr r) false = .here l) ∧ (readRegion s (rootOf s c) (reqAddr r) = some d) ∧ (d.ok = true) ∧ (d.kind =
        r.op.needs) ∧ ((r.op.needs = 0 ∨ ∀ l ∈ regionLeaves s c d, l.pp = true))) ∧
    (∃ (s : State) (c : _) (n : _) (r : _) (l : _) (d : _), (reqOf s c n = some r) ∧ (r.read = false) ∧ (translate s (rootOf
        s c) (reqAddr r) false = .here l) ∧ (readRegion s (rootOf s c) (reqAddr r) = some d) ∧ (d.ok = false ∨ d.kind ≠
        r.op.needs) ∧ ((ctxOf s c).st = .running)) ∧
    (∃ (s : State) (c : _) (n : _) (r : _) (d : _) (l1 : _) (l2 : _) (word : _) (h1 : _) (h2 : _) (epoch : _) (sealed : _)
        (tx : _) (bits : Leaf → Word), (reqOf s c n = some r) ∧ (r.read = true) ∧ (readRegion s (rootOf s c) (reqAddr r) =
        some d) ∧ (writesOpen s c r d = false) ∧ ((r.op = .seal → word = Instr.sealTakesEffect c n ∧ (∀ l, bits l = setBit
        l.bits 4 true) ∧ epoch = d.epoch ∧ sealed = true ∧ tx = s.ts)) ∧ ((r.op = .unseal → word = Instr.unsealTakesEffect c
        n ∧ (∀ t ∈ ctxTiles s c, expandsFrom d (ctxRegions s c) (tileOf s t) = false) ∧ (∀ l, bits l = if otherSealed
        (ctxRegions s c) d.addr l.base l.bytes then l.bits else setBit l.bits 4 false) ∧ epoch = d.epoch ∧ sealed = false ∧
        tx = s.ts)) ∧ ((r.op = .pub → word = Instr.pubExchange c n ∧ (∀ l, bits l = if l.nw then setBit (setBit (setBit
        l.bits 7 (!l.cur)) 8 false) 9 false else if d.carry then l.bits else setBit l.bits 9 true) ∧ epoch = d.epoch + 1 ∧
        sealed = d.sealed ∧ tx = s.ts)) ∧ ((r.op = .wswap → word = Instr.wswapExchange c n ∧ (∀ l, bits l = setBit (setBit
        l.bits 7 (!l.cur)) 8 false) ∧ epoch = d.epoch + 1 ∧ sealed = d.sealed ∧ r.ts.toNat ≤ s.ts ∧ tx = if tsBefore s <
        r.ts.toNat then r.ts.toNat else s.ts)) ∧ (h1 = (regionLeaves s c d).foldl (fun h l => if bits l = l.bits then h else
        mwriteAll h (addrBytes l.pte (leBytes 8 (bits l).toNat))) s.hbm) ∧ (translate { s with hbm := h1 } (rootOf s c)
        (d.addr + 0x20) false = .here l1) ∧ (l1.pp = false) ∧ (h2 = mwriteAll h1 (addrBytes (l1.writePa (d.addr + 0x20))
        (leBytes 8 (epoch % 2 ^ 32 + 2 ^ 32 * sealed.toNat)))) ∧ (translate { s with hbm := h2 } (rootOf s c) (d.addr + 0x28)
        false = .here l2) ∧ (l2.pp = false)) ∧
    (∃ (s : State) (c : _) (n : _) (r : _) (d : _) (l1 : _) (l2 : _) (word : _) (h1 : _) (h2 : _) (epoch : _) (sealed : _)
        (tx : _) (bits : Leaf → Word), (reqOf s c n = some r) ∧ (r.read = true) ∧ (readRegion s (rootOf s c) (reqAddr r) =
        some d) ∧ (writesOpen s c r d = false) ∧ ((r.op = .seal → word = Instr.sealTakesEffect c n ∧ (∀ l, bits l = setBit
        l.bits 4 true) ∧ epoch = d.epoch ∧ sealed = true ∧ tx = s.ts)) ∧ ((r.op = .unseal → word = Instr.unsealTakesEffect c
        n ∧ (∀ t ∈ ctxTiles s c, expandsFrom d (ctxRegions s c) (tileOf s t) = false) ∧ (∀ l, bits l = if otherSealed
        (ctxRegions s c) d.addr l.base l.bytes then l.bits else setBit l.bits 4 false) ∧ epoch = d.epoch ∧ sealed = false ∧
        tx = s.ts)) ∧ ((r.op = .pub → word = Instr.pubExchange c n ∧ (∀ l, bits l = if l.nw then setBit (setBit (setBit
        l.bits 7 (!l.cur)) 8 false) 9 false else if d.carry then l.bits else setBit l.bits 9 true) ∧ epoch = d.epoch + 1 ∧
        sealed = d.sealed ∧ tx = s.ts)) ∧ ((r.op = .wswap → word = Instr.wswapExchange c n ∧ (∀ l, bits l = setBit (setBit
        l.bits 7 (!l.cur)) 8 false) ∧ epoch = d.epoch + 1 ∧ sealed = d.sealed ∧ r.ts.toNat ≤ s.ts ∧ tx = if tsBefore s <
        r.ts.toNat then r.ts.toNat else s.ts)) ∧ (h1 = (regionLeaves s c d).foldl (fun h l => if bits l = l.bits then h else
        mwriteAll h (addrBytes l.pte (leBytes 8 (bits l).toNat))) s.hbm) ∧ (translate { s with hbm := h1 } (rootOf s c)
        (d.addr + 0x20) false = .here l1) ∧ (l1.pp = false) ∧ (h2 = mwriteAll h1 (addrBytes (l1.writePa (d.addr + 0x20))
        (leBytes 8 (epoch % 2 ^ 32 + 2 ^ 32 * sealed.toNat)))) ∧ (translate { s with hbm := h2 } (rootOf s c) (d.addr + 0x28)
        false = .here l2) ∧ (l2.pp = false)) ∧
    (∃ (s : State) (c : _) (n : _) (r : _) (d : _) (l1 : _) (l2 : _) (word : _) (h1 : _) (h2 : _) (epoch : _) (sealed : _)
        (tx : _) (bits : Leaf → Word), (reqOf s c n = some r) ∧ (r.read = true) ∧ (readRegion s (rootOf s c) (reqAddr r) =
        some d) ∧ (writesOpen s c r d = false) ∧ ((r.op = .seal → word = Instr.sealTakesEffect c n ∧ (∀ l, bits l = setBit
        l.bits 4 true) ∧ epoch = d.epoch ∧ sealed = true ∧ tx = s.ts)) ∧ ((r.op = .unseal → word = Instr.unsealTakesEffect c
        n ∧ (∀ t ∈ ctxTiles s c, expandsFrom d (ctxRegions s c) (tileOf s t) = false) ∧ (∀ l, bits l = if otherSealed
        (ctxRegions s c) d.addr l.base l.bytes then l.bits else setBit l.bits 4 false) ∧ epoch = d.epoch ∧ sealed = false ∧
        tx = s.ts)) ∧ ((r.op = .pub → word = Instr.pubExchange c n ∧ (∀ l, bits l = if l.nw then setBit (setBit (setBit
        l.bits 7 (!l.cur)) 8 false) 9 false else if d.carry then l.bits else setBit l.bits 9 true) ∧ epoch = d.epoch + 1 ∧
        sealed = d.sealed ∧ tx = s.ts)) ∧ ((r.op = .wswap → word = Instr.wswapExchange c n ∧ (∀ l, bits l = setBit (setBit
        l.bits 7 (!l.cur)) 8 false) ∧ epoch = d.epoch + 1 ∧ sealed = d.sealed ∧ r.ts.toNat ≤ s.ts ∧ tx = if tsBefore s <
        r.ts.toNat then r.ts.toNat else s.ts)) ∧ (h1 = (regionLeaves s c d).foldl (fun h l => if bits l = l.bits then h else
        mwriteAll h (addrBytes l.pte (leBytes 8 (bits l).toNat))) s.hbm) ∧ (translate { s with hbm := h1 } (rootOf s c)
        (d.addr + 0x20) false = .here l1) ∧ (l1.pp = false) ∧ (h2 = mwriteAll h1 (addrBytes (l1.writePa (d.addr + 0x20))
        (leBytes 8 (epoch % 2 ^ 32 + 2 ^ 32 * sealed.toNat)))) ∧ (translate { s with hbm := h2 } (rootOf s c) (d.addr + 0x28)
        false = .here l2) ∧ (l2.pp = false)) ∧
    (∃ (s : State) (c : _) (n : _) (r : _) (d : _) (l1 : _) (l2 : _) (word : _) (h1 : _) (h2 : _) (epoch : _) (sealed : _)
        (tx : _) (bits : Leaf → Word), (reqOf s c n = some r) ∧ (r.read = true) ∧ (readRegion s (rootOf s c) (reqAddr r) =
        some d) ∧ (writesOpen s c r d = false) ∧ ((r.op = .seal → word = Instr.sealTakesEffect c n ∧ (∀ l, bits l = setBit
        l.bits 4 true) ∧ epoch = d.epoch ∧ sealed = true ∧ tx = s.ts)) ∧ ((r.op = .unseal → word = Instr.unsealTakesEffect c
        n ∧ (∀ t ∈ ctxTiles s c, expandsFrom d (ctxRegions s c) (tileOf s t) = false) ∧ (∀ l, bits l = if otherSealed
        (ctxRegions s c) d.addr l.base l.bytes then l.bits else setBit l.bits 4 false) ∧ epoch = d.epoch ∧ sealed = false ∧
        tx = s.ts)) ∧ ((r.op = .pub → word = Instr.pubExchange c n ∧ (∀ l, bits l = if l.nw then setBit (setBit (setBit
        l.bits 7 (!l.cur)) 8 false) 9 false else if d.carry then l.bits else setBit l.bits 9 true) ∧ epoch = d.epoch + 1 ∧
        sealed = d.sealed ∧ tx = s.ts)) ∧ ((r.op = .wswap → word = Instr.wswapExchange c n ∧ (∀ l, bits l = setBit (setBit
        l.bits 7 (!l.cur)) 8 false) ∧ epoch = d.epoch + 1 ∧ sealed = d.sealed ∧ r.ts.toNat ≤ s.ts ∧ tx = if tsBefore s <
        r.ts.toNat then r.ts.toNat else s.ts)) ∧ (h1 = (regionLeaves s c d).foldl (fun h l => if bits l = l.bits then h else
        mwriteAll h (addrBytes l.pte (leBytes 8 (bits l).toNat))) s.hbm) ∧ (translate { s with hbm := h1 } (rootOf s c)
        (d.addr + 0x20) false = .here l1) ∧ (l1.pp = false) ∧ (h2 = mwriteAll h1 (addrBytes (l1.writePa (d.addr + 0x20))
        (leBytes 8 (epoch % 2 ^ 32 + 2 ^ 32 * sealed.toNat)))) ∧ (translate { s with hbm := h2 } (rootOf s c) (d.addr + 0x28)
        false = .here l2) ∧ (l2.pp = false)) :=
  ⟨⟨regionPkg 0 0x17 (regionReq .seal false), 0, 0, regionReq .seal false, _, plainDesc 0, by decide +kernel, rfl, rfl,
      by decide +kernel⟩,
   ⟨regionPkg 9 0x17 (regionReq .seal false), 0, 0, regionReq .seal false, _, plainDesc 9, by decide +kernel, rfl, rfl,
       by decide +kernel⟩,
   ⟨regionPkg 0 7 (regionReq .seal true), 0, 0, regionReq .seal true, plainDesc 0, _, _, .sealTakesEffect 0 0, _, _, 0, true,
       0, fun l => setBit l.bits 4 true, by decide +kernel, rfl, by decide +kernel, by decide +kernel, fun _ => ⟨rfl, fun _
       => rfl, rfl, rfl, rfl⟩, nofun, nofun, nofun, rfl, rfl, rfl, rfl, rfl, rfl⟩,
   ⟨regionPkg 0 7 (regionReq .unseal true), 0, 0, regionReq .unseal true, plainDesc 0, _, _, .unsealTakesEffect 0 0, _, _, 0,
       false, 0, _, by decide +kernel, rfl, by decide +kernel, by decide +kernel, nofun, fun _ => ⟨rfl, by decide +kernel,
       fun _ => rfl, rfl, rfl, rfl⟩, nofun, nofun, rfl, rfl, rfl, rfl, rfl, rfl⟩,
   ⟨regionPkg 2 7 (regionReq .pub true), 0, 0, regionReq .pub true, plainDesc 2, _, _, .pubExchange 0 0, _, _, 1, false, 0,
       _, by decide +kernel, rfl, by decide +kernel, by decide +kernel, nofun, nofun, fun _ => ⟨rfl, fun _ => rfl, rfl, by
       decide, rfl⟩, nofun, rfl, rfl, rfl, rfl, rfl, rfl⟩,
   ⟨regionPkg 3 7 (regionReq .wswap true), 0, 0, regionReq .wswap true, plainDesc 3, _, _, .wswapExchange 0 0, _, _, 1,
       false, 0, _, by decide +kernel, rfl, by decide +kernel, by decide +kernel, nofun, nofun, nofun, fun _ => ⟨rfl, fun _
       => rfl, rfl, by decide, by decide, by decide⟩, rfl, rfl, rfl, rfl, rfl, rfl⟩⟩



/-! ### Groups, queues, contexts -/

def barGroup (b : BarrierId) (v : Barrier) (g : GroupSt) (x : Task) : State :=
  { onTask { x with gid := some 0 } with groups := [{ oneGroup [(b, v)] with st := g }] }
def formingGroup : Group := { oneGroup [] with gid := 64, st := .forming }
def formingPkg : State :=
  { onCtx { st := .running } {} with groups := [formingGroup], sr := [(0x226, 0x100)], ts := 1000000 }
def exchanging : State := { barGroup .step { st := .exchanging } .stepping {} with
  tiles := [(0, { ssGid := some 0, gran := [(0x7FC000, { next := 5, written := true })], tasks := [(0, { gid := some 0 })] })] }

theorem witness_GroupEvents :
    (∃ (s : State) (g : _) (x : _), (groupOf s g = some x) ∧ ((x.bar .step).st = .draining) ∧ (groupDrained s x = true) ∧
        (groupSaved s x = false)) ∧
    (∃ (s : State) (g : _) (x : _), (groupOf s g = some x) ∧ ((x.bar .rdv).st = .draining) ∧ (groupDrained s x = true) ∧
        (groupSaved s x = false)) ∧
    (∃ (s : State) (g : _) (x : _) (b : _), (groupOf s g = some x) ∧ ((x.bar b).st = .draining) ∧ (groupDrained s x = false)) ∧
    (∃ (s : State) (g : _) (x : _) (r : _) (t : _) (a : _) (v : _), (groupOf s g = some x) ∧ ((x.bar .step).st = .exchanging)
        ∧ ((x.bar .step).fencedIn = []) ∧ (groupSaved s x = false) ∧ (x.liveRanks = [r]) ∧ (t = x.tile r) ∧ ((tileOf s
        t).ssGid = some g) ∧ ((∀ e ∈ (tileOf s t).ssmap, e.2.carry = true)) ∧ ((tileOf s t).gran = [(a, v)]) ∧ (v.written =
        true) ∧ (v.col = false)) ∧
    (∃ (s : State) (g : _) (x : _) (b : _) (r : _), (groupOf s g = some x) ∧ ((x.bar b).st = .releasing) ∧ ((x.bar b).arrived
        = [r]) ∧ (groupSaved s x = false) ∧ ((taskOf s (x.tile r) (x.slot r)).wait = .barrier b) ∧ ((taskOf s (x.tile r)
        (x.slot r)).st = .parked) ∧ ((taskOf s (x.tile r) (x.slot r)).also = []) ∧ (x.allRetired = false)) ∧
    (∃ (s : State) (g : _) (x : _) (o : _) (gid : _), (groupOf s g = some x) ∧ (64 ≤ g) ∧ (x.st = .forming) ∧ (shapeFits s x
        = true) ∧ (((ctxOf s x.ctx).st = .runnable ∨ (ctxOf s x.ctx).st = .running)) ∧ (chooseRect s
        { x with ssNeeded := groupShared s x } = some o) ∧ (freeGid s = some gid) ∧ ((readHeader s x.ctx x.kimg).nrg = 0)) ∧
    (∃ (s : State) (g : _) (x : _), (groupOf s g = some x) ∧ (x.st = .forming) ∧ (wfld (srWord s 0x226) 8 16 ≠ 0) ∧
        (x.acceptedNs + wfld (srWord s 0x226) 8 16 * 1000000 ≤ s.ts)) ∧
    (∃ (s : State) (g : _) (x : _), (groupOf s g = some x) ∧ (x.st = .retiring) ∧ (groupStands s x = true) ∧ (groupBusy s x =
        true)) ∧
    (∃ (s : State) (g : _) (x : _), (groupOf s g = some x) ∧ (x.st = .retiring) ∧ (groupStands s x = true) ∧ (groupBusy s x =
        false) ∧ ((queueOf s x.queue).ended = []) ∧ (x.seq = (queueOf s x.queue).cseq + 1)) ∧
    (∃ (s : State) (c : _), ((ctxOf s c).st = .running)) :=
  ⟨⟨barGroup .step { st := .draining } .stepping {}, 0, _, rfl, by decide +kernel⟩,
   ⟨barGroup .rdv { st := .draining } .running {}, 0, _, rfl, by decide +kernel⟩,
   ⟨barGroup .rdv { st := .draining } .running { gacc := [anAcc false false false] }, 0, _, .rdv, rfl, by decide +kernel⟩,
   ⟨exchanging, 0, _, 0, 0, _, _, rfl, rfl, rfl, by decide +kernel, by decide +kernel, by decide +kernel, rfl, by decide,
       rfl, by decide +kernel⟩,
   ⟨barGroup .barGrp { st := .releasing, arrived := [0] } .running { st := .parked, wait := .barrier .barGrp }, 0, _,
       .barGrp, 0, rfl, by decide +kernel⟩,
   ⟨formingPkg, 64, formingGroup, (chooseRect formingPkg formingGroup).getD (9, 9), (freeGid formingPkg).getD 99,
       by decide +kernel⟩,
   ⟨formingPkg, 64, _, rfl, by decide +kernel⟩,
   ⟨barGroup .rdv {} .retiring { st := .retired, gacc := [anAcc false false false] }, 0, _, rfl, by decide +kernel⟩,
   ⟨barGroup .rdv {} .retiring { st := .retired }, 0, _, rfl, by decide +kernel⟩,
   ⟨onCtx { st := .running } {}, 0, by decide⟩⟩


/-- A queue of context 0 with a record, whose ring begins at 0x20000. -/
def aQueue : Queue := { en := true, owned := true, ring := 0x20000, tail := 1, hw := true }
def queuePkg (q : Queue) : State := { mappedPkg {} with queues := [(4095, q)] }
/-- Page 0 of context 0 is not sealed: a doorbell's record can be stored. -/
def openQueue : State := { openPage {} with queues := [(4095, { aQueue with tail := 0 })] }
def slotPkg (r : SlotRun) : State := { State.reset with slotRun := r, sr := [(0x221, 1)], ts := 5000 }

theorem witness_QueueEvents :
    (∃ (s : State) (q : _), (q < 4096) ∧ (((queueOf s q).en = false ∨ 2 ^ (queueOf s q).lring ≤ ((queueOf s q).tail -
        (queueOf s q).head).toNat))) ∧
    (∃ (s : State) (q : _) (w : List (Nat × Byte)) (x : Queue) (z : State) (l : _), (q < 4096) ∧ (x = queueOf s q) ∧ (x.en =
        true) ∧ ((x.tail - x.head).toNat < 2 ^ x.lring) ∧ (z = updQueue s q (fun y => { y with window := fillWindow y w })) ∧
        (translate z (rootOf z x.ctx) (recordAddr x x.tail) true = .here l) ∧ (l.seal = false) ∧ (l.pp = false)) ∧
    (∃ (s : State) (q : _) (x : Queue), (s.queues = [(q, x)]) ∧ (x.timed = false)) ∧
    (∃ (s : State) (q : _) (bs : _), (bestQueue s = some q) ∧ (headRecord s (queueOf s q) = some bs) ∧ (recordWhy s q
        (queueOf s q) bs ≠ 0)) ∧
    (∃ (s : State) (q : _) (n : _), (queueCode s (queueOf s q) = 3) ∧ (bestQueue s = some n) ∧ ((∀ p ∈ s.events, isAdmission
        p.ev = false))) ∧
    (∃ (s : State) (i : _) (t : _), (s.slotRun.nextAt = some (i, t)) ∧ (ttOn s = true) ∧ (s.ts < t)) ∧
    (∃ (s : State) (i : _) (t : _) (e : _) (q : _), (s.slotRun.nextAt = some (i, t)) ∧ (ttOn s = true) ∧ (t ≤ s.ts) ∧ ((∀ g ∈
        s.groups, g.slotIndex = none ∨ g.overran = true)) ∧ (e = ((if i = 0 then ttEntries s else s.slotRun.live).drop
        i).headD 0) ∧ (q = wfld e 2 12)) ∧
    (∃ (s : State) (q : _) (i : _), (s.slotRun.running = true) ∧ (s.slotRun.idx = i) ∧ (s.slotRun.ends ≤ s.ts) ∧ (q = wfld
        ((s.slotRun.live.drop i).headD 0) 2 12)) :=
  ⟨⟨queuePkg {}, 4095, by decide +kernel⟩,
   ⟨openQueue, 4095, [(0, 1), (127, 5)], _, _, ⟨8192, 7, 0, 1073741824⟩, by decide +kernel, rfl, rfl, by decide +kernel, rfl,
       rfl, rfl, rfl⟩,
   ⟨queuePkg { aQueue with hw := false }, 4095, _, rfl, by decide⟩,
   ⟨queuePkg aQueue, 4095, (headRecord (queuePkg aQueue) aQueue).getD [], by decide +kernel⟩,
   ⟨queuePkg aQueue, 4095, 4095, by decide +kernel⟩,
   ⟨slotPkg { nextAt := some (3, 9000) }, 3, 9000, by decide +kernel⟩,
   ⟨slotPkg { nextAt := some (3, 5000) }, 3, 5000, _, _, rfl, by decide, by decide, by decide, rfl, rfl⟩,
   ⟨slotPkg { running := true, ends := 5000 }, _, 0, rfl, rfl, by decide, rfl⟩⟩


def ctxPkg (c : Context) (x : Tile) : State := onCtx c x
def savedCtx : Context := { st := .saved, restorePending := true, save := [⟨0, {}⟩] }

theorem witness_ContextEvents :
    (∃ (s : State) (c : _) (t : _), ((ctxOf s c).st = .halting) ∧ (t ∈ (ctxOf s c).haltTiles)) ∧
    (∃ (s : State) (c : _), ((ctxOf s c).st = .halting) ∧ ((ctxOf s c).haltTiles = []) ∧ ((∀ t ∈ ctxTiles s c, recordOpen s t
        = false)) ∧ ((ctxOf s c).destroyAfter = false)) ∧
    (∃ (s : State) (c : _), ((ctxOf s c).st = .halting) ∧ ((ctxOf s c).haltTiles = []) ∧ ((∃ t ∈ ctxTiles s c, recordOpen s t
        = true))) ∧
    (∃ (s : State) (c : _), ((ctxOf s c).st = .preempting) ∧ ((∀ t ∈ ctxTiles s c, saveHeld s t = false))) ∧
    (∃ (s : State) (c : _) (t : _) (x : _), ((ctxOf s c).st = .preempting) ∧ (ctxTiles s c = [t]) ∧ (x = tileOf s t)) ∧
    (∃ (s : State) (c : _) (v : _), ((ctxOf s c).st = .saved) ∧ ((ctxOf s c).restorePending = true) ∧ (tilesFree s c = true)
        ∧ (restoreYields s c = false) ∧ (((ctxOf s c).save.map (·.tile)).Nodup) ∧ (v ∈ (ctxOf s c).save) ∧ (tileLost s v.tile
        = false) ∧ ((∀ g ∈ s.groups, g.ctx = c → ∀ r ∈ g.liveRanks, tileLost s (g.tile r) = false))) ∧
    (∃ (s : State) (c : _) (t : _), ((ctxOf s c).st = .running) ∧ (t ∈ ctxTiles s c)) ∧
    (∃ (s : State) (t : _) (k : _), ((taskOf s t k).st.occupied = true) ∧ ((taskOf s t k).st ≠ .stopped)) ∧
    (∃ (s : State) (c : _), ((ctxOf s c).st = .destroyed) ∧ ((∀ f ∈ s.frames, f.2.ctx = c → f.2.st = .free))) :=
  ⟨⟨onCtx { st := .halting, haltTiles := [0] } {}, 0, 0, by decide +kernel⟩,
   ⟨onCtx { st := .halting, haltTiles := [] } {}, 0, by decide +kernel⟩,
   ⟨onCtx { st := .halting, haltTiles := [] } { stores := [⟨9, 0, .floor [], 0, 0⟩] }, 0, by decide +kernel,
       by decide +kernel, 0, by decide +kernel, by decide +kernel⟩,
   ⟨onCtx { st := .preempting } {}, 0, by decide +kernel⟩,
   ⟨onCtx { st := .preempting } {}, 0, 0, _, rfl, rfl, rfl⟩,
   ⟨onCtx savedCtx {}, 0, ⟨0, {}⟩, by decide +kernel⟩,
   ⟨onCtx { st := .running } { cubeOps := [cubeOp .abandoned] }, 0, 0, by decide +kernel⟩,
   ⟨onTask { st := .issuing, pend := [⟨0, .s 3, 7, 0, .S0⟩] }, 0, 0, by decide +kernel⟩,
   ⟨{ State.reset with contexts := [(0, { st := .destroyed })], frames := [(3, { st := .zeroing, ctx := 1 })] }, 0,
       by decide +kernel⟩⟩



/-! A record that passes every check: its kernel image at 0x40000 has one empty segment and one sealed plain region, and its tag is that of its bytes. -/

def okPlain : List Byte := leBytes 8 0x100000000 ++ leBytes 8 0x40000 ++ List.replicate 96 0
def okTag : BitVec 128 := Config.gcmTag 32 (BitVec.ofNat 96 (1 + 2 ^ 32 * 4095)) okPlain []
def okRecord : List Byte := okPlain ++ leBytes 16 okTag.toNat
def okPkg : State := { State.reset with
  contexts := [(0, { st := .runnable, ptroot := 4096, keys := (List.range 34).map (BitVec.ofNat 256) })], queues := [(4095, aQueue)],
  hbm := [(4096, 1), (4097, 0x20), (8192, 0x17), (0x20004, 1), (0x2000A, 4)] ++ addrBytes 0x20070 (leBytes 16 okTag.toNat) ++
    [(0x40000, 1), (0x40004, 1), (0x40009, 1), (0x4000A, 4), (0x4001C, 1), (0x40021, 2), (0x40022, 4), (0x40101, 2),
      (0x40102, 4), (0x4020A, 4), (0x40212, 1), (0x40224, 1)] }

theorem mbytes_split (m : Memory) (a n k : Nat) : mbytes m a (n + k) = mbytes m a n ++ mbytes m (a + n) k := by
  induction n generalizing a with
  | zero => simp [mbytes]
  | succ n ih => rw [Nat.add_right_comm, mbytes, ih, mbytes, List.cons_append, Nat.add_assoc a, Nat.add_comm 1]

theorem okRecord_read : mbytes okPkg.hbm 0x20000 128 = okRecord := by
  rw [show 128 = 112 + 16 from rfl, mbytes_split, okRecord]
  congr 1

theorem witness_accepted_record : bestQueue okPkg = some 4095 ∧ headRecord okPkg (queueOf okPkg 4095) = some okRecord ∧
    recordWhy okPkg 4095 (queueOf okPkg 4095) okRecord = 0 := by
  refine ⟨by decide +kernel, ?_, ?_⟩
  · have hr : rootOf okPkg 0 = 4096 := rfl
    have hl : translate okPkg 4096 0x20000 false = .here ⟨8192, 0x17, 0, 1073741824⟩ := by decide +kernel
    have hv : readVirt okPkg 4096 0x20000 128 = some okRecord := by
      rw [readVirt, hl, ← okRecord_read]; rfl
    exact hv
  have h : okRecord.drop 112 = leBytes 16 okTag.toNat := rfl
  have ht : tagMatches okPkg 4095 (queueOf okPkg 4095) okRecord = true := by
    have hk : (ctxOf okPkg (queueOf okPkg 4095).ctx).launchKey = some 32 := by decide +kernel
    have hr : recSeq okRecord = 1 := by rfl
    have hp : okRecord.take 112 = okPlain := by rfl
    rw [tagMatches, hk]
    simp only [hr, hp, h, leNat_leBytes, beq_iff_eq]
    change okTag = _
    apply BitVec.eq_of_toNat_eq
    have := okTag.isLt
    simp only [BitVec.toNat_ofNat]
    omega
  have h2 : recSeq okRecord = (queueOf okPkg 4095).nseq := by rfl
  have h3 : fieldsOk okRecord = true := by rfl
  have h4 : imageOk okPkg (queueOf okPkg 4095).ctx (recWord okRecord 1) = true := by decide +kernel
  have h5 : (recDeps okRecord).any (foreignDep okPkg (queueOf okPkg 4095)) = false := by rfl
  simp [recordWhy, ht, h2, h3, h4, h5]


/-! ### The link

Package 0 of a group of two, at 1 ms; what it keeps for package 1. -/

def paired (p : PeerState) : State := { State.reset with sr := [(0x214, 0x30000)], peers := [(1, p)], ts := 1000000 }
/-- The same with context 0, whose page 0 is exported. -/
def linkPkg (p : PeerState) (x : Tile) : State := { openPage x with
  hbm := mwriteAll [] (addrBytes 4096 (leBytes 8 8193) ++ addrBytes 8192 (leBytes 8 0x47))
  sr := [(0x214, 0x30000), (0x24B, 0x20)]
  peers := [(1, p)]
  ts := 1000000 }
def aMsg : Msg := { Msg.blank with src := 1, seq := 1 }
/-- An answer to the request with number 1. -/
def anAnswer : Msg := { aMsg with va := 1, payload := [1, 2, 3, 4, 5, 6, 7, 8] }
/-- A message with its tag. -/
def sealMsg (s : State) (k : Nat) (m : Msg) : Msg := { m with tag := msgTag s (msgPeer m) k m }
abbrev Fits (s : State) (k : Nat) (m : Msg) : Prop := ((sealMsg s k m).ok && decide ((sealMsg s k m).recs.length ≤ 32) &&
  decide ((sealMsg s k m).payload.length ≤ 4096) &&
  (if (sealMsg s k m).eth then
    (tget ({} : EthPeer) s.ethPeers (sealMsg s k m).via).v &&
      (tget ({} : EthPeer) s.ethPeers (sealMsg s k m).via).mac == (sealMsg s k m).mac && (sealMsg s k m).recs.isEmpty
   else isMember s (sealMsg s k m).src && (sealMsg s k m).src != selfIdx s && (sealMsg s k m).dst == selfIdx s)) = true

theorem seal_valid {s : State} {k : Nat} {m : Msg} (h : Fits s k m) : msgValid s k (sealMsg s k m) = true := by
  unfold msgValid
  exact Bool.and_eq_true_iff.2 ⟨h, beq_self_eq_true _⟩

theorem in_turn {s : State} {k : Nat} {m : Msg} (h : strayFrame s (sealMsg s k m) = false ∧ Fits s k m ∧
    m.seq = (peerOf s (msgPeer m)).rackIn + 1 ∧
    (peerOf s (msgPeer m)).stale = none ∧ (peerOf s (msgPeer m)).held = [] ∧ s.cwHeld = [] ∧
    atomicUnderWay s (msgPeer m) = false ∧
    causalOk s (msgPeer m) (addRecords (peerOf s (msgPeer m)).clockSeen m.recs) = true) : InTurn s k (sealMsg s k m) :=
  ⟨h.1, seal_valid h.2.1, h.2.2⟩

def pageLeaf : Leaf := ⟨8192, 0x47, 0, 1073741824⟩
def bare : State := linkPkg {} {}
/-- Package 0 with a request of one sender under way to package 1. -/
def awaiting (kind : Nat) (w : Sender) (x : Tile) : State := linkPkg { waiting := [⟨kind, aMsg, w, 0⟩] } x
def slotTile (load : Bool) : Tile := { tasks := [(0, { st := .issuing, gacc := [anAcc load true true] })] }
def farAtomic : CopyCmd := { aCmd .fetching 7 with answered := none }
def aHeld : HeldMsg := ⟨1, { aMsg with va := 8, payload := [9] }, [], 0, false⟩
def heldPkg : State := { bare with cwHeld := [aHeld] }
def aCircuit : Circuit := ⟨500, 10000, true, 1⟩
def circuitPkg (d : Bool) (i : Nat) : State :=
  { State.reset with circuitRun := { live := [aCircuit, aCircuit], nextAt := some (i, d, 500) }, ts := 500 }
def aSent (tries left : Nat) : Sent := { kind := 1, msg := { aMsg with via := 1 }, left := left, lastSent := 0, tries := tries, pass := false }
/-- One message for package 1, which port 0 reaches while the data window of the slot is open; a wavelength of fibre 0 is up. -/
def sending : State := { paired { sent := [aSent 0 1] } with
  sr := [(0x214, 0x30000), (0x246, 1)]
  circuit := [(0, aCircuit)]
  ports := [(0, { enabled := true, peer := some 1, fibres := [(0, { waves := [(0, { st := .up })] })] })]
  circuitRun := { live := [aCircuit], data := true, ends := 1009000 } }
def aLane : Lane := (bestLane (lanesTo sending 1 0)).getD ⟨9, 9, 0, 0⟩
def aLnk : LnkCmd :=
  { n := 0, task := 0, lat := [(0x180, 1), (0x183, 8)], offset := 0, taken := true, pendingSeqs := [],
    peer := 1, eth := false, failed := false, entry := 0, acceptedAt := 0, after := 0 }

theorem witness_LinkEvents :
    (∃ (s : State) (m : _) (l : _), (InTurn s 1 m) ∧ (accessStale s m = false) ∧ (targetOf s m true = .ok l) ∧ (l.pp = false)) ∧
    (∃ (s : State) (m : _) (r : _), (InTurn s 1 m) ∧ (accessStale s m = false) ∧ (targetOf s m true = .error r)) ∧
    (∃ (s : State) (m : _) (l : _), (InTurn s 2 m) ∧ (accessStale s m = false) ∧ (targetOf s m false = .ok l)) ∧
    (∃ (s : State) (m : _) (l : _), (InTurn s 4 m) ∧ (accessStale s m = false) ∧ (targetOf s m true = .ok l)) ∧
    (∃ (s : State) (m : _) (l : _), (InTurn s 8 m) ∧ (msgPeer m < 16) ∧ (isMember s (msgPeer m) = true) ∧ (translate s
        (rootOf s m.rctx) m.va (m.payload.head? == some 1) = .here l) ∧ (l.x = true) ∧ (exportRoom s l = true)) ∧
    (∃ (s : State) (m : _) (w : _) (t : _) (k : _) (n : _) (a : _), (InTurn s 3 m) ∧ (Awaited s m w) ∧ (w.kind = 2) ∧
        (m.status ≠ 2) ∧ (w.sender = .slot t k n) ∧ (t < 64) ∧ ((taskOf s t k).gacc.find? (fun a => a.n == n) = some a) ∧
        (a.load = true) ∧ ((taskOf s t k).st ≠ .stopped)) ∧
    (∃ (s : State) (m : _) (w : _) (t : _) (e : _) (n : _) (c : _), (InTurn s 5 m) ∧ (Awaited s m w) ∧ (w.kind = 4) ∧
        (m.status = 0) ∧ (w.sender = .engine t e n) ∧ (cmdOf s t e n = some c) ∧ (c.n = n) ∧ (c.atomic = true) ∧ (c.answered
        = none) ∧ (c.unanswered = false) ∧ ((taskOf s t c.task).st ≠ .stopped)) ∧
    (∃ (s : State) (m : _) (w : _) (t : _) (k : _) (n : _) (a : _), (InTurn s 6 m) ∧ (Awaited s m w) ∧ (w.kind = 1) ∧
        (m.status ≠ 2) ∧ (w.sender = .slot t k n) ∧ (t < 64) ∧ ((taskOf s t k).gacc.find? (fun a => a.n == n) = some a) ∧
        (a.load = false)) ∧
    (∃ (s : State) (m : _) (w : _) (t : _) (k : _) (n : _) (a : _) (c : _), (InTurn s 7 m) ∧ (Awaited s m w) ∧ (w.kind = 1) ∧
        (w.sender = .slot t k n) ∧ (t < 64) ∧ ((taskOf s t k).gacc.find? (fun a => a.n == n) = some a) ∧ (a.load = false) ∧
        ((tileOf s t).ctx = some c) ∧ ((ctxOf s c).st = .running)) ∧
    (∃ (s : State) (m : _) (w : _) (n : _) (x : _), (InTurn s 9 m) ∧ (Awaited s m w) ∧ (w.kind = 8) ∧ (m.status = 0) ∧
        (w.sender = .walk n) ∧ (s.walks.find? (fun x => x.n == n) = some x)) ∧
    (∃ (s : State) (m : _) (r : _), (InTurn s 10 m) ∧ (s.remotes = [r]) ∧ (r.pkg = msgPeer m) ∧ (r.rctx = m.rctx) ∧ (r.va ≤
        m.va.toNat) ∧ (m.va.toNat < r.va + r.bytes) ∧ (xlatInUse s r = false)) ∧
    (∃ (s : State) (m : _) (n : _) (f : _), (InTurn s 11 m) ∧ (msgPeer m < 16) ∧ (s.frames = [(n, f)]) ∧ (f.ctx = m.rctx) ∧
        (f.va = m.va.toNat) ∧ ((tget 0 f.granted (msgPeer m) - m.gen).msb = true) ∧ ((∀ x ∈ s.peers, x.2.replies = []))) ∧
    (∃ (s : State) (m : _) (r : _) (i : _), (InTurn s 12 m) ∧ (msgPeer m < 16) ∧ ((peerOf s (msgPeer m)).clockSeen = []) ∧
        (m.recs = [r]) ∧ (i = 16 * wfld (r.setWidth 64) 4 4 + wfld (r.setWidth 64) 0 4)) ∧
    (∃ (s : State) (m : _), (strayFrame s m = false) ∧ (msgValid s 13 m = true)) ∧
    (∃ (s : State) (n : _) (h : _) (l : _), (s.cwHeld.find? (fun h => heldName h.msg == n) = some h) ∧ (s.cwHeld.find? (fun x
        => msgPeer x.msg == msgPeer h.msg) = some h) ∧ (mustWait s (msgPeer h.msg) h.kind h.clock = false) ∧ (h.kind = 1) ∧
        (accessStale s h.msg = false) ∧ (targetOf s h.msg true = .ok l) ∧ (l.pp = false)) ∧
    (∃ (s : State) (n : _) (h : _), (h ∈ waitingMsgs s) ∧ (heldName h.msg = n) ∧ (h.reported = false) ∧ (h.at_ + 1000 * wfld
        (srWord s 0x215) 16 16 < s.ts)) ∧
    (∃ (s : State) (i : _) (t : _) (c : _), (s.circuitRun.nextAt = some (i, false, t)) ∧ (i ≠ 0) ∧ (t ≤ s.ts) ∧ (c =
        (s.circuitRun.live.drop i).headD ({} : Circuit))) ∧
    (∃ (s : State) (i : _) (t : _) (c : _), (s.circuitRun.nextAt = some (i, true, t)) ∧ (t ≤ s.ts) ∧ (c =
        (s.circuitRun.live.drop i).headD ({} : Circuit)) ∧ (circuitOk c = true)) ∧
    (∃ (s : State) (p : _) (q : _) (m : _) (l : _), ((∀ k < 16, wakeDue s k = false)) ∧ (waitingFor s p = [(q, m)]) ∧ (m ∈
        (peerOf s q).sent) ∧ (m.left = 1) ∧ (m.pass = false) ∧ ((peerOf s q).backlog = []) ∧ (bestLane (lanesTo s p (4200 *
        m.lastSent)) = some l) ∧ (l.start ≤ fineNow s)) ∧
    (∃ (s : State) (t : _) (c : _) (n : _) (bs : _) (s1 : State), ((tileOf s t).lnk = [c]) ∧ (c.offset < lnkLen c.lat) ∧
        ((taskOf s t c.task).st ≠ .stopped) ∧ (earlierGlobal s t c.task c.after = false) ∧ (earlierStores s t c.task
        c.acceptedAt = false) ∧ (lnkRoutes s c = true) ∧ (n = min (lnkLen c.lat - c.offset) (4096 - ((latchIn c.lat
        0x182).toNat + c.offset) % 4096)) ∧ (queueRoom s c.peer 1 n = true) ∧ (ensureUnit s t c.task (tileCtx s t)
        (BitVec.ofNat 64 ((latchIn c.lat 0x181).toNat + c.offset)) false = (true, s1)) ∧ (readGlobal s1 (tileCtx s t)
        ((latchIn c.lat 0x181).toNat + c.offset) n = .ok bs)) ∧
    (∃ (s : State) (p : _) (q : _) (m : _), ((∀ w ∈ (peerOf s p).waiting, w.stale = 0)) ∧ ((peerOf s p).sent.find? (fun m =>
        !m.pass && m.msg.seq.toNat == q && m.left == 0) = some m) ∧ (m.lastSent + resendNs s ≤ s.ts) ∧ (m.tries < wfld
        (srWord s 0x245) 16 4) ∧ (queueTakes s (if 16 ≤ p then p else m.msg.via) (msgFlits m.msg) = true)) ∧
    (∃ (s : State) (p : _) (q : _) (m : _), ((∀ w ∈ (peerOf s p).waiting, w.stale = 0)) ∧ ((peerOf s p).sent.find? (fun m =>
        !m.pass && m.msg.seq.toNat == q && m.left == 0) = some m) ∧ (m.lastSent + resendNs s ≤ s.ts) ∧ (wfld (srWord s 0x245)
        16 4 ≤ m.tries) ∧ ((m.again && m.kind == 12) = false) ∧ ((peerOf s p).waiting = [])) ∧
    (∃ (s : State) (p : _), ((peerOf s p).ackDue.isSome = true) ∧ (queueTakes s ((routeOf s p).getD p) 1 = true)) ∧
    (∃ (s : State) (w : _), (s.cgrpPend = some w) ∧ (linksQuiet s = true) ∧ (ethWorn s = false)) :=
  ⟨⟨bare, sealMsg bare 1 { aMsg with va := 8, payload := [9] }, pageLeaf, in_turn (by decide +kernel), by decide +kernel,
      rfl, by decide +kernel⟩,
   ⟨bare, sealMsg bare 1 { aMsg with rctx := 1 }, 5, in_turn (by decide +kernel), by decide +kernel, rfl⟩,
   ⟨bare, sealMsg bare 2 { aMsg with va := 8 }, pageLeaf, in_turn (by decide +kernel), by decide +kernel, rfl⟩,
   ⟨bare, sealMsg bare 4 { aMsg with va := 8 }, pageLeaf, in_turn (by decide +kernel), by decide +kernel, rfl⟩,
   ⟨bare, sealMsg bare 8 { aMsg with va := 8 }, pageLeaf, in_turn (by decide +kernel), by decide +kernel, by decide +kernel,
       rfl, rfl, by decide +kernel⟩,
   ⟨awaiting 2 (.slot 0 0 0) (slotTile true), sealMsg (awaiting 2 (.slot 0 0 0) (slotTile true)) 3 anAnswer, _, 0, 0, 0, _,
       in_turn (by decide +kernel), ⟨rfl, rfl, rfl⟩, rfl, by decide +kernel, rfl, by decide, rfl, rfl, by decide +kernel⟩,
   ⟨awaiting 4 (.engine 0 0 1) (withCmd farAtomic), sealMsg (awaiting 4 (.engine 0 0 1) (withCmd farAtomic)) 5 anAnswer, _,
       0, 0, 1, _, in_turn (by decide +kernel), ⟨rfl, rfl, rfl⟩, rfl, rfl, rfl, rfl, rfl, rfl, rfl, rfl, by decide +kernel⟩,
   ⟨awaiting 1 (.slot 0 0 0) (slotTile false), sealMsg (awaiting 1 (.slot 0 0 0) (slotTile false)) 6 anAnswer, _, 0, 0, 0, _,
       in_turn (by decide +kernel), ⟨rfl, rfl, rfl⟩, rfl, by decide +kernel, rfl, by decide, rfl, rfl⟩,
   ⟨awaiting 1 (.slot 0 0 0) (slotTile false), sealMsg (awaiting 1 (.slot 0 0 0) (slotTile false)) 7 anAnswer, _, 0, 0, 0, _,
       0, in_turn (by decide +kernel), ⟨rfl, rfl, rfl⟩, rfl, rfl, by decide, rfl, rfl, rfl, rfl⟩,
   ⟨{ awaiting 8 (.walk 1) {} with walks := [aWalk true 1] }, sealMsg
       { awaiting 8 (.walk 1) {} with walks := [aWalk true 1] } 9 anAnswer, _, 1, _, in_turn (by decide +kernel), ⟨rfl, rfl,
       rfl⟩, rfl, rfl, rfl, rfl⟩,
   ⟨{ bare with remotes := [aGrant] }, sealMsg { bare with remotes := [aGrant] } 10 { aMsg with va := 8 }, _, in_turn
       (by decide +kernel), rfl, rfl, rfl, by decide, by decide +kernel, by decide +kernel⟩,
   ⟨{ bare with frames := [(0, {})] }, sealMsg { bare with frames := [(0, {})] } 11 { aMsg with gen := 1 }, _, _, in_turn
       (by decide +kernel), by decide +kernel, rfl, rfl, rfl, by decide +kernel⟩,
   ⟨bare, sealMsg bare 12 { aMsg with recs := [0x210] }, 0x210, 16, in_turn (by decide +kernel), by decide +kernel, rfl, rfl,
       by decide +kernel⟩,
   ⟨bare, sealMsg bare 13 { aMsg with rack := 3 }, by decide +kernel, seal_valid (by decide +kernel)⟩,
   ⟨heldPkg, _, aHeld, pageLeaf, (by decide +kernel : heldPkg.cwHeld.find? (fun h => heldName h.msg == 4294967297) = some
       aHeld), by decide +kernel, by decide +kernel, rfl, by decide +kernel, rfl, rfl⟩,
   ⟨{ heldPkg with ts := 100000000 }, _, aHeld, List.mem_singleton.2 rfl, rfl, rfl, by decide +kernel⟩,
   ⟨circuitPkg false 1, 1, 500, _, rfl, by decide, by decide, rfl⟩,
   ⟨circuitPkg true 0, 0, 500, _, rfl, by decide, rfl, by decide +kernel⟩,
   ⟨sending, 1, 1, aSent 0 1, aLane, by decide +kernel, by decide +kernel, by decide +kernel, rfl, rfl, by decide +kernel,
       by decide +kernel⟩,
   ⟨linkPkg {} { lnk := [aLnk], utlb := [warm] }, 0, aLnk, _, _, _, rfl, by decide +kernel, by decide +kernel,
       by decide +kernel, by decide +kernel, by decide +kernel, rfl, by decide +kernel, rfl, rfl⟩,
   ⟨paired { sent := [aSent 0 0] }, 1, 1, aSent 0 0, nofun, by decide +kernel, by decide +kernel, by decide +kernel,
       by decide +kernel⟩,
   ⟨paired { sent := [aSent 15 0] }, 1, 1, aSent 15 0, nofun, by decide +kernel, by decide +kernel, by decide +kernel,
       by decide +kernel, rfl⟩,
   ⟨paired { ackDue := some 5 }, 1, by decide +kernel⟩,
   ⟨{ State.reset with cgrpPend := some 1 }, 1, by decide +kernel⟩⟩



/-! ### Wavelengths and time -/

/-- Wavelengths and changes of fibre 7 of port 15. -/
def lightPkg (w : Table Wave) (c : List (Nat × LinkChange)) : State := { State.reset with
  ports := [(15, { enabled := true, fibres := [(7, { waves := w, changes := c })] })]
  ts := 100000
  sr := [(0x244, 0x0190000400050001)] }
/-- Port 15, whose wavelength 3 of fibre 7 is parked, has a message to send. -/
def parkedPkg : State := { paired { waiting := [⟨1, aMsg, .device, 0⟩] } with
  ports := [(15, { peer := some 1, fibres := [(7, { waves := [(3, { st := .parked })] })] })]
  sr := [(0x244, 0)] }
def twoUp : Table Wave := [(0, { st := .up }), (1, { st := .up })]
def aPtp (two : Bool) : PtpMsg :=
  { domain := 0, port := 0, master := 9, priority := 5, seq := 3, twoStep := two, origin := 100 }
def disciplined (d : ClockDisc) : State := { State.reset with disc := d, sr := [(0x24C, 0)] }
def onPulse (d : ClockDisc) : State := { State.reset with disc := d, sr := [(0x221, 2)], hc := 700000701 }

theorem witness_WaveAndTimeEvents :
    (∃ (s : State) (p : _) (f : _) (l : _), (laneOk p f l = true) ∧ ((waveOf (fibreOf s p f) l).st = .training) ∧ ((joining
        (fibreOf s p f)).contains l = false)) ∧
    (∃ (s : State) (p : _) (f : _) (l : _), (laneOk p f l = true) ∧ ((waveOf (fibreOf s p f) l).st = .training) ∧ ((joining
        (fibreOf s p f)).contains l = false)) ∧
    (∃ (s : State) (p : _) (f : _) (l : _) (ls : _), (mayPark s p f = true) ∧ ((wavesIn s p f .up).filter (fun l => !(leaving
        (fibreOf s p f)).contains l) = ls ++ [l]) ∧ (parkKeep s < ls.length + 1)) ∧
    (∃ (s : State) (p : _) (f : _) (l : _), (p < 16) ∧ (wakeDue s p = true) ∧ (f < 8) ∧ (l < 8) ∧ ((waveOf (fibreOf s p f)
        l).st = .parked)) ∧
    (∃ (s : State) (p : _) (f : _) (ls : _), ((wavesIn s p f .waking).filter (fun l => decide ((waveOf (fibreOf s p f)
        l).since + 400 ≤ s.ts) && !(joining (fibreOf s p f)).contains l) = ls) ∧ (ls ≠ [])) ∧
    (∃ (s : State) (p : _) (f : _) (c : _) (h : _), ((fibreOf s p f).changes = [(c, h)]) ∧ (c ≤ s.ts) ∧ ((fibreOf s p f).busy
        ≤ fineNow s) ∧ ((∀ q, (portOf s p).peer = some q → wakeDue s p = false))) ∧
    (∃ p f l, (laneOk p f l = true)) ∧
    (∃ (s : State) (p : _) (f : _) (l : _), (laneOk p f l = true) ∧ ((waveOf (fibreOf s p f) l).st = .up) ∧ ((leaving
        (fibreOf s p f)).contains l = false) ∧ ((wavesIn s p f .up).filter (fun k => k != l && !(leaving (fibreOf s p
        f)).contains k) ≠ [])) ∧
    (∃ (s : State) (p : _) (f : _) (l : _) (w : _), (laneOk p f l = true) ∧ (w = waveOf (fibreOf s p f) l) ∧ (w.st =
        .retraining) ∧ (w.since + 42768 ≤ s.ts) ∧ ((joining (fibreOf s p f)).contains l = false)) ∧
    (∃ p f l, (laneOk p f l = true)) ∧
    (∃ p f, (laneOk p f 0 = true)) ∧
    (∃ (s : State) (p : _) (o : _) (g : _), (fromMaster s p = true) ∧ (p.twoStep = false) ∧ (o = Int.ofNat s.ts - p.origin -
        s.disc.pathDelay) ∧ (g = (if o ≤ 100 ∧ -100 ≤ o then s.disc.good + 1 else 0))) ∧
    (∃ (s : State) (p : _), (fromMaster s p = true) ∧ (p.twoStep = true)) ∧
    (∃ (s : State) (p : _) (o : _), (fromMaster s p = true) ∧ (p.seq = s.disc.syncSeq) ∧ (s.disc.syncOrigin = none) ∧
        (s.disc.stepped = true) ∧ (o = s.disc.syncRecv - p.origin - s.disc.pathDelay)) ∧
    (∃ (s : State) (p : _) (o : _), (fromMaster s p = true) ∧ (s.disc.syncOrigin = some o) ∧ (s.disc.reqSeq = some p.seq)) ∧
    (∃ (s : State) (p : _), (ptpHeard s p = true)) ∧
    (∃ (s : State) (h : _), (timeSource s = 1) ∧ (s.disc.lastEdge = some h) ∧ (h + 700000700 < s.hc)) :=
  ⟨⟨lightPkg [(0, { st := .training })] [], 15, 7, 0, by decide +kernel⟩,
   ⟨lightPkg [(0, { st := .training })] [], 15, 7, 0, by decide +kernel⟩,
   ⟨lightPkg twoUp [], 15, 7, 1, [0], by decide +kernel⟩,
   ⟨parkedPkg, 15, 7, 3, by decide +kernel⟩,
   ⟨lightPkg [(7, { st := .waking })] [], 15, 7, [7], by decide +kernel⟩,
   ⟨lightPkg [(0, { st := .training })] [(5, .join [0])], 15, 7, 5, .join [0], by decide +kernel⟩,
   ⟨15, 7, 7, by decide +kernel⟩,
   ⟨lightPkg twoUp [], 15, 7, 0, by decide +kernel⟩,
   ⟨lightPkg [(0, { st := .retraining, since := 100 })] [], 15, 7, 0, _, rfl, rfl, by decide +kernel⟩,
   ⟨0, 0, 0, by decide +kernel⟩,
   ⟨16, 0, by decide +kernel⟩,
   ⟨disciplined { master := some (5, 9) }, aPtp false, _, _, by decide +kernel, rfl, rfl, rfl⟩,
   ⟨disciplined { master := some (5, 9) }, aPtp true, by decide +kernel⟩,
   ⟨disciplined { master := some (5, 9), syncSeq := 3, stepped := true }, aPtp true, _, by decide +kernel, rfl, rfl, rfl, rfl⟩,
   ⟨disciplined { master := some (5, 9), syncOrigin := some 7, reqSeq := some 3 }, aPtp true, 7, by decide +kernel⟩,
   ⟨disciplined {}, aPtp false, by decide +kernel⟩,
   ⟨onPulse { lastEdge := some 0 }, 0, by decide +kernel⟩⟩



/-! ### Health -/

/-- Tile 0 with a health, at 10 ms; its eastern neighbour is tile 1. -/
def healthPkg (h : Health) : State := { onTile { health := h } with ts := 10000000 }
def heard (t : Nat) : Health := { nb := [(0, { lastGood := t }), (1, { lastGood := t }), (2, { lastGood := t }), (3, { lastGood := t })] }
def aBeat : Beat := { seq := 1, tile := 1, st := 0, stamp := 0, sig := Config.beatSig 0 (beatBits ⟨1, 1, 0, 0, 0⟩) }
def aVote : Vote := { kind := .accuse, accuser := 1, accused := 2, ts := 9 }
def twoVotes : List Vote := [⟨.accuse, 1, 0, 4998000⟩, ⟨.accuse, 8, 0, 4998000⟩]
/-- Tile 0 is accused by both its neighbours, to be fenced at 5 ms. -/
def accusedPkg : State := { healthPkg {} with
  tiles := [(0, { health := { st := .accused, fenceAt := some (5000000, 0) } }), (1, { health := { votes := twoVotes } }),
    (8, { health := { votes := twoVotes } })] }
def sweepPkg (h : Health) (w : Sweep) : State := { healthPkg h with sweep := w }

theorem witness_HealthEvents :
    (∃ (s : State) (t : _), ((∀ p ∈ neighbours t, s.ts ≤ (nbOf (healthOf s t) p.1).lastGood + 1000)) ∧ (beats (healthOf s t)
        = true)) ∧
    (∃ (s : State) (t : _) (d : _) (b : Beat) (n : _) (x : _) (r : _), (t < 64) ∧ (neighbour t d = some n) ∧ (closedTile s t
        = false) ∧ (x = nbOf (healthOf s t) d) ∧ (b.tile.toNat = n) ∧ (b.sig = Config.beatSig s.beatKey (beatBits b)) ∧
        (b.seq = x.expect + 1) ∧ (x.lastGood + 900 ≤ s.ts) ∧ (r = (if s.ts ≤ x.lastGood + 1100 then x.run + 1 else 1))) ∧
    (∃ (s : State) (t : _) (d : _) (b : Beat) (n : _), (t < 64) ∧ (neighbour t d = some n) ∧ (closedTile s t = false) ∧
        (closedTile s n = false) ∧ (b.tile.toNat ≠ n) ∧ ((nbOf (healthOf s t) d).accused = false)) ∧
    (∃ (s : State) (t : _) (d : _) (n : _) (x : _), (t < 64) ∧ (neighbour t d = some n) ∧ (x = nbOf (healthOf s t) d) ∧ (s.ts
        < x.lastGood + 4050)) ∧
    (∃ (s : State) (t : _) (d : _) (n : _) (x : _), (t < 64) ∧ (neighbour t d = some n) ∧ (x = nbOf (healthOf s t) d) ∧
        (x.lastGood + 4050 ≤ s.ts) ∧ (x.accused = false) ∧ (closedTile s t = false) ∧ (closedTile s n = false)) ∧
    (∃ (s : State) (t : _) (v : _), (t < 64) ∧ (closedTile s t = false) ∧ (seenVote (healthOf s t) v = false) ∧ (voidVote s v
        = false)) ∧
    (∃ (s : State) (t : _) (td : _) (x : _), ((healthOf s t).fenceAt = some (td, x)) ∧ (s.ts < td)) ∧
    (∃ (s : State) (t : _) (td : _) (x : _), ((healthOf s t).fenceAt = some (td, x)) ∧ (td ≤ s.ts) ∧ (dueFence s = some t) ∧
        (quorumAt s (viewerOf s t) t .accuse ≠ none)) ∧
    (∃ (s : State), (s.sweep.en = true) ∧ (s.sweep.waiting = none) ∧ (closedTile s s.sweep.next = false)) ∧
    (∃ (s : State) (t : _), (s.sweep.waiting = some t) ∧ ((healthOf s t).st = .free) ∧ (islandRuns s t = true)) ∧
    (∃ (s : State) (t : _), ((healthOf s t).st = .fenced) ∧ ((healthOf s t).bond = false) ∧ ((healthOf s t).testing = false)
        ∧ (islandRuns s t = true)) ∧
    (∃ (s : State) (t : _), (s.sweep.waiting = some t)) ∧
    (∃ (s : State) (t : _), ((healthOf s t).st = .sweeping) ∧ ((healthOf s t).testing = true)) ∧
    (∃ (s : State) (t : _), ((healthOf s t).st = .sweeping) ∧ ((healthOf s t).testing = true)) ∧
    (∃ (s : State) (t : _), ((healthOf s t).st = .fenced) ∧ ((healthOf s t).testing = true)) ∧
    (∃ (s : State) (t : _) (ta : _) (x : _), ((healthOf s t).acceptAt = some (ta, x)) ∧ (s.ts < ta)) ∧
    (∃ (s : State) (t : _) (ta : _) (x : _), ((healthOf s t).acceptAt = some (ta, x)) ∧ (ta ≤ s.ts)) ∧
    (∃ (s : State) (t : _) (a : _), ((healthOf s t).appealAt = some a) ∧ ((healthOf s t).st = .appealing) ∧ ((healthOf s
        t).acceptAt = none) ∧ (a + 100000 ≤ s.ts)) :=
  ⟨⟨healthPkg (heard 9999500), 0, by decide +kernel⟩,
   ⟨healthPkg {}, 0, 2, aBeat, 1, _, _, by decide, rfl, rfl, rfl, rfl, rfl, rfl, by decide +kernel, rfl⟩,
   ⟨healthPkg {}, 0, 2, { aBeat with tile := 8 }, 1, by decide +kernel⟩,
   ⟨healthPkg (heard 9999999), 0, 2, 1, _, by decide, rfl, rfl, by decide +kernel⟩,
   ⟨healthPkg {}, 0, 2, 1, _, by decide, rfl, rfl, by decide +kernel⟩,
   ⟨healthPkg {}, 0, aVote, by decide +kernel⟩,
   ⟨healthPkg { fenceAt := some (10000001, 0) }, 0, 10000001, 0, by decide +kernel⟩,
   ⟨accusedPkg, 0, 5000000, 0, by decide +kernel⟩,
   ⟨healthPkg {}, by decide +kernel⟩,
   ⟨sweepPkg {} { waiting := some 0 }, 0, by decide +kernel⟩,
   ⟨healthPkg { st := .fenced }, 0, by decide +kernel⟩,
   ⟨sweepPkg {} { waiting := some 0 }, 0, by decide +kernel⟩,
   ⟨sweepPkg { st := .sweeping, testing := true } { act := true }, 0, by decide +kernel⟩,
   ⟨sweepPkg { st := .sweeping, testing := true } { act := true }, 0, by decide +kernel⟩,
   ⟨healthPkg { st := .fenced, testing := true }, 0, by decide +kernel⟩,
   ⟨healthPkg { acceptAt := some (10000001, 0) }, 0, 10000001, 0, by decide +kernel⟩,
   ⟨healthPkg { acceptAt := some (10000000, 0) }, 0, 10000000, 0, by decide +kernel⟩,
   ⟨healthPkg { st := .appealing, appealAt := some 9900000 }, 0, 9900000, by decide +kernel⟩⟩



/-! ### Layers, error records, registers -/

def layerPkg (d : Nat) : State := { healthPkg {} with layermap := [d] }

theorem witness_LayersAndRegisters :
    (∃ (s : State) (d : _), (s.layermap = [d])) ∧
    (∃ (s : State) (d : _) (x : _), (s.layermap = [d]) ∧ (x = layerOf s 0) ∧ (x.evalTs / (1000 * max 1 x.ivl) < s.ts / (1000
        * max 1 x.ivl))) ∧
    (∃ (s : State) (t : _) (b : _) (f : _), (t < 64) ∧ (b < 9) ∧ (f < 4) ∧ ((tileOf s t).fluert.getLsbD (4 * b + f) = false)
        ∧ (b ≠ 0)) ∧
    (∃ (s : State) (t : _) (b : _) (f : _), (t < 64) ∧ (b < 9) ∧ (f < 4) ∧ ((tileOf s t).fluert.getLsbD (4 * b + f) = false)
        ∧ (b = 0) ∧ ((tileOf s t).repair.contains f = false)) ∧
    (∃ (s : State) (t : _) (f : _), (t < 64) ∧ ((tileOf s t).repair.contains f = true)) ∧
    (∃ (n : Nat), (n < 64)) ∧
    (∃ (s : State) (n : _), ((tget ({} : Island) s.islands n).run = true)) ∧
    (∃ (s : State) (b : _) (x : _), (b < 350) ∧ ((tget ({} : ErrBank) s.errBanks b).v = false) ∧ (x = tget ({} : ErrBank)
        s.errBanks b)) ∧
    (∃ (s : State) (t : _) (k : _) (n : _) (b : _) (c : _), ((tileOf s t).ctx = some c) ∧ ((taskOf s t k).st.occupied = true)
        ∧ (b < 350) ∧ (withinEntry (taskOf s t k) n = none) ∧ ((ctxOf s c).st = .running) ∧ ((tget ({} : ErrBank) s.errBanks
        b).v = false)) ∧
    (∃ (t : Nat), (t < 64)) ∧
    (∃ (t : Nat) (x : Word), (t < 64) ∧ (x.getLsbD 0 = true)) ∧
    (∃ (s : State) (i : _), (i = tget ({} : Island) s.islands (selIsland s))) ∧
    (∃ (s : State) (x : Word), (wfld x 16 16 = wfld (srWord s 0x214) 16 16) ∧ (s.cgrpPend = none)) ∧
    (∃ (s : State) (x : Word), (wfld x 16 16 ≠ wfld (srWord s 0x214) 16 16 ∨ s.cgrpPend ≠ none) ∧ (linksQuiet s = true)) ∧
    (∃ (s : State) (x : Word), (wfld x 16 16 ≠ wfld (srWord s 0x214) 16 16 ∨ s.cgrpPend ≠ none) ∧ (linksQuiet s = false)) ∧
    (∃ (x : Word), (x.toNat / 2 ^ 9 % 16 ≤ x.toNat / 2 ^ 13 % 16)) ∧
    (∃ (t : Nat), (t < 64)) :=
  ⟨⟨layerPkg 8, 8, rfl⟩,
   ⟨layerPkg 8, 8, _, rfl, rfl, by decide +kernel⟩,
   ⟨State.reset, 63, 8, 3, by decide +kernel⟩,
   ⟨State.reset, 0, 0, 3, by decide +kernel⟩,
   ⟨{ State.reset with tiles := [(63, { repair := [3] })] }, 63, 3, by decide +kernel⟩,
   ⟨63, by decide⟩,
   ⟨State.reset, 71, by decide +kernel⟩,
   ⟨State.reset, 349, {}, by decide +kernel⟩,
   ⟨onCtx { st := .running } { tasks := [(0, { st := .issuing })] }, 0, 0, 0, 63, 0, by decide +kernel⟩,
   ⟨63, by decide⟩,
   ⟨63, 1, by decide⟩,
   ⟨State.reset, {}, by decide +kernel⟩,
   ⟨State.reset, 0x10005, by decide +kernel⟩,
   ⟨State.reset, 0x30000, by decide +kernel⟩,
   ⟨paired { sent := [aSent 0 1] }, 0x10000, by decide +kernel⟩,
   ⟨0x1E000, by decide⟩,
   ⟨63, by decide⟩⟩



/-! ### The bellows core and the kindling -/

/-- A kindling in which nothing fails, or which power leaves at a time. -/
def aKindling (lost : Option Nat) : KindlingInput := ⟨[], [], lost, [], [], [], [], [], [], [], 0, 0, [], []⟩

theorem witness_BellowsEvents :
    (∃ (s : State) (cls : _) (code : _) (epc : _), (s.bellows.clearInh = none) ∧ (s.bellows.pendEntry = some (cls, code,
        epc)) ∧ (s.bellows.core.pend = [])) ∧
    (∃ (s : State) (l : _), (s.bellows.clearInh = none) ∧ (s.bellows.pendEntry = none) ∧ ((s.bellows.st = .running ∨
        s.bellows.st = .halted)) ∧ (s.bellows.ie = true) ∧ (s.bellows.inh = false) ∧ (pendingLine s.bellows = some l) ∧
        ((s.bellows.st = .running → inDelay s.bellows.core = false))) ∧
    (∃ (b : Bellows) (l : _), (pendingLine b = some l)) ∧
    (∃ (s : State), (Ready .eret s) ∧ (transferMisplaced s true = false)) ∧
    (∃ (s : State) (n : _), (s.bellows.clearInh = some n) ∧ (n + 1 < minPos s.bellows.core)) ∧
    (∃ (x : Word32), (x ≠ 0x52455345)) ∧
    (∃ (s : State), (s.powered = true) ∧ (s.bootDone = true ∨ s.bootStop = true)) ∧
    (∃ (s : State) (r : KindlingInput), (s.powered = true) ∧ (s.bootDone = false) ∧ (s.bootStop = false) ∧ (s.flash = []) ∧
        ((∀ t, (tileOf s t).fluert = 0)) ∧ (r.failed = []) ∧ (r.badTiles = []) ∧ (r.badRouters = []) ∧ (r.badDies = []) ∧
        (r.badFlues = []) ∧ (r.sweepFails = []) ∧ (r.lostAt = none)) ∧
    (∃ (s : State) (r : KindlingInput), (s.powered = true) ∧ (s.bootDone = false) ∧ (s.bootStop = false) ∧ (s.flash = []) ∧
        (r.lostAt = some 0)) :=
  ⟨⟨atBellows { pendEntry := some (1, 0x2A, 64) }, 1, 0x2A, 64, by decide +kernel⟩,
   ⟨atBellows { st := .running, ie := true, birq := 0x820, bien := 0x800 }, 11, rfl, rfl, .inl rfl, by decide +kernel⟩,
   ⟨{ birq := 0x820, bien := 0x800 }, 11, by decide +kernel⟩,
   ⟨atBellows { epc := 32 }, witness_eret.1, witness_eret.2⟩,
   ⟨atBellows { clearInh := some 0, core := { qpos := Pos.all.foldl (fun q p => tset q p.idx 2) [] } }, 0, by decide +kernel⟩,
   ⟨0, by decide⟩,
   ⟨{ State.reset with bootDone := true }, rfl, .inl rfl⟩,
   ⟨State.reset, aKindling none, rfl, rfl, rfl, rfl, fun _ => rfl, rfl, rfl, rfl, rfl, rfl, rfl, rfl⟩,
   ⟨State.reset, aKindling (some 0), by decide +kernel⟩⟩



/-! ### Management commands -/

/-- A command window with an opcode, a sequence number and a context. -/
def cmdWindow (op seq ctx : Nat) : List Byte :=
  leBytes 2 op ++ leBytes 2 0 ++ leBytes 4 seq ++ leBytes 8 ctx ++ List.replicate 240 0
def booted : State := { State.reset with bootDone := true }

theorem witness_ManagementCommands :
    (∃ (x : Command) (s : State) (w : _), (s.mf = false) ∧ (s.bootStop = false) ∧ (x.ranges w = false)) ∧
    (∃ (x : Command) (s : State) (w : _), (s.mf = false) ∧ (s.bootStop = false) ∧ (winNat w 0 2 = x.op) ∧ (winZero w 2 2 =
        true) ∧ (winNat w 8 8 < 64) ∧ (x.noCtx = false) ∧ (x.ranges w = true) ∧ ((x.tagged (ctxOf s (winNat w 8 8)).st = true
        ∨ winZero w 0xF0 16 = true)) ∧ (x.allowed (ctxOf s (winNat w 8 8)).st = false)) ∧
    (∃ (x : Command) (s : State) (w : _), (s.mf = false) ∧ (s.bootStop = false) ∧ (winNat w 0 2 = x.op) ∧ (winZero w 2 2 =
        true) ∧ (winNat w 8 8 < 64) ∧ (x.noCtx = false) ∧ (x.ranges w = true) ∧ ((x.tagged (ctxOf s (winNat w 8 8)).st = true
        ∨ winZero w 0xF0 16 = true)) ∧ (x.allowed (ctxOf s (winNat w 8 8)).st = true) ∧ (x.tagged (ctxOf s (winNat w 8 8)).st
        = true) ∧ (cmdTagOk s (winNat w 8 8) w = false)) ∧
    (∃ (x : Command) (s : State) (w : _) (s' : _), (s.mf = false) ∧ (s.bootStop = false) ∧ (winNat w 0 2 = x.op) ∧ (winZero w
        2 2 = true) ∧ (winNat w 8 8 < 64) ∧ (x.noCtx = false) ∧ (x.ranges w = true) ∧ ((x.tagged (ctxOf s (winNat w 8 8)).st
        = true ∨ winZero w 0xF0 16 = true)) ∧ (x.allowed (ctxOf s (winNat w 8 8)).st = true) ∧ (x.tagged (ctxOf s (winNat w 8
        8)).st = false) ∧ (x.act s (winNat w 8 8) w = .ok s')) :=
  ⟨⟨loadCmd, booted, cmdWindow 2 1 0, by decide +kernel⟩,
   ⟨finaliseCmd, booted, cmdWindow 4 1 63, by decide +kernel⟩,
   ⟨saveCmd, onCtx { st := .halted } {}, cmdWindow 8 1 0, by decide +kernel⟩,
   ⟨createCmd, booted, cmdWindow 1 1 63, _, rfl, rfl, by decide +kernel, by decide +kernel, by decide +kernel, rfl,
       by decide +kernel, by decide +kernel, by decide +kernel, by decide +kernel, rfl⟩⟩

theorem witness_ManagementCommands_window :
    (∃ (w : List Byte) (s : State), w.length = 256 ∧ winNat w 0 2 = 1 ∧ s.bootDone = true ∧ s.bootStop = false ∧ s.mf = false ∧
      s.mgmt.stat ≠ 1 ∧ s.mgmt.exhausted = false ∧ BitVec.ofNat 32 (winNat w 4 4) = s.mgmt.seqf + 1) ∧
    (∃ (w : List Byte) (s : State), w.length = 256 ∧ winNat w 0 2 = 1 ∧ s.bootDone = true ∧ s.bootStop = false ∧ s.mf = false ∧
      s.mgmt.stat ≠ 1 ∧ BitVec.ofNat 32 (winNat w 4 4) ≠ s.mgmt.seqf + 1) ∧
    (∃ (w : List Byte) (s : State), w.length = 256 ∧ winNat w 0 2 = 13 ∧
      (s.bootDone = false ∨ s.bootStop = true ∨ s.mf = true ∨ s.mgmt.stat = 1)) ∧
    (∃ (w : List Byte), w.length = 256 ∧ 1 ≤ winNat w 0 2 ∧ winNat w 0 2 ≤ 13 ∧ winNat w 0 2 ≠ 2) :=
  ⟨⟨cmdWindow 1 1 0, booted, by decide +kernel⟩, ⟨cmdWindow 1 9 0, booted, by decide +kernel⟩,
   ⟨cmdWindow 13 1 0, State.reset, by decide +kernel⟩, ⟨cmdWindow 1 1 0, by decide +kernel⟩⟩


/-! ### Rules over all words, all steps -/

/-- It reads s2 and empties it, then s3. -/
def addWord : Instr := .add ⟨1, 2, true, 3, false⟩
def waitsV31 : State := onTask { st := .parked, wait := .reg (.v 31), emptyV := [31] }
def inRewindable : State := onTask { stream := [{ syncBundleAt false with n := 0, rw := true }] }

theorem witness_IssueRules :
    (∃ (i : _) (s : State), (isWord i = true) ∧ (coreForbids s i = false) ∧ ((∃ x ∈ sources i, (Source.reg x).2 = true ∧
        isEmpty (gateTask s) (Source.reg x).1 = true))) ∧
    (∃ (i : _) (s : State) (t : _), (isWord i = true) ∧ (coreForbids s i = false) ∧ ((∀ x ∈ sources i, (Source.reg x).2 =
        true → isEmpty (gateTask s) (Source.reg x).1 = false)) ∧ ((∃ x ∈ sources i, isEmpty (gateTask s) (Source.reg x).1 =
        true)) ∧ (t = openReads i s)) ∧
    (∃ (i : _) (s : State), (isWord i = true) ∧ (placeForbids s i = false) ∧ ((∀ x ∈ sources i, isEmpty (gateTask s)
        (Source.reg x).1 = false)) ∧ ((∀ r ∈ dests i, isEmpty (gateTask s) r = false)) ∧ (pendingHit (gateTask s) s.cur.n i =
        false)) ∧
    (∃ (s : State) (t : _) (k : _) (r : _) (f : Task → Task), ((taskOf s t k).st = .parked) ∧ ((taskOf s t k).wait = .reg r)
        ∧ ((∀ x, (f x).st = x.st ∧ (f x).wait = x.wait ∧ (f x).halting = x.halting))) :=
  ⟨⟨addWord, onTask { emptyS := [2] }, rfl, rfl, .s 2 true, by decide +kernel⟩,
   ⟨addWord, onTask { emptyS := [3] }, _, rfl, rfl, by decide +kernel, ⟨.s 3 false, by decide +kernel⟩, rfl⟩,
   ⟨addWord, onTask {}, rfl, rfl, by decide +kernel⟩,
   ⟨waitsV31, 0, 0, .v 31, id, rfl, rfl, fun _ => ⟨rfl, rfl, rfl⟩⟩⟩

theorem witness_IssueOrder :
    (∃ (i : _) (s : State) (t : _), (isWord i = true) ∧ (t = openReads i s) ∧ (coreForbids s i = true)) ∧
    (∃ (i : _) (s : State) (t : _), (isWord i = true) ∧ (t = openReads i s) ∧ (coreForbids s i = false) ∧ (emptyFault
        (gateTask s) i = true)) ∧
    (∃ (i : _) (s : State) (t : _) (r : _), (isWord i = true) ∧ (t = openReads i s) ∧ (coreForbids s i = false) ∧ (emptyFault
        (gateTask s) i = false) ∧ (emptyWait (gateTask s) i = some r)) ∧
    (∃ (i : _) (s : State) (t : _), (isWord i = true) ∧ (t = openReads i s) ∧ (coreForbids s i = false) ∧ (emptyFault
        (gateTask s) i = false) ∧ (emptyWait (gateTask s) i = none) ∧ (segmentForbids s i = true)) ∧
    (∃ (i : _) (s : State) (t : _), (isWord i = true) ∧ (t = openReads i s) ∧ (coreForbids s i = false) ∧ (emptyFault
        (gateTask s) i = false) ∧ (emptyWait (gateTask s) i = none) ∧ (segmentForbids s i = false) ∧ (pendingHit (gateTask s)
        s.cur.n i = true)) ∧
    (∃ (i : _) (s : State) (t : _), (isWord i = true) ∧ (t = openReads i s) ∧ (coreForbids s i = false) ∧ (emptyFault
        (gateTask s) i = false) ∧ (emptyWait (gateTask s) i = none) ∧ (segmentForbids s i = false) ∧ (pendingHit (gateTask s)
        s.cur.n i = false)) ∧
    (∃ i, (isWord i = true)) ∧
    (∃ (s : State) (t : _) (k : _), (s.cur.core = .tile t k)) :=
  ⟨⟨.eret, State.reset, _, rfl, rfl, rfl⟩,
   ⟨addWord, onTask { emptyS := [2] }, _, rfl, rfl, by decide +kernel⟩,
   ⟨addWord, onTask { emptyS := [1] }, _, .s 1, rfl, rfl, by decide +kernel⟩,
   ⟨.bar ⟨0x0200⟩, inRewindable, _, rfl, rfl, by decide +kernel⟩,
   ⟨addWord, onTask { pendMode := true, pend := [⟨9, .s 1, 0, 0, .C⟩] }, _, rfl, rfl, by decide +kernel⟩,
   ⟨addWord, onTask {}, _, rfl, rfl, by decide +kernel⟩,
   ⟨addWord, rfl⟩,
   ⟨State.reset, 0, 0, rfl⟩⟩

theorem witness_FixedRegisters :
    (∃ (n : BitVec 6), (n ≠ 0)) ∧
    (∃ (n : BitVec 3), (n ≠ 0)) ∧
    (∃ (ls : Table Loop), ((∀ l < 6, (loopIn ls l).act = false))) ∧
    (∃ (ls : Table Loop) (l : _) (st : _), (l < 6) ∧ ((loopIn ls l).act = true) ∧ ((∀ k < 6, l < k → (loopIn ls k).act =
        false)) ∧ (st < 8)) :=
  ⟨⟨1, by decide⟩,
   ⟨7, by decide⟩,
   ⟨[], by decide⟩,
   ⟨[(5, { act := true })], 5, 7, by decide +kernel⟩⟩

theorem witness_WordsChangeNoByte :
    (∃ (i : _) (s : State) (t : _), (isWord i = true) ∧ (exec i s = .next t)) :=
  ⟨.nop, State.reset, _, rfl, rfl⟩

theorem witness_StepKeepsMemories :
    (∃ (s : State) (t : _), (memOk s = true) ∧ (step s = .next t)) :=
  ⟨State.reset, _, by decide, rfl⟩


end Sys2Proof.Tests
end

section
/-! PROOFS. The family of values: codes and the numbers they name, reductions and conversions, the words of control and of
waiting, the state after reset. -/

namespace Sys2Proof.Values

open Sys2Proof Sys2Proof.Machine Sys2Proof.Operands

/-! ### Words that issue -/

/-- A ready word does what the body of its form says. -/
theorem exec_ready {i : Instr} {s : State} (hr : Ready i s) {body : State → Verdict} (h : exec i s = gate i s body) :
    exec i s = .next (settle s (body s)) := h.trans (gate_ready hr body)

/-- A form whose body always issues has the effect that the body gives. -/
theorem issues_of_gate {α : Type} {word : α → Instr} {effect : α → State → State}
    (h : ∀ o s, exec (word o) s = gate (word o) s fun s => .issue (effect o s)) : Issues word effect :=
  fun o s hr => exec_ready hr (h o s)

/-! ### Codes and numbers (R28, R30, R31) -/

/-- The finite value of a magnitude code. -/
def finiteNum (F : FFmt) (neg : Bool) (mag : Nat) : Machine.Num :=
  if mag / 2 ^ F.fw = 0 then .fin neg (mag % 2 ^ F.fw) (1 - F.bias - F.fw)
  else .fin neg (2 ^ F.fw + mag % 2 ^ F.fw) ((mag / 2 ^ F.fw : Nat) - F.bias - F.fw)

/-- A code that is no NaN names the infinity of an IEEE format, or the finite value of a magnitude up to the largest (R30). -/
theorem decodeF_cases {F : FFmt} {x : Nat} (h : (decodeF F x).isNan = false) :
    (F.sp = .ieee ∧ x % F.signBit = (2 ^ F.ew - 1) * 2 ^ F.fw ∧ decodeF F x = .inf (x / F.signBit % 2 == 1)) ∨
    (x % F.signBit ≤ F.maxFinite ∧ decodeF F x = finiteNum F (x / F.signBit % 2 == 1) (x % F.signBit)) := by
  have hfields := Nat.div_add_mod' (x % F.signBit) (2 ^ F.fw)
  have hmod : x % F.signBit % 2 ^ F.fw < 2 ^ F.fw := Nat.mod_lt _ (Nat.two_pow_pos _)
  have hmag : x % F.signBit < 2 ^ (F.ew + F.fw) := Nat.mod_lt _ (Nat.two_pow_pos _)
  unfold decodeF at h ⊢
  cases hsp : F.sp with
  | ieee =>
    simp only [hsp] at h ⊢
    by_cases he : x % F.signBit / 2 ^ F.fw = 2 ^ F.ew - 1
    · by_cases hf : x % F.signBit % 2 ^ F.fw = 0
      · left
        simp only [he, hf, if_true, true_and, and_true]
        rw [← hfields, he, hf, Nat.add_zero]
      · simp [he, hf, Num.isNan] at h
    · right
      simp only [he, if_false, FFmt.maxFinite, hsp]
      refine ⟨?_, rfl⟩
      have hlt : x % F.signBit / 2 ^ F.fw < 2 ^ F.ew := by
        rw [Nat.div_lt_iff_lt_mul (Nat.two_pow_pos _), ← Nat.pow_add]; exact hmag
      have hle : x % F.signBit < (2 ^ F.ew - 1) * 2 ^ F.fw :=
        (Nat.div_lt_iff_lt_mul (Nat.two_pow_pos _)).1 (by omega)
      omega
  | e4m3 =>
    simp only [hsp] at h ⊢
    by_cases hm : x % F.signBit = 2 ^ (F.ew + F.fw) - 1
    · simp [hm, Num.isNan] at h
    · right
      simp only [hm, if_false, FFmt.maxFinite, hsp]
      exact ⟨by omega, rfl⟩
  | none =>
    right
    simp only [FFmt.maxFinite, hsp]
    exact ⟨by omega, rfl⟩

/-- A number that needs no rounding keeps its significand. -/
theorem roundMag_exact {F : FFmt} {m : Nat} {e : Int} (hm : m ≠ 0)
    (h : max ((Nat.log2 m : Int) + e) (1 - F.bias) - F.fw = e) :
    roundMag F m e false = m + (e - (1 - F.bias) + F.fw).toNat * 2 ^ F.fw := by
  simp [roundMag, hm, h]

/-- Below exponent field 1 the magnitude code is the significand. -/
theorem roundMag_subnormal {F : FFmt} {f : Nat} (hf : f < 2 ^ F.fw) : roundMag F f (1 - F.bias - F.fw) false = f := by
  by_cases h0 : f = 0
  · simp [roundMag, h0]
  · have hlog : Nat.log2 f < F.fw := (Nat.log2_lt h0).2 hf
    rw [roundMag_exact h0 (by omega)]
    simp

/-- The leading bit of a normal significand stands at the format's precision, so nothing is rounded off. -/
theorem roundMag_normal {F : FFmt} {e f : Nat} (he : e ≠ 0) (hf : f < 2 ^ F.fw) :
    roundMag F (2 ^ F.fw + f) ((e : Int) - F.bias - F.fw) false = e * 2 ^ F.fw + f := by
  have h0 : 2 ^ F.fw + f ≠ 0 := by have := Nat.two_pow_pos F.fw; omega
  have hlog : Nat.log2 (2 ^ F.fw + f) = F.fw := (Nat.log2_eq_iff h0).2 ⟨by omega, by rw [Nat.pow_succ]; omega⟩
  rw [roundMag_exact h0 (by rw [hlog]; omega)]
  have hexp : ((e : Int) - F.bias - F.fw - (1 - F.bias) + F.fw).toNat = e - 1 := by omega
  rw [hexp, Nat.sub_mul, Nat.one_mul]
  have := Nat.le_mul_of_pos_left (2 ^ F.fw) (Nat.pos_of_ne_zero he)
  omega

/-- A finite number that rounds to a magnitude code in range gets that code under its sign. -/
theorem packNum_fin {F : FFmt} {m mag : Nat} {e : Int} (sat neg : Bool) (h : mag ≤ F.maxFinite)
    (hr : roundMag F m e false = mag) : packNum F sat (.fin neg m e) = F.sign neg + mag := by
  simp only [packNum, roundF, hr, if_neg (Nat.not_lt.2 h)]

theorem packNum_finiteNum {F : FFmt} {mag : Nat} (sat neg : Bool) (h : mag ≤ F.maxFinite) :
    packNum F sat (finiteNum F neg mag) = F.sign neg + mag := by
  have hf : mag % 2 ^ F.fw < 2 ^ F.fw := Nat.mod_lt _ (Nat.two_pow_pos _)
  have hfields := Nat.div_add_mod' mag (2 ^ F.fw)
  unfold finiteNum
  split
  next he =>
    refine packNum_fin sat neg h ((roundMag_subnormal hf).trans ?_)
    rwa [he, Nat.zero_mul, Nat.zero_add] at hfields
  next he => exact packNum_fin sat neg h ((roundMag_normal he hf).trans hfields)

/-- A code is its sign beside its magnitude. -/
theorem sign_add_mag {F : FFmt} {x : Nat} (hx : x < 2 ^ F.width) :
    F.sign (x / F.signBit % 2 == 1) + x % F.signBit = x := by
  have hpos : 0 < F.signBit := Nat.two_pow_pos _
  have hwidth : 2 ^ F.width = 2 * F.signBit := by
    rw [FFmt.signBit, ← Nat.pow_succ', FFmt.width]
    congr 1
    omega
  have hdiv : x / F.signBit < 2 := (Nat.div_lt_iff_lt_mul hpos).2 (hwidth ▸ hx)
  have hfields := Nat.div_add_mod' x F.signBit
  rcases Nat.le_one_iff_eq_zero_or_eq_one.1 (Nat.lt_succ_iff.1 hdiv) with h | h
  · simpa [FFmt.sign, h] using hfields
  · simpa [FFmt.sign, h] using hfields

/-- Whatever the widths and the bias: only the meaning of the greatest exponent field matters (R30). -/
theorem packNum_decodeF {F : FFmt} {x : Nat} (sat : Bool) (hx : x < 2 ^ F.width) (h : (decodeF F x).isNan = false) :
    packNum F sat (decodeF F x) = x := by
  rcases decodeF_cases h with ⟨_, hmag, hinf⟩ | ⟨hmax, hfin⟩
  · rw [hinf, packNum, infCode, ← hmag, sign_add_mag hx]
  · rw [hfin, packNum_finiteNum sat _ hmax, sign_add_mag hx]

/-- Settles O29: a non-NaN code splits into a sign and a magnitude, and the magnitude's exponent and significand need no
rounding. -/
theorem floatCodes : Obligations.FloatCodes := by
  unfold Obligations.FloatCodes
  exact fun _ _ sat _ hx h => packNum_decodeF sat hx h

/-! ### Elements as integers (R113) -/

theorem elem_lt (v : VWord) (w e : Nat) : elem v w e < 2 ^ w := Nat.mod_lt _ (Nat.two_pow_pos w)

@[simp] theorem lane_toNat (v : VWord) (i : Nat) : (lane v i).toNat = elem v 32 i := by
  simp only [lane, BitVec.toNat_ofNat]
  exact Nat.mod_eq_of_lt (elem_lt ..)

/-- Two's complement by the model's arithmetic is that of bit vectors. -/
theorem signedOf_eq_toInt {w x : Nat} (hx : x < 2 ^ (w + 1)) : signedOf (w + 1) x = (BitVec.ofNat (w + 1) x).toInt := by
  rw [BitVec.toInt_eq_toNat_cond, BitVec.toNat_ofNat, Nat.mod_eq_of_lt hx, signedOf, Nat.add_sub_cancel]
  rw [Nat.pow_succ] at hx ⊢
  by_cases hneg : 2 ^ w ≤ x
  · rw [if_pos hneg, if_neg (by omega)]
    norm_cast
  · rw [if_neg hneg, if_pos (by omega)]

theorem sextNat32_eq_signExtend {x : Nat} (hx : x < 2 ^ 32) : sextNat32 x = (BitVec.ofNat 32 x).signExtend 64 := by
  rw [sextNat32, signedOf_eq_toInt hx]
  rfl

/-! ### The tree of reductions (R44) -/

/-- One halving of a family of values: the one at i with the one at i + h. -/
def halve (f : Nat → Nat → Nat) (h : Nat) (u : Nat → Nat) (i : Nat) : Nat := f (u i) (u (i + h))

theorem treeStep_range (f : Nat → Nat → Nat) (h : Nat) (u : Nat → Nat) :
    treeStep f h ((List.range (h + h)).map u) = (List.range h).map (halve f h u) := by
  apply List.ext_getElem
  · simp [treeStep]
  · intro i _ _
    simp [treeStep, halve, Nat.add_comm]

theorem treeReduce_range (f : Nat → Nat → Nat) (t : Nat → Nat) :
    treeReduce f ((List.range 128).map t) =
      halve f 1 (halve f 2 (halve f 4 (halve f 8 (halve f 16 (halve f 32 (halve f 64 t)))))) 0 := by
  simp only [treeReduce, List.foldl_cons, List.foldl_nil, treeStep_range f 64, treeStep_range f 32, treeStep_range f 16,
    treeStep_range f 8, treeStep_range f 4, treeStep_range f 2, treeStep_range f 1]
  rfl

/-- The tree's value is a combination of two: what bounds every combination bounds it. -/
theorem treeReduce_lt {f : Nat → Nat → Nat} {b : Nat} (hf : ∀ x y, f x y < b) (t : Nat → Nat) :
    treeReduce f ((List.range 128).map t) < b := by
  rw [treeReduce_range]
  exact hf _ _

theorem activeLanes_eq (p : PWord) (v : VWord) (e : Nat) :
    activeLanes p v e = (List.range 128).map fun i => if p.getLsbD i then (lane v i).toNat else e := by
  simp only [activeLanes, lane_toNat]

/-- A reduction writes sd with the tree's value, extended as its form says, at 9 hc. -/
theorem issues_reduction {word : VQ → Instr} {f : Nat → Nat → Nat} {e : Nat} {ext : Nat → Word}
    (h : ∀ o s, exec (word o) s = reduceForm (word o) o f e ext s) :
    Issues word fun o s => writeLaterS s o.sd (ext (treeReduce f ((List.range 128).map fun i =>
      if (srcP s o.p).getLsbD i then (lane (srcV s o.va) i).toNat else e))) 9 := by
  simp only [← activeLanes_eq]
  exact issues_of_gate h

/-- Settles O26: each halving of a list over 2h places is a list over h places. -/
theorem vectorReductions : Obligations.VectorReductions := by
  unfold Obligations.VectorReductions
  refine ⟨fun word f e hmem => ?_, ?_, treeReduce_range⟩
  · simp only [List.mem_cons, Prod.mk.injEq, List.not_mem_nil, or_false] at hmem
    obtain ⟨rfl, rfl, rfl⟩ | ⟨rfl, rfl, rfl⟩ | ⟨rfl, rfl, rfl⟩ := hmem
    · exact issues_reduction fun _ _ => rfl
    · exact issues_reduction fun _ _ => rfl
    · exact issues_reduction fun _ _ => rfl
  · have hlt : ∀ t, treeReduce (fun x y => (x + y) % 2 ^ 32) ((List.range 128).map t) < 2 ^ 32 :=
      treeReduce_lt fun _ _ => Nat.mod_lt _ (Nat.two_pow_pos 32)
    simp only [← sextNat32_eq_signExtend (hlt _)]
    exact issues_reduction fun _ _ => rfl

/-! ### Conversions and special functions (R122 to R124) -/

/-- A form of one vector writes its lanes where the predicate marks them. -/
theorem issues_unary {word : VR1 → Instr} {f : Nat → Nat} {lat : Nat}
    (h : ∀ o s, exec (word o) s = unaryForm (word o) o lat f s) :
    Issues word fun o s => writeLaterV s o.vd (srcP s o.p) (fromLanes fun k =>
      BitVec.ofNat 32 (f (lane (srcV s o.va) k).toNat)) lat := issues_of_gate h

/-- Settles O27: every conversion is convertForm and every special function unaryForm; an element read as an integer is its
two's complement. -/
theorem vectorConversions : Obligations.VectorConversions := by
  unfold Obligations.VectorConversions
  refine ⟨issues_of_gate fun _ _ => rfl, ?_, issues_of_gate fun _ _ => rfl, fun word f lat hmem => ?_⟩
  · simp only [← signedOf_eq_toInt (elem_lt _ 16 _)]
    exact issues_of_gate fun _ _ => rfl
  · simp only [List.mem_cons, Prod.mk.injEq, List.not_mem_nil, or_false] at hmem
    obtain ⟨rfl, rfl, rfl⟩ | ⟨rfl, rfl, rfl⟩ | ⟨rfl, rfl, rfl⟩ | ⟨rfl, rfl, rfl⟩ | ⟨rfl, rfl, rfl⟩ := hmem
    · exact issues_unary fun _ _ => rfl
    · exact issues_unary fun _ _ => rfl
    · exact issues_unary fun _ _ => rfl
    · exact issues_unary fun _ _ => rfl
    · exact issues_unary fun _ _ => rfl

/-! ### The state after reset -/

/-- Settles O60: every table of the state after reset is empty, so every entry reads as its default. -/
theorem resetState : Obligations.ResetState := by
  unfold Obligations.ResetState
  refine ⟨by decide, rfl, rfl, fun _ _ => ⟨rfl, rfl, rfl, rfl, fun _ => rfl, rfl, rfl⟩, fun _ => rfl, fun _ => rfl, rfl, ?_⟩
  decide

/-! ### What the words of control change -/

@[simp] theorem noteEntry_cur (s : State) : (noteEntry s).cur = s.cur := by
  unfold noteEntry
  split
  · split <;> rfl
  · rfl

@[simp] theorem advance_cur (s : State) : (advance s).cur = s.cur := by simp [advance, updCur]

/-- A half that a ksync passed is stale, or empty and not valid. -/
theorem staleHalf_spent (e : Nat) (x : Nat × Half) :
    (staleHalf e x).2.stale = true ∨ ((staleHalf e x).2.v = false ∧ (staleHalf e x).2.entries = []) := by
  unfold staleHalf
  split
  · exact .inr ⟨rfl, rfl⟩
  · exact .inl rfl

@[simp] theorem ctxOf_scheduleOnce (s : State) (due : Nat) (ev : Instr) (c : Nat) :
    ctxOf (scheduleOnce s due ev) c = ctxOf s c := by simp only [ctxOf, scheduleOnce_contexts]

/-- Raising a halt line schedules its arrivals and leaves the contexts. -/
@[simp] theorem ctxOf_raiseHaltLine (s : State) (c src : Nat) (l : List Nat) (j : Nat) :
    ctxOf (raiseHaltLine s c src l) j = ctxOf s j := by
  induction l generalizing s with
  | nil => rfl
  | cons t r ih => exact ih _

@[simp] theorem ctxOf_markFaulted (s : State) (c code j : Nat) : ctxOf (markFaulted s c code) j = ctxOf s j := by
  unfold markFaulted
  split <;> rfl

/-- The first fault of a running context is recorded, and the context begins to halt (R303, R306). -/
theorem ctxOf_raiseFault_running {s : State} {c : Nat} (h : (ctxOf s c).st = .running) (code src : Nat) (addr : Word)
    (prec : Bool) : ctxOf (raiseFault s c code src addr prec) c =
      { recordFault (ctxOf s c) code src addr prec s.ts with st := .halting, haltTiles := ctxTiles s c } := by
  simp only [raiseFault, h, ctxOf_scheduleOnce, ctxOf_raiseHaltLine, ctxOf_updCtx, ctxOf_markFaulted, if_true]

/-- A tile's trap is recorded with its code as the precise fault 0x05 of the running context (R109). -/
theorem ctxOf_trapFault_running {s : State} {t k : Nat} (hcore : s.cur.core = .tile t k)
    (h : (ctxOf s (curCtx s)).st = .running) (imm : BitVec 16) : ctxOf (trapFault s imm) (curCtx s) =
      { recordFault (ctxOf s (curCtx s)) 0x05 (unitId t k) s.cur.addr true s.ts with
        st := .halting, haltTiles := ctxTiles s (curCtx s), trap := imm } := by
  have hf : ctxOf (preciseFault s 0x05) (curCtx s) =
      { recordFault (ctxOf s (curCtx s)) 0x05 (unitId t k) s.cur.addr true s.ts with
        st := .halting, haltTiles := ctxTiles s (curCtx s) } := by
    rw [preciseFault, hcore]
    exact ctxOf_raiseFault_running h ..
  rw [trapFault, ctxOf_updCtx, if_pos rfl, hf]
  simp [recordFault, curTile, curSlot, hcore]

theorem wmReached_iff (x : Tile) (ch level : Nat) : wmReached x ch level = true ↔
    (tget ({} : Watermark) x.wm ch).armed = false ∨ level ≤ (tget ({} : Watermark) x.wm ch).wm := by
  simp [wmReached]

/-! ### The control and wait words one by one -/

theorem exec_halt_tile {s : State} {t k : Nat} (hr : Ready .halt s) (hc : s.cur.core = .tile t k) :
    exec .halt s = .next (advance (if (taskOf s t k).outst = [] then
      scheduleOnce (updTask s t k fun x => { x with halting := true }) s.hc (.taskRetire t k)
      else updTask s t k fun x => { x with halting := true })) := by
  rw [exec_ready hr rfl]
  simp [hc, settle]

theorem exec_halt_bellows {s : State} (hr : Ready .halt s) (hc : s.cur.core = .bellows) :
    exec .halt s = .next (advance { s with bellows := { s.bellows with st := .halted } }) := by
  rw [exec_ready hr rfl]
  simp [hc, settle]

theorem exec_setfmt {o : CI} {s : State} (hr : Ready (.setfmt o) s) : exec (.setfmt o) s =
    .next (if fmtReserved o.imm then preciseFault s 0x01 else advance (writeLater s .fmt (o.imm.setWidth 4096) 4)) := by
  rw [exec_ready hr rfl]
  cases fmtReserved o.imm <;> rfl

theorem exec_ksync_tile {s : State} {t k : Nat} (hr : Ready .ksync s) (hc : s.cur.core = .tile t k) :
    ∃ s', exec .ksync s = .next (advance s') ∧ (tileOf s' t).codeBuf = [] ∧
      (tileOf s' t).halves = (tileOf s t).halves.map (staleHalf (tileOf s t).exec) := by
  refine ⟨_, exec_ready hr rfl, ?_⟩
  simp [hc, setHalves, coreHalves, coreExec]

theorem exec_trap_tile {o : CI} {s : State} {t k : Nat} (hr : Ready (.trap o) s) (hc : s.cur.core = .tile t k) :
    exec (.trap o) s = .next (trapFault s o.imm) := by
  rw [exec_ready hr rfl]
  simp [onBellows, hc, settle]

theorem exec_trap_bellows {o : CI} {s : State} (hr : Ready (.trap o) s) (hb : onBellows s = true) :
    exec (.trap o) s = .next (advance (bellowsEnter s 0x01 o.imm.toNat (curSuccessor s))) := by
  rw [exec_ready hr rfl]
  simp [hb, settle]

theorem exec_ewait_idle {o : EW} {s : State} (hr : Ready (.ewait o) s)
    (hw : openWork s (curTile s) (curSlot s) o.unit.toNat (latchIn (curTask s).lat 0x108).toNat = []) :
    exec (.ewait o) s = .next (advance s) := by
  rw [exec_ready hr rfl]
  simp [hw, settle]

theorem exec_ewait_open {o : EW} {s : State} {w : List (Nat × Nat)} (hr : Ready (.ewait o) s)
    (h : w = openWork s (curTile s) (curSlot s) o.unit.toNat (latchIn (curTask s).lat 0x108).toNat) (hw : w ≠ []) :
    exec (.ewait o) s = .next (parkTask
      (advance (updCur s fun x => { x with ewait := if x.wait.onEngine then x.ewait ++ w else w })) s.cur.core
      (.engine o.unit.toNat)) := by
  rw [exec_ready hr rfl]
  simp [← h, hw, settle, updCur]

theorem exec_wmwait {o : EM} {s : State} (hr : Ready (.wmwait o) s) : exec (.wmwait o) s =
    .next (if wmReached (tileOf s (curTile s)) o.wm.toNat ((srcS s o.sa).toNat % 2 ^ 24) then advance s
      else parkTask (advance s) s.cur.core (.watermark o.wm.toNat ((srcS s o.sa).toNat % 2 ^ 24))) := by
  rw [exec_ready hr rfl]
  simp only [wfld, Nat.pow_zero, Nat.div_one]
  split <;> rfl

/-- Settles O35: each word runs its own body, and a trap's record is the first of its running context. -/
theorem controlAndWaitWords : Obligations.ControlAndWaitWords := by
  unfold Obligations.ControlAndWaitWords
  refine ⟨fun _ hr => exec_ready hr rfl, fun _ _ _ hr hc => ⟨_, exec_halt_tile hr hc, rfl⟩, fun _ => exec_halt_bellows,
    issues_of_gate fun _ _ => rfl, fun _ _ hr hv => ?written, fun _ _ hr hv => ?reserved, fun s t k hr hc => ?ksync,
    fun o s t k c hr hc hctx hrun => ?trap, fun _ _ => exec_trap_bellows,
    fun o s w hr h => ⟨fun hw => ?idle, fun hw => ?working⟩,
    fun o s c hr h => ⟨fun hdone => ?reached, fun harmed hbelow => ?below⟩⟩
  case written => simp [exec_setfmt hr, hv]
  case reserved => simp [exec_setfmt hr, hv]
  case ksync =>
    obtain ⟨s', hexec, hbuf, hhalves⟩ := exec_ksync_tile hr hc
    refine ⟨s', hexec, hbuf, fun x hx => ?_⟩
    rw [hhalves] at hx
    obtain ⟨y, _, rfl⟩ := List.mem_map.1 hx
    exact staleHalf_spent ..
  case trap =>
    have hcur : curCtx s = c := by simp [curCtx, curTile, hc, hctx]
    subst hcur
    refine ⟨_, _, exec_trap_tile hr hc, rfl, ?_⟩
    rw [ctxOf_trapFault_running hc hrun]
    exact ⟨rfl, rfl, rfl, rfl, rfl, rfl, rfl, rfl⟩
  case idle => exact exec_ewait_idle hr (h ▸ hw)
  case working => exact ⟨_, rfl, by rw [exec_ewait_open hr h hw]; simp [updCur]⟩
  case reached =>
    subst h
    rw [exec_wmwait hr, if_pos ((wmReached_iff ..).2 hdone)]
  case below =>
    subst h
    rw [exec_wmwait hr, if_neg]
    rw [wmReached_iff, harmed]
    exact not_or.2 ⟨Bool.noConfusion, Nat.not_le.2 hbelow⟩

end Sys2Proof.Values
end


section
/-! PROOFS. The family of a task's flow and of what holds a context and the package: address forms, branches, calls, loop
words, the events of contexts, of the bellows core and of kindling. -/

namespace Sys2Proof.TaskFlow

open Sys2Proof Sys2Proof.Machine Sys2Proof.Operands Sys2Proof.Values

/-- Settles O3: each word is decoded field by field. -/
theorem decodedWords : Obligations.DecodedWords := by
  unfold Obligations.DecodedWords
  decide

/-! ### Address forms (R98) -/

theorem add_shl_eq_ofNat {w : Nat} (x y : BitVec w) (n : Nat) :
    x + (y <<< n) = BitVec.ofNat w (x.toNat + y.toNat * 2 ^ n) := by
  apply BitVec.eq_of_toNat_eq
  simp [Nat.shiftLeft_eq]

/-- Settles O11: addition of bit vectors wraps as the sum of the numbers does, and the layouts write the opcode. -/
theorem addressForms : Obligations.AddressForms := by
  unfold Obligations.AddressForms
  refine ⟨fun o s hr => ?_, fun o s hr => ?_, fun o => ⟨_, rfl, opcode_encAA ..⟩, fun o => ⟨_, rfl, opcode_encSI ..⟩⟩
  · rw [← add_shl_eq_ofNat]
    exact exec_ready hr rfl
  · rw [BitVec.ofInt_add, BitVec.ofInt_toInt, BitVec.ofInt_toInt]
    exact exec_ready hr rfl

/-! ### Branches, calls and jumps (R96, R97, R99) -/

/-- A branch where R99 lets it and its target stand issues. -/
theorem branchBody_issue {s : State} {taken : Bool} {target : Word} (hplace : transferMisplaced s true = false)
    (hbody : taken = true → outsideBody s target = false) :
    branchBody taken target s = .issue (takeTransfer s (if taken then some target else none) none) := by
  cases taken with
  | false => simp [branchBody, hplace]
  | true => simp [branchBody, hplace, hbody rfl]

/-- A ready word whose meaning is a branch does what the branch does. -/
theorem exec_branch {i : Instr} {s : State} {taken : Bool} {target : Word} (hr : Ready i s) {body : State → Verdict}
    (h : exec i s = gate i s body) (hb : body s = branchBody taken target s) (hplace : transferMisplaced s true = false)
    (hbody : taken = true → outsideBody s target = false) :
    exec i s = .next (advance (takeTransfer s (if taken then some target else none) none)) := by
  rw [exec_ready hr h, hb, branchBody_issue hplace hbody]
  rfl

/-- Settles O12: each branch is branchBody with its own condition. -/
theorem branches : Obligations.Branches := by
  unfold Obligations.Branches
  refine ⟨fun o s hr hplace hbody => exec_branch hr rfl rfl hplace fun _ => hbody, fun word c hmem => ?_⟩
  simp only [List.mem_cons, Prod.mk.injEq, List.not_mem_nil, or_false] at hmem
  obtain ⟨rfl, rfl⟩ | ⟨rfl, rfl⟩ | ⟨rfl, rfl⟩ | ⟨rfl, rfl⟩ := hmem
  · exact fun o s hr => exec_branch hr rfl rfl
  · exact fun o s hr => exec_branch hr rfl (congrArg (branchBody · _ s) (decide_not ..).symm)
  · exact fun o s hr => exec_branch hr rfl (by simp [relTarget, BitVec.msb_eq_getLsbD_last])
  · exact fun o s hr => exec_branch hr rfl (by simp [relTarget, BitVec.msb_eq_getLsbD_last])

/-- A call outside every loop whose link is known issues. -/
theorem callBody_issue {s : State} {sd : BitVec 6} {target link : Word} (hplace : transferMisplaced s true = false)
    (hloop : insideLoop s = false) (hlink : linkOf s = some link) :
    callBody sd target s = .issue (writeLaterS (takeTransfer s (some target) none) sd link 1) := by
  simp [callBody, hplace, hloop, hlink]

/-- Settles O13: a call is callBody and a jump a branch that is taken, behind the check of an aligned target. -/
theorem callsAndJumps : Obligations.CallsAndJumps := by
  unfold Obligations.CallsAndJumps
  refine ⟨fun o s link hr hplace hloop hlink => ?call, fun o s link hr hplace hloop halign hlink => ?callr,
    fun o s hr hplace halign hbody => ?jr⟩
  case call =>
    rw [exec_ready hr rfl, callBody_issue hplace hloop hlink]
    rfl
  case callr =>
    rw [exec_ready hr rfl, if_neg (not_not.2 halign), callBody_issue hplace hloop hlink]
    rfl
  case jr => exact exec_branch (taken := true) hr rfl (if_neg (not_not.2 halign)) hplace fun _ => hbody

/-! ### Loop words (R100, R102, R103, R234) -/

@[simp] theorem curTask_updCur (s : State) (f : Task → Task) : curTask (updCur s f) = f (curTask s) := by
  simp [curTask, updCur]

/-- The count of rewinds is all that the entry of a segment starts anew: levels and flow stay. -/
theorem curTask_noteEntry (s : State) :
    (curTask (noteEntry s)).loops = (curTask s).loops ∧ (curTask (noteEntry s)).flow = (curTask s).flow := by
  unfold noteEntry
  split
  next t k hcore =>
    split
    · simp [curTask, coreTask, hcore, updTask, taskOf]
    · exact ⟨rfl, rfl⟩
  next => exact ⟨rfl, rfl⟩

@[simp] theorem curTask_advance_loops (s : State) : (curTask (advance s)).loops = (curTask s).loops := by
  simp [advance, curTask_noteEntry]

@[simp] theorem curTask_advance_flow (s : State) : (curTask (advance s)).flow = (curTask s).flow := by
  simp [advance, curTask_noteEntry]

theorem loopIn_tset_self (ls : Table Loop) (l : Nat) (x : Loop) : loopIn (tset ls l x) l = x := tget_tset_self ..

theorem loopIn_tset_ne (ls : Table Loop) {l j : Nat} (x : Loop) (h : j ≠ l) : loopIn (tset ls l x) j = loopIn ls j :=
  tget_tset_ne _ _ _ h.symm

/-- A loop word for which the sequencer waits, its body skipped. -/
theorem resolveLoop_skip {t : Task} {n : Nat} (h : t.flow.hold = .loopSetup n) (ls : Table Loop) (k : Word × Bool × FlowHold) :
    resolveLoop t n ls (some k) =
      { t with loops := ls, flow := { t.flow with hold := k.2.2, next := k.1, ranOff := k.2.1 } } := by
  simp [resolveLoop, h]

/-- A loop word for which the sequencer waits, its body entered. -/
theorem resolveLoop_enter {t : Task} {n : Nat} (h : t.flow.hold = .loopSetup n) (ls : Table Loop) :
    resolveLoop t n ls none = { t with loops := ls, flow := { t.flow with hold := .run } } := by
  simp [resolveLoop, h]

/-- The share of a level in its group's iterations: origin and stride (R234). -/
def loopShare (s : State) (lvl : Nat) : Nat × Nat :=
  if ((curTask s).marks.drop lvl).headD .T = .C then groupShare s (curTask s) lvl else (0, 1)

/-- The local count of a level that is set up with count N (R234). -/
def loopCount (s : State) (lvl N : Nat) : Nat :=
  if ((curTask s).marks.drop lvl).headD .T = .C then
    (if (loopShare s lvl).1 < N then ceilDiv (N - (loopShare s lvl).1) (loopShare s lvl).2 else 0)
  else N

/-- The body of a loop word at bundle b. -/
def loopSpan (b : SeqBundle) (half : Half) (lm1 : BitVec 8) : List Entry := (half.all.drop (b.idx + 1)).take (lm1.toNat + 1)

/-- The address after a body. -/
def spanEnd (body : List Entry) : Word :=
  match body.getLast? with
  | some e => e.addr + BitVec.ofNat 64 e.bytes
  | none => 0

/-- Where flow stands after a skipped body, and whether it has run off its segment. -/
def skipPast (s : State) (b : SeqBundle) (half : Half) (lm1 : BitVec 8) : Word × Bool × FlowHold :=
  match (loopSpan b half lm1).getLast?.bind (seqSucc s s.cur.core half (b.idx + (lm1.toNat + 1))) with
  | some a => (a, false, holdAfter b.loops b.seg (b.idx + (lm1.toNat + 1)))
  | none => (spanEnd (loopSpan b half lm1), true, holdAfter b.loops b.seg (b.idx + (lm1.toNat + 1)))

theorem skipPast_hold (s : State) (b : SeqBundle) (half : Half) (lm1 : BitVec 8) :
    (skipPast s b half lm1).2.2 = holdAfter b.loops b.seg (b.idx + lm1.toNat + 1) := by
  unfold skipPast
  split <;> rfl

theorem skipPast_next {s : State} {b : SeqBundle} {half : Half} {lm1 : BitVec 8} {e : Entry}
    (he : (loopSpan b half lm1).getLast? = some e) : (skipPast s b half lm1).1 =
      (seqSucc s s.cur.core half (b.idx + lm1.toNat + 1) e).getD (e.addr + BitVec.ofNat 64 e.bytes) := by
  simp only [skipPast, spanEnd, he, Option.bind_some, ← Nat.add_assoc]
  split <;> rename_i h <;> rw [h] <;> rfl

section
variable {s : State} {b : SeqBundle} {half : Half} {lvl : Nat} {lm1 : BitVec 8} {N : Nat}

/-- A count of 0 leaves the level as it was, but for its origin and stride. -/
theorem loopBody_skips (hb : curBundle s = some b) (hh : curHalf s = some half)
    (hplace : loopForbidden s b half lvl (lm1.toNat + 1) = false) (hn : loopCount s lvl N = 0) :
    loopBody lvl lm1 N s = .issue (updCur s fun t => resolveLoop t s.cur.n
      (tset t.loops lvl { loopIn (curTask s).loops lvl with
        org := BitVec.ofNat 64 (loopShare s lvl).1, str := BitVec.ofNat 64 (loopShare s lvl).2 })
      (some (skipPast s b half lm1))) := by
  unfold loopBody
  simp only [hb, hh, hplace]
  exact if_pos hn

/-- A level that is set up stands at element 0 of its whole count. -/
theorem loopBody_enters (hb : curBundle s = some b) (hh : curHalf s = some half)
    (hplace : loopForbidden s b half lvl (lm1.toNat + 1) = false) (hn : loopCount s lvl N ≠ 0) :
    loopBody lvl lm1 N s = .issue (updCur s fun t => resolveLoop t s.cur.n
      (tset t.loops lvl
        { act := true, cnt := BitVec.ofNat 64 (loopCount s lvl N), idx := 0, beg := 0, lim := BitVec.allOnes 64,
          dm1 := maxStage (loopSpan b half lm1) 0, lenm1 := lm1.toNat, mark := ((curTask s).marks.drop lvl).headD .T, drn := false,
          org := BitVec.ofNat 64 (loopShare s lvl).1, str := BitVec.ofNat 64 (loopShare s lvl).2, first := b.idx + 1, seg := b.seg,
          bodyAddr := match (loopSpan b half lm1).head? with | some e => e.addr | none => 0,
          endAddr := spanEnd (loopSpan b half lm1), afterAddr := (skipPast s b half lm1).1 })
      none) := by
  unfold loopBody
  simp only [hb, hh, hplace]
  exact if_neg hn

/-- A loop word that may stand where it does sets its level up, or skips its body where the count is 0. -/
theorem loopBody_sets (hb : curBundle s = some b) (hh : curHalf s = some half)
    (hplace : loopForbidden s b half lvl (lm1.toNat + 1) = false) (hhold : (curTask s).flow.hold = .loopSetup s.cur.n) (N : Nat) :
    ∃ t, loopBody lvl lm1 N s = .issue t ∧ Claims.LoopSet s (advance t) b half lvl lm1 N := by
  by_cases hn : loopCount s lvl N = 0
  · refine ⟨_, loopBody_skips hb hh hplace hn, ?_⟩
    unfold Claims.LoopSet
    simp only [curTask_advance_loops, curTask_advance_flow, curTask_updCur, resolveLoop_skip hhold, loopIn_tset_self]
    exact ⟨rfl, rfl, fun l hl => loopIn_tset_ne _ _ hl, fun _ => ⟨trivial, skipPast_hold .., fun e he => skipPast_next he⟩,
      fun h => absurd hn h⟩
  · refine ⟨_, loopBody_enters hb hh hplace hn, ?_⟩
    unfold Claims.LoopSet
    simp only [curTask_advance_loops, curTask_advance_flow, curTask_updCur, resolveLoop_enter hhold, loopIn_tset_self]
    exact ⟨rfl, rfl, fun l hl => loopIn_tset_ne _ _ hl, fun h => absurd h hn,
      fun _ => ⟨trivial, rfl, trivial, trivial, trivial, trivial, trivial, rfl, trivial, trivial⟩⟩

end

/-- Settles O16: a loop word sets its level up with its own count, and lexit transfers where R99 lets it. -/
theorem loopWords : Obligations.LoopWords := by
  unfold Obligations.LoopWords
  refine ⟨fun o s b half hr hb hh hplace hhold => ?loop, fun o s b half hr hb hh hplace hhold => ?loopi,
    fun o s hr hplace hact => ?lexit⟩
  case loop =>
    obtain ⟨t, hbody, hset⟩ := loopBody_sets hb hh hplace hhold (srcS s o.sa).toNat
    exact ⟨_, by rw [exec_ready hr rfl, hbody]; rfl, hset⟩
  case loopi =>
    obtain ⟨t, hbody, hset⟩ := loopBody_sets hb hh hplace hhold (immNat o.cnt o.lend)
    exact ⟨_, by rw [exec_ready hr rfl, hbody]; rfl, hset⟩
  case lexit =>
    rw [exec_ready hr rfl]
    simp [hplace, hact, settle]

/-! ### What the shared machinery of engines, barriers and messages leaves as it was -/

/-- A relation that every step of a fold keeps holds across the fold. -/
theorem foldl_rel {α β : Type} {R : β → β → Prop} (hrefl : ∀ b, R b b) (htrans : ∀ {a b c}, R a b → R b c → R a c)
    {f : β → α → β} (hf : ∀ b a, R b (f b a)) (l : List α) (b : β) : R b (l.foldl f b) := by
  induction l generalizing b with
  | nil => exact hrefl b
  | cons a l ih => exact htrans (hf b a) (ih (f b a))

/-- A fold runs its step at each element: from a state that it reaches, and it goes on from there. -/
theorem foldl_reaches {α β : Type} {R : β → β → Prop} (hrefl : ∀ b, R b b) (htrans : ∀ {a b c}, R a b → R b c → R a c)
    {f : β → α → β} (hf : ∀ b a, R b (f b a)) {l : List α} {a : α} (ha : a ∈ l) (b : β) :
    ∃ b', R b b' ∧ R (f b' a) (l.foldl f b) := by
  induction l generalizing b with
  | nil => cases ha
  | cons x l ih =>
    rcases List.mem_cons.1 ha with rfl | ha
    · exact ⟨b, hrefl b, foldl_rel hrefl htrans hf l _⟩
    · obtain ⟨b', hb, hl⟩ := ih ha (f b x)
      exact ⟨b', htrans (hf b x) hb, hl⟩

theorem mem_insertEvent {e p : Pend} {l : List Pend} : p ∈ insertEvent e l ↔ p = e ∨ p ∈ l := by
  induction l with
  | nil => simp [insertEvent]
  | cons x l ih =>
    simp only [insertEvent]
    split
    · simp
    · simp only [List.mem_cons, ih]
      exact or_left_comm

/-- What kindling finds out: the boot record, the layer map with its spare, power and sample. -/
def bootFacts (s : State) : Table BootEntry × List Nat × Option Nat × Nat × List (BitVec 16) :=
  (s.bootRec, s.layermap, s.spare, s.power, s.sample)

/-- The facts of kindling and the retired flues are the same in two states. -/
structure KeepsBoot (s s' : State) : Prop where
  facts : bootFacts s' = bootFacts s
  flues : ∀ t, (tileOf s' t).fluert = (tileOf s t).fluert

theorem KeepsBoot.refl (s : State) : KeepsBoot s s := ⟨rfl, fun _ => rfl⟩

theorem KeepsBoot.trans {a b c : State} (h : KeepsBoot a b) (k : KeepsBoot b c) : KeepsBoot a c :=
  ⟨k.facts.trans h.facts, fun t => (k.flues t).trans (h.flues t)⟩

theorem KeepsBoot.of_tiles {s s' : State} (hfacts : bootFacts s' = bootFacts s) (htiles : s'.tiles = s.tiles) : KeepsBoot s s' :=
  ⟨hfacts, fun t => by rw [tileOf_congr htiles]⟩

theorem KeepsBoot.bootRec {s s' : State} (h : KeepsBoot s s') : s'.bootRec = s.bootRec := congrArg (·.1) h.facts

theorem KeepsBoot.layermap {s s' : State} (h : KeepsBoot s s') : s'.layermap = s.layermap := congrArg (·.2.1) h.facts

theorem KeepsBoot.spare {s s' : State} (h : KeepsBoot s s') : s'.spare = s.spare := congrArg (·.2.2.1) h.facts

theorem KeepsBoot.power {s s' : State} (h : KeepsBoot s s') : s'.power = s.power := congrArg (·.2.2.2.1) h.facts

theorem KeepsBoot.sample {s s' : State} (h : KeepsBoot s s') : s'.sample = s.sample := congrArg (·.2.2.2.2) h.facts

/-- The events on which a restored context's work goes on: no shared machinery drops one. -/
def lasting : Instr → Bool
  | .cubeResolution _ _ | .copyStart _ _ | .fixedLatencyWrite _ _ => true
  | _ => false

/-- The tiles, the frames, the hc and the facts of kindling are the same in two states, and no lasting event is dropped. -/
structure Aside (s s' : State) : Prop where
  facts : bootFacts s' = bootFacts s
  tiles : s'.tiles = s.tiles
  frames : s'.frames = s.frames
  hc : s'.hc = s.hc
  kept : ∀ p ∈ s.events, lasting p.ev = true → p ∈ s'.events

theorem Aside.refl (s : State) : Aside s s := ⟨rfl, rfl, rfl, rfl, fun _ h _ => h⟩

theorem Aside.trans {a b c : State} (h : Aside a b) (k : Aside b c) : Aside a c :=
  ⟨k.facts.trans h.facts, k.tiles.trans h.tiles, k.frames.trans h.frames, k.hc.trans h.hc,
    fun p hp hl => k.kept p (h.kept p hp hl) hl⟩

theorem Aside.of_events {s s' : State} (hfacts : bootFacts s' = bootFacts s) (htiles : s'.tiles = s.tiles)
    (hframes : s'.frames = s.frames) (hhc : s'.hc = s.hc) (hevents : s'.events = s.events) : Aside s s' :=
  ⟨hfacts, htiles, hframes, hhc, fun _ h _ => hevents ▸ h⟩

section
variable {a s : State}

theorem Aside.foldl {α : Type} {f : State → α → State} {l : List α} (h : Aside a s) (hf : ∀ s x, Aside s (f s x)) :
    Aside a (l.foldl f s) := h.trans (foldl_rel Aside.refl Aside.trans hf l s)

theorem Aside.ite {c : Prop} [Decidable c] {s s' : State} (h : Aside a s) (h' : Aside a s') : Aside a (if c then s else s') := by
  split
  · exact h
  · exact h'

theorem Aside.schedule {due : Nat} {ev : Instr} (h : Aside a s) : Aside a (schedule s due ev) :=
  h.trans ⟨rfl, rfl, rfl, rfl, fun _ h _ => mem_insertEvent.2 (.inr h)⟩

theorem Aside.scheduleAt {due : Nat} {ev : Instr} (h : Aside a s) : Aside a (scheduleAt s due ev) :=
  h.trans ⟨rfl, rfl, rfl, rfl, fun _ h _ => mem_insertEvent.2 (.inr h)⟩

theorem Aside.scheduleOnce {due : Nat} {ev : Instr} (h : Aside a s) : Aside a (scheduleOnce s due ev) := .ite h h.schedule

theorem Aside.scheduleLate {due ph : Nat} {ev : Instr} (h : Aside a s) : Aside a (scheduleLate s due ph ev) :=
  .ite h (h.trans ⟨rfl, rfl, rfl, rfl, fun _ h _ => mem_insertEvent.2 (.inr h)⟩)

theorem Aside.popDelay (h : Aside a s) : Aside a (popDelay s).2 := by
  unfold Machine.popDelay
  split
  · exact h
  · exact h.trans (.of_events rfl rfl rfl rfl rfl)

theorem Aside.scheduleOpen {ev : Instr} (h : Aside a s) : Aside a (scheduleOpen s ev) := h.popDelay.schedule

theorem Aside.raiseLine {n : Nat} (h : Aside a s) : Aside a (raiseLine s n) := by
  unfold Machine.raiseLine
  exact .scheduleOnce (h.trans (.of_events rfl rfl rfl rfl rfl))

theorem Aside.updPeer {p : Nat} {f : PeerState → PeerState} (h : Aside a s) : Aside a (updPeer s p f) :=
  h.trans (.of_events rfl rfl rfl rfl rfl)

theorem Aside.updCtx {c : Nat} {f : Context → Context} (h : Aside a s) : Aside a (updCtx s c f) :=
  h.trans (.of_events rfl rfl rfl rfl rfl)

theorem Aside.updGroup {g : Nat} {f : Machine.Group → Machine.Group} (h : Aside a s) : Aside a (updGroup s g f) :=
  h.trans (.of_events rfl rfl rfl rfl rfl)

theorem Aside.wakeWalks (h : Aside a s) : Aside a (wakeWalks s) := .foldl h fun s _ => (Aside.refl s).scheduleOpen

theorem Aside.countSend {p kind : Nat} (h : Aside a s) : Aside a (countSend s p kind) :=
  .ite (h.trans (.of_events rfl rfl rfl rfl rfl)) h

theorem Aside.takeTx {p key : Nat} (h : Aside a s) : Aside a (takeTx s p key).2 := .ite h.updPeer.scheduleOnce h.updPeer

theorem Aside.putMessage {p kind : Nat} {m : Msg} (h : Aside a s) : Aside a (putMessage s p kind m) :=
  .scheduleOnce (.updPeer h.takeTx)

theorem Aside.clockOnlyFirst {p fuel : Nat} {m : Msg} {rs : List Word32} (h : Aside a s) :
    Aside a (clockOnlyFirst s p m fuel rs).1 := by
  induction fuel generalizing s rs with
  | zero => exact h
  | succ n ih =>
    unfold Machine.clockOnlyFirst
    split
    · exact h
    · exact ih h.putMessage

theorem Aside.postMessage {p kind : Nat} {m : Msg} {sender : Sender} (h : Aside a s) :
    Aside a (postMessage s p kind m sender) := by
  unfold Machine.postMessage
  dsimp only
  split
  · exact .putMessage (.clockOnlyFirst (.updPeer h.countSend))
  · exact .updPeer (.putMessage (.clockOnlyFirst (.updPeer h.countSend)))

end

/-- The facts of kindling, the hc, the cube's operations and the results on their way are the same in two states, and no lasting
event is dropped. -/
structure Calm (s s' : State) : Prop extends KeepsBoot s s' where
  hc : s'.hc = s.hc
  ops : ∀ t, (tileOf s' t).cubeOps = (tileOf s t).cubeOps
  late : ∀ t k, ∀ w ∈ (taskOf s t k).pend, s.hc < w.due → w ∈ (taskOf s' t k).pend
  kept : ∀ p ∈ s.events, lasting p.ev = true → p ∈ s'.events

theorem Calm.refl (s : State) : Calm s s := ⟨.refl s, rfl, fun _ => rfl, fun _ _ _ h _ => h, fun _ h _ => h⟩

theorem Calm.trans {a b c : State} (h : Calm a b) (k : Calm b c) : Calm a c :=
  ⟨h.toKeepsBoot.trans k.toKeepsBoot, k.hc.trans h.hc, fun t => (k.ops t).trans (h.ops t),
    fun t n w hw hd => k.late t n w (h.late t n w hw hd) (h.hc ▸ hd), fun p hp hl => k.kept p (h.kept p hp hl) hl⟩

/-- A state whose tiles, hc and facts are those of another, and that keeps its lasting events. -/
theorem Calm.of_tiles {s s' : State} (hfacts : bootFacts s' = bootFacts s) (htiles : s'.tiles = s.tiles) (hhc : s'.hc = s.hc)
    (hkept : ∀ p ∈ s.events, lasting p.ev = true → p ∈ s'.events) : Calm s s' :=
  ⟨.of_tiles hfacts htiles, hhc, fun t => by rw [tileOf_congr htiles],
    fun t k w hw _ => by rwa [taskOf, tileOf_congr htiles], hkept⟩

theorem Calm.of_events {s s' : State} (hfacts : bootFacts s' = bootFacts s) (htiles : s'.tiles = s.tiles) (hhc : s'.hc = s.hc)
    (hevents : s'.events = s.events) : Calm s s' := .of_tiles hfacts htiles hhc fun _ h _ => hevents ▸ h

theorem Aside.calm {s s' : State} (h : Aside s s') : Calm s s' := .of_tiles h.facts h.tiles h.hc h.kept

section
variable {a s : State}

theorem Calm.aside {s' : State} (h : Calm a s) (k : Aside s s') : Calm a s' := h.trans k.calm

theorem Calm.foldl {α : Type} {f : State → α → State} {l : List α} (h : Calm a s) (hf : ∀ s x, Calm s (f s x)) :
    Calm a (l.foldl f s) := h.trans (foldl_rel Calm.refl Calm.trans hf l s)

theorem Calm.ite {c : Prop} [Decidable c] {s s' : State} (h : Calm a s) (h' : Calm a s') : Calm a (if c then s else s') := by
  split
  · exact h
  · exact h'

/-! ### The named operations -/

theorem Calm.updTile {t : Nat} {f : Tile → Tile} (h : Calm a s)
    (hf : ∀ x, (f x).fluert = x.fluert ∧ (f x).cubeOps = x.cubeOps ∧ (f x).tasks = x.tasks) : Calm a (updTile s t f) := by
  have hat : ∀ j, (tileOf (Machine.updTile s t f) j).fluert = (tileOf s j).fluert ∧
      (tileOf (Machine.updTile s t f) j).cubeOps = (tileOf s j).cubeOps ∧
      (tileOf (Machine.updTile s t f) j).tasks = (tileOf s j).tasks := by
    intro j
    rw [tileOf_updTile]
    split
    next h => exact h ▸ hf _
    next => exact ⟨rfl, rfl, rfl⟩
  exact h.trans ⟨⟨rfl, fun j => (hat j).1⟩, rfl, fun j => (hat j).2.1, fun j k w hw _ => by rwa [taskOf, (hat j).2.2],
    fun _ hp _ => hp⟩

theorem Calm.updTask {t k : Nat} {f : Task → Task} (h : Calm a s)
    (hf : ∀ w ∈ (taskOf s t k).pend, s.hc < w.due → w ∈ (f (taskOf s t k)).pend) : Calm a (updTask s t k f) := by
  have hat : ∀ j, (tileOf (Machine.updTask s t k f) j).fluert = (tileOf s j).fluert ∧
      (tileOf (Machine.updTask s t k f) j).cubeOps = (tileOf s j).cubeOps := by
    intro j
    rw [Machine.updTask, tileOf_updTile]
    split
    next h => exact h ▸ ⟨rfl, rfl⟩
    next => exact ⟨rfl, rfl⟩
  refine h.trans ⟨⟨rfl, fun j => (hat j).1⟩, rfl, fun j => (hat j).2, fun j n w hw hd => ?_, fun _ hp _ => hp⟩
  rw [taskOf_updTask]
  split
  next h =>
    obtain ⟨rfl, rfl⟩ := h
    exact hf w hw hd
  next => exact hw

theorem Calm.updTask_same {t k : Nat} {f : Task → Task} (h : Calm a s) (hf : ∀ x, (f x).pend = x.pend) :
    Calm a (Machine.updTask s t k f) := h.updTask fun w hw _ => by rwa [hf]

theorem Calm.updCtx {c : Nat} {f : Context → Context} (h : Calm a s) : Calm a (updCtx s c f) := h.aside (Aside.refl s).updCtx

theorem Calm.updGroup {g : Nat} {f : Machine.Group → Machine.Group} (h : Calm a s) : Calm a (updGroup s g f) :=
  h.aside (Aside.refl s).updGroup

theorem Calm.schedule {due : Nat} {ev : Instr} (h : Calm a s) : Calm a (schedule s due ev) := h.aside (Aside.refl s).schedule

theorem Calm.scheduleOnce {due : Nat} {ev : Instr} (h : Calm a s) : Calm a (scheduleOnce s due ev) :=
  h.aside (Aside.refl s).scheduleOnce

theorem Calm.scheduleLate {due ph : Nat} {ev : Instr} (h : Calm a s) : Calm a (scheduleLate s due ph ev) :=
  h.aside (Aside.refl s).scheduleLate

theorem Calm.scheduleAt {due : Nat} {ev : Instr} (h : Calm a s) : Calm a (scheduleAt s due ev) :=
  h.aside (Aside.refl s).scheduleAt

theorem Calm.scheduleOpen {ev : Instr} (h : Calm a s) : Calm a (scheduleOpen s ev) := h.aside (Aside.refl s).scheduleOpen

theorem Calm.raiseLine {n : Nat} (h : Calm a s) : Calm a (raiseLine s n) := h.aside (Aside.refl s).raiseLine

theorem Calm.wakeWalks (h : Calm a s) : Calm a (wakeWalks s) := h.aside (Aside.refl s).wakeWalks

theorem Calm.postMessage {p kind : Nat} {m : Msg} {sender : Sender} (h : Calm a s) : Calm a (postMessage s p kind m sender) :=
  h.aside (Aside.refl s).postMessage

theorem Calm.unschedule {ev : Instr} (h : Calm a s) (hl : lasting ev = false) : Calm a (unschedule s ev) := by
  refine h.trans (.of_tiles rfl rfl rfl fun p hp hk => List.mem_filter.2 ⟨hp, bne_iff_ne.2 ?_⟩)
  rintro rfl
  simp [hl] at hk

/-! ### Faults -/

theorem Calm.raiseHaltLine {c src : Nat} {l : List Nat} (h : Calm a s) : Calm a (raiseHaltLine s c src l) := by
  induction l generalizing s with
  | nil => exact h
  | cons t l ih => exact ih h.schedule

theorem Calm.markFaulted {c code : Nat} (h : Calm a s) : Calm a (markFaulted s c code) :=
  .ite h (h.trans (.of_events rfl rfl rfl rfl))

theorem Calm.raiseFault {c code src : Nat} {addr : Word} {prec : Bool} (h : Calm a s) :
    Calm a (raiseFault s c code src addr prec) := by
  unfold Machine.raiseFault
  dsimp only
  split
  · exact .scheduleOnce (.raiseHaltLine (.updCtx h.markFaulted))
  · exact .scheduleOnce (.raiseHaltLine (.updCtx h.markFaulted))
  · exact .schedule (.updCtx h.markFaulted)
  · exact .updCtx h.markFaulted
  · exact .updCtx h.markFaulted
  · exact .raiseLine (.updCtx h.markFaulted)
  · exact h
  · exact h
  · exact h

/-! ### Waits -/

theorem Calm.makeReady {t k : Nat} (h : Calm a s) : Calm a (makeReady s t k) := by
  unfold Machine.makeReady
  exact .ite (.scheduleLate (.updTask_same h fun _ => rfl)) (.updTask_same h fun _ => rfl)

theorem Calm.wake {t k : Nat} {w : Wait} (h : Calm a s) : Calm a (wake s t k w) := by
  unfold Machine.wake
  dsimp only
  refine .ite ?_ (.updTask_same h fun _ => rfl)
  split
  · exact .updTask_same h fun _ => rfl
  · exact .ite h.makeReady (.updTask_same h fun _ => rfl)

theorem Calm.checkSlot {t k : Nat} (h : Calm a s) : Calm a (checkSlot s t k) :=
  .foldl h fun s _ => .ite (Calm.refl s).wake (.refl s)

theorem Calm.checkWaits {t : Nat} (h : Calm a s) : Calm a (checkWaits s t) := .foldl h fun s _ => (Calm.refl s).checkSlot

@[simp] theorem writeS_pend (x : Task) (n : BitVec 6) (v : Word) : (writeS x n v).pend = x.pend := by
  unfold writeS
  split <;> rfl

@[simp] theorem writeP_pend (x : Task) (n : BitVec 3) (v : PWord) : (writeP x n v).pend = x.pend := by
  unfold writeP
  split <;> rfl

@[simp] theorem writeDest_pend (x : Task) (d : Dest) (v : VWord) : (writeDest x d v).pend = x.pend := by
  cases d with
  | s n => exact writeS_pend ..
  | v n m => rfl
  | p n => exact writeP_pend ..
  | fmt => rfl

@[simp] theorem markFull_pend (x : Task) (r : Reg) : (markFull x r).pend = x.pend := by cases r <;> rfl

theorem Calm.fillReg {t k : Nat} {r : Reg} {f : Task → Task} (h : Calm a s) (hf : ∀ x, (f x).pend = x.pend) :
    Calm a (fillReg s (.tile t k) r f) := by
  unfold Machine.fillReg Machine.updCore
  dsimp only
  have hfull : ∀ x, (markFull (f x) r).pend = x.pend := fun x => (markFull_pend ..).trans (hf x)
  exact .ite (.scheduleOnce (.wake (.wake (.updTask_same h hfull)))) (.wake (.wake (.updTask_same h hfull)))

/-! ### Commands of the copy engines -/

theorem Calm.updCmd {t e n : Nat} {f : CopyCmd → CopyCmd} (h : Calm a s) : Calm a (updCmd s t e n f) :=
  .updTile h fun _ => ⟨rfl, rfl, rfl⟩

theorem Calm.wakeHead {t e : Nat} (h : Calm a s) : Calm a (wakeHead s t e) := by
  unfold Machine.wakeHead
  split
  · exact .ite (.schedule (.unschedule h rfl)) h
  · exact h

theorem Calm.dropCmd {t e n : Nat} (h : Calm a s) : Calm a (dropCmd s t e n) := by
  unfold Machine.dropCmd
  exact .checkWaits (.scheduleOnce (.wakeHead (.updTile h fun _ => ⟨rfl, rfl, rfl⟩)))

theorem limitWm_calm (x : Tile) (ch : Option Nat) :
    (limitWm x ch).fluert = x.fluert ∧ (limitWm x ch).cubeOps = x.cubeOps ∧ (limitWm x ch).tasks = x.tasks := by
  cases ch <;> exact ⟨rfl, rfl, rfl⟩

theorem Calm.releaseCmd {t e : Nat} {c : CopyCmd} (h : Calm a s) : Calm a (releaseCmd s t e c) := by
  unfold Machine.releaseCmd
  refine .updTile (.foldl h fun s _ => .updTile (.refl s) fun _ => ⟨rfl, rfl, rfl⟩) fun x => ?_
  cases evictingSlot x e c with
  | none => exact limitWm_calm x c.wm
  | some v => exact limitWm_calm (emptySlot x v) c.wm

theorem Calm.writeAtomic {t e : Nat} {c : CopyCmd} {res : Nat} {old : Word} {comb : Bool} (h : Calm a s) :
    Calm a (writeAtomic s t e c res old comb) := by
  unfold Machine.writeAtomic
  exact .ite (.updTask_same h fun _ => rfl) (.fillReg (.updTask_same h fun _ => rfl) fun _ => writeS_pend ..)

theorem Calm.endAtomic {t e : Nat} {c : CopyCmd} {res : Nat} {old : Word} {comb : Bool} (h : Calm a s) :
    Calm a (endAtomic s t e c res old comb) := by
  unfold Machine.endAtomic
  exact .ite h.updCmd (.dropCmd (.updTile h.writeAtomic fun x => limitWm_calm x c.wm))

theorem Calm.endFailed {t e : Nat} {c : CopyCmd} {res : Nat} (h : Calm a s) : Calm a (endFailed s t e c res) := by
  unfold Machine.endFailed
  exact .ite h.releaseCmd.endAtomic h.releaseCmd.dropCmd

theorem Calm.failCmd {t e : Nat} {c : CopyCmd} {code : Nat} {addr : Word} (h : Calm a s) : Calm a (failCmd s t e c code addr) := by
  unfold Machine.failCmd Machine.tileFault
  exact h.endFailed.raiseFault

theorem Calm.noteNotice {t : Nat} {c : CopyCmd} (h : Calm a s) : Calm a (noteNotice s t c) := by
  unfold Machine.noteNotice
  dsimp only
  refine .updTile ?_ fun _ => ⟨rfl, rfl, rfl⟩
  split
  · exact .updTile h fun _ => ⟨rfl, rfl, rfl⟩
  · exact h

/-! ### Translations -/

theorem Calm.fillXlat {t c : Nat} {va : Word} (h : Calm a s) : Calm a (fillXlat s t c va) := by
  unfold Machine.fillXlat
  split
  · exact h
  next e _ =>
    have hearth : Calm a (if inHtlb s c va then s else { s with htlb := (e :: s.htlb).take 8192 }) :=
      .ite h (h.trans (.of_events rfl rfl rfl rfl))
    exact .ite hearth (.updTile hearth fun _ => ⟨rfl, rfl, rfl⟩)

theorem Calm.countMiss {t : Nat} {hit : Bool} (h : Calm a s) : Calm a (countMiss s t hit) := .updTile h fun _ => ⟨rfl, rfl, rfl⟩

theorem Calm.noteXlat {t c : Nat} {va : Word} (h : Calm a s) : Calm a (noteXlat s t c va) := .ite h h.countMiss.fillXlat

theorem Calm.startWalk {t k ctx : Nat} {va : Word} {write far unit : Bool} (h : Calm a s) :
    Calm a (startWalk s t k ctx va write far unit) := by
  unfold Machine.startWalk
  dsimp only
  split
  · exact .ite h (.ite (h.trans (.of_events rfl rfl rfl rfl)) (.countMiss (h.trans (.of_events rfl rfl rfl rfl))))
  · exact .wakeWalks (.trans (.ite h h.countMiss) (.of_events rfl rfl rfl rfl))

theorem Calm.ensureUnit {t k ctx : Nat} {va : Word} {write : Bool} (h : Calm a s) :
    Calm a (ensureUnit s t k ctx va write).2 := by
  unfold Machine.ensureUnit
  split
  · split
    · exact h.noteXlat
    · exact h.startWalk
  · exact h.noteXlat
  · exact h.noteXlat

/-- An access that waits for a translation has at most set out its walk. -/
theorem Calm.of_locate_wait {s' : State} {t k : Nat} {va : Word} {write : Bool} (h : locate s t k va write = .wait s') :
    Calm s s' := by
  unfold locate at h
  dsimp only at h
  split at h
  · cases h
  · split at h
    · cases h
    · split at h
      · cases h
      next hu =>
        cases h
        have := (Calm.refl s).ensureUnit (t := t) (k := k) (ctx := tileCtx s t) (va := va) (write := write)
        rwa [hu] at this
  · split at h
    · split at h
      · cases h
      · cases h
        exact (Calm.refl s).startWalk
    · split at h
      · cases h
      · split at h
        · cases h
        · split at h <;> cases h

/-! ### Atomics of the copy engines -/

theorem Calm.armRetry {t e id : Nat} (h : Calm a s) : Calm a (armRetry s t e id) := .schedule (.unschedule h rfl)

theorem Calm.launchAtomic {t e : Nat} {q : AtomReq} {id : Nat} (h : Calm a s) : Calm a (launchAtomic s t e q id) := by
  unfold Machine.launchAtomic
  exact .armRetry (.ite h.scheduleOpen h.scheduleOpen)

theorem Calm.sendAtomic {t e : Nat} {c : CopyCmd} {retry : Bool} (h : Calm a s) : Calm a (sendAtomic s t e c retry) := by
  unfold Machine.sendAtomic
  dsimp only
  split
  · split
    · exact .ite h.noteNotice.endFailed (.launchAtomic h.updCmd.scheduleOnce)
    · exact h
  · split
    · exact h.noteXlat.failCmd
    next hl => exact .ite (h.trans (.of_locate_wait hl)).updCmd.scheduleOnce (h.trans (.of_locate_wait hl)).scheduleOnce
    · exact .launchAtomic h.noteXlat.updCmd.scheduleOnce
    · exact .ite (.ite h.updCmd.scheduleOnce h.scheduleOnce) (.armRetry (.postMessage h.noteXlat.updCmd.scheduleOnce))

/-! ### Barriers and retirement -/

theorem Calm.lookRetiring {g : Machine.Group} {due : Nat} (h : Calm a s) : Calm a (lookRetiring s g due) := h.scheduleOnce

theorem Calm.checkRetiring {gid : Nat} (h : Calm a s) : Calm a (checkRetiring s gid) := by
  unfold Machine.checkRetiring
  split
  · exact .ite h.updGroup.lookRetiring h
  · exact h

theorem Calm.endGather {gid : Nat} {b : BarrierId} (h : Calm a s) : Calm a (endGather s gid b) := by
  unfold Machine.endGather
  split
  · exact h
  · dsimp only
    split
    · exact h.updGroup.scheduleOnce
    · exact h.updGroup.scheduleOnce
    · exact h.updGroup.schedule

theorem Calm.checkGather {gid : Nat} {b : BarrierId} (h : Calm a s) : Calm a (checkGather s gid b) := by
  unfold Machine.checkGather
  split
  · exact .ite h.endGather h
  · exact h

theorem Calm.checkGroup {gid : Nat} (h : Calm a s) : Calm a (checkGroup s gid) := by
  unfold Machine.checkGroup
  split
  · exact .foldl h fun s _ => (Calm.refl s).checkGather
  · exact h

end

/-! ### Kindling leaves its record to its own steps -/

/-- What two tables that differ entry by entry hold under a key is related as their entries are. -/
theorem tget_map_rel {α : Type} {R : α → α → Prop} {f : Nat × α → Nat × α} {d : α} (hd : R d d) (hkey : ∀ e, (f e).1 = e.1)
    (hval : ∀ e, R e.2 (f e).2) (l : Table α) (k : Nat) : R (tget d l k) (tget d (l.map f) k) := by
  induction l with
  | nil => exact hd
  | cons e l ih =>
    have hf : f e = (e.1, (f e).2) := Prod.ext (hkey e) rfl
    rw [List.map_cons, hf]
    simp only [tget]
    split
    · exact hval e
    · exact ih

/-- The state after a step that draws open values and changes nothing else. -/
def OnlyFree (s s' : State) : Prop := ∃ n, s' = { s with free := n }

theorem OnlyFree.trans {a b c : State} (h : OnlyFree a b) (k : OnlyFree b c) : OnlyFree a c := by
  obtain ⟨_, rfl⟩ := h
  obtain ⟨n, rfl⟩ := k
  exact ⟨n, rfl⟩

theorem onlyFree_openByte (s : State) (cur : Byte) (l : List Byte) : OnlyFree s (openByte s cur l).2 := by
  unfold openByte
  generalize l ++ [0] = l
  induction l generalizing s cur with
  | nil => exact ⟨s.free, rfl⟩
  | cons b l ih =>
    have h : OnlyFree s (eitherByte s cur b).2 := by
      unfold eitherByte
      split
      · exact ⟨s.free, rfl⟩
      · exact ⟨s.free + 1, rfl⟩
    exact h.trans (ih ..)

theorem onlyFree_openRange (s : State) (m : Memory) (a n : Nat) : OnlyFree s (openRange s m a n).2 := by
  induction n generalizing s a with
  | zero => exact ⟨s.free, rfl⟩
  | succ n ih => exact (onlyFree_openByte s (mread m a) []).trans (ih _ (a + 1))

theorem onlyFree_openWrite (s : State) (m : Memory) (l : List (Nat × Byte)) : OnlyFree s (openWrite s m l).2 := by
  induction l generalizing s with
  | nil => exact ⟨s.free, rfl⟩
  | cons e l ih => exact (onlyFree_openByte s (mread m e.1) [e.2]).trans (ih _)

theorem OnlyFree.keepsBoot {s s' : State} (h : OnlyFree s s') : KeepsBoot s s' := by
  obtain ⟨_, rfl⟩ := h
  exact .of_tiles rfl rfl

section
variable {a s : State}

theorem KeepsBoot.calm {s' : State} (h : KeepsBoot a s) (k : Calm s s') : KeepsBoot a s' := h.trans k.toKeepsBoot

theorem KeepsBoot.schedule {due : Nat} {ev : Instr} (h : KeepsBoot a s) : KeepsBoot a (schedule s due ev) :=
  h.calm (Calm.refl s).schedule

theorem KeepsBoot.scheduleOnce {due : Nat} {ev : Instr} (h : KeepsBoot a s) : KeepsBoot a (scheduleOnce s due ev) :=
  h.calm (Calm.refl s).scheduleOnce

theorem KeepsBoot.scheduleAt {due : Nat} {ev : Instr} (h : KeepsBoot a s) : KeepsBoot a (scheduleAt s due ev) :=
  h.calm (Calm.refl s).scheduleAt

theorem KeepsBoot.raiseLine {n : Nat} (h : KeepsBoot a s) : KeepsBoot a (raiseLine s n) := h.calm (Calm.refl s).raiseLine

theorem KeepsBoot.wakeWalks (h : KeepsBoot a s) : KeepsBoot a (wakeWalks s) := h.calm (Calm.refl s).wakeWalks

theorem KeepsBoot.foldl {α : Type} {f : State → α → State} {l : List α} (h : KeepsBoot a s) (hf : ∀ s x, KeepsBoot s (f s x)) :
    KeepsBoot a (l.foldl f s) := h.trans (foldl_rel KeepsBoot.refl KeepsBoot.trans hf l s)

theorem KeepsBoot.ite {c : Prop} [Decidable c] {s s' : State} (h : KeepsBoot a s) (h' : KeepsBoot a s') :
    KeepsBoot a (if c then s else s') := by
  split
  · exact h
  · exact h'

theorem KeepsBoot.updTile {t : Nat} {f : Tile → Tile} (h : KeepsBoot a s) (hf : ∀ x, (f x).fluert = x.fluert) :
    KeepsBoot a (updTile s t f) := by
  refine h.trans ⟨rfl, fun j => ?_⟩
  rw [tileOf_updTile]
  split
  next h => exact h ▸ hf _
  next => rfl

theorem KeepsBoot.mapTiles {f : Nat × Tile → Nat × Tile} (h : KeepsBoot a s) (hkey : ∀ e, (f e).1 = e.1)
    (hval : ∀ e, (f e).2.fluert = e.2.fluert) : KeepsBoot a { s with tiles := s.tiles.map f } :=
  h.trans ⟨rfl, fun j => tget_map_rel (R := fun x y => y.fluert = x.fluert) rfl hkey hval s.tiles j⟩

theorem KeepsBoot.updHealth {t : Nat} {f : Health → Health} (h : KeepsBoot a s) : KeepsBoot a (updHealth s t f) :=
  .updTile h fun _ => rfl

theorem KeepsBoot.updNb {t d : Nat} {f : Neighbour → Neighbour} (h : KeepsBoot a s) : KeepsBoot a (updNb s t d f) := h.updHealth

/-! ### Fences -/

theorem KeepsBoot.openSlot {t slot k : Nat} (h : KeepsBoot a s) : KeepsBoot a (openSlot s t slot k) := by
  unfold Machine.openSlot
  exact .updTile (h.trans (onlyFree_openRange ..).keepsBoot) fun _ => rfl

theorem KeepsBoot.openRest {c : CopyCmd} {d : Nat} (h : KeepsBoot a s) : KeepsBoot a (openRest s c d) := by
  unfold Machine.openRest
  exact .updTile (h.trans (onlyFree_openWrite ..).keepsBoot) fun _ => rfl

theorem KeepsBoot.cancelCmd {t e : Nat} {c : CopyCmd} (h : KeepsBoot a s) : KeepsBoot a (cancelCmd s t e c) := by
  unfold Machine.cancelCmd
  have hrest : KeepsBoot a (c.claimed.foldl (fun s v => Machine.openRest s c v.1) s) :=
    .foldl h fun s _ => (KeepsBoot.refl s).openRest
  refine .calm ?_ (Calm.refl _).releaseCmd.dropCmd
  split
  · exact hrest.openSlot
  · exact hrest

theorem KeepsBoot.cancelCmds {t : Nat} {pick : CopyCmd → Bool} {pickFollow : Nat → Nat → Bool} (h : KeepsBoot a s) :
    KeepsBoot a (cancelCmds s t pick pickFollow) :=
  .foldl h fun s _ => .updTile (.foldl (.refl s) fun s _ => (KeepsBoot.refl s).cancelCmd) fun _ => rfl

theorem KeepsBoot.exchangeAll {gid ctx : Nat} {f l : List Nat} (h : KeepsBoot a s) : KeepsBoot a (exchangeAll s gid ctx f l) := by
  induction l generalizing s with
  | nil => exact h
  | cons t l ih =>
    unfold Machine.exchangeAll
    have hnext : KeepsBoot a (Machine.exchangeAll (Machine.updTile s t fun x => exchangeTile x f) gid ctx f l) :=
      ih (.updTile h fun _ => rfl)
    exact .ite (.ite hnext (.calm hnext (Calm.refl _).raiseFault)) (ih h)

theorem KeepsBoot.exchangeFirst {gid : Nat} (h : KeepsBoot a s) : KeepsBoot a (exchangeFirst s gid) := by
  have hbefore : KeepsBoot a (unschedule s (.stepExchange gid)) := h.calm ((Calm.refl s).unschedule rfl)
  refine .ite ?_ h
  unfold exchangeStep
  split
  · exact hbefore
  · exact .ite hbefore (.calm hbefore.exchangeAll (Calm.refl _).updGroup.schedule)

theorem KeepsBoot.stopBeating {t : Nat} (h : KeepsBoot a s) : KeepsBoot a (stopBeating s t) := by
  unfold Machine.stopBeating
  have hbeats : KeepsBoot a { s with events := s.events.filter fun e => !beatOf t (BitVec.ofNat 32 s.ts) e.ev } :=
    h.trans (.of_tiles rfl rfl)
  exact .updHealth (.ite (.foldl hbeats fun s _ => (KeepsBoot.refl s).updNb) hbeats)

theorem KeepsBoot.showSweep (h : KeepsBoot a s) : KeepsBoot a (showSweep s) := by
  unfold Machine.showSweep
  refine .ite (h.trans (.of_tiles rfl rfl)) ?_
  split
  · exact h.trans (.of_tiles rfl rfl)
  · exact h.trans (.of_tiles rfl rfl)

theorem KeepsBoot.forgetAnswers {t : Nat} (h : KeepsBoot a s) : KeepsBoot a (forgetAnswers s t) := h.trans (.of_tiles rfl rfl)

theorem KeepsBoot.zeroTile {t : Nat} (h : KeepsBoot a s) : KeepsBoot a (zeroTile s t) := by
  unfold Machine.zeroTile
  extract_lets x s₁ s₂ s₃
  have h₁ : KeepsBoot s s₁ := (KeepsBoot.refl s).cancelCmds
  have h₂ : KeepsBoot s s₂ := .forgetAnswers (.updTile h₁ fun _ => rfl)
  clear_value s₂
  have h₃ : KeepsBoot s s₃ := .wakeWalks (h₂.trans (.of_tiles rfl rfl))
  refine h.trans ⟨h₃.facts, fun j => ?_⟩
  rw [tileOf_updTile]
  split
  next hj => exact hj ▸ rfl
  next => exact h₃.flues j

theorem KeepsBoot.sendReply {from_ : Option Nat} {r : AtomReply} (h : KeepsBoot a s) : KeepsBoot a (sendReply s from_ r) := by
  have hheld : ∀ s, Calm s (lookHeld s) := fun s => .foldl (.refl s) fun s _ => (Calm.refl s).scheduleOnce
  have hcount : ∀ s p, Calm s (countApplied s p) := fun s p => .ite (.refl s) (.of_events rfl rfl rfl rfl)
  have hdrop : ∀ s d, KeepsBoot s (dropReply s d) := fun s d => .updTile (.refl s) fun _ => rfl
  unfold Machine.sendReply
  refine .foldl (.foldl h fun s k => ?_) fun s c => ?_
  · split
    · exact hdrop ..
    · exact .calm (.refl s) (Calm.refl s).scheduleOpen
  · have hpeer : KeepsBoot s (if 64 ≤ c.1.tile then lookHeld (countApplied s (c.1.tile / 64 - 1)) else s) :=
      .ite (.calm (.refl s) ((hcount ..).trans (hheld _))) (.refl s)
    dsimp only
    split
    · exact hpeer.trans (hdrop ..)
    · exact hpeer.calm (Calm.refl _).scheduleOpen

theorem KeepsBoot.dropAtomic {router : Nat} {q : AtomReq} (h : KeepsBoot a s) : KeepsBoot a (dropAtomic s router q) := by
  unfold Machine.dropAtomic answerAll
  exact .sendReply (.foldl (.updTile h fun _ => rfl) fun s _ => .updTile (.refl s) fun _ => rfl)

theorem KeepsBoot.dropSent {t : Nat} (h : KeepsBoot a s) : KeepsBoot a (dropSent s t) := by
  unfold Machine.dropSent
  exact .foldl (h.trans (.of_tiles rfl rfl)) fun s _ => .updTile (.trans (.refl s) (.of_tiles rfl rfl)) fun _ => rfl

theorem KeepsBoot.dropBound {t : Nat} (h : KeepsBoot a s) : KeepsBoot a (dropBound s t) := by
  unfold Machine.dropBound
  refine .foldl (h.trans (.of_tiles rfl rfl)) fun s e => ?_
  split
  · exact (KeepsBoot.refl s).dropAtomic
  · exact .refl s

theorem KeepsBoot.refreshGroup {gid : Nat} (h : KeepsBoot a s) : KeepsBoot a (refreshGroup s gid) := by
  unfold Machine.refreshGroup
  split
  · exact .ite (h.calm (Calm.refl _).updGroup) h
  · exact h

theorem KeepsBoot.fenceMember {gid r : Nat} (h : KeepsBoot a s) : KeepsBoot a (fenceMember s gid r) := by
  unfold Machine.fenceMember
  dsimp only
  split
  · exact h.exchangeFirst
  · refine .calm (.refreshGroup (.calm ?_ (Calm.refl _).checkGroup)) (Calm.refl _).checkRetiring
    exact .ite (h.exchangeFirst.calm (Calm.refl _).updGroup.raiseFault) (h.exchangeFirst.calm (Calm.refl _).updGroup)

theorem KeepsBoot.refreshRole {t : Nat} (h : KeepsBoot a s) : KeepsBoot a (refreshRole s t) :=
  .updTile h fun x => by split <;> rfl

theorem KeepsBoot.refreshAccused {t : Nat} (h : KeepsBoot a s) : KeepsBoot a (refreshAccused s t) := .ite h.updHealth.refreshRole h

theorem KeepsBoot.fenceTile {t : Nat} (h : KeepsBoot a s) : KeepsBoot a (fenceTile s t) := by
  unfold Machine.fenceTile
  extract_lets ms s₁ s₂ tiles s₃ s₄ s₅ w s₆ s₇ s₈ s₉
  have h₁ : KeepsBoot a s₁ := .stopBeating (.foldl h fun s _ => (KeepsBoot.refl s).exchangeFirst)
  have h₂ : KeepsBoot a s₂ := h₁.updHealth
  have h₃ : KeepsBoot a s₃ := h₂.mapTiles (fun _ => rfl) fun _ => rfl
  have h₄ : KeepsBoot a s₄ := h₃.foldl fun s _ => (KeepsBoot.refl s).updNb
  have h₅ : KeepsBoot a s₅ := h₄.showSweep
  have h₆ : KeepsBoot a s₆ := .ite (h₅.trans (.of_tiles rfl rfl)) h₅
  have h₇ : KeepsBoot a s₇ := h₆.dropSent.dropBound.zeroTile
  have h₈ : KeepsBoot a s₈ := h₇.foldl fun s _ => (KeepsBoot.refl s).fenceMember
  have h₉ : KeepsBoot a s₉ := h₈.foldl fun s _ => (KeepsBoot.refl s).refreshAccused
  exact .ite h₉ (h₉.calm (Calm.refl _).scheduleOnce)

theorem KeepsBoot.fenceIsolated (h : KeepsBoot a s) : KeepsBoot a (fenceIsolated s) :=
  .foldl h fun s _ => .ite (KeepsBoot.refl s).fenceTile (.refl s)

/-! ### The steps of kindling -/

theorem KeepsBoot.retireTiles {ts : List Nat} (h : KeepsBoot a s) : KeepsBoot a (retireTiles s ts) :=
  .fenceIsolated (.foldl h fun s _ => (KeepsBoot.refl s).updHealth)

theorem KeepsBoot.startBeats (h : KeepsBoot a s) : KeepsBoot a (startBeats s) := by
  unfold Machine.startBeats
  refine .foldl (h.trans (.of_tiles rfl rfl)) fun s t => .calm ?_ (Calm.refl _).scheduleAt
  exact .foldl (.refl s) fun s x => .calm (KeepsBoot.refl s).updNb (Calm.refl _).scheduleAt

theorem KeepsBoot.noteFailure {bank kind : Nat} (h : KeepsBoot a s) : KeepsBoot a (noteFailure s bank kind) := by
  unfold Machine.noteFailure noteError
  dsimp only [freshBool, freshWord]
  have hbank : ∀ n, KeepsBoot a { s with free := s.free + 1 + 1, errBanks := n } := fun n => h.trans (.of_tiles rfl rfl)
  exact .ite ((hbank _).calm (Calm.refl _).raiseLine) (hbank _)

theorem KeepsBoot.failSweep {t pat : Nat} (h : KeepsBoot a s) : KeepsBoot a (failSweep s t pat) := by
  unfold Machine.failSweep
  extract_lets s₁ s₂ w
  have h₂ : KeepsBoot a s₂ := h.updHealth.noteFailure
  exact .raiseLine (h₂.trans (.of_tiles rfl rfl))

theorem KeepsBoot.firstSweeps {bad : List Nat} (h : KeepsBoot a s) : KeepsBoot a (firstSweeps s bad) := by
  unfold Machine.firstSweeps
  extract_lets s₁ s₂ w s₃
  have h₁ : KeepsBoot a s₁ := by
    refine .foldl h fun s t => ?_
    extract_lets s₁
    have h₁ : KeepsBoot s s₁ := (KeepsBoot.refl s).updHealth
    have hbyte : KeepsBoot s (freshByte s₁).2 := h₁.trans (.of_tiles rfl rfl)
    exact .ite (.scheduleOnce (.updHealth hbyte.failSweep)) h₁.updHealth
  have h₂ : KeepsBoot a s₂ := h₁.fenceIsolated
  clear_value s₂
  have h₃ : KeepsBoot a s₃ := h₂.trans (.of_tiles rfl rfl)
  exact h₃.calm (Calm.refl _).scheduleAt

theorem KeepsBoot.enablePorts {ports : List Nat} {dark : List (Nat × Nat × Nat)} (h : KeepsBoot a s) :
    KeepsBoot a (enablePorts s ports dark) := by
  have hwave : ∀ s k f l g, KeepsBoot s (updWave s k f l g) := fun s k f l g => .of_tiles rfl rfl
  refine .foldl h fun s k => .foldl (.of_tiles rfl rfl) fun s f => ?_
  extract_lets s₁
  have h₁ : KeepsBoot s s₁ := .foldl (.refl s) fun s l => .ite (hwave ..).noteFailure (hwave ..)
  exact .ite (h₁.calm (Calm.refl _).scheduleAt) h₁

theorem KeepsBoot.watchDamper (h : KeepsBoot a s) : KeepsBoot a (watchDamper s) := by
  unfold Machine.watchDamper
  split
  · exact h
  · exact h.calm ((Calm.refl s).unschedule rfl).scheduleAt

theorem KeepsBoot.startDampers (h : KeepsBoot a s) : KeepsBoot a (startDampers s) := h.foldl fun _ _ => .of_tiles rfl rfl

theorem KeepsBoot.takeSample (h : KeepsBoot a s) : KeepsBoot a (takeSample s) := h.foldl fun _ _ => .of_tiles rfl rfl

theorem keepsBoot_freshWords (n : Nat) (s : State) : KeepsBoot s (freshWords s n).2 := by
  induction n generalizing s with
  | zero => exact .refl s
  | succ n ih => exact KeepsBoot.trans (b := { s with free := s.free + 1 }) (.of_tiles rfl rfl) (ih _)

theorem KeepsBoot.nextSample (h : KeepsBoot a s) : KeepsBoot a (nextSample s) := by
  unfold Machine.nextSample
  refine .ite h ?_
  rcases hpower : freshWord s with ⟨p, s₁⟩
  rcases hvolts : freshWords s₁ 72 with ⟨vs, s₂⟩
  rcases htemps : freshWords s₂ 128 with ⟨ts, s₃⟩
  have h₁ : KeepsBoot a s₁ := by
    cases hpower
    exact h.trans (.of_tiles rfl rfl)
  have h₂ := hvolts ▸ keepsBoot_freshWords 72 s₁
  have h₃ := htemps ▸ keepsBoot_freshWords 128 s₂
  dsimp only
  rw [hvolts]
  dsimp only
  rw [htemps]
  exact .schedule ((h₁.trans h₂).trans h₃)

end

/-! ### A kindling in which nothing fails (R363, R364, R380) -/

/-- Nothing fails in a kindling, and power stays. -/
structure Flawless (r : KindlingInput) : Prop where
  failed : r.failed = []
  tiles : r.badTiles = []
  routers : r.badRouters = []
  dies : r.badDies = []
  flues : r.badFlues = []
  sweeps : r.sweepFails = []
  power : r.lostAt = none

/-- What the first k steps leave of what a kindling finds out. -/
structure StepsPassed (r : KindlingInput) (k : Nat) (s : State) : Prop where
  done : ∀ j < k, bootEntry s j = { st := 2, tries := 0, det := 0, ts := r.ts }
  fresh : ∀ j, k ≤ j → j < 16 → bootEntry s j = {}
  flues : ∀ t, (tileOf s t).fluert = 0
  power : s.power = r.power
  sample : s.sample = r.temps
  map : 8 ≤ k → s.layermap = List.range 8 ∧ s.spare = some 8
  up : 16 ≤ k → s.bootDone = true ∧ s.bellows.st = .waitingLoad

theorem dieCut_eq_false {s : State} (h : ∀ t, (tileOf s t).fluert = 0) (p : Nat) : dieCut s p = false := by
  have hlive : ∀ t b, liveFlues (tileOf s t) b = 4 := by
    intro t b
    simp [liveFlues, h]
  simp [dieCut, pathLost, hlive]

section
variable {r : KindlingInput} {prev : Nat → BootEntry} {k : Nat} {s : State}

theorem dieTest_eq_zero (hr : Flawless r) {last : BootEntry} (h : last.st ≠ 3) (p : Nat) : dieTest r last p = 0 := by
  simp [dieTest, hr.dies, h]

theorem diesTaken_eq_range (hr : Flawless r) (h : ∀ t, (tileOf s t).fluert = 0) {last : BootEntry} (hl : last.st ≠ 3) :
    diesTaken s r last = List.range 9 := by simp [diesTaken, dieCut_eq_false h, dieTest_eq_zero hr hl]

/-- Each step passes by itself. -/
theorem stepEnd_eq_pass (hr : Flawless r) (hprev : ∀ k, prev k = {}) (h : ∀ t, (tileOf s t).fluert = 0) (k : Nat) :
    stepEnd s r prev k = .pass := by
  have hst : ∀ k, (prev k).st ≠ 3 := fun k => by simp [hprev k]
  unfold stepEnd
  split
  case h_5 => simp [dieTest_eq_zero hr (hst 5), hst, partsEnd]
  case h_7 => simp [diesTaken_eq_range hr h (hst 5), hr.failed]
  all_goals simp [hst, partsEnd, hr.failed, hr.tiles, hr.routers, hr.flues, hr.sweeps]

/-- Only the seventh step changes what kindling finds out. -/
theorem keepsBoot_stepEffect (hr : Flawless r) (hk : k ≠ 7) : KeepsBoot s (stepEffect s r prev k) := by
  unfold stepEffect
  split
  · exact (KeepsBoot.refl s).retireTiles
  · exact (KeepsBoot.refl s).retireTiles
  · exact .of_tiles rfl rfl
  · rw [hr.flues]
    exact .refl s
  · exact absurd rfl hk
  · exact (KeepsBoot.refl s).startBeats
  · exact (KeepsBoot.refl s).firstSweeps
  · exact (KeepsBoot.refl s).enablePorts
  · exact (KeepsBoot.refl s).enablePorts
  · exact .scheduleAt (.of_tiles rfl rfl)
  · exact .of_tiles rfl rfl
  · exact .refl s

/-- The seventh step builds the layer map and leaves what the others find out. -/
theorem keepsBoot_stepEffect_seven (s : State) :
    KeepsBoot (buildMap s (diesTaken s r (prev 5))) (stepEffect s r prev 7) := by
  show KeepsBoot _ (watchDamper (startDampers (takeSample (buildMap s (diesTaken s r (prev 5))))))
  exact .watchDamper (.startDampers (.takeSample (.refl _)))

/-- A step that passes: its entry runs, it takes effect, its entry has passed. -/
def passStep (r : KindlingInput) (prev : Nat → BootEntry) (s : State) (k : Nat) : State :=
  setBoot (stepEffect (setBoot { s with bootStep := k } k { bootEntry s k with st := 1 }) r prev k) k
    { st := 2, tries := 0, det := 0, ts := r.ts }

theorem kindleSteps_pass (hr : Flawless r) (hprev : ∀ k, prev k = {}) (h : StepsPassed r k s) (hk : k < 16) (ks : List Nat) :
    kindleSteps r prev (k :: ks) s = kindleSteps r prev ks (passStep r prev s k) := by
  have htries : ¬ 3 ≤ (bootEntry s k).tries := by simp [h.fresh k (Nat.le_refl k) hk]
  have hend : stepEnd (setBoot { s with bootStep := k } k { bootEntry s k with st := 1 }) r prev k = .pass :=
    stepEnd_eq_pass hr hprev h.flues k
  rw [kindleSteps]
  dsimp only
  rw [if_neg htries, if_neg (by simp [hr.power]), hend]
  rfl

/-- Eight dies are mapped and the ninth is the spare from the seventh step on. -/
theorem stepEffect_map (hr : Flawless r) (hprev : ∀ k, prev k = {}) (h : ∀ t, (tileOf s t).fluert = 0)
    (hmap : 8 ≤ k → s.layermap = List.range 8 ∧ s.spare = some 8) (hk : 8 ≤ k + 1) :
    (stepEffect s r prev k).layermap = List.range 8 ∧ (stepEffect s r prev k).spare = some 8 := by
  by_cases h7 : k = 7
  · subst h7
    have hkeep := keepsBoot_stepEffect_seven (r := r) (prev := prev) s
    have htaken : diesTaken s r (prev 5) = List.range 9 := diesTaken_eq_range hr h (by simp [hprev])
    rw [hkeep.layermap, hkeep.spare, htaken]
    exact ⟨rfl, rfl⟩
  · have hkeep := keepsBoot_stepEffect (s := s) (prev := prev) hr h7
    rw [hkeep.layermap, hkeep.spare]
    exact hmap (by omega)

/-- What a step finds out beside the map is nothing. -/
theorem stepEffect_facts (hr : Flawless r) (s : State) (prev : Nat → BootEntry) (k : Nat) :
    (stepEffect s r prev k).bootRec = s.bootRec ∧ (stepEffect s r prev k).power = s.power ∧
    (stepEffect s r prev k).sample = s.sample ∧ ∀ t, (tileOf (stepEffect s r prev k) t).fluert = (tileOf s t).fluert := by
  by_cases hk : k = 7
  · subst hk
    have h := keepsBoot_stepEffect_seven (r := r) (prev := prev) s
    exact ⟨h.bootRec, h.power, h.sample, h.flues⟩
  · have h := keepsBoot_stepEffect (s := s) (prev := prev) hr hk
    exact ⟨h.bootRec, h.power, h.sample, h.flues⟩

theorem StepsPassed.next (hr : Flawless r) (hprev : ∀ k, prev k = {}) (h : StepsPassed r k s) (hk : k < 16) :
    StepsPassed r (k + 1) (passStep r prev s k) := by
  obtain ⟨hrec, hpower, hsample, hflues⟩ :=
    stepEffect_facts hr (setBoot { s with bootStep := k } k { bootEntry s k with st := 1 }) prev k
  have hentry : ∀ j, bootEntry (passStep r prev s k) j =
      if k = j then { st := 2, tries := 0, det := 0, ts := r.ts } else bootEntry s j := by
    intro j
    show tget _ (tset (stepEffect _ r prev k).bootRec k _) j = _
    rw [tget_tset, hrec]
    show (if k = j then _ else tget _ (tset s.bootRec k _) j) = _
    rw [tget_tset]
    split <;> rfl
  constructor
  case done =>
    intro j hj
    rw [hentry]
    split
    · rfl
    · exact h.done j (by omega)
  case fresh =>
    intro j hj hj'
    rw [hentry, if_neg (by omega)]
    exact h.fresh j (by omega) hj'
  case flues => exact fun t => (hflues t).trans (h.flues t)
  case power => exact hpower.trans h.power
  case sample => exact hsample.trans h.sample
  case map => exact stepEffect_map hr hprev h.flues h.map
  case up =>
    intro h16
    obtain rfl : k = 15 := by omega
    exact ⟨rfl, rfl⟩

/-- The steps from k on pass one after the other. -/
theorem StepsPassed.run (hr : Flawless r) (hprev : ∀ k, prev k = {}) {n : Nat} (h : StepsPassed r k s) (hn : k + n = 16) :
    StepsPassed r 16 (kindleSteps r prev (List.range' k n) s) := by
  induction n generalizing k s with
  | zero => exact hn ▸ h
  | succ n ih =>
    rw [List.range'_succ, kindleSteps_pass hr hprev h (by omega)]
    exact ih (h.next hr hprev (by omega)) (by omega)

end

/-- A record in which no step has been tried. -/
theorem tget_blank (l : List Nat) (j : Nat) : tget ({} : BootEntry) (l.map fun k => (k, {})) j = {} := by
  induction l with
  | nil => rfl
  | cons k l ih =>
    simp only [List.map_cons, tget, ih]
    split <;> rfl

/-- A kindling's new record, in which every failed start of the one in flash still counts, with its power and sample. -/
def freshRecord (s : State) (r : KindlingInput) : State :=
  { s with bootRec := (List.range 16).map fun k => (k, { tries := (lastBoot (tget {} s.flash k)).tries }),
           power := r.power, sample := r.temps }

/-- The state from which the steps of kindling set out. -/
def kindled (s : State) (r : KindlingInput) : State := nextSample (measureRails (freshRecord s r) r.volts)

theorem exec_kindling {s : State} (r : KindlingInput) (hp : s.powered = true) (hd : s.bootDone = false)
    (hstop : s.bootStop = false) :
    exec (.kindling r) s =
      .next (kindleSteps r (fun k => lastBoot (tget {} s.flash k)) (List.range 16) (kindled s r)) := by
  show execKindling r s = _
  unfold execKindling
  rw [if_pos hp]
  simp only [whenever, hd, hstop, Bool.not_false, Bool.and_self, if_true, kindled, freshRecord]

theorem keepsBoot_kindled (s : State) (r : KindlingInput) : KeepsBoot (freshRecord s r) (kindled s r) :=
  .nextSample (.of_tiles rfl rfl)

theorem bootEntry_kindled {s : State} {r : KindlingInput} (hflash : s.flash = []) (j : Nat) :
    bootEntry (kindled s r) j = {} := by
  rw [bootEntry, (keepsBoot_kindled s r).bootRec, freshRecord, hflash]
  exact tget_blank _ j

theorem stepsPassed_kindled {s : State} {r : KindlingInput} (hflash : s.flash = []) (hflues : ∀ t, (tileOf s t).fluert = 0) :
    StepsPassed r 0 (kindled s r) := by
  have h := keepsBoot_kindled s r
  constructor
  case done => exact fun j hj => absurd hj (Nat.not_lt_zero j)
  case fresh =>
    intro j _ _
    exact bootEntry_kindled hflash j
  case flues => exact fun t => (h.flues t).trans (hflues t)
  case power => exact h.power
  case sample => exact h.sample
  case map => exact fun hk => absurd hk (by decide)
  case up => exact fun hk => absurd hk (by decide)

/-! ### Interrupts of the bellows core, and its power (R109, R110, R374, R375, R380, R381) -/

theorem settleInh_none {s : State} (h : s.bellows.clearInh = none) : settleInh s = s := by
  unfold settleInh
  rw [h]

/-- An entry whose results are written is taken. -/
theorem exec_interruptEntry_taken {s : State} {cls code : Nat} {epc : Word} (hinh : s.bellows.clearInh = none)
    (hentry : s.bellows.pendEntry = some (cls, code, epc)) (hpend : s.bellows.core.pend = []) :
    exec .interruptEntry s = .next (enterHandler s cls code epc) := by
  show execInterruptEntry s = _
  unfold execInterruptEntry
  rw [settleInh_none hinh]
  dsimp only
  rw [hentry]
  simp [hpend]

/-- An awake core with interrupts enabled and no delay bundle open sets out the entry of its lowest pending line. -/
theorem exec_interruptEntry_line {s : State} {l : Nat} (hinh : s.bellows.clearInh = none) (hentry : s.bellows.pendEntry = none)
    (hst : s.bellows.st = .running ∨ s.bellows.st = .halted) (hie : s.bellows.ie = true) (hfree : s.bellows.inh = false)
    (hline : pendingLine s.bellows = some l) (hdelay : s.bellows.st = .running → inDelay s.bellows.core = false) :
    exec .interruptEntry s = .next (bellowsEnter s 0x06 l (nextBundle s .bellows)) := by
  show execInterruptEntry s = _
  unfold execInterruptEntry
  rw [settleInh_none hinh]
  dsimp only
  rw [hentry]
  rcases hst with h | h
  · simp [h, hie, hfree, hline, hdelay h]
  · simp [h, hie, hfree, hline]

/-- An entry for which no other waits is noted, and its own event set out. -/
theorem bellowsEnter_line {s : State} (hentry : s.bellows.pendEntry = none) (code : Nat) (epc : Word) :
    bellowsEnter s 0x06 code epc =
      schedule { s with bellows := { s.bellows with pendEntry := some (0x06, code, epc) } } (lastWrite s s.bellows.core)
        .interruptEntry := by
  unfold bellowsEnter
  simp [hentry]

theorem exists_mem_schedule (s : State) (due : Nat) (ev : Instr) : ∃ p ∈ (schedule s due ev).events, p.ev = ev ∧ p.due = due :=
  ⟨_, mem_insertEvent.2 (.inl rfl), rfl, rfl⟩

theorem pendingLine_lowest {b : Bellows} {l : Nat} (h : pendingLine b = some l) :
    l < 12 ∧ b.birq.getLsbD l = true ∧ b.bien.getLsbD l = true ∧ ∀ k < l, (b.birq.getLsbD k && b.bien.getLsbD k) = false := by
  obtain ⟨hl, hmem, hlow⟩ := List.find?_range_eq_some.1 h
  simp only [BitVec.getLsbD_and, Bool.and_eq_true] at hl
  refine ⟨List.mem_range.1 hmem, hl.1, hl.2, fun k hk => ?_⟩
  simpa only [BitVec.getLsbD_and, Bool.not_eq_true'] using hlow k hk

theorem exec_eret {s : State} (hr : Ready .eret s) (hplace : transferMisplaced s true = false) :
    exec .eret s = .next (advance { takeTransfer s (some s.bellows.epc) none with
      bellows := { (takeTransfer s (some s.bellows.epc) none).bellows with clearInh := some s.cur.n } }) := by
  have hcur : (takeTransfer s (some s.bellows.epc) none).cur = s.cur := by simp [takeTransfer, updCur]
  rw [exec_ready hr rfl, if_neg (by simp [hplace])]
  dsimp only
  rw [hcur]
  rfl

/-- The entry last written to the record outlives a loss of power. -/
theorem tget_flash_powerOff (s : State) (k : Nat) (e : BootEntry) : tget {} (powerOff (setBoot s k e)).flash k = e :=
  tget_tset_self ..

/-- A kindling that loses power in its first step stops there, and the record in flash shows that step running. -/
theorem exec_kindling_lost {s : State} {r : KindlingInput} (hp : s.powered = true) (hd : s.bootDone = false)
    (hstop : s.bootStop = false) (hflash : s.flash = []) (hlost : r.lostAt = some 0) :
    exec (.kindling r) s =
      .next (powerOff (setBoot { kindled s r with bootStep := 0 } 0 { bootEntry (kindled s r) 0 with st := 1 })) := by
  have hfresh : ¬ 3 ≤ (bootEntry (kindled s r) 0).tries := by simp [bootEntry_kindled hflash]
  rw [exec_kindling r hp hd hstop, List.range_eq_range', List.range'_succ, kindleSteps]
  dsimp only
  rw [if_neg hfresh, if_pos hlost]


/-- Settles O53: the entry and the transfers case by case, kindling by the invariant of its steps that passed. -/
theorem bellowsEvents : Obligations.BellowsEvents := by
  unfold Obligations.BellowsEvents
  refine ⟨?entry, ?line, fun b l => pendingLine_lowest, fun s hr hplace => ⟨_, exec_eret hr hplace, rfl⟩, ?settle,
    fun s => ⟨_, rfl, rfl, rfl, rfl, rfl, rfl, rfl⟩, fun s => ⟨_, rfl, rfl, rfl, rfl, rfl, rfl⟩, ?noReset, ?noKindling,
    ?kindling, ?lost⟩
  case entry =>
    exact fun s cls code epc hinh hentry hpend =>
      ⟨_, exec_interruptEntry_taken hinh hentry hpend, rfl, rfl, rfl, rfl, rfl, rfl, rfl, rfl, fun _ => rfl, rfl⟩
  case line =>
    intro s l hinh hentry hst hie hfree hline hdelay
    refine ⟨_, exec_interruptEntry_line hinh hentry hst hie hfree hline hdelay, ?_⟩
    rw [bellowsEnter_line hentry]
    exact ⟨rfl, rfl, exists_mem_schedule ..⟩
  case settle =>
    intro s n hinh hn
    unfold settleInh
    simp [hinh, hn]
  case noReset =>
    intro s x hx
    show execResetRequest x s = _
    rw [execResetRequest, beq_false_of_ne hx]
    rfl
  case noKindling =>
    intro s r hp hdone
    show execKindling r s = _
    unfold execKindling
    rw [if_pos hp]
    rcases hdone with h | h <;> simp [whenever, h]
  case kindling =>
    intro s r hp hd hstop hflash hflues hfailed htiles hrouters hdies hbadflues hsweeps hlost
    have hr : Flawless r := ⟨hfailed, htiles, hrouters, hdies, hbadflues, hsweeps, hlost⟩
    have hprev : ∀ k, lastBoot (tget {} s.flash k) = {} := fun k => by rw [hflash]; rfl
    have h := (stepsPassed_kindled (r := r) hflash hflues).run hr hprev (n := 16) rfl
    rw [← List.range_eq_range'] at h
    exact ⟨_, exec_kindling r hp hd hstop, (h.up (Nat.le_refl 16)).1, (h.up (Nat.le_refl 16)).2, (h.map (by decide)).1,
      (h.map (by decide)).2, h.power, h.sample, h.done⟩
  case lost =>
    intro s r hp hd hstop hflash hlost
    exact ⟨_, exec_kindling_lost hp hd hstop hflash hlost, rfl, rfl, congrArg BootEntry.st (tget_flash_powerOff ..)⟩

/-! ### What a stop, a save and a scrub look up -/

theorem exists_mem_scheduleOnce (s : State) (due : Nat) (ev : Instr) :
    ∃ p ∈ (scheduleOnce s due ev).events, p.ev = ev ∧ p.due ≤ due := by
  unfold scheduleOnce
  split
  next h =>
    obtain ⟨p, hp, hev⟩ := List.any_eq_true.1 h
    simp only [Bool.and_eq_true, beq_iff_eq, decide_eq_true_eq] at hev
    exact ⟨p, hp, hev⟩
  next =>
    obtain ⟨p, hp, hev, hdue⟩ := exists_mem_schedule s due ev
    exact ⟨p, hp, hev, hdue.le⟩

theorem ctxOf_congr {s s' : State} (h : s'.contexts = s.contexts) (c : Nat) : ctxOf s' c = ctxOf s c :=
  congrArg (tget ({} : Context) · c) h

theorem tileOf_updTile_self (s : State) (t : Nat) (f : Tile → Tile) : tileOf (updTile s t f) t = f (tileOf s t) := by simp

/-- Tiles whose memories are each as before, beside the same other memories. -/
theorem sameMemory_of_tiles {s s' : State} (hhbm : s'.hbm = s.hbm) (hbellows : s'.bellows.mem = s.bellows.mem)
    (htile : ∀ n, (tileOf s' n).floor = (tileOf s n).floor ∧ (tileOf s' n).wells = (tileOf s n).wells) : SameMemory s s' :=
  fun _ => ⟨by rw [hhbm], by rw [hbellows], fun n => ⟨by rw [(htile n).1], by rw [(htile n).2]⟩⟩

theorem sameMemory_updTile {s : State} {t : Nat} {f : Tile → Tile} (hf : ∀ x, (f x).floor = x.floor ∧ (f x).wells = x.wells) :
    SameMemory s (updTile s t f) := by
  refine sameMemory_of_tiles rfl rfl fun n => ?_
  rw [tileOf_updTile]
  split
  next h => exact h ▸ hf _
  next => exact ⟨rfl, rfl⟩

/-- The hc, the tasks, the contexts, the bellows core and the task whose words a tile issues are the same in two states. -/
structure KeepsTasks (s s' : State) : Prop where
  hc : s'.hc = s.hc
  contexts : s'.contexts = s.contexts
  bellows : s'.bellows = s.bellows
  tile : ∀ t, (tileOf s' t).tasks = (tileOf s t).tasks ∧ (tileOf s' t).issuing = (tileOf s t).issuing

theorem KeepsTasks.refl (s : State) : KeepsTasks s s := ⟨rfl, rfl, rfl, fun _ => ⟨rfl, rfl⟩⟩

theorem KeepsTasks.trans {a b c : State} (h : KeepsTasks a b) (k : KeepsTasks b c) : KeepsTasks a c :=
  ⟨k.hc.trans h.hc, k.contexts.trans h.contexts, k.bellows.trans h.bellows,
    fun t => ⟨(k.tile t).1.trans (h.tile t).1, (k.tile t).2.trans (h.tile t).2⟩⟩

section
variable {a s : State}

theorem KeepsTasks.taskOf {s' : State} (h : KeepsTasks s s') (t k : Nat) : taskOf s' t k = taskOf s t k :=
  congrArg (tget ({} : Task) · k) (h.tile t).1

theorem KeepsTasks.foldl {α : Type} {f : State → α → State} {l : List α} (h : KeepsTasks a s)
    (hf : ∀ s x, KeepsTasks s (f s x)) : KeepsTasks a (l.foldl f s) :=
  h.trans (foldl_rel KeepsTasks.refl KeepsTasks.trans hf l s)

theorem KeepsTasks.updTile {t : Nat} {f : Tile → Tile} (h : KeepsTasks a s)
    (hf : ∀ x, (f x).tasks = x.tasks ∧ (f x).issuing = x.issuing) : KeepsTasks a (updTile s t f) := by
  refine h.trans ⟨rfl, rfl, rfl, fun j => ?_⟩
  rw [tileOf_updTile]
  split
  next h => exact h ▸ hf _
  next => exact ⟨rfl, rfl⟩

theorem OnlyFree.keepsTasks {s' : State} (h : OnlyFree s s') : KeepsTasks s s' := by
  obtain ⟨_, rfl⟩ := h
  exact ⟨rfl, rfl, rfl, fun _ => ⟨rfl, rfl⟩⟩

theorem KeepsTasks.openSlot {t v k : Nat} (h : KeepsTasks a s) : KeepsTasks a (openSlot s t v k) := by
  unfold Machine.openSlot
  exact .updTile (h.trans (onlyFree_openRange ..).keepsTasks) fun _ => ⟨rfl, rfl⟩

theorem KeepsTasks.loseSlot {t v : Nat} (h : KeepsTasks a s) : KeepsTasks a (loseSlot s t v) := by
  unfold Machine.loseSlot
  exact .updTile h.openSlot fun _ => ⟨rfl, rfl⟩

theorem KeepsTasks.stopCopies {t : Nat} (h : KeepsTasks a s) : KeepsTasks a (stopCopies s t) := by
  refine .foldl h fun s e => .updTile ?_ fun _ => ⟨rfl, rfl⟩
  have hcmds : KeepsTasks s ((tget {} (tileOf s t).cpy e : CopyEng).cmds.foldl (fun s c =>
      let s := c.claimed.foldl (fun s v => Machine.loseSlot s v.1 v.2) s
      match evictingSlot (tileOf s t) e c with
      | some v => Machine.loseSlot s t v
      | none => s) s) := by
    refine .foldl (.refl s) fun s c => ?_
    have hclaimed : KeepsTasks s (c.claimed.foldl (fun s v => Machine.loseSlot s v.1 v.2) s) :=
      .foldl (.refl s) fun s _ => (KeepsTasks.refl s).loseSlot
    dsimp only
    split
    · exact hclaimed.loseSlot
    · exact hclaimed
  split
  · exact hcmds.loseSlot
  · exact hcmds

theorem KeepsTasks.stopCube {t : Nat} (h : KeepsTasks a s) : KeepsTasks a (stopCube s t) := by
  unfold Machine.stopCube
  exact .updTile (.foldl h fun s o => .foldl (.refl s) fun s _ => (KeepsTasks.refl s).loseSlot) fun _ => ⟨rfl, rfl⟩

end

/-! ### The halt line (R298, R299, R303) -/

@[simp] theorem writeDest_st (x : Task) (d : Dest) (v : VWord) : (writeDest x d v).st = x.st := by
  cases d with
  | s n => simp only [writeDest, writeS]; split <;> rfl
  | v n m => rfl
  | p n => simp only [writeDest, writeP]; split <;> rfl
  | fmt => rfl

@[simp] theorem writeNoted_st (x : Task) (w : PendWrite) : (writeNoted x w).st = x.st := by
  unfold writeNoted
  dsimp only
  split <;> exact writeDest_st ..

/-- Results on their way do not change what a task does. -/
@[simp] theorem writeDue_st (hc : Nat) (x : Task) : (writeDue hc x).st = x.st := by
  have hfold : ∀ (l : List PendWrite) (x : Task), (l.foldl writeNoted x).st = x.st := by
    intro l
    induction l with
    | nil => exact fun _ => rfl
    | cons w l ih => exact fun x => (ih _).trans (writeNoted_st x w)
  exact hfold _ x

/-- A refresh of a group leaves every tile and context as it was. -/
theorem refreshGroup_tiles (s : State) (g : Nat) : (refreshGroup s g).tiles = s.tiles ∧
    (refreshGroup s g).contexts = s.contexts ∧ (refreshGroup s g).hc = s.hc := by
  unfold refreshGroup
  split
  · dsimp only
    split
    · exact ⟨rfl, rfl, rfl⟩
    · exact ⟨rfl, rfl, rfl⟩
  · exact ⟨rfl, rfl, rfl⟩

/-- A task that is stopped: its results due are written, its state is kept, the rest waits as long as it had to. -/
def stoppedTask (hc : Nat) (x : Task) : Task :=
  { writeDue hc x with st := .stopped, stSave := (writeDue hc x).st, preq := false, stall := none,
                       pend := (writeDue hc x).pend.map fun w => { w with due := w.due - hc } }

/-- A task that is neither free nor stopped. -/
def Stoppable (x : Task) : Prop := x.st.occupied = true ∧ x.st ≠ .stopped

/-- What a stop of some of a tile's tasks leaves: these stopped and no longer issuing, the others as they were. -/
structure Stops (s s' : State) (t : Nat) (ks : List Nat) : Prop where
  contexts : s'.contexts = s.contexts
  hc : s'.hc = s.hc
  each : ∀ k ∈ ks, Stoppable (taskOf s t k) →
    taskOf s' t k = stoppedTask s.hc (taskOf s t k) ∧ (tileOf s' t).issuing ≠ some k
  other : ∀ k ∉ ks, taskOf s' t k = taskOf s t k
  issuing : ∀ k, (tileOf s t).issuing ≠ some k → (tileOf s' t).issuing ≠ some k

theorem Stops.cons {s s₁ s' : State} {t k : Nat} {ks : List Nat} (h : Stops s s₁ t [k]) (h' : Stops s₁ s' t ks) (hk : k ∉ ks) :
    Stops s s' t (k :: ks) := by
  have hsame : ∀ j ≠ k, taskOf s₁ t j = taskOf s t j := fun j hj => h.other j (by simpa using hj)
  refine ⟨h'.contexts.trans h.contexts, h'.hc.trans h.hc, fun j hj hstop => ?_, fun j hj => ?_,
    fun j hj => h'.issuing j (h.issuing j hj)⟩
  · rcases eq_or_ne j k with rfl | hne
    · obtain ⟨hstopped, hfree⟩ := h.each j List.mem_cons_self hstop
      exact ⟨(h'.other j hk).trans hstopped, h'.issuing j hfree⟩
    · have hj' := h'.each j ((List.mem_cons.1 hj).resolve_left hne)
      rw [hsame j hne, h.hc] at hj'
      exact hj' hstop
  · rw [List.mem_cons, not_or] at hj
    exact (h'.other j hj.2).trans (hsame j hj.1)

/-- A task that issues no longer holds its tile's issue. -/
def releaseIssue (s : State) (t k : Nat) : State :=
  if (tileOf s t).issuing = some k then updTile s t fun y => { y with issuing := none, freedAt := s.hc } else s

theorem releaseIssue_tile (s : State) (t k : Nat) :
    (tileOf (releaseIssue s t k) t).tasks = (tileOf s t).tasks ∧ (tileOf (releaseIssue s t k) t).issuing ≠ some k ∧
      (∀ j, (tileOf s t).issuing ≠ some j → (tileOf (releaseIssue s t k) t).issuing ≠ some j) ∧
      (releaseIssue s t k).contexts = s.contexts ∧ (releaseIssue s t k).hc = s.hc := by
  unfold releaseIssue
  split
  · simp
  next h => exact ⟨rfl, h, fun _ h => h, rfl, rfl⟩

theorem stopTask_eq {s : State} {t k : Nat} (h : Stoppable (taskOf s t k)) :
    stopTask s t k = (match (taskOf s t k).gid with
      | some g => refreshGroup (updTask (releaseIssue s t k) t k (stoppedTask (releaseIssue s t k).hc)) g
      | none => updTask (releaseIssue s t k) t k (stoppedTask (releaseIssue s t k).hc)) := by
  unfold stopTask
  rw [if_neg (by simp [h.1, h.2])]
  rfl

theorem stops_stopTask (s : State) (t k : Nat) : Stops s (stopTask s t k) t [k] := by
  by_cases h : Stoppable (taskOf s t k)
  case neg =>
    have hskip : stopTask s t k = s := by
      unfold stopTask
      exact if_pos (by by_contra hc; exact h (by simpa [Stoppable] using hc))
    rw [hskip]
    exact ⟨rfl, rfl, fun j hj hj' => absurd (List.mem_singleton.1 hj ▸ hj') h, fun _ _ => rfl, fun _ h => h⟩
  case pos =>
    obtain ⟨htasks, hself, hother, hctx, hhc⟩ := releaseIssue_tile s t k
    have htask : ∀ j, taskOf (releaseIssue s t k) t j = taskOf s t j := fun j => congrArg (tget ({} : Task) · j) htasks
    have hgroup : ∃ s', stopTask s t k = s' ∧
        s'.tiles = (updTask (releaseIssue s t k) t k (stoppedTask (releaseIssue s t k).hc)).tiles ∧
        s'.contexts = (releaseIssue s t k).contexts ∧ s'.hc = (releaseIssue s t k).hc := by
      rw [stopTask_eq h]
      split
      · exact ⟨_, rfl, refreshGroup_tiles ..⟩
      · exact ⟨_, rfl, rfl, rfl, rfl⟩
    obtain ⟨s', hs', htiles, hctx', hhc'⟩ := hgroup
    have hissuing : (tileOf s' t).issuing = (tileOf (releaseIssue s t k) t).issuing := by
      rw [tileOf_congr htiles, updTask, tileOf_updTile_self]
    have htask' : ∀ j, taskOf s' t j = if j = k then stoppedTask s.hc (taskOf s t k) else taskOf s t j := by
      intro j
      rw [taskOf, tileOf_congr htiles, ← taskOf, taskOf_updTask, hhc, htask, htask]
      simp only [true_and, eq_comm]
    rw [hs']
    refine ⟨hctx'.trans hctx, hhc'.trans hhc, fun j hj _ => ?_, fun j hj => ?_, fun j hj => hissuing ▸ hother j hj⟩
    · obtain rfl := List.mem_singleton.1 hj
      exact ⟨by rw [htask', if_pos rfl], hissuing ▸ hself⟩
    · rw [htask', if_neg (by simpa using hj)]

/-- Tasks stopped one after the other are all stopped. -/
theorem stops_stopTasks (t : Nat) (ks : List Nat) (s : State) (hnodup : ks.Nodup) :
    Stops s (ks.foldl (fun s k => stopTask s t k) s) t ks := by
  induction ks generalizing s with
  | nil => exact ⟨rfl, rfl, fun _ h => absurd h List.not_mem_nil, fun _ _ => rfl, fun _ h => h⟩
  | cons k ks ih =>
    obtain ⟨hk, hnodup⟩ := List.nodup_cons.1 hnodup
    exact (stops_stopTask s t k).cons (ih _ hnodup) hk

/-- A tile's stop leaves every task of it that was not stopped stopped, with the state it was in. -/
theorem stopTile_spec (s : State) (t : Nat) :
    (stopTile s t).contexts = s.contexts ∧ (stopTile s t).hc = s.hc ∧ (tileOf (stopTile s t) t).hints = [] ∧
    ∀ k < 4, Stoppable (taskOf s t k) →
      taskOf (stopTile s t) t k = stoppedTask s.hc (taskOf s t k) ∧ (tileOf (stopTile s t) t).issuing ≠ some k := by
  unfold stopTile
  extract_lets s₁ s₂
  have h₁ : Stops s s₁ t [0, 1, 2, 3] := stops_stopTasks t [0, 1, 2, 3] s (by decide)
  have h₂ : KeepsTasks s₁ s₂ := (KeepsTasks.refl s₁).stopCopies.stopCube
  clear_value s₂ s₁
  refine ⟨h₂.contexts.trans h₁.contexts, h₂.hc.trans h₁.hc, by simp [stampStops], fun k hk hrun => ?_⟩
  obtain ⟨htask, hissuing⟩ := h₁.each k (by simp; omega) hrun
  refine ⟨?_, ?_⟩
  · rw [← htask, ← h₂.taskOf t k]
    simp [taskOf, stampStops]
  · rw [tileOf_updTile_self]
    exact (h₂.tile t).2 ▸ hissuing

/-- The halt line at a tile that it still has to reach. -/
theorem exec_haltLineArrival {s : State} {c t : Nat} (hst : (ctxOf s c).st = .halting) (ht : t ∈ (ctxOf s c).haltTiles) :
    exec (.haltLineArrival c t) s =
      .next (updCtx (stopTile s t) c fun x => { x with haltTiles := x.haltTiles.filter (· != t) }) := by
  show execHaltLineArrival c t s = _
  simp [execHaltLineArrival, whenever, hst, ht]

theorem haltLine (s : State) (c t : Nat) (hst : (ctxOf s c).st = .halting) (ht : t ∈ (ctxOf s c).haltTiles) :
    ∃ s', exec (.haltLineArrival c t) s = .next s' ∧
      (ctxOf s' c).haltTiles = (ctxOf s c).haltTiles.filter (fun u => u != t) ∧ (tileOf s' t).hints = [] ∧
      ∀ k < 4, (taskOf s t k).st.occupied = true → (taskOf s t k).st ≠ .stopped → (taskOf s' t k).st = .stopped ∧
        (taskOf s' t k).stSave = (taskOf s t k).st ∧ (taskOf s' t k).preq = false ∧ (tileOf s' t).issuing ≠ some k := by
  obtain ⟨hctx, -, hhints, hstop⟩ := stopTile_spec s t
  rw [exec_haltLineArrival hst ht]
  generalize stopTile s t = s₁ at hctx hhints hstop ⊢
  refine ⟨_, rfl, by simp [ctxOf_congr hctx], hhints, fun k hk hocc hne => ?_⟩
  obtain ⟨htask, hissuing⟩ := hstop k hk ⟨hocc, hne⟩
  have htask' : ∀ f, taskOf (updCtx s₁ c f) t k = stoppedTask s.hc (taskOf s t k) := fun _ => htask
  rw [htask']
  exact ⟨rfl, writeDue_st .., rfl, hissuing⟩

/-! ### The stop records, results due and unanswered atomics (R298, R299, R304) -/

theorem sameMemory_trans {a b c : State} (h : SameMemory a b) (k : SameMemory b c) : SameMemory a c := fun x =>
  ⟨(k x).1.trans (h x).1, (k x).2.1.trans (h x).2.1,
    fun n => ⟨((k x).2.2 n).1.trans ((h x).2.2 n).1, ((k x).2.2 n).2.trans ((h x).2.2 n).2⟩⟩

/-- The state after a step that writes tiles back as they were. -/
def SameTiles (s s' : State) : Prop := ∃ m : Table Tile, s' = { s with tiles := m } ∧ ∀ j, tileOf s' j = tileOf s j

theorem SameTiles.trans {a b c : State} (h : SameTiles a b) (k : SameTiles b c) : SameTiles a c := by
  obtain ⟨_, rfl, ha⟩ := h
  obtain ⟨m, rfl, hb⟩ := k
  exact ⟨m, rfl, fun j => (hb j).trans (ha j)⟩

/-- Which operations a stop drops is a matter of the operation, the flues and the layer map. -/
theorem SameTiles.haltDrops {s s' : State} (h : SameTiles s s') (t : Nat) (o : CubeOp) : haltDrops s' t o = haltDrops s t o := by
  obtain ⟨m, rfl, htile⟩ := h
  simp only [Machine.haltDrops, drainLost, pathLost, htile]
  rfl

/-- A stop leaves a tile's operations as they are where it drops none. -/
theorem sameTiles_stopCube {s : State} {t : Nat} (h : ∀ o ∈ (tileOf s t).cubeOps, haltDrops s t o = false) :
    SameTiles s (stopCube s t) := by
  have hearly : (tileOf s t).cubeOps.filter (haltDrops s t) = [] := List.filter_eq_nil_iff.2 fun o ho => by simp [h o ho]
  have hkept : ((tileOf s t).cubeOps.map fun o => if haltDrops s t o then abandonedOp o else o) = (tileOf s t).cubeOps :=
    (List.map_congr_left fun o ho => by simp [h o ho]).trans (List.map_id _)
  have hsame : stopCube s t = updTile s t fun x => { x with cubeOps := (tileOf s t).cubeOps } := by
    unfold stopCube
    simp only [hearly, List.any_nil, Bool.not_false, Bool.or_true, List.filter_true, hkept, List.foldl_nil]
  refine ⟨_, hsame, fun j => ?_⟩
  rw [hsame, tileOf_updTile]
  split
  next hj => exact hj ▸ rfl
  next => rfl

theorem sameTiles_stopCubes {ts : List Nat} {s : State} (h : ∀ t ∈ ts, ∀ o ∈ (tileOf s t).cubeOps, haltDrops s t o = false) :
    SameTiles s (ts.foldl stopCube s) := by
  induction ts generalizing s with
  | nil => exact ⟨s.tiles, rfl, fun _ => rfl⟩
  | cons t ts ih =>
    have hone : SameTiles s (stopCube s t) := sameTiles_stopCube (h t List.mem_cons_self)
    refine hone.trans (ih fun u hu o ho => ?_)
    rw [hone.haltDrops]
    obtain ⟨_, _, htile⟩ := hone
    exact h u (List.mem_cons_of_mem t hu) o (htile u ▸ ho)

theorem SameTiles.sameMemory {s s' : State} (h : SameTiles s s') : SameMemory s s' := by
  obtain ⟨_, rfl, htile⟩ := h
  exact sameMemory_of_tiles rfl rfl fun n => by rw [htile n]; exact ⟨rfl, rfl⟩

@[simp] theorem raiseLine_birq (s : State) (n : Nat) : (raiseLine s n).bellows.birq = s.bellows.birq ||| (1 <<< n) := by
  simp [raiseLine]

@[simp] theorem ctxOf_raiseLine (s : State) (n c : Nat) : ctxOf (raiseLine s n) c = ctxOf s c := by
  unfold raiseLine
  rw [ctxOf_scheduleOnce]
  rfl

/-- A line raised leaves every memory as it was. -/
theorem sameMemory_raiseLine (s : State) (n : Nat) : SameMemory s (raiseLine s n) := by
  unfold raiseLine
  exact sameMemory_of_tiles (scheduleOnce_hbm ..) (by rw [scheduleOnce_bellows]) fun t => by
    rw [tileOf_congr (scheduleOnce_tiles ..)]
    exact ⟨rfl, rfl⟩

/-- A halt whose records are all closed is done. -/
theorem exec_stopRecordClose_closed {s : State} {c : Nat} (hst : (ctxOf s c).st = .halting) (hline : (ctxOf s c).haltTiles = [])
    (hclosed : ∀ t ∈ ctxTiles s c, recordOpen s t = false) (hdestroy : (ctxOf s c).destroyAfter = false) :
    exec (.stopRecordClose c) s =
      .next (raiseLine (updCtx ((ctxTiles s c).foldl stopCube s) c fun x => { x with st := .halted, closing := false }) 5) := by
  have hany : (ctxTiles s c).any (recordOpen s) = false := List.any_eq_false.2 fun t ht => by simp [hclosed t ht]
  show execStopRecordClose c s = _
  simp [execStopRecordClose, hst, hline, hany, hdestroy]

/-- A halt with a record open is looked at again. -/
theorem exec_stopRecordClose_open {s : State} {c : Nat} (hst : (ctxOf s c).st = .halting)
    (hopen : ∃ t ∈ ctxTiles s c, recordOpen s t = true) :
    exec (.stopRecordClose c) s = .next (scheduleOnce s (s.hc + 1) (.stopRecordClose c)) := by
  have hany : (ctxTiles s c).any (recordOpen s) = true := List.any_eq_true.2 hopen
  show execStopRecordClose c s = _
  simp [execStopRecordClose, hst, hany]

theorem stopRecords (s : State) (c : Nat) (hst : (ctxOf s c).st = .halting) (hline : (ctxOf s c).haltTiles = []) :
    ((∀ t ∈ ctxTiles s c, recordOpen s t = false) → (ctxOf s c).destroyAfter = false → ∃ s',
      exec (.stopRecordClose c) s = .next s' ∧ (ctxOf s' c).st = .halted ∧ (ctxOf s' c).code = (ctxOf s c).code ∧
      (ctxOf s' c).src = (ctxOf s c).src ∧ (ctxOf s' c).addr = (ctxOf s c).addr ∧
      s'.bellows.birq = s.bellows.birq ||| (1 <<< 5) ∧
      ((∀ t ∈ ctxTiles s c, ∀ o ∈ (tileOf s t).cubeOps, haltDrops s t o = false) → SameMemory s s')) ∧
    ((∃ t ∈ ctxTiles s c, recordOpen s t = true) → ∃ s', exec (.stopRecordClose c) s = .next s' ∧
      s'.contexts = s.contexts ∧ (∃ p ∈ s'.events, p.ev = .stopRecordClose c ∧ p.due ≤ s.hc + 1) ∧ SameMemory s s') := by
  refine ⟨fun hclosed hdestroy => ?_, fun hopen => ?_⟩
  · rw [exec_stopRecordClose_closed hst hline hclosed hdestroy]
    have hkeeps : KeepsTasks s ((ctxTiles s c).foldl stopCube s) := .foldl (.refl s) fun s _ => (KeepsTasks.refl s).stopCube
    have hmem : (∀ t ∈ ctxTiles s c, ∀ o ∈ (tileOf s t).cubeOps, haltDrops s t o = false) →
        SameMemory s ((ctxTiles s c).foldl stopCube s) := fun h => (sameTiles_stopCubes h).sameMemory
    generalize (ctxTiles s c).foldl stopCube s = s₁ at hkeeps hmem ⊢
    have hctx : ∀ f, ctxOf (raiseLine (updCtx s₁ c f) 5) c = f (ctxOf s c) := fun f => by
      rw [ctxOf_raiseLine, ctxOf_updCtx, if_pos rfl, ctxOf_congr hkeeps.contexts]
    refine ⟨_, rfl, by rw [hctx], by rw [hctx], by rw [hctx], by rw [hctx], ?_, fun h => ?_⟩
    · rw [raiseLine_birq]
      exact congrArg (·.birq ||| _) hkeeps.bellows
    · exact sameMemory_trans (b := updCtx s₁ c _) (hmem h) (sameMemory_raiseLine _ _)
  · exact ⟨_, exec_stopRecordClose_open hst hopen, scheduleOnce_contexts .., exists_mem_scheduleOnce ..,
      sameMemory_of_tiles (scheduleOnce_hbm ..) (by rw [scheduleOnce_bellows]) fun t => by simp [tileOf]⟩

theorem pendingWrites {s : State} {t k : Nat} (hocc : (taskOf s t k).st.occupied = true) (hne : (taskOf s t k).st ≠ .stopped) :
    exec (.pendingWriteApply t k) s = .next (updTask s t k (writeDue s.hc)) := by
  show execPendingWriteApply t k s = _
  simp [execPendingWriteApply, whenever, hocc, hne]

/-- A tile whose held tasks' atomics still unanswered are saved so. -/
def noteUnanswered (x : Tile) : Tile :=
  { x with cpy := x.cpy.map fun e => (e.1, { e.2 with cmds := e.2.cmds.map fun c =>
      if c.atomic && c.sent && c.answered.isNone && (tget ({} : Task) x.tasks c.task).st == .held then
        { c with unanswered := true } else c }) }

theorem exec_preemptAtomicTimeout {s : State} {c : Nat} (hst : (ctxOf s c).st = .preempting) :
    exec (.preemptAtomicTimeout c) s = .next ((ctxTiles s c).foldl (fun s t => updTile s t noteUnanswered) s) := by
  show execPreemptAtomicTimeout c s = _
  rw [execPreemptAtomicTimeout, hst]
  rfl

theorem unansweredAtomics {s : State} {c t : Nat} (hst : (ctxOf s c).st = .preempting) (htiles : ctxTiles s c = [t]) :
    ∃ s', exec (.preemptAtomicTimeout c) s = .next s' ∧ (tileOf s' t).cpy = (noteUnanswered (tileOf s t)).cpy ∧
      SameMemory s s' := by
  rw [exec_preemptAtomicTimeout hst, htiles]
  exact ⟨_, rfl, congrArg Tile.cpy (tileOf_updTile_self ..), sameMemory_updTile fun _ => ⟨rfl, rfl⟩⟩

/-! ### The work of a restored context goes on (R309) -/

/-- An event is set out for an hc at which P holds. -/
def Due (s : State) (ev : Instr) (P : Nat → Prop) : Prop := ∃ p ∈ s.events, p.ev = ev ∧ P p.due

section
variable {a s : State}

/-- The result of a global load that is back: its register is filled, and it no longer waits. -/
def takeLoad (t k : Nat) (s : State) (w : PendWrite) : State :=
  let s := updTask s t k fun x => { x with pend := x.pend.filter fun v => v != w }
  match w.dest.reg with
  | some r => fillReg s (.tile t k) r fun x => writeDest x w.dest w.val
  | none => updTask s t k fun x => writeDest x w.dest w.val

theorem Calm.takeLoad {t k : Nat} {w : PendWrite} (h : Calm a s) (hw : w.due ≤ s.hc) : Calm a (takeLoad t k s w) := by
  have hpend : Calm a (Machine.updTask s t k fun x => { x with pend := x.pend.filter fun v => v != w }) := by
    refine .updTask h fun v hv hlate => List.mem_filter.2 ⟨hv, bne_iff_ne.2 ?_⟩
    rintro rfl
    omega
  unfold TaskFlow.takeLoad
  dsimp only
  split
  · exact .fillReg hpend fun _ => writeDest_pend ..
  · exact .updTask_same hpend fun _ => writeDest_pend ..

theorem Calm.takeLoads {t k : Nat} {ws : List PendWrite} (h : Calm a s) (hws : ∀ w ∈ ws, w.due ≤ s.hc) :
    Calm a (ws.foldl (TaskFlow.takeLoad t k) s) := by
  induction ws generalizing s with
  | nil => exact h
  | cons w ws ih =>
    have hone : Calm s (TaskFlow.takeLoad t k s w) := (Calm.refl s).takeLoad (hws w List.mem_cons_self)
    exact ih (h.trans hone) fun v hv => hone.hc ▸ hws v (List.mem_cons_of_mem w hv)

theorem Calm.resumeLoads {t k : Nat} (h : Calm a s) : Calm a (resumeLoads s t k) :=
  .takeLoads h fun _ hw => by simpa using (List.mem_filter.1 hw).2

theorem Calm.kickGlobal {t k : Nat} (h : Calm a s) : Calm a (kickGlobal s t k) := by
  unfold Machine.kickGlobal
  split
  · exact .ite h h.scheduleOpen
  · exact h

theorem Calm.schedulePops {t : Nat} {ps : List Pop} (h : Calm a s) : Calm a (schedulePops s t ps) := by
  induction ps generalizing s with
  | nil => exact h
  | cons p ps ih =>
    unfold Machine.schedulePops
    refine ih ?_
    split
    · exact h.scheduleOnce
    · exact h

end

/-- A lasting event that is set out stays. -/
theorem Calm.due {s s' : State} (h : Calm s s') {ev : Instr} {P : Nat → Prop} (hev : lasting ev = true)
    (hdue : Due s ev P) : Due s' ev P := by
  obtain ⟨p, hp, rfl, hP⟩ := hdue
  exact ⟨p, h.kept p hp hev, rfl, hP⟩

/-- What the resumption of a task does after its results due now. -/
theorem resumeTask_calm (s : State) (t k : Nat) : Calm (resumeLoads s t k) (resumeTask s t k) ∧
    ∀ w ∈ (taskOf (resumeLoads s t k) t k).pend, Due (resumeTask s t k) (.fixedLatencyWrite t k) (· = w.due) := by
  unfold resumeTask
  extract_lets s₁ x s₂ s₃ s₄
  have h₂ : Calm s₁ s₂ := .foldl (.refl s₁) fun s _ => (Calm.refl s).schedule
  have h₃ : Calm s₂ (kickGlobal s₄ t k) :=
    .kickGlobal (.foldl (.updTask_same (.refl s₂) fun _ => rfl) fun s _ => (Calm.refl s).schedule)
  refine ⟨h₂.trans h₃, fun w hw => h₃.due rfl ?_⟩
  obtain ⟨s', -, h⟩ := foldl_reaches Calm.refl Calm.trans
    (f := fun s (w : PendWrite) => schedule s w.due (.fixedLatencyWrite t k)) (fun s _ => (Calm.refl s).schedule) hw s₁
  exact h.due rfl (exists_mem_schedule ..)

theorem Calm.resumeTask {a s : State} {t k : Nat} (h : Calm a s) : Calm a (resumeTask s t k) :=
  h.resumeLoads.trans (resumeTask_calm s t k).1

/-- The first part of a resumption: results in flight are set out at their hc. -/
def resumeTile (s : State) (t : Nat) : State := [0, 1, 2, 3].foldl (fun s k => resumeTask s t k) s

theorem calm_resumeTile (s : State) (t : Nat) : Calm s (resumeTile s t) := .foldl (.refl s) fun s _ => (Calm.refl s).resumeTask

theorem resumeTiles_schedule {ts : List Nat} {s : State} {t k : Nat} (ht : t ∈ ts) (hk : k < 4) {w : PendWrite}
    (hw : w ∈ (taskOf s t k).pend) (hlate : s.hc < w.due) :
    Due (ts.foldl resumeTile s) (.fixedLatencyWrite t k) (· = w.due) := by
  obtain ⟨s₁, h₁, hafter₁⟩ := foldl_reaches Calm.refl Calm.trans calm_resumeTile ht s
  obtain ⟨s₂, h₂, hafter₂⟩ := foldl_reaches Calm.refl Calm.trans (f := fun s k => resumeTask s t k)
    (fun s _ => (Calm.refl s).resumeTask) (show k ∈ [0, 1, 2, 3] by simp; omega) s₁
  refine (hafter₂.trans hafter₁).due rfl ((resumeTask_calm s₂ t k).2 w ?_)
  exact ((h₁.trans h₂).resumeLoads).late t k w hw hlate

/-- An operation that a halt abandoned, accepted anew. -/
def reaccept (hc : Nat) (o : CubeOp) : CubeOp := if o.st = .abandoned then { o with st := .accepted, acceptedAt := hc } else o

theorem reaccept_reaccept (hc : Nat) (o : CubeOp) : reaccept hc (reaccept hc o) = reaccept hc o := by
  by_cases h : o.st = .abandoned
  · simp [reaccept, h]
  · simp [reaccept, h]

theorem map_reaccept_twice (hc : Nat) (l : List CubeOp) : (l.map (reaccept hc)).map (reaccept hc) = l.map (reaccept hc) := by
  simp [reaccept_reaccept]

/-- The hc is the same, no lasting event is dropped, and a tile's operations are as they were or all accepted anew. -/
structure Resumes (s s' : State) : Prop where
  hc : s'.hc = s.hc
  kept : ∀ p ∈ s.events, lasting p.ev = true → p ∈ s'.events
  ops : ∀ t, (tileOf s' t).cubeOps = (tileOf s t).cubeOps ∨ (tileOf s' t).cubeOps = (tileOf s t).cubeOps.map (reaccept s.hc)

theorem Calm.resumes {s s' : State} (h : Calm s s') : Resumes s s' := ⟨h.hc, h.kept, fun t => .inl (h.ops t)⟩

theorem Resumes.refl (s : State) : Resumes s s := (Calm.refl s).resumes

theorem Resumes.trans {a b c : State} (h : Resumes a b) (k : Resumes b c) : Resumes a c := by
  refine ⟨k.hc.trans h.hc, fun p hp hl => k.kept p (h.kept p hp hl) hl, fun t => ?_⟩
  rcases k.ops t with hk | hk <;> rcases h.ops t with hb | hb
  · exact .inl (hk.trans hb)
  · exact .inr (hk.trans hb)
  · exact .inr (by rw [hk, hb, h.hc])
  · exact .inr (by rw [hk, hb, h.hc, map_reaccept_twice])

theorem Resumes.due {s s' : State} (h : Resumes s s') {ev : Instr} {P : Nat → Prop} (hev : lasting ev = true)
    (hdue : Due s ev P) : Due s' ev P := by
  obtain ⟨p, hp, rfl, hP⟩ := hdue
  exact ⟨p, h.kept p hp hev, rfl, hP⟩

/-- Operations that are accepted anew stay so. -/
theorem Resumes.reaccepted {s s' : State} (h : Resumes s s') {t : Nat} {l : List CubeOp}
    (hops : (tileOf s t).cubeOps = l.map (reaccept s.hc)) : (tileOf s' t).cubeOps = l.map (reaccept s.hc) := by
  rcases h.ops t with h | h
  · rw [h, hops]
  · rw [h, hops, map_reaccept_twice]

/-- An engine of a restored tile: its answered atomics end, the others are sent again, and its copies start. -/
def resumeEngine (t : Nat) (s : State) (e : Nat) : State :=
  let g : CopyEng := tget {} (tileOf s t).cpy e
  let atoms := g.cmds.filter fun c => c.atomic && c.sent
  let s := atoms.foldl (fun s c =>
    match c.answered with
    | some (res, old, comb) => endAtomic s t e c res old comb
    | none => sendAtomic s t e c true) s
  let s := scheduleOnce s (s.hc + 1) (.copyStart t e)
  let head := (tget ({} : CopyEng) (tileOf s t).cpy e).cmds.head?
  let s := match head with
    | some c => if !c.atomic && decide (c.total ≤ c.landed) then scheduleOnce s s.hc (.copyComplete t e) else s
    | none => s
  if !g.follow.isEmpty then scheduleOnce s s.hc (.followOnCube t e) else s

theorem resumeEngine_calm (t : Nat) (s : State) (e : Nat) :
    Calm s (resumeEngine t s e) ∧ Due (resumeEngine t s e) (.copyStart t e) (· ≤ s.hc + 1) := by
  unfold resumeEngine
  extract_lets g atoms s₁ s₂ head s₃
  have h₁ : Calm s s₁ := by
    refine .foldl (.refl s) fun s c => ?_
    split
    · exact (Calm.refl s).endAtomic
    · exact (Calm.refl s).sendAtomic
  have h₂ : Calm s₁ s₂ := (Calm.refl s₁).scheduleOnce
  have h₃ : Calm s₂ s₃ := by
    clear_value head
    show Calm s₂ (match head with
      | some c => if !c.atomic && decide (c.total ≤ c.landed) then scheduleOnce s₂ s₂.hc (.copyComplete t e) else s₂
      | none => s₂)
    split
    · exact .ite (Calm.refl s₂).scheduleOnce (.refl s₂)
    · exact .refl s₂
  have h₄ : Calm s₂ (if !g.follow.isEmpty then scheduleOnce s₃ s₃.hc (.followOnCube t e) else s₃) := .ite h₃.scheduleOnce h₃
  exact ⟨(h₁.trans h₂).trans h₄, h₄.due rfl (by rw [← h₁.hc]; exact exists_mem_scheduleOnce ..)⟩

theorem resumeEngines_copies (s : State) (t : Nat) :
    Calm s ([0, 1, 2, 3].foldl (resumeEngine t) s) ∧
    ∀ e < 4, Due ([0, 1, 2, 3].foldl (resumeEngine t) s) (.copyStart t e) (· ≤ s.hc + 1) := by
  have hcalm : ∀ s e, Calm s (resumeEngine t s e) := fun s e => (resumeEngine_calm t s e).1
  refine ⟨.foldl (.refl s) hcalm, fun e he => ?_⟩
  obtain ⟨s₁, h₁, hafter⟩ := foldl_reaches Calm.refl Calm.trans hcalm (show e ∈ [0, 1, 2, 3] by simp; omega) s
  exact hafter.due rfl (by rw [← h₁.hc]; exact (resumeEngine_calm t s₁ e).2)

/-- The operations of a tile, those that were abandoned accepted anew. -/
def reacceptOps (s : State) (t : Nat) : State := updTile s t fun x => { x with cubeOps := x.cubeOps.map (reaccept s.hc) }

theorem resumes_reacceptOps (s : State) (t : Nat) : Resumes s (reacceptOps s t) := by
  refine ⟨rfl, fun _ h _ => h, fun j => ?_⟩
  rw [reacceptOps, tileOf_updTile]
  split
  next h => exact h ▸ .inr rfl
  next => exact .inl rfl

/-- Each accepted operation's places are resolved in the next hc. -/
theorem resolutions_due {s : State} {t : Nat} {o : CubeOp} {l : List CubeOp} (ho : o ∈ l) (hst : o.st = .accepted) :
    Due (l.foldl (fun s o => if o.st = .accepted then scheduleOnce s (s.hc + 1) (.cubeResolution t o.n) else s) s)
      (.cubeResolution t o.n) (· ≤ s.hc + 1) := by
  have hcalm : ∀ s (o : CubeOp), Calm s (if o.st = .accepted then scheduleOnce s (s.hc + 1) (.cubeResolution t o.n) else s) :=
    fun s o => .ite (Calm.refl s).scheduleOnce (.refl s)
  obtain ⟨s₁, h₁, hafter⟩ := foldl_reaches Calm.refl Calm.trans hcalm ho s
  refine hafter.due rfl ?_
  rw [if_pos hst, ← h₁.hc]
  exact exists_mem_scheduleOnce ..

/-- What the resumption of a tile's engines leaves. -/
theorem resumeEngines_spec (s : State) (t : Nat) : Resumes s (resumeEngines s t) ∧
    (tileOf (resumeEngines s t) t).cubeOps = (tileOf s t).cubeOps.map (reaccept s.hc) ∧
    (∀ e < 4, Due (resumeEngines s t) (.copyStart t e) (· ≤ s.hc + 1)) ∧
    ∀ o ∈ (tileOf (resumeEngines s t) t).cubeOps, o.st = .accepted →
      Due (resumeEngines s t) (.cubeResolution t o.n) (· ≤ s.hc + 1) := by
  unfold resumeEngines
  extract_lets s₁ s₂ s₃ s₄ s₅ s₆
  obtain ⟨h₁, hcopies⟩ : Calm s s₁ ∧ ∀ e < 4, Due s₁ (.copyStart t e) (· ≤ s.hc + 1) := resumeEngines_copies s t
  clear_value s₁
  have h₂ : Resumes s₁ s₂ := resumes_reacceptOps s₁ t
  have hops₂ : (tileOf s₂ t).cubeOps = (tileOf s t).cubeOps.map (reaccept s.hc) := by
    rw [← h₁.hc, ← h₁.ops]
    exact congrArg Tile.cubeOps (tileOf_updTile_self ..)
  have hhc₂ : s₂.hc = s.hc := h₁.hc
  clear_value s₂
  have h₃ : Calm s₂ s₃ := .foldl (.refl s₂) fun s _ => .ite (Calm.refl s).scheduleOnce (.refl s)
  have hresolve : ∀ o ∈ (tileOf s₂ t).cubeOps, o.st = .accepted → Due s₃ (.cubeResolution t o.n) (· ≤ s.hc + 1) :=
    fun o ho hst => hhc₂ ▸ resolutions_due ho hst
  clear_value s₃
  have h₄ : Calm s₃ s₄ := .updTile (.refl s₃) fun _ => ⟨rfl, rfl, rfl⟩
  have h₅ : Calm s₄ s₅ := .foldl (.refl s₄) fun s _ => (Calm.refl s).scheduleOnce
  have h₆ : Calm s₅ s₆ := (Calm.refl s₅).schedulePops
  have hend : Calm s₃ (if (tileOf s₆ t).lnk.isEmpty then s₆ else scheduleOnce s₆ (s₆.hc + 1) (.linkCommandTake t)) :=
    ((h₄.trans h₅).trans h₆).trans (.ite (.refl s₆) (Calm.refl s₆).scheduleOnce)
  exact ⟨((h₁.resumes.trans h₂).trans h₃.resumes).trans hend.resumes, by rw [hend.ops, h₃.ops, hops₂],
    fun e he => hend.due rfl (h₃.due rfl (h₂.due rfl (hcopies e he))),
    fun o ho hst => hend.due rfl (hresolve o (h₃.ops t ▸ hend.ops t ▸ ho) hst)⟩

theorem Calm.resumeBars {a s : State} {g : Machine.Group} (h : Calm a s) : Calm a (resumeBars s g) := by
  unfold Machine.resumeBars
  refine .checkRetiring (.checkGroup (.foldl h fun s b => ?_))
  split
  case h_6 | h_7 => exact .refl s
  all_goals exact (Calm.refl s).scheduleOnce

/-- A running context's work goes on: tasks, engines, barriers and waits. -/
def resumed (s : State) (c : Nat) : State :=
  let tiles := ctxTiles s c
  let s := tiles.foldl resumeEngines (tiles.foldl resumeTile s)
  tiles.foldl checkWaits ((s.groups.filter fun g => g.ctx == c && g.st != .forming).foldl resumeBars s)

theorem exec_restoreResume {s : State} {c : Nat} (hst : (ctxOf s c).st = .running) :
    exec (.restoreResume c) s = .next (resumed s c) := by
  show execRestoreResume c s = _
  rw [execRestoreResume, hst]
  rfl

theorem restoreResumes {s : State} {c t : Nat} (hst : (ctxOf s c).st = .running) (ht : t ∈ ctxTiles s c) :
    ∃ s', exec (.restoreResume c) s = .next s' ∧
      (tileOf s' t).cubeOps = (tileOf s t).cubeOps.map (reaccept s.hc) ∧
      (∀ o ∈ (tileOf s t).cubeOps, o.st = .abandoned → Due s' (.cubeResolution t o.n) (· ≤ s.hc + 1)) ∧
      (∀ e < 4, Due s' (.copyStart t e) (· ≤ s.hc + 1)) ∧
      ∀ k < 4, ∀ w ∈ (taskOf s t k).pend, s.hc < w.due → Due s' (.fixedLatencyWrite t k) (· = w.due) := by
  refine ⟨_, exec_restoreResume hst, ?_⟩
  unfold resumed
  extract_lets tiles s₁
  have htasks : Calm s (tiles.foldl resumeTile s) := .foldl (.refl s) calm_resumeTile
  have hpend : ∀ k < 4, ∀ w ∈ (taskOf s t k).pend, s.hc < w.due →
      Due (tiles.foldl resumeTile s) (.fixedLatencyWrite t k) (· = w.due) :=
    fun k hk w hw hlate => resumeTiles_schedule ht hk hw hlate
  obtain ⟨s₂, h₂, hafter⟩ := foldl_reaches Resumes.refl Resumes.trans (fun s t => (resumeEngines_spec s t).1) ht
    (tiles.foldl resumeTile s)
  obtain ⟨hone, hops, hcopies, hresolve⟩ := resumeEngines_spec s₂ t
  have hbefore : Resumes s s₂ := htasks.resumes.trans h₂
  have hrest : Resumes (resumeEngines s₂ t) s₁ := hafter
  have hend : Calm s₁ (tiles.foldl checkWaits ((s₁.groups.filter fun g => g.ctx == c && g.st != .forming).foldl resumeBars s₁)) :=
    .foldl (.foldl (.refl s₁) fun s _ => (Calm.refl s).resumeBars) fun s _ => (Calm.refl s).checkWaits
  have hlast : Resumes (resumeEngines s₂ t) _ := hrest.trans hend.resumes
  have hops' : (tileOf (resumeEngines s₂ t) t).cubeOps = (tileOf s t).cubeOps.map (reaccept s.hc) := by
    rw [hops, hbefore.hc]
    rcases hbefore.ops t with h | h
    · rw [h]
    · rw [h, map_reaccept_twice]
  have hhc : (resumeEngines s₂ t).hc = s.hc := hone.hc.trans hbefore.hc
  rw [hbefore.hc] at hcopies hresolve
  refine ⟨?_, fun o ho hst => ?_, fun e he => hlast.due rfl (hcopies e he),
    fun k hk w hw hlate => (((h₂.trans hone).trans hlast).due rfl (hpend k hk w hw hlate))⟩
  · exact hhc ▸ hlast.reaccepted (hhc.symm ▸ hops')
  · have hmem : reaccept s.hc o ∈ (tileOf (resumeEngines s₂ t) t).cubeOps := hops' ▸ List.mem_map_of_mem ho
    have hacc : (reaccept s.hc o).st = .accepted ∧ (reaccept s.hc o).n = o.n := by simp [reaccept, hst]
    rw [← hacc.2]
    exact hlast.due rfl (hresolve _ hmem hacc.1)

/-! ### The save (R308) -/

/-- A tile given back by a save: free, with the role that this leaves it. -/
def giveBack (s : State) (t : Nat) : State := refreshRole (updTile (forgetAnswers s t) t leftTile) t

/-- The role of a tile is all that its refresh changes. -/
theorem refreshRole_tile (s : State) (t j : Nat) : ∃ h, tileOf (refreshRole s t) j = { tileOf s j with health := h } := by
  unfold refreshRole
  rw [tileOf_updTile]
  split
  next ht =>
    subst ht
    split <;> exact ⟨_, rfl⟩
  next => exact ⟨_, rfl⟩

/-- The hc is the same, and every tile that is free stays so. -/
def StayFree (s s' : State) : Prop := s'.hc = s.hc ∧ ∀ t, (tileOf s t).ctx = none → (tileOf s' t).ctx = none

theorem giveBack_ctx (s : State) (t j : Nat) :
    (tileOf (giveBack s t) j).ctx = if t = j then none else (tileOf s j).ctx := by
  obtain ⟨h, hrole⟩ := refreshRole_tile (updTile (forgetAnswers s t) t leftTile) t j
  rw [giveBack, hrole, tileOf_updTile]
  split
  · rfl
  · rfl

theorem stayFree_giveBack (s : State) (t : Nat) : StayFree s (giveBack s t) := by
  refine ⟨rfl, fun j hj => ?_⟩
  rw [giveBack_ctx, hj]
  split <;> rfl

theorem stayFree_giveBacks (ts : List Nat) (s : State) :
    (ts.foldl giveBack s).hc = s.hc ∧ ∀ t ∈ ts, (tileOf (ts.foldl giveBack s) t).ctx = none := by
  have hrefl : ∀ s, StayFree s s := fun s => ⟨rfl, fun _ h => h⟩
  have htrans : ∀ {a b c}, StayFree a b → StayFree b c → StayFree a c :=
    fun h k => ⟨k.1.trans h.1, fun t ht => k.2 t (h.2 t ht)⟩
  refine ⟨(foldl_rel hrefl htrans stayFree_giveBack ts s).1, fun t ht => ?_⟩
  obtain ⟨s₁, -, hafter⟩ := foldl_reaches hrefl htrans stayFree_giveBack ht s
  exact hafter.2 t (by rw [giveBack_ctx, if_pos rfl])

theorem hc_stopTiles (ts : List Nat) (s : State) : (ts.foldl stopTile s).hc = s.hc := by
  induction ts generalizing s with
  | nil => rfl
  | cons t ts ih => rw [List.foldl_cons, ih, (stopTile_spec s t).2.1]

/-- A save gives the tiles back and keeps an image of each. -/
theorem saveContext_spec (s : State) (c : Nat) : (saveContext s c).hc = s.hc ∧ (ctxOf (saveContext s c) c).st = .saved ∧
    (ctxOf (saveContext s c) c).save.map (·.tile) = ctxTiles s c ∧
    ∀ t ∈ ctxTiles s c, (tileOf (saveContext s c) t).ctx = none := by
  unfold saveContext
  extract_lets tiles s₁ images s₂ gids gs
  have h₁ : s₁.hc = s.hc := hc_stopTiles tiles s
  obtain ⟨h₂, hfree⟩ : s₂.hc = s₁.hc ∧ ∀ t ∈ tiles, (tileOf s₂ t).ctx = none := stayFree_giveBacks tiles s₁
  have himages : images.map (·.tile) = tiles := by simp [images, Function.comp_def]
  clear_value s₂ images
  exact ⟨h₂.trans h₁, by simp, by simpa using himages, hfree⟩

theorem exec_preemptSaveEnd {s : State} {c : Nat} (hst : (ctxOf s c).st = .preempting)
    (hheld : ∀ t ∈ ctxTiles s c, saveHeld s t = false) :
    exec (.preemptSaveEnd c) s = .next (scheduleOnce
      (updCtx (saveContext s c) c fun x => { x with restorePending := true, preempted := true })
      ((saveContext s c).hc + 2) (.restorePlacement c)) := by
  have hany : (ctxTiles s c).any (saveHeld s) = false := List.any_eq_false.2 fun t ht => by simp [hheld t ht]
  show execPreemptSaveEnd c s = _
  unfold execPreemptSaveEnd
  simp only [hst, hany]
  rfl

theorem saves {s : State} {c : Nat} (hst : (ctxOf s c).st = .preempting) (hheld : ∀ t ∈ ctxTiles s c, saveHeld s t = false) :
    ∃ s', exec (.preemptSaveEnd c) s = .next s' ∧ (ctxOf s' c).st = .saved ∧ (ctxOf s' c).restorePending = true ∧
      (ctxOf s' c).save.map (·.tile) = ctxTiles s c ∧ (∀ t ∈ ctxTiles s c, (tileOf s' t).ctx = none) ∧
      Due s' (.restorePlacement c) (· ≤ s.hc + 2) := by
  obtain ⟨hhc, hsaved, himages, hfree⟩ := saveContext_spec s c
  rw [exec_preemptSaveEnd hst hheld]
  generalize saveContext s c = s₁ at hhc hsaved himages hfree ⊢
  refine ⟨_, rfl, by simp [hsaved], by simp, by simpa using himages, fun t ht => ?_, hhc ▸ exists_mem_scheduleOnce ..⟩
  rw [tileOf_congr (scheduleOnce_tiles ..)]
  exact hfree t ht

/-! ### The restore (R233, R309) -/

/-- A saved task and the task that comes back: the registers are those saved, and a stopped task goes on. -/
def ComesBack (x z : Task) : Prop :=
  (∀ n, readS z n = readS x n) ∧ (∀ n, readV z n = readV x n) ∧ (x.st = .stopped → z.st = restoredSt x)

theorem restoredSt_of_stopped {x : Task} (h : x.st = .stopped) :
    restoredSt x = if x.stSave = .retired then .retired else if x.wait = .none then .ready else .parked := by
  unfold restoredSt
  rw [h]
  cases x.stSave <;> rfl

/-- A tile that has taken back what was saved of it. -/
structure TakenBack (c : Nat) (y x : Tile) : Prop where
  ctx : x.ctx = some c
  floor : x.floor = y.floor
  wells : x.wells = y.wells
  tasks : ∀ k, ComesBack (tget {} y.tasks k) (tget {} x.tasks k)

@[simp] theorem scheduleLate_tiles (s : State) (due ph : Nat) (ev : Instr) : (scheduleLate s due ph ev).tiles = s.tiles := by
  unfold scheduleLate
  split <;> rfl

@[simp] theorem scheduleLate_hc (s : State) (due ph : Nat) (ev : Instr) : (scheduleLate s due ph ev).hc = s.hc := by
  unfold scheduleLate
  split <;> rfl

theorem restoreTile_spec (s : State) (c at_ : Nat) (v : SavedTile) : (restoreTile s c at_ v).hc = s.hc ∧
    (∀ t ≠ v.tile, tileOf (restoreTile s c at_ v) t = tileOf s t) ∧
    TakenBack c v.image (tileOf (restoreTile s c at_ v) v.tile) := by
  unfold restoreTile
  extract_lets y s₁ s₂
  have hend : ∀ s' : State, s'.tiles = s₂.tiles ∧ s'.hc = s₂.hc →
      s'.hc = s.hc ∧ (∀ t ≠ v.tile, tileOf s' t = tileOf s t) ∧ TakenBack c y (tileOf s' v.tile) := by
    intro s' ⟨htiles, hhc⟩
    refine ⟨hhc, fun t ht => ?_, ?_⟩
    · rw [tileOf_congr htiles]
      show tileOf (refreshRole s₁ v.tile) t = _
      rw [refreshRole, tileOf_updTile, if_neg ht.symm, tileOf_updTile, if_neg ht.symm]
    · rw [tileOf_congr htiles]
      obtain ⟨h, hrole⟩ := refreshRole_tile s₁ v.tile v.tile
      show TakenBack c y (tileOf (refreshRole s₁ v.tile) v.tile)
      rw [hrole, tileOf_updTile_self]
      refine ⟨rfl, rfl, rfl, fun k => ?_⟩
      dsimp only
      refine tget_map_rel (R := ComesBack) ?_ ?_ ?_ y.tasks k
      · exact ⟨fun _ => rfl, fun _ => rfl, fun h => absurd h (by decide)⟩
      · exact fun _ => rfl
      · exact fun _ => ⟨fun _ => rfl, fun _ => rfl, fun _ => rfl⟩
  split
  · exact hend (scheduleLate s₂ s₂.hc 2 (.issueSelection v.tile)) ⟨scheduleLate_tiles .., scheduleLate_hc ..⟩
  · exact hend s₂ ⟨rfl, rfl⟩

/-- A tile taken back as from the present hc. -/
def takeBack (c : Nat) (s : State) (v : SavedTile) : State := restoreTile s c (s.hc + 2) v

/-- Tiles that are taken back one after the other, each once. -/
theorem takeBacks_spec {c : Nat} {l : List SavedTile} (s : State) (hnodup : (l.map (·.tile)).Nodup) :
    (l.foldl (takeBack c) s).hc = s.hc ∧
    (∀ t ∉ l.map (·.tile), tileOf (l.foldl (takeBack c) s) t = tileOf s t) ∧
    ∀ v ∈ l, TakenBack c v.image (tileOf (l.foldl (takeBack c) s) v.tile) := by
  induction l generalizing s with
  | nil => exact ⟨rfl, fun _ _ => rfl, fun _ h => absurd h List.not_mem_nil⟩
  | cons v l ih =>
    obtain ⟨hv, hnodup⟩ := List.nodup_cons.1 hnodup
    obtain ⟨hhc, hother, hself⟩ : (takeBack c s v).hc = s.hc ∧ (∀ t ≠ v.tile, tileOf (takeBack c s v) t = tileOf s t) ∧
        TakenBack c v.image (tileOf (takeBack c s v) v.tile) := restoreTile_spec s c (s.hc + 2) v
    obtain ⟨hhcs, hothers, hselfs⟩ := ih (takeBack c s v) hnodup
    rw [List.foldl_cons]
    refine ⟨hhcs.trans hhc, fun t ht => ?_, fun u hu => ?_⟩
    · rw [List.map_cons, List.mem_cons, not_or] at ht
      exact (hothers t ht.2).trans (hother t ht.1)
    · rcases List.mem_cons.1 hu with rfl | hu
      · rw [hothers _ hv]
        exact hself
      · exact hselfs u hu

/-- Where no member's tile is lost, a restore fences none. -/
theorem lostMembers_eq_nil {s : State} {c : Nat}
    (h : ∀ g ∈ s.groups, g.ctx = c → ∀ r ∈ g.liveRanks, tileLost s (g.tile r) = false) :
    ((savedGroups s c).flatMap fun g => (g.liveRanks.filter fun r => tileLost s (g.tile r)).map fun r => (g.gid, r)) = [] := by
  refine List.flatMap_eq_nil_iff.2 fun g hg => ?_
  obtain ⟨hmem, hctx⟩ := List.mem_filter.1 hg
  simp only [Bool.and_eq_true, beq_iff_eq] at hctx
  rw [List.filter_eq_nil_iff.2 fun r hr => by simp [h g hmem hctx.1 r hr], List.map_nil]

theorem placeRestored_spec {s : State} {c : Nat} {v : SavedTile} (hnodup : ((ctxOf s c).save.map (·.tile)).Nodup)
    (hv : v ∈ (ctxOf s c).save) (hlost : tileLost s v.tile = false)
    (hmembers : ∀ g ∈ s.groups, g.ctx = c → ∀ r ∈ g.liveRanks, tileLost s (g.tile r) = false) :
    (ctxOf (placeRestored s c) c).st = .running ∧ (ctxOf (placeRestored s c) c).save = [] ∧
    (ctxOf (placeRestored s c) c).code = 0 ∧ TakenBack c v.image (tileOf (placeRestored s c) v.tile) ∧
    Due (placeRestored s c) (.restoreResume c) (· = s.hc + 2) := by
  unfold placeRestored
  rw [lostMembers_eq_nil hmembers]
  extract_lets x lost s₁ gs s₂ s₃
  have hkept : ((x.save.filter fun v => !tileLost s v.tile).map (·.tile)).Nodup := (List.filter_sublist.map _).nodup hnodup
  obtain ⟨hhc, -, hback⟩ := takeBacks_spec (c := c) s hkept
  have h₁ : s₁.hc = s.hc := hhc
  have hv₁ : TakenBack c v.image (tileOf s₁ v.tile) := hback v (List.mem_filter.2 ⟨hv, by simp [hlost]⟩)
  clear_value s₁
  have hctx : ctxOf (schedule s₃ (s₃.hc + 2) (.restoreResume c)) c = ctxOf s₂ c := rfl
  have hrun : (ctxOf s₂ c).st = .running ∧ (ctxOf s₂ c).save = [] ∧ (ctxOf s₂ c).code = 0 := by simp [s₂]
  rw [hctx]
  exact ⟨hrun.1, hrun.2.1, hrun.2.2, hv₁, h₁ ▸ exists_mem_schedule ..⟩

theorem exec_restorePlacement {s : State} {c : Nat} (hst : (ctxOf s c).st = .saved) (hpending : (ctxOf s c).restorePending = true)
    (hfree : tilesFree s c = true) (hyields : restoreYields s c = false) :
    exec (.restorePlacement c) s = .next (placeRestored s c) := by
  show execRestorePlacement c s = _
  simp [execRestorePlacement, hst, hpending, hfree, hyields]

/-! ### The scrub of a destroyed context (R105, R290) -/

/-- A tile that is free, its floor and wells zeroed. -/
def Cleared (x : Tile) : Prop := x.ctx = none ∧ x.floor = [] ∧ x.wells = []

/-- Cleared tiles stay so, and a context whose frames are all free keeps them so. -/
structure KeepsClear (c : Nat) (s s' : State) : Prop where
  tiles : ∀ t, Cleared (tileOf s t) → Cleared (tileOf s' t)
  frames : (∀ f ∈ s.frames, f.2.ctx = c → f.2.st = .free) → ∀ f ∈ s'.frames, f.2.ctx = c → f.2.st = .free

theorem KeepsClear.refl (c : Nat) (s : State) : KeepsClear c s s := ⟨fun _ h => h, fun h => h⟩

theorem KeepsClear.trans {c : Nat} {a b d : State} (h : KeepsClear c a b) (k : KeepsClear c b d) : KeepsClear c a d :=
  ⟨fun t ht => k.tiles t (h.tiles t ht), fun hf => k.frames (h.frames hf)⟩

/-- A state whose frames are those of another keeps what tiles it clears. -/
theorem KeepsClear.of_frames {c : Nat} {s s' : State} (htiles : ∀ t, Cleared (tileOf s t) → Cleared (tileOf s' t))
    (hframes : s'.frames = s.frames) : KeepsClear c s s' := ⟨htiles, fun h => hframes ▸ h⟩

theorem KeepsClear.of_eq {c : Nat} {s s' : State} (htiles : s'.tiles = s.tiles) (hframes : s'.frames = s.frames) :
    KeepsClear c s s' := .of_frames (fun t h => by rwa [tileOf_congr htiles]) hframes

theorem Aside.keepsClear {s s' : State} (h : Aside s s') (c : Nat) : KeepsClear c s s' := .of_eq h.tiles h.frames

section
variable {c : Nat} {a s : State}

theorem KeepsClear.foldl {α : Type} {f : State → α → State} {l : List α} (h : KeepsClear c a s)
    (hf : ∀ s x, KeepsClear c s (f s x)) : KeepsClear c a (l.foldl f s) :=
  h.trans (foldl_rel (KeepsClear.refl c) KeepsClear.trans hf l s)

/-- Tiles that are changed where they stand, what is cleared left cleared. -/
theorem KeepsClear.mapTiles {f : Nat × Tile → Nat × Tile} (h : KeepsClear c a s) (hkey : ∀ e, (f e).1 = e.1)
    (hval : ∀ e, Cleared e.2 → Cleared (f e).2) : KeepsClear c a { s with tiles := s.tiles.map f } :=
  h.trans (.of_frames (fun t => tget_map_rel (R := fun x y => Cleared x → Cleared y) (fun h => h) hkey hval s.tiles t) rfl)

/-! ### Its steps -/

theorem scrubTile_cleared (s : State) (t : Nat) : Cleared (tileOf (scrubTile s t) t) := by
  unfold scrubTile
  extract_lets s₁ s₂
  obtain ⟨h, hrole⟩ := refreshRole_tile s₂ t t
  rw [hrole, tileOf_updTile_self]
  exact ⟨rfl, rfl, rfl⟩

theorem KeepsClear.scrubTile {t : Nat} (h : KeepsClear c a s) : KeepsClear c a (scrubTile s t) := by
  refine h.trans (.of_frames (fun j hj => ?_) rfl)
  rcases eq_or_ne t j with rfl | hne
  · exact scrubTile_cleared s t
  · unfold Machine.scrubTile
    rw [refreshRole, tileOf_updTile, if_neg hne, tileOf_updTile, if_neg hne]
    exact hj

theorem KeepsClear.scrubLeft (h : KeepsClear c a s) : KeepsClear c a (scrubLeft s c) := by
  refine .mapTiles h (fun e => ?_) fun e he => ?_
  · split <;> rfl
  · split
    · exact ⟨he.1, rfl, rfl⟩
    · exact he

/-- A page marked as written may change the bits of frames, and no more of them. -/
theorem KeepsClear.markWritten {l : Leaf} (h : KeepsClear c a s) : KeepsClear c a (markWritten s l) := by
  unfold Machine.markWritten
  dsimp only
  split
  · exact h.trans (.of_eq rfl rfl)
  · refine h.trans ⟨fun _ h => h, fun hs f hf => ?_⟩
    obtain ⟨g, hg, rfl⟩ := List.mem_map.1 hf
    split
    · exact hs g hg
    · exact hs g hg

theorem KeepsClear.seedPage {ctx : Nat} {l : Leaf} (h : KeepsClear c a s) : KeepsClear c a (seedPage s ctx l) := by
  unfold Machine.seedPage
  split
  · exact h
  · refine .markWritten ?_
    split
    · split
      · exact h.trans (.of_eq rfl rfl)
      · exact h.trans (.of_eq rfl rfl)
    · exact h

/-- A completion word is written, or its fault not seen. -/
theorem KeepsClear.completion {ctx status : Nat} {cwa : Word} {seq : Word32} (h : KeepsClear c a s) :
    KeepsClear c a (completion s ctx cwa seq status) := by
  unfold Machine.completion
  split
  · exact h
  · split
    next hw =>
      unfold globalWrite at hw
      split at hw
      · split at hw
        · cases hw
        · cases hw
          exact h.seedPage.trans (.of_eq rfl rfl)
      · cases hw
      · cases hw
    · exact h

theorem KeepsClear.endLaunch {g : Machine.Group} {status : Nat} (h : KeepsClear c a s) : KeepsClear c a (endLaunch s g status) := by
  unfold Machine.endLaunch
  exact h.completion.trans (.of_eq (updQueue_tiles ..) (updQueue_frames ..))

theorem Aside.postDevice {p kind : Nat} {m : Msg} (h : Aside a s) : Aside a (postDevice s p kind m) := by
  unfold Machine.postDevice enterOrWait
  split
  next s' hs' =>
    split at hs'
    · simp only [enterQueue, Bool.false_eq_true, if_false] at hs'
      split at hs'
      · cases hs'
        exact h.postMessage
      · cases hs'
    · cases hs'
  · exact h.updPeer

theorem KeepsClear.settleDropped (h : KeepsClear c a s) : KeepsClear c a (settleDropped s) := by
  unfold Machine.settleDropped
  extract_lets done s₁
  have h₁ : KeepsClear c a s₁ := h.trans (.of_eq rfl rfl)
  exact h₁.trans (Aside.keepsClear (.foldl (.refl s₁) fun s _ => (Aside.refl s).postDevice) c)

theorem KeepsClear.wakeWalks (h : KeepsClear c a s) : KeepsClear c a (wakeWalks s) :=
  h.trans ((Aside.refl s).wakeWalks.keepsClear c)

theorem KeepsClear.dropCtxXlat {d : Nat} (h : KeepsClear c a s) : KeepsClear c a (dropCtxXlat s d) := by
  unfold Machine.dropCtxXlat
  extract_lets keep tiles
  have htiles : KeepsClear c a { s with tiles := tiles } := h.mapTiles (fun _ => rfl) fun _ he => he
  exact .wakeWalks (htiles.trans (.of_eq rfl rfl))

end

/-- A context whose frames are all free has no page to give back. -/
theorem scrubPages_eq {s : State} {c : Nat} (h : ∀ f ∈ s.frames, f.2.ctx = c → f.2.st = .free) : scrubPages s c = s := by
  have hnone : (s.frames.filter fun f => f.2.ctx == c &&
      (f.2.st == .mapped || f.2.st == .exported || f.2.st == .zeroing)) = [] := by
    refine List.filter_eq_nil_iff.2 fun f hf hc => ?_
    simp only [Bool.and_eq_true, beq_iff_eq] at hc
    rw [h f hf hc.1] at hc
    exact absurd hc.2 (by decide)
  unfold scrubPages
  rw [hnone]
  rfl

/-- What is left of a destroyed context is dropped: its tiles, its launches and its translations. -/
def scrubbed (s : State) (c : Nat) : State :=
  let s := scrubLeft ((ctxTiles s c).foldl scrubTile s) c
  let s := (s.groups.filter fun g => g.ctx == c).foldl (fun s g => endLaunch s g (endStatus g true)) s
  settleDropped (dropCtxXlat (scrubPages s c) c)

theorem scrubbed_spec {s : State} {c : Nat} (h : ∀ f ∈ s.frames, f.2.ctx = c → f.2.st = .free) :
    (∀ f ∈ (scrubbed s c).frames, f.2.ctx = c → f.2.st = .free) ∧ ∀ t ∈ ctxTiles s c, Cleared (tileOf (scrubbed s c) t) := by
  unfold scrubbed
  extract_lets s₁ s₂
  have hscrub : ∀ s t, KeepsClear c s (scrubTile s t) := fun s _ => (KeepsClear.refl c s).scrubTile
  have h₁ : KeepsClear c ((ctxTiles s c).foldl scrubTile s) s₁ := (KeepsClear.refl c _).scrubLeft
  have h₂ : KeepsClear c s₁ s₂ := .foldl (.refl c s₁) fun s _ => (KeepsClear.refl c s).endLaunch
  have hframes : ∀ f ∈ s₂.frames, f.2.ctx = c → f.2.st = .free :=
    ((foldl_rel (KeepsClear.refl c) KeepsClear.trans hscrub _ s).trans (h₁.trans h₂)).frames h
  have h₃ : KeepsClear c s₂ (settleDropped (dropCtxXlat (scrubPages s₂ c) c)) := by
    rw [scrubPages_eq hframes]
    exact .settleDropped (.dropCtxXlat (.refl c s₂))
  refine ⟨h₃.frames hframes, fun t ht => ?_⟩
  obtain ⟨s', -, hafter⟩ := foldl_reaches (KeepsClear.refl c) KeepsClear.trans hscrub ht s
  exact (hafter.trans (h₁.trans (h₂.trans h₃))).tiles t (scrubTile_cleared s' t)

/-- The end of a scrub: no queue of the context dispatches, its tables are free, its registers are those of an empty context. -/
def emptied (s : State) (c : Nat) : State :=
  let qs : Table Queue := s.queues.map fun x =>
    (x.1, if x.2.owned && x.2.ctx == c then { x.2 with dispatching := false, overrun := false } else x.2)
  let s := { s with queues := qs, ptPool := s.ptPool.filter fun p => p.2 != c }
  mgmtSettle (updCtx s c fun x => { regSeq := x.regSeq }) (.scrub c) 0

/-- A destroyed context all of whose frames are free ends empty. -/
theorem exec_scrubEnd {s : State} {c : Nat} (hst : (ctxOf s c).st = .destroyed)
    (hframes : ∀ f ∈ (scrubbed s c).frames, f.2.ctx = c → f.2.st = .free) :
    exec (.scrubEnd c) s = .next (emptied (scrubbed s c) c) := by
  show execScrubEnd c s = _
  unfold execScrubEnd
  rw [if_neg (by simp [hst])]
  extract_lets s₁ s₂ s₃ qs s₄ s₅
  have h₃ : scrubbed s c = s₃ := rfl
  rw [h₃] at hframes ⊢
  clear_value s₃
  refine if_neg fun hany => ?_
  obtain ⟨f, hf, hc⟩ := List.any_eq_true.1 hany
  simp only [Bool.and_eq_true, beq_iff_eq, bne_iff_ne] at hc
  exact hc.2 (hframes f hf hc.1)

/-- A management command that is settled changes the window, and no tile or context. -/
theorem mgmtSettle_tiles (s : State) (w : MgmtWait) (r : Nat) :
    (mgmtSettle s w r).tiles = s.tiles ∧ (mgmtSettle s w r).contexts = s.contexts := by
  unfold mgmtSettle mgmtReport
  split
  · split
    · exact ⟨rfl, rfl⟩
    · exact ⟨rfl, rfl⟩
  · exact ⟨rfl, rfl⟩

/-- An emptied context's tiles are as they were. -/
theorem emptied_spec (s : State) (c : Nat) : (emptied s c).tiles = s.tiles ∧ (ctxOf (emptied s c) c).st = .empty ∧
    (ctxOf (emptied s c) c).keys = [] := by
  unfold emptied
  extract_lets qs s₁
  obtain ⟨htiles, hctx⟩ := mgmtSettle_tiles (updCtx s₁ c fun x => { regSeq := x.regSeq }) (.scrub c) 0
  rw [ctxOf_congr hctx, ctxOf_updCtx, if_pos rfl]
  exact ⟨htiles, rfl, rfl⟩

theorem scrubs {s : State} {c : Nat} (hst : (ctxOf s c).st = .destroyed)
    (hframes : ∀ f ∈ s.frames, f.2.ctx = c → f.2.st = .free) :
    ∃ s', exec (.scrubEnd c) s = .next s' ∧ (ctxOf s' c).st = .empty ∧ (ctxOf s' c).keys = [] ∧
      ∀ t ∈ ctxTiles s c, Cleared (tileOf s' t) := by
  obtain ⟨hfree, hcleared⟩ := scrubbed_spec hframes
  obtain ⟨htiles, hempty, hkeys⟩ := emptied_spec (scrubbed s c) c
  rw [exec_scrubEnd hst hfree]
  generalize emptied (scrubbed s c) c = s₂ at htiles hempty hkeys ⊢
  generalize scrubbed s c = s₁ at htiles hcleared
  refine ⟨s₂, rfl, hempty, hkeys, fun t ht => ?_⟩
  rw [tileOf_congr htiles]
  exact hcleared t ht

/-- Settles O48: each event by what its parts keep, the restore and the resumption tile by tile. -/
theorem contextEvents : Obligations.ContextEvents := by
  unfold Obligations.ContextEvents
  refine ⟨haltLine, stopRecords, fun s c hst hheld => saves hst hheld, ?atomics, ?restore,
    fun s c t hst ht => restoreResumes hst ht,
    fun s t k hocc hne => pendingWrites hocc hne, fun s c hst hframes => scrubs hst hframes⟩
  case atomics =>
    rintro s c t _ hst htiles rfl
    exact unansweredAtomics hst htiles
  case restore =>
    intro s c v hst hpending hfree hyields hnodup hv hlost hmembers
    obtain ⟨hrun, hsave, hcode, hback, hdue⟩ := placeRestored_spec hnodup hv hlost hmembers
    refine ⟨_, exec_restorePlacement hst hpending hfree hyields, hrun, hsave, hcode, hback.ctx, hback.floor, hback.wells,
      fun k => ?_, hdue⟩
    obtain ⟨hs, hv, hst⟩ := hback.tasks k
    exact ⟨hs, hv, fun hstopped => (hst hstopped).trans (restoredSt_of_stopped hstopped)⟩

end Sys2Proof.TaskFlow
end


section
/-! PROOFS. The family of vectors: the transposer's words and the results of its pops. -/

namespace Sys2Proof.VectorWords

open Sys2Proof Sys2Proof.Machine Sys2Proof.Operands Sys2Proof.Values Sys2Proof.TaskFlow

/-! ### What moving a queue on, waking a task and scheduling an event keep -/

/-- The memories, the transposers, and the v registers with their empty marks are the same in two states. -/
structure KeepsVectors (s s' : State) : Prop where
  hbm : s'.hbm = s.hbm
  bellows : s'.bellows.mem = s.bellows.mem
  tile : ∀ t, (tileOf s' t).floor = (tileOf s t).floor ∧ (tileOf s' t).wells = (tileOf s t).wells ∧
    (tileOf s' t).xp = (tileOf s t).xp
  task : ∀ t k, (taskOf s' t k).vreg = (taskOf s t k).vreg ∧ (taskOf s' t k).emptyV = (taskOf s t k).emptyV

theorem KeepsVectors.refl (s : State) : KeepsVectors s s := ⟨rfl, rfl, fun _ => ⟨rfl, rfl, rfl⟩, fun _ _ => ⟨rfl, rfl⟩⟩

theorem KeepsVectors.trans {a b c : State} (h : KeepsVectors a b) (k : KeepsVectors b c) : KeepsVectors a c where
  hbm := k.hbm.trans h.hbm
  bellows := k.bellows.trans h.bellows
  tile t := by
    obtain ⟨hfloor, hwells, hxp⟩ := h.tile t
    obtain ⟨kfloor, kwells, kxp⟩ := k.tile t
    exact ⟨kfloor.trans hfloor, kwells.trans hwells, kxp.trans hxp⟩
  task t n := ⟨(k.task t n).1.trans (h.task t n).1, (k.task t n).2.trans (h.task t n).2⟩

theorem KeepsVectors.of_tiles {s s' : State} (htiles : s'.tiles = s.tiles) (hhbm : s'.hbm = s.hbm)
    (hbellows : s'.bellows.mem = s.bellows.mem) : KeepsVectors s s' where
  hbm := hhbm
  bellows := hbellows
  tile t := by simp [tileOf_congr htiles]
  task t k := by simp [taskOf, tileOf_congr htiles]

theorem KeepsVectors.sameMemory {s s' : State} (h : KeepsVectors s s') : SameMemory s s' :=
  sameMemory_of_tiles h.hbm h.bellows fun t => ⟨(h.tile t).1, (h.tile t).2.1⟩

theorem KeepsVectors.xp {s s' : State} (h : KeepsVectors s s') (t : Nat) : (tileOf s' t).xp = (tileOf s t).xp :=
  (h.tile t).2.2

theorem KeepsVectors.readV {s s' : State} (h : KeepsVectors s s') (t k : Nat) (n : BitVec 5) :
    readV (taskOf s' t k) n = readV (taskOf s t k) n := congrArg (tget 0 · n.toNat) (h.task t k).1

theorem KeepsVectors.isEmpty_v {s s' : State} (h : KeepsVectors s s') (t k : Nat) (n : BitVec 5) :
    isEmpty (taskOf s' t k) (.v n) = isEmpty (taskOf s t k) (.v n) := congrArg (List.contains · n.toNat) (h.task t k).2

section
variable {a s : State}

theorem KeepsVectors.foldl {α : Type} {f : State → α → State} {l : List α} (h : KeepsVectors a s)
    (hf : ∀ s x, KeepsVectors s (f s x)) : KeepsVectors a (l.foldl f s) :=
  h.trans (foldl_rel KeepsVectors.refl KeepsVectors.trans hf l s)

theorem KeepsVectors.ite {c : Prop} [Decidable c] {s s' : State} (h : KeepsVectors a s) (h' : KeepsVectors a s') :
    KeepsVectors a (if c then s else s') := by
  split
  · exact h
  · exact h'

theorem KeepsVectors.updTile {t : Nat} {f : Tile → Tile} (h : KeepsVectors a s)
    (hf : ∀ x, (f x).floor = x.floor ∧ (f x).wells = x.wells ∧ (f x).xp = x.xp ∧ (f x).tasks = x.tasks) :
    KeepsVectors a (updTile s t f) := by
  have hat : ∀ j, (tileOf (Machine.updTile s t f) j).floor = (tileOf s j).floor ∧
      (tileOf (Machine.updTile s t f) j).wells = (tileOf s j).wells ∧ (tileOf (Machine.updTile s t f) j).xp = (tileOf s j).xp ∧
      (tileOf (Machine.updTile s t f) j).tasks = (tileOf s j).tasks := by
    intro j
    rw [tileOf_updTile]
    split
    next h => exact h ▸ hf _
    next => exact ⟨rfl, rfl, rfl, rfl⟩
  refine h.trans ⟨rfl, rfl, fun j => ?_, fun j k => ?_⟩
  · obtain ⟨hfloor, hwells, hxp, -⟩ := hat j
    exact ⟨hfloor, hwells, hxp⟩
  · obtain ⟨-, -, -, htasks⟩ := hat j
    simp only [taskOf, htasks, and_self]

/-- A task's update leaves every memory and transposer. -/
theorem updTask_tile (s : State) (t k : Nat) (f : Task → Task) (j : Nat) :
    (tileOf (updTask s t k f) j).floor = (tileOf s j).floor ∧ (tileOf (updTask s t k f) j).wells = (tileOf s j).wells ∧
      (tileOf (updTask s t k f) j).xp = (tileOf s j).xp := by
  rw [updTask, tileOf_updTile]
  split
  next h => exact h ▸ ⟨rfl, rfl, rfl⟩
  next => exact ⟨rfl, rfl, rfl⟩

theorem KeepsVectors.updTask {t k : Nat} {f : Task → Task} (h : KeepsVectors a s)
    (hf : ∀ x, (f x).vreg = x.vreg ∧ (f x).emptyV = x.emptyV) : KeepsVectors a (updTask s t k f) := by
  refine h.trans ⟨rfl, rfl, updTask_tile s t k f, fun j n => ?_⟩
  rw [taskOf_updTask]
  split
  next h =>
    obtain ⟨rfl, rfl⟩ := h
    exact hf _
  next => exact ⟨rfl, rfl⟩

theorem KeepsVectors.updCur {f : Task → Task} (h : KeepsVectors a s) (hf : ∀ x, (f x).vreg = x.vreg ∧ (f x).emptyV = x.emptyV) :
    KeepsVectors a (updCur s f) := by
  unfold Machine.updCur updCore
  split
  · exact h.updTask hf
  · exact h.trans (.of_tiles rfl rfl rfl)

theorem KeepsVectors.scheduleOnce {due : Nat} {ev : Instr} (h : KeepsVectors a s) : KeepsVectors a (scheduleOnce s due ev) :=
  .ite h (h.trans (.of_tiles rfl rfl rfl))

theorem KeepsVectors.scheduleLate {due ph : Nat} {ev : Instr} (h : KeepsVectors a s) :
    KeepsVectors a (scheduleLate s due ph ev) := .ite h (h.trans (.of_tiles rfl rfl rfl))

theorem KeepsVectors.advance (h : KeepsVectors a s) : KeepsVectors a (advance s) := by
  have hnote : KeepsVectors s (noteEntry s) := by
    unfold noteEntry
    split
    · exact .ite (.updTile (.updTask (.refl s) fun _ => ⟨rfl, rfl⟩) fun _ => ⟨rfl, rfl, rfl, rfl⟩) (.refl s)
    · exact .refl s
  exact (h.trans hnote).updCur fun _ => ⟨rfl, rfl⟩

theorem KeepsVectors.schedulePops {t : Nat} {ps : List Pop} (h : KeepsVectors a s) : KeepsVectors a (schedulePops s t ps) := by
  induction ps generalizing s with
  | nil => exact h
  | cons p ps ih =>
    refine ih ?_
    split
    · exact h.scheduleOnce
    · exact h

theorem KeepsVectors.makeReady {t k : Nat} (h : KeepsVectors a s) : KeepsVectors a (makeReady s t k) :=
  .ite (.scheduleLate (.updTask h fun _ => ⟨rfl, rfl⟩)) (.updTask h fun _ => ⟨rfl, rfl⟩)

theorem KeepsVectors.wake {t k : Nat} {w : Wait} (h : KeepsVectors a s) : KeepsVectors a (wake s t k w) := by
  refine .ite ?_ (h.updTask fun _ => ⟨rfl, rfl⟩)
  split
  · exact h.updTask fun _ => ⟨rfl, rfl⟩
  · exact .ite h.makeReady (h.updTask fun _ => ⟨rfl, rfl⟩)

theorem KeepsVectors.checkWaits {t : Nat} (h : KeepsVectors a s) : KeepsVectors a (checkWaits s t) :=
  .foldl h fun s _ => .foldl (.refl s) fun s _ => .ite (KeepsVectors.refl s).wake (.refl s)

end

/-- A register filled is a write of its task; what follows only ends waits. -/
theorem keepsVectors_fillReg (s : State) (t k : Nat) (r : Reg) (f : Task → Task) :
    KeepsVectors (updTask s t k fun x => markFull (f x) r) (fillReg s (.tile t k) r f) := by
  have hfull : KeepsVectors (updTask s t k fun x => markFull (f x) r) (updTask s t k fun x =>
      { markFull (f x) r with outst := x.outst.filter fun o => o.reg != r, recent := x.recent.filter fun e => e.1 != Reg.key r }) := by
    refine ⟨rfl, rfl, fun j => ?_, fun j n => ?_⟩
    · obtain ⟨hfloor, hwells, hxp⟩ := updTask_tile s t k (fun x => markFull (f x) r) j
      rw [hfloor, hwells, hxp]
      exact updTask_tile s t k _ j
    · simp only [taskOf_updTask]
      split <;> exact ⟨rfl, rfl⟩
  unfold fillReg
  exact .ite (.scheduleOnce (.wake (.wake hfull))) (.wake (.wake hfull))

/-! ### Registers (R58, R63) -/

theorem readV_writeV_allOnes (x : Task) (n : BitVec 5) (v : VWord) : readV (writeV x n (BitVec.allOnes 4096) v) n = v := by
  simp [readV, writeV, -BitVec.reduceAllOnes]

@[simp] theorem readV_markFull (x : Task) (r : Reg) (n : BitVec 5) : readV (markFull x r) n = readV x n := by cases r <;> rfl

theorem isEmpty_markFull_v (x : Task) (n : BitVec 5) : isEmpty (markFull x (.v n)) (.v n) = false := by
  simp [isEmpty, markFull]

theorem isEmpty_markEmpty_v (x : Task) (n : BitVec 5) : isEmpty (markEmpty x (.v n)) (.v n) = true := by
  simp [isEmpty, markEmpty]

@[simp] theorem startLong_cur (s : State) (r : Reg) (unit id : Nat) : (startLong s r unit id).cur = s.cur := updCore_cur ..

@[simp] theorem startLong_hc (s : State) (r : Reg) (unit id : Nat) : (startLong s r unit id).hc = s.hc := updCore_hc ..

/-- A register marked empty leaves the memories and the transposers, and is empty. -/
theorem startLong_v {s : State} {t k : Nat} (h : s.cur.core = .tile t k) (n : BitVec 5) (unit id : Nat) :
    (tileOf (startLong s (.v n) unit id) t).xp = (tileOf s t).xp ∧ SameMemory s (startLong s (.v n) unit id) ∧
      isEmpty (taskOf (startLong s (.v n) unit id) t k) (.v n) = true := by
  simp only [startLong, updCur, updCore, h]
  refine ⟨(updTask_tile ..).2.2, sameMemory_updTile fun _ => ⟨rfl, rfl⟩, ?_⟩
  rw [taskOf_updTask, if_pos ⟨rfl, rfl⟩, if_neg Reg.noConfusion]
  exact isEmpty_markEmpty_v ..

/-! ### Words of the transposer (R127, R128) -/

theorem curTile_of_core {s : State} {t k : Nat} (h : s.cur.core = .tile t k) : curTile s = t := by simp only [curTile, h]

theorem curSlot_of_core {s : State} {t k : Nat} (h : s.cur.core = .tile t k) : curSlot s = k := by simp only [curSlot, h]

@[simp] theorem curTile_updTile (s : State) (t : Nat) (f : Tile → Tile) : curTile (updTile s t f) = curTile s := rfl

/-- Changes the transposer of a tile, and sets out the pops whose time is known from then on. -/
def changeXp (s : State) (t : Nat) (f : Xpose → Xpose) : State :=
  let s := updTile s t fun x => { x with xp := f x.xp }
  schedulePops s t (tileOf s t).xp.pops

theorem keepsVectors_changeXp (s : State) (t : Nat) (f : Xpose → Xpose) :
    KeepsVectors (updTile s t fun x => { x with xp := f x.xp }) (advance (changeXp s t f)) :=
  (KeepsVectors.refl _).schedulePops.advance

/-- Once the word has issued, the transposer is the changed one and every memory as it was. -/
theorem xp_changeXp (s : State) (t : Nat) (f : Xpose → Xpose) :
    (tileOf (advance (changeXp s t f)) t).xp = f (tileOf s t).xp ∧ SameMemory s (advance (changeXp s t f)) := by
  have hkeeps := keepsVectors_changeXp s t f
  refine ⟨by rw [hkeeps.xp, tileOf_updTile_self], ?_⟩
  exact sameMemory_trans (b := updTile s t fun x => { x with xp := f x.xp }) (sameMemory_updTile fun _ => ⟨rfl, rfl⟩)
    hkeeps.sameMemory

theorem isEmpty_changeXp (s : State) (t k : Nat) (f : Xpose → Xpose) (n : BitVec 5) :
    isEmpty (taskOf (advance (changeXp s t f)) t k) (.v n) = isEmpty (taskOf s t k) (.v n) := by
  rw [(keepsVectors_changeXp s t f).isEmpty_v, taskOf, tileOf_updTile_self]
  rfl

/-- The transposer after a row of slot `k` in hc `hc`. -/
def addRow (k hc : Nat) (v : VWord) (x : Xpose) : Xpose :=
  { x with owner := if x.busy then x.owner else k, m := x.m + 1, rows := tset x.rows x.m v,
           done := if x.m % 128 = 127 then tset x.done (x.m / 128) hc else x.done }

/-- The transposer after a pop of slot `k` in hc `hc`. -/
def addPop (k hc : Nat) (vd : BitVec 5) (x : Xpose) : Xpose :=
  { x with owner := if x.busy then x.owner else k, n := x.n + 1, popSeq := x.popSeq + 1,
           pops := x.pops ++ [⟨x.popSeq, x.n, vd, hc, none⟩] }

/-- The transposer after a clear in hc `hc`, with mode `mode`. -/
def emptyBlocks (hc mode : Nat) (x : Xpose) : Xpose :=
  { x with mode := mode, m := 0, n := 0, rows := [], done := [],
           pops := x.pops.map fun p => { p with zeroAt := some (p.zeroAt.getD (hc + 1)) } }

section
variable {s : State} {t k : Nat}

theorem exec_trin {o : TI} (hr : Ready (.trin o) s) (hcore : s.cur.core = .tile t k)
    (hown : (tileOf s t).xp.foreign k = false) : exec (.trin o) s = .next
      (if 2 ≤ (tileOf s t).xp.m / 128 ∧ (tileOf s t).xp.n < 128 * ((tileOf s t).xp.m / 128 - 1) then s
        else advance (changeXp s t (addRow k s.hc (srcV s o.va)))) := by
  rw [exec_ready hr rfl]
  simp only [updXp, curTile_updTile, curTile_of_core hcore, curSlot_of_core hcore, hown, Bool.and_eq_true, decide_eq_true_eq,
    Bool.false_eq_true, if_false]
  split <;> rfl

theorem exec_tpop {o : TP} (hr : Ready (.tpop o) s) (hcore : s.cur.core = .tile t k)
    (hown : (tileOf s t).xp.foreign k = false) : exec (.tpop o) s =
      .next (advance (changeXp (startLong s (.v o.vd) 11 (tileOf s t).xp.popSeq) t (addPop k s.hc o.vd))) := by
  rw [exec_ready hr rfl]
  have hcore' : (startLong s (.v o.vd) 11 (tileOf s t).xp.popSeq).cur.core = .tile t k := by rw [startLong_cur, hcore]
  simp only [updXp, curTile_updTile, curTile_of_core hcore, curTile_of_core hcore', curSlot_of_core hcore,
    curSlot_of_core hcore', startLong_hc, hown]
  rfl

theorem exec_tmode {o : TM} (hr : Ready (.tmode o) s) (hcore : s.cur.core = .tile t k)
    (hown : (tileOf s t).xp.foreign k = false) :
    exec (.tmode o) s = .next (advance (changeXp s t (emptyBlocks s.hc o.mode.toNat))) := by
  rw [exec_ready hr rfl]
  simp only [curTile_of_core hcore, curSlot_of_core hcore, hown]
  rfl

theorem exec_tclr (hr : Ready .tclr s) (hcore : s.cur.core = .tile t k) (hown : (tileOf s t).xp.foreign k = false) :
    exec .tclr s = .next (advance (changeXp s t (emptyBlocks s.hc (tileOf s t).xp.mode))) := by
  rw [exec_ready hr rfl]
  simp only [curTile_of_core hcore, curSlot_of_core hcore, hown]
  rfl

/-- While another slot keeps the transposer busy, a word whose body looks at that first faults (R130). -/
theorem exec_foreign {i : Instr} (hr : Ready i s) (hcore : s.cur.core = .tile t k) (hforeign : (tileOf s t).xp.foreign k = true)
    {body : State → Verdict} (h : exec i s = gate i s body)
    (hbody : (tileOf s (curTile s)).xp.foreign (curSlot s) = true → body s = .fault 0x15) :
    exec i s = .next (preciseFault s 0x15) := by
  rw [exec_ready hr h, hbody (by rwa [curTile_of_core hcore, curSlot_of_core hcore])]
  rfl

end

/-! ### The result of a pop (R129) -/

/-- What an outstanding pop writes (R128, R129). -/
def popVector (x : Xpose) (p : Pop) : VWord := if p.zeroAt.isSome then 0 else xpOutput x (p.n / 128) (p.n % 128)

/-- The pop has its result: it is outstanding no more. -/
def endPop (s : State) (t n : Nat) : State :=
  updTile s t fun y => { y with xp := ({ y.xp with pops := y.xp.pops.filter fun q => q.id != n } : Xpose).tidy }

theorem exec_tpopResult {s : State} {t n h : Nat} {p : Pop} (hpop : ((tileOf s t).xp.pops.find? fun q => q.id == n) = some p)
    (hdue : popDue (tileOf s t).xp p = some h) (hle : h ≤ s.hc) (hst : (taskOf s t (tileOf s t).xp.owner).st ≠ .stopped) :
    exec (.tpopResult t n) s = .next (checkWaits (fillReg (endPop s t n) (.tile t (tileOf s t).xp.owner) (.v p.vd)
      fun y => writeV y p.vd (BitVec.allOnes 4096) (popVector (tileOf s t).xp p)) t) := by
  show execTpopResult t n s = _
  simp only [execTpopResult, hpop, hdue, hle, bne_iff_ne.2 hst, decide_true, Bool.and_self, whenever, if_true]
  rfl

/-- What follows the pop's write only ends waits. -/
theorem popResult {s : State} {t n h : Nat} {p : Pop} (hpop : ((tileOf s t).xp.pops.find? fun q => q.id == n) = some p)
    (hdue : popDue (tileOf s t).xp p = some h) (hle : h ≤ s.hc) (hst : (taskOf s t (tileOf s t).xp.owner).st ≠ .stopped) :
    ∃ s', exec (.tpopResult t n) s = .next s' ∧
      readV (taskOf s' t (tileOf s t).xp.owner) p.vd = popVector (tileOf s t).xp p ∧
      isEmpty (taskOf s' t (tileOf s t).xp.owner) (.v p.vd) = false ∧
      (tileOf s' t).xp.pops = (tileOf s t).xp.pops.filter fun q => q.id != n := by
  have hkeeps := (keepsVectors_fillReg (endPop s t n) t (tileOf s t).xp.owner (.v p.vd)
    fun y => writeV y p.vd (BitVec.allOnes 4096) (popVector (tileOf s t).xp p)).checkWaits (t := t)
  refine ⟨_, exec_tpopResult hpop hdue hle hst, ?_, ?_, ?_⟩
  · rw [hkeeps.readV, taskOf_updTask, if_pos ⟨rfl, rfl⟩, readV_markFull, readV_writeV_allOnes]
  · rw [hkeeps.isEmpty_v, taskOf_updTask, if_pos ⟨rfl, rfl⟩, isEmpty_markFull_v]
  · rw [hkeeps.xp, (updTask_tile ..).2.2, endPop, tileOf_updTile_self]
    rfl

/-- Settles O31: each word changes the transposer in its own way, and what follows a change or a pop's result leaves transposers
and v registers. -/
theorem transposerWords : Obligations.TransposerWords := by
  unfold Obligations.TransposerWords
  refine ⟨?row, ?stall, ?pop, ?mode, ?clear, ?foreign, ?result⟩
  case row =>
    rintro o s t k _ hr hcore rfl hown hroom
    exact ⟨_, (exec_trin hr hcore hown).trans (congrArg _ (if_neg hroom)), xp_changeXp ..⟩
  case stall =>
    rintro o s t k _ hr hcore rfl hown hblock hpops
    exact (exec_trin hr hcore hown).trans (congrArg _ (if_pos ⟨hblock, hpops⟩))
  case pop =>
    rintro o s t k _ hr hcore rfl hown
    obtain ⟨hxp, hstart, hempty⟩ := startLong_v hcore o.vd 11 (tileOf s t).xp.popSeq
    obtain ⟨hpop, hmem⟩ := xp_changeXp (startLong s (.v o.vd) 11 (tileOf s t).xp.popSeq) t (addPop k s.hc o.vd)
    exact ⟨_, exec_tpop hr hcore hown, hpop.trans (congrArg _ hxp), (isEmpty_changeXp ..).trans hempty,
      sameMemory_trans hstart hmem⟩
  case mode =>
    rintro o s t k _ hr hcore rfl hown
    exact ⟨_, exec_tmode hr hcore hown, xp_changeXp ..⟩
  case clear =>
    rintro s t k _ hr hcore rfl hown
    exact ⟨_, exec_tclr hr hcore hown, xp_changeXp ..⟩
  case foreign =>
    rintro i s t k hr (rfl | ⟨o, rfl⟩ | ⟨o, rfl⟩ | ⟨o, rfl⟩) hcore hforeign
    all_goals exact exec_foreign hr hcore hforeign rfl fun h => if_pos h
  case result =>
    intro t n s p h hpop hdue hle hst
    obtain ⟨s', hexec, hread, hfull, hpops⟩ := popResult hpop hdue hle hst
    exact ⟨s', _, hexec, rfl, hread, hfull, hpops⟩

end Sys2Proof.VectorWords
end

section
/-! PROOFS. The family of the cube and the engines: the triggers of the cube, the nib groups and the link send port. -/

namespace Sys2Proof.Triggers

open Sys2Proof Sys2Proof.Machine Sys2Proof.Operands Sys2Proof.Values Sys2Proof.TaskFlow Sys2Proof.VectorWords

variable {s : State}

/-! ### trig.cube (R138, R143, R144) -/

/-- What the cube makes of a snapshot once the registers of its word are settled (R143, R144). -/
def cubeVerdict (s : State) (vd : BitVec 5) (c : CubeSnap) : Verdict :=
  match snapFault s c with
  | some code => .fault code
  | none =>
    if cubeRefuses (tileOf s (curTile s)) c then .stall (noteStall s 8)
    else
      let s' := if c.toReg then startLong s (.v vd) 8 (tileOf s (curTile s)).cubeSeq else s
      .issue (acceptCube s' (curTile s') (curSlot s') c none (curEntry s') s'.cur.addr)

theorem exec_trigCube {o : TP} (hr : Ready (.trigCube o) s) : exec (.trigCube o) s = .next (settle s
    (if (takeSnap s o.vd).toReg then vdVerdict s o.vd (cubeVerdict s o.vd (takeSnap s o.vd))
      else cubeVerdict s o.vd (takeSnap s o.vd))) := exec_ready hr rfl

theorem vdVerdict_full {vd : BitVec 5} (go : Verdict) (hempty : isEmpty (gateTask s) (.v vd) = false)
    (hpending : isPending (gateTask s) (.v vd) = false) : vdVerdict s vd go = go := by
  simp [vdVerdict, hempty, hpending]

theorem cubeVerdict_accepts {vd : BitVec 5} {c : CubeSnap} (hfault : snapFault s c = none)
    (hroom : cubeRefuses (tileOf s (curTile s)) c = false) (hreg : c.toReg = false) :
    cubeVerdict s vd c = .issue (acceptCube s (curTile s) (curSlot s) c none (curEntry s) s.cur.addr) := by
  simp [cubeVerdict, hfault, hroom, hreg]

theorem markEmpty_place (x : Task) (r : Reg) : (markEmpty x r).stream = x.stream ∧ (markEmpty x r).entry = x.entry := by
  cases r with
  | s n =>
    by_cases h : n = 0
    · rw [markEmpty, if_pos h]
      exact ⟨rfl, rfl⟩
    · rw [markEmpty, if_neg h]
      exact ⟨rfl, rfl⟩
  | v n => exact ⟨rfl, rfl⟩
  | p n => exact ⟨rfl, rfl⟩

/-- A register marked empty leaves where the executed word stands. -/
theorem startLong_place (s : State) (r : Reg) (unit id : Nat) :
    curTile (startLong s r unit id) = curTile s ∧ curSlot (startLong s r unit id) = curSlot s ∧
      curEntry (startLong s r unit id) = curEntry s := by
  refine ⟨by rw [curTile, startLong_cur, curTile], by rw [curSlot, startLong_cur, curSlot], ?_⟩
  have htask : (curTask (startLong s r unit id)).stream = (curTask s).stream ∧
      (curTask (startLong s r unit id)).entry = (curTask s).entry := by
    rw [curTask, startLong_cur, startLong, updCur, coreTask_updCore]
    split
    · exact ⟨rfl, rfl⟩
    · exact markEmpty_place ..
  rw [curEntry, htask.1, htask.2, startLong_cur, curEntry]

theorem cubeVerdict_accepts_row {vd : BitVec 5} {c : CubeSnap} (hfault : snapFault s c = none)
    (hroom : cubeRefuses (tileOf s (curTile s)) c = false) (hreg : c.toReg = true) :
    cubeVerdict s vd c = .issue (acceptCube (startLong s (.v vd) 8 (tileOf s (curTile s)).cubeSeq) (curTile s) (curSlot s) c none
      (curEntry s) s.cur.addr) := by
  obtain ⟨htile, hslot, hentry⟩ := startLong_place s (.v vd) 8 (tileOf s (curTile s)).cubeSeq
  simp [cubeVerdict, hfault, hroom, hreg, htile, hslot, hentry]

theorem cubeOps_acceptCube (s : State) (t k : Nat) (c : CubeSnap) (origin : Option Nat) (entry : Nat) (addr : Word) :
    ((tileOf (acceptCube s t k c origin entry addr) t).cubeOps.map fun o => (o.snap, o.st, o.task)) =
      ((tileOf s t).cubeOps.map fun o => (o.snap, o.st, o.task)) ++ [(c, .accepted, k)] := by
  rw [acceptCube, tileOf_congr (schedule_tiles ..), tileOf_updTile_self, List.map_append]
  rfl

/-! ### trig.nib (R162) -/

/-- A snapshot that breaks the shape conditions of R162. -/
def NibShapeBad (l : Table Word) : Prop := latchBad 0x142 (latchIn l 0x142) = true ∨ nibK l = 0 ∨ (nibX l).toNat % 64 ≠ 0

/-- The latches of the nib block, as a trigger snapshots them. -/
def nibLatches (s : State) : Table Word := (curTask s).lat.filter fun e => 0x140 ≤ e.1 && e.1 < 0x180

/-- The state in which the port holds the request `id` of a trigger, behind those that it held. -/
def acceptNib (s : State) (vd : BitVec 5) (id : Nat) : State :=
  let s' := startLong s (.v vd) 9 id
  let r : NibReq :=
    { id := id, task := curSlot s', lat := nibLatches s, fmt := (curTask s).fmt, vd := vd, ts := s'.ts, resolved := false,
      entry := curEntry s', addr := s'.cur.addr, poison := false, issued := s'.hc, after := (curTask s).gaccNext, flips := [] }
  schedule (updTile s' (curTile s') fun x => { x with nib := x.nib ++ [r] }) (s'.hc + 1) (.nibResolution (curTile s') id)

/-- What the port makes of a trigger (R162). -/
def nibVerdict (s : State) (vd : BitVec 5) : Verdict :=
  if latchBad 0x142 (latchIn (nibLatches s) 0x142) || nibK (nibLatches s) = 0 || (nibX (nibLatches s)).toNat % 64 != 0 then
    .fault 0x12
  else if !nibFmtOk (curTask s).fmt then .fault 0x10
  else match nibFree (tileOf s (curTile s)) with
    | none => .stall (noteStall s 9)
    | some id => .issue (acceptNib s vd id)

theorem exec_trigNib {o : TP} (hr : Ready (.trigNib o) s) : exec (.trigNib o) s = .next (settle s (nibVerdict s o.vd)) :=
  exec_ready hr rfl

theorem nibVerdict_bad {vd : BitVec 5} (h : NibShapeBad (nibLatches s)) : nibVerdict s vd = .fault 0x12 :=
  if_pos (by simpa [NibShapeBad, or_assoc] using h)

theorem nibVerdict_shaped {vd : BitVec 5} (h : ¬ NibShapeBad (nibLatches s)) : nibVerdict s vd =
    if !nibFmtOk (curTask s).fmt then .fault 0x10
    else match nibFree (tileOf s (curTile s)) with
      | none => .stall (noteStall s 9)
      | some id => .issue (acceptNib s vd id) :=
  if_neg (by simpa [NibShapeBad, or_assoc] using h)

/-- A register marked empty leaves the requests of every port. -/
theorem nib_startLong (s : State) (r : Reg) (unit id t : Nat) : (tileOf (startLong s r unit id) t).nib = (tileOf s t).nib := by
  unfold startLong updCur updCore
  split
  · rw [updTask, tileOf_updTile]
    split
    next h => exact h ▸ rfl
    next => rfl
  · rfl

theorem nib_acceptNib (s : State) (vd : BitVec 5) (id : Nat) :
    ((tileOf (acceptNib s vd id) (curTile s)).nib.map fun r => (r.id, r.lat, r.fmt, r.vd, r.task)) =
      ((tileOf s (curTile s)).nib.map fun r => (r.id, r.lat, r.fmt, r.vd, r.task)) ++
        [(id, nibLatches s, (curTask s).fmt, vd, curSlot s)] := by
  obtain ⟨htile, hslot, -⟩ := startLong_place s (.v vd) 9 id
  rw [acceptNib, tileOf_congr (schedule_tiles ..), htile, tileOf_updTile_self, List.map_append, nib_startLong, hslot]
  rfl

/-! ### trig.lnk (R342, R343) -/

/-- The latches of the link block, as a trigger snapshots them. -/
def lnkLatches (s : State) : Table Word := (curTask s).lat.filter fun e => 0x180 ≤ e.1

/-- The state in which the port holds the command of a trigger, behind those that it held. -/
def acceptLnk (s : State) : State :=
  let c : LnkCmd :=
    { n := (tileOf s (curTile s)).lnkSeq, task := curSlot s, lat := lnkLatches s, offset := 0, taken := false, pendingSeqs := [],
      peer := lnkPair (lnkLatches s), eth := wbitAt (lnkPeerWord (lnkLatches s)) 4, failed := false, entry := curEntry s,
      acceptedAt := s.hc, after := (curTask s).gaccNext }
  scheduleOnce (updTile s (curTile s) fun x => { x with lnkSeq := (tileOf s (curTile s)).lnkSeq + 1, lnk := x.lnk ++ [c] })
    (s.hc + 1) (.linkCommandTake (curTile s))

theorem exec_trigLnk (hr : Ready .trigLnk s) : exec .trigLnk s = .next (settle s
    (if lnkBad s (lnkLatches s) then .fault 0x30
      else if 16 ≤ (tileOf s (curTile s)).lnk.length then .stall (noteStall s 10) else .issue (acceptLnk s))) :=
  exec_ready hr rfl

theorem lnk_acceptLnk (s : State) :
    ((tileOf (acceptLnk s) (curTile s)).lnk.map fun c => (c.n, c.lat, c.task)) =
      ((tileOf s (curTile s)).lnk.map fun c => (c.n, c.lat, c.task)) ++
        [((tileOf s (curTile s)).lnkSeq, lnkLatches s, curSlot s)] := by
  rw [acceptLnk, tileOf_congr (scheduleOnce_tiles ..), tileOf_updTile_self, List.map_append]
  rfl

/-- Settles O34: each trigger's verdict case by case; a request or command that is taken joins those its unit held. -/
theorem unitTriggers : Obligations.UnitTriggers := by
  unfold Obligations.UnitTriggers
  refine ⟨?cube, ?row, cubeOps_acceptCube, ?nib, ?lnk⟩
  case cube =>
    rintro o s _ hr rfl hreg
    rw [exec_trigCube hr, hreg, if_neg Bool.false_ne_true]
    refine ⟨fun code hfault => ?_, fun hfault hfull => ?_, fun hfault hroom => ?_⟩
    · simp only [cubeVerdict, hfault, settle]
    · simp only [cubeVerdict, hfault, hfull, if_true, settle]
    · rw [cubeVerdict_accepts hfault hroom hreg, settle]
  case row =>
    rintro o s _ hr rfl hreg hfault hroom hempty hpending
    rw [exec_trigCube hr, if_pos hreg, vdVerdict_full _ hempty hpending, cubeVerdict_accepts_row hfault hroom hreg, settle]
  case nib =>
    rintro o s l hr (rfl : l = nibLatches s)
    rw [exec_trigNib hr]
    refine ⟨fun hbad => by rw [nibVerdict_bad hbad, settle], fun hshape => ?_⟩
    rw [nibVerdict_shaped hshape]
    refine ⟨fun hfmt => ?_, fun hfmt hfull => ?_, fun hfmt id hfree => ⟨acceptNib s o.vd id, ?_, nib_acceptNib ..⟩⟩
    · simp [hfmt, settle]
    · simp [hfmt, hfull, settle]
    · simp [hfmt, hfree, settle]
  case lnk =>
    rintro s l hr (rfl : l = lnkLatches s)
    rw [exec_trigLnk hr]
    refine ⟨fun hbad => ?_, fun hok hfull => ?_, fun hok hroom => ⟨acceptLnk s, ?_, lnk_acceptLnk s⟩⟩
    · rw [if_pos hbad, settle]
    · rw [if_neg (Bool.eq_false_iff.1 hok), if_pos hfull, settle]
    · rw [if_neg (Bool.eq_false_iff.1 hok), if_neg (Nat.not_le.2 hroom), settle]

end Sys2Proof.Triggers
end

section
/-! PROOFS. The family of the cube and the engines: what the machinery that a tile's units share leaves as it was, and what an
update leaves to read of their operations, commands and requests. -/

namespace Sys2Proof.Units

open Sys2Proof Sys2Proof.Machine Sys2Proof.TaskFlow Sys2Proof.VectorWords

/-! ### Views of a tile -/

/-- The floor and the wells of a tile. -/
def memories (x : Tile) : Memory × Memory := (x.floor, x.wells)

/-- A view does not look at the task slots, nor at the choice among them. -/
def BlindToTasks {α : Type} (view : Tile → α) : Prop :=
  ∀ x tasks issuing freedAt, view { x with tasks := tasks, issuing := issuing, freedAt := freedAt } = view x

/-- The hc, HBM, the bellows core's memory and a view of every tile are the same in two states. -/
structure Keeps {α : Type} (view : Tile → α) (s s' : State) : Prop where
  hc : s'.hc = s.hc
  hbm : s'.hbm = s.hbm
  bellows : s'.bellows.mem = s.bellows.mem
  tile : ∀ t, view (tileOf s' t) = view (tileOf s t)

section
variable {α : Type} {view : Tile → α} {a s : State}

theorem Keeps.refl (s : State) : Keeps view s s := ⟨rfl, rfl, rfl, fun _ => rfl⟩

theorem Keeps.trans {b c : State} (h : Keeps view a b) (k : Keeps view b c) : Keeps view a c :=
  ⟨k.hc.trans h.hc, k.hbm.trans h.hbm, k.bellows.trans h.bellows, fun t => (k.tile t).trans (h.tile t)⟩

/-- What a view shows, a coarser one shows. -/
theorem Keeps.map {β : Type} {s' : State} (h : Keeps view s s') (g : α → β) : Keeps (fun x => g (view x)) s s' :=
  ⟨h.hc, h.hbm, h.bellows, fun t => congrArg g (h.tile t)⟩

theorem Keeps.sameMemory {s' : State} (h : Keeps memories s s') : SameMemory s s' :=
  sameMemory_of_tiles h.hbm h.bellows fun t => ⟨congrArg Prod.fst (h.tile t), congrArg Prod.snd (h.tile t)⟩

theorem Keeps.of_tiles {s' : State} (hhc : s'.hc = s.hc) (hhbm : s'.hbm = s.hbm) (hbellows : s'.bellows.mem = s.bellows.mem)
    (htiles : s'.tiles = s.tiles) : Keeps view s s' := ⟨hhc, hhbm, hbellows, fun t => by rw [tileOf_congr htiles]⟩

theorem Keeps.ite {c : Prop} [Decidable c] {s s' : State} (h : Keeps view a s) (h' : Keeps view a s') :
    Keeps view a (if c then s else s') := by
  split
  · exact h
  · exact h'

theorem Keeps.foldl {β : Type} {f : State → β → State} {l : List β} (h : Keeps view a s) (hf : ∀ s x, Keeps view s (f s x)) :
    Keeps view a (l.foldl f s) := h.trans (foldl_rel Keeps.refl Keeps.trans hf l s)

theorem OnlyFree.keeps {s' : State} (h : OnlyFree s s') : Keeps view s s' := by
  obtain ⟨n, rfl⟩ := h
  exact .of_tiles rfl rfl rfl rfl

/-! ### Tiles and events -/

theorem Keeps.updTile {t : Nat} {f : Tile → Tile} (h : Keeps view a s) (hf : ∀ x, view (f x) = view x) :
    Keeps view a (updTile s t f) := by
  refine h.trans ⟨rfl, rfl, rfl, fun j => ?_⟩
  rw [tileOf_updTile]
  split
  next ht => exact ht ▸ hf _
  next => rfl

theorem Keeps.schedule {due : Nat} {ev : Instr} (h : Keeps view a s) : Keeps view a (schedule s due ev) :=
  h.trans (.of_tiles rfl rfl rfl rfl)

theorem Keeps.scheduleOnce {due : Nat} {ev : Instr} (h : Keeps view a s) : Keeps view a (scheduleOnce s due ev) := .ite h h.schedule

theorem Keeps.scheduleLate {due ph : Nat} {ev : Instr} (h : Keeps view a s) : Keeps view a (scheduleLate s due ph ev) :=
  .ite h (h.trans (.of_tiles rfl rfl rfl rfl))

theorem Keeps.popDelay (h : Keeps view a s) : Keeps view a (popDelay s).2 := by
  unfold Machine.popDelay
  split
  · exact h
  · exact h.trans (.of_tiles rfl rfl rfl rfl)

theorem Keeps.scheduleOpen {ev : Instr} (h : Keeps view a s) : Keeps view a (scheduleOpen s ev) := h.popDelay.schedule

theorem Keeps.unschedule {ev : Instr} (h : Keeps view a s) : Keeps view a (unschedule s ev) := h.trans (.of_tiles rfl rfl rfl rfl)

theorem Keeps.raiseLine {n : Nat} (h : Keeps view a s) : Keeps view a (raiseLine s n) :=
  Keeps.scheduleOnce (h.trans (.of_tiles rfl rfl rfl rfl))

/-! ### Waits -/

section
variable (hv : BlindToTasks view)
include hv

theorem Keeps.updTask {t k : Nat} {f : Task → Task} (h : Keeps view a s) : Keeps view a (updTask s t k f) :=
  h.updTile fun x => hv x _ x.issuing x.freedAt

theorem Keeps.makeReady {t k : Nat} (h : Keeps view a s) : Keeps view a (makeReady s t k) :=
  .ite (h.updTask hv).scheduleLate (h.updTask hv)

theorem Keeps.wake {t k : Nat} {w : Wait} (h : Keeps view a s) : Keeps view a (wake s t k w) := by
  refine .ite ?_ (h.updTask hv)
  split
  · exact h.updTask hv
  · exact .ite (h.makeReady hv) (h.updTask hv)

theorem Keeps.checkWaits {t : Nat} (h : Keeps view a s) : Keeps view a (checkWaits s t) :=
  .foldl h fun s _ => .foldl (.refl s) fun s _ => .ite ((Keeps.refl s).wake hv) (.refl s)

theorem Keeps.fillReg {t k : Nat} {r : Reg} {f : Task → Task} (h : Keeps view a s) : Keeps view a (fillReg s (.tile t k) r f) :=
  .ite (((h.updTask hv).wake hv).wake hv).scheduleOnce (((h.updTask hv).wake hv).wake hv)

end
end

theorem blindToTasks_memories : BlindToTasks memories := fun _ _ _ _ => rfl

/-! ### What scheduling leaves to read -/

section
variable (s : State) (due : Nat) (ev : Instr) (t : Nat)

@[simp] theorem tileOf_schedule : tileOf (schedule s due ev) t = tileOf s t := rfl

@[simp] theorem tileOf_scheduleOnce : tileOf (scheduleOnce s due ev) t = tileOf s t := tileOf_congr (scheduleOnce_tiles ..) t

@[simp] theorem popDelay_tiles : (popDelay s).2.tiles = s.tiles := by
  unfold popDelay
  split <;> rfl

@[simp] theorem tileOf_scheduleOpen : tileOf (scheduleOpen s ev) t = tileOf s t := tileOf_congr (popDelay_tiles s) t

theorem mem_scheduleOnce {p : Pend} (h : p ∈ s.events) : p ∈ (scheduleOnce s due ev).events := by
  unfold scheduleOnce
  split
  · exact h
  · exact mem_insertEvent.2 (.inr h)

theorem exists_mem_scheduleOpen : ∃ p ∈ (scheduleOpen s ev).events, p.ev = ev ∧ s.hc < p.due := by
  obtain ⟨p, hp, hev, hdue⟩ := exists_mem_schedule (popDelay s).2 ((popDelay s).2.hc + 1 + (popDelay s).1) ev
  refine ⟨p, hp, hev, ?_⟩
  have hhc : (popDelay s).2.hc = s.hc := ((Keeps.refl s).popDelay (view := memories)).hc
  omega

theorem exists_mem_scheduleLate (ph : Nat) : ∃ p ∈ (scheduleLate s due ph ev).events, p.ev = ev ∧ p.due ≤ due := by
  unfold scheduleLate
  split
  next h =>
    obtain ⟨p, hp, hev⟩ := List.any_eq_true.1 h
    simp only [Bool.and_eq_true, beq_iff_eq, decide_eq_true_eq] at hev
    exact ⟨p, hp, hev.1⟩
  next => exact ⟨_, mem_insertEvent.2 (.inl rfl), rfl, le_rfl⟩

end

/-! ### Operations, commands and requests by number -/

/-- In a list whose entries of a number are changed, the first of that number is the changed one. -/
theorem find?_map_key {α : Type} {key : α → Nat} {n : Nat} {f : α → α} (hf : ∀ x, key (f x) = key x) (l : List α) :
    (l.map fun x => if key x = n then f x else x).find? (fun x => key x == n) = (l.find? fun x => key x == n).map f := by
  induction l with
  | nil => rfl
  | cons x l ih =>
    rw [List.map_cons]
    by_cases hx : key x = n
    · rw [if_pos hx, List.find?_cons_of_pos (by simpa [hf] using hx), List.find?_cons_of_pos (by simpa using hx)]
      rfl
    · rw [if_neg hx, List.find?_cons_of_neg (by simpa using hx), List.find?_cons_of_neg (by simpa using hx), ih]

theorem find?_filter_key {α : Type} {key : α → Nat} (n : Nat) (l : List α) :
    (l.filter fun x => key x != n).find? (fun x => key x == n) = none := by
  simp [List.find?_eq_none]

@[simp] theorem tget_tmod_self {α : Type} (d : α) (t : Table α) (k : Nat) (f : α → α) : tget d (tmod d t k f) k = f (tget d t k) :=
  tget_tset_self ..

section
variable {s : State} {t n : Nat} {o : CubeOp}

theorem opOf_congr {s' : State} (h : (tileOf s' t).cubeOps = (tileOf s t).cubeOps) (n : Nat) : opOf s' t n = opOf s t n := by
  rw [opOf, h, opOf]

theorem opOf_updOp_self (h : opOf s t n = some o) {f : CubeOp → CubeOp} (hf : ∀ o, (f o).n = o.n) :
    opOf (updOp s t n f) t n = some (f o) := by
  rw [opOf] at h ⊢
  rw [updOp, tileOf_updTile_self, find?_map_key (key := CubeOp.n) hf, h]
  rfl

/-- An operation taken off the cube is gone; what else its end does only lets other operations look, and ends waits. -/
theorem keeps_dropOp {α : Type} {view : Tile → α} (hv : BlindToTasks view) (s : State) (t n : Nat) :
    Keeps view (updTile s t fun x => { x with cubeOps := x.cubeOps.filter fun o => o.n != n }) (dropOp s t n) := by
  refine .checkWaits hv (.foldl (.refl _) fun s o => ?_)
  exact .ite (Keeps.refl s).scheduleOnce (.ite (Keeps.refl s).scheduleOnce (.refl s))

theorem cubeOps_dropOp (s : State) (t n : Nat) :
    (tileOf (dropOp s t n) t).cubeOps = (tileOf s t).cubeOps.filter fun o => o.n != n := by
  have h := (keeps_dropOp (view := Tile.cubeOps) (fun _ _ _ _ => rfl) s t n).tile t
  rwa [tileOf_updTile_self] at h

theorem opOf_dropOp (s : State) (t n : Nat) : opOf (dropOp s t n) t n = none := by
  rw [opOf, cubeOps_dropOp]
  exact find?_filter_key (key := CubeOp.n) n _

end

end Sys2Proof.Units
end

section
/-! PROOFS. The family of the cube and the engines: translations that are there, accesses of an engine at a floor port, and the
end of a claim. -/

namespace Sys2Proof.Units

open Sys2Proof Sys2Proof.Machine Sys2Proof.TaskFlow Sys2Proof.VectorWords

/-! ### Translations (R319) -/

/-- A view does not look at a tile's cache of translations, nor at its counts of misses. -/
def BlindToCaches {α : Type} (view : Tile → α) : Prop :=
  ∀ x utlb umiss hmiss, view { x with utlb := utlb, umiss := umiss, hmiss := hmiss } = view x

theorem Keeps.fillXlat {α : Type} {view : Tile → α} {a s : State} (hv : BlindToCaches view) {t c : Nat} {va : Word}
    (h : Keeps view a s) : Keeps view a (fillXlat s t c va) := by
  unfold Machine.fillXlat
  split
  · exact h
  next e _ =>
    have hearth : Keeps view a (if inHtlb s c va then s else { s with htlb := (e :: s.htlb).take 8192 }) :=
      .ite h (h.trans (.of_tiles rfl rfl rfl rfl))
    exact .ite hearth (hearth.updTile fun x => hv x _ x.umiss x.hmiss)

theorem Keeps.noteXlat {α : Type} {view : Tile → α} {a s : State} (hv : BlindToCaches view) {t c : Nat} {va : Word}
    (h : Keeps view a s) : Keeps view a (noteXlat s t c va) :=
  .ite h ((h.updTile fun x => hv x x.utlb _ _).fillXlat hv)

/-- A unit that has its translation has at most filled the caches with it. -/
theorem ensureUnit_ready {s s' : State} {t k c : Nat} {va : Word} {write : Bool}
    (h : ensureUnit s t k c va write = (true, s')) : s' = noteXlat s t c va := by
  unfold ensureUnit at h
  split at h
  · split at h
    · exact (congrArg Prod.snd h).symm
    · cases congrArg Prod.fst h
  · exact (congrArg Prod.snd h).symm
  · exact (congrArg Prod.snd h).symm

/-! ### The floor port (R178) -/

section
variable {s : State} {t : Nat}

/-- In an hc without accesses yet, the bytes of an engine's write land as they are. -/
theorem storeRace_quiet (h : (tileOf s t).raceHc ≠ s.hc) (bs : List (Nat × Byte)) : storeRace s t bs = (bs, s) := by
  induction bs with
  | nil => rfl
  | cons b bs ih => simp [storeRace, h, ih]

theorem engineWrite_quiet (h : (tileOf s t).raceHc ≠ s.hc) (bs : List (Nat × Byte)) :
    engineWrite s t bs = writeUnits s t (bs.map fun c => [c]) := by
  rw [engineWrite, storeRace_quiet h]

theorem flatten_singletons {α : Type} (l : List α) : (l.map fun x => [x]).flatten = l := by
  induction l with
  | nil => rfl
  | cons x l ih => exact congrArg (x :: ·) ih

theorem floor_writeUnits (us : List FloorUnit) :
    (tileOf (writeUnits s t us) t).floor = mwriteAll (tileOf s t).floor us.flatten := by
  rw [writeUnits, tileOf_updTile_self]

theorem floor_engineWrite_quiet (h : (tileOf s t).raceHc ≠ s.hc) (bs : List (Nat × Byte)) :
    (tileOf (engineWrite s t bs) t).floor = mwriteAll (tileOf s t).floor bs := by
  rw [engineWrite_quiet h, floor_writeUnits, flatten_singletons]

/-- A view does not look at the floor, nor at the record of the accesses of an hc. -/
def BlindToFloor {α : Type} (view : Tile → α) : Prop :=
  ∀ x raceHc raceOld raceSt floor,
    view { x with raceHc := raceHc, raceOld := raceOld, raceSt := raceSt, floor := floor } = view x

theorem Keeps.writeUnits {α : Type} {view : Tile → α} {a : State} (hv : BlindToFloor view) {us : List FloorUnit}
    (h : Keeps view a s) : Keeps view a (writeUnits s t us) := h.updTile fun x => hv x _ _ _ _

end

/-! ### The end of a claim (R170, R172) -/

/-- A fill whose tag no other slot holds gives its slot the tag. -/
theorem endClaim_valid {x : Tile} {slot : Nat} {tag : Word} (htag : tag ≠ 0) (hshared : isShared x (slot * 16384) = false)
    (hother : holders x.tags slot tag = []) : endClaim x slot tag =
      { x with tags := (tset (applyTag x.tags slot tag false) slot
          { st := .valid, tag := tag, owner := (tget ({} : TagEntry) x.tags slot).owner }) } := by
  unfold endClaim
  rw [hshared, hother]
  exact if_neg (by simpa using htag)

/-- The end of a claim changes nothing but tags. -/
theorem endClaim_tags (x : Tile) (slot : Nat) (tag : Word) : ∃ tags, endClaim x slot tag = { x with tags := tags } := by
  unfold endClaim
  split
  · exact ⟨_, rfl⟩
  · exact ⟨_, rfl⟩

/-! ### Vectors that are delivered (R156, R164) -/

/-- A row that arrives in vd stands in it, and vd is full. -/
theorem deliverV_full (s : State) (t k : Nat) (vd : BitVec 5) (v : VWord) :
    readV (taskOf (deliverV s t k vd v) t k) vd = v ∧ isEmpty (taskOf (deliverV s t k vd v) t k) (.v vd) = false := by
  have hkeeps := keepsVectors_fillReg s t k (.v vd) fun x => writeV x vd (BitVec.allOnes 4096) v
  rw [deliverV, hkeeps.readV, hkeeps.isEmpty_v, taskOf_updTask, if_pos ⟨rfl, rfl⟩, readV_markFull, readV_writeV_allOnes,
    isEmpty_markFull_v]
  exact ⟨rfl, rfl⟩

theorem keeps_deliverV {α : Type} {view : Tile → α} (hv : BlindToTasks view) (s : State) (t k : Nat) (vd : BitVec 5) (v : VWord) :
    Keeps view s (deliverV s t k vd v) := (Keeps.refl s).fillReg hv

theorem keepsVectors_dropOp (s : State) (t n : Nat) : KeepsVectors s (dropOp s t n) := by
  have hgone : KeepsVectors s (updTile s t fun x => { x with cubeOps := x.cubeOps.filter fun o => o.n != n }) :=
    (KeepsVectors.refl s).updTile fun _ => ⟨rfl, rfl, rfl, rfl⟩
  refine .checkWaits (.foldl hgone fun s o => ?_)
  exact .ite (KeepsVectors.refl s).scheduleOnce (.ite (KeepsVectors.refl s).scheduleOnce (.refl s))

end Sys2Proof.Units
end

section
/-! PROOFS. The family of the cube and the engines: the steps of a cube operation on its way. -/

namespace Sys2Proof.CubeWork

open Sys2Proof Sys2Proof.Machine Sys2Proof.TaskFlow Sys2Proof.VectorWords Sys2Proof.Units

section
variable {s : State} {t n : Nat} {o : CubeOp}

/-! ### What the changes of an operation leave -/

/-- A view does not look at the cube's operations. -/
def BlindToOps {α : Type} (view : Tile → α) : Prop := ∀ x ops, view { x with cubeOps := ops } = view x

theorem blindToOps_memories : BlindToOps memories := fun _ _ => rfl

theorem keeps_updOp {α : Type} {view : Tile → α} {a : State} (hv : BlindToOps view) {f : CubeOp → CubeOp} (h : Keeps view a s) :
    Keeps view a (updOp s t n f) := h.updTile fun x => hv x _

theorem opOf_kept {s' : State} (h : Keeps Tile.cubeOps s s') (t n : Nat) : opOf s' t n = opOf s t n := opOf_congr (h.tile t) n

/-! ### Flues (R369, R370) -/

theorem liveFlues_whole {x : Tile} (h : x.fluert = 0) (b : Nat) : liveFlues x b = 4 := by simp [liveFlues, h]

theorem fewestFlues_whole {x : Tile} (h : x.fluert = 0) (a b : Nat) : fewestFlues x a b = 4 := by
  unfold fewestFlues
  simp only [liveFlues_whole h]
  induction List.range (b + 1 - a) with
  | nil => rfl
  | cons _ l ih => exact ih

theorem pathLost_whole (h : (tileOf s t).fluert = 0) (a b : Nat) : pathLost s t a b = false := by
  simp [pathLost, liveFlues_whole h]

/-! ### Resolution and staging (R144, R146, R147) -/

theorem lookChunks_settled {us : List ChunkUse} (h : ∀ u ∈ us, u.tag = 0) (i : Nat) : lookChunks s t n i us = some s := by
  induction us generalizing i with
  | nil => rfl
  | cons u us ih =>
    obtain ⟨hu, hus⟩ := List.forall_mem_cons.1 h
    have hlook : lookChunk s t n i u = some s := by simp [lookChunk, hu]
    rw [lookChunks, hlook]
    exact ih hus (i + 1)

/-- A look at an operation whose chunks are all settled: staging begins, or is looked at again. -/
theorem advanceOp_settled (ho : opOf s t n = some o) (h : ∀ u ∈ o.chunks, u.tag = 0) : advanceOp s t n =
    if chunksHeld s t o then scheduleOnce s (s.hc + 1) (.cubeResolution t n)
    else if s.hc < (tileOf s t).stageFree then scheduleOnce s (tileOf s t).stageFree (.cubeResolution t n)
    else if stagesBefore s t o then scheduleOnce s (s.hc + 1) (.cubeResolution t n)
    else startStaging s t n := by
  have hvalid : (!chunksValid s t o) = chunksHeld s t o := by
    rw [chunksValid, List.all_eq_true.2 fun u hu => by simpa using h u hu, Bool.true_and, Bool.not_not]
  simp only [advanceOp, ho, lookChunks_settled h, hvalid]

/-- An operation with its operands as the slots of its tile hold them, on its way to the wells. -/
def stagingOp (x : Tile) (o : CubeOp) : CubeOp :=
  { o with st := .staging, aBytes := gather x o.chunks 0, bBytes := gather x o.chunks 1, addBytes := gather x o.chunks 2,
           halves := o.layers.map (freeHalf x o) }

/-- The hc that staging takes with all flues live. -/
def stagingHc (o : CubeOp) : Nat := ((List.range o.layers.length).map fun i => ceilDiv (stageBytes o i).length 2048).sum

theorem stageTime_whole (h : (tileOf s t).fluert = 0) (i : Nat) :
    stageTime s t o i = (((List.range i).map fun i => ceilDiv (stageBytes o i).length 2048).sum, s) := by
  induction i with
  | zero => rfl
  | succ i ih =>
    rw [stageTime, ih]
    simp [flueTime, fewestFlues_whole h, List.range_succ]

/-- The operation as its staging sets out, to end at hc `done`. -/
def stagingUntil (done : Nat) (o : CubeOp) : CubeOp :=
  { o with stepsLeft := done, out := (List.range o.layers.length).flatMap (stageBytes o) }

/-- Staging sets out for a time, from a state: the flues are in use until its end. -/
def setOutStaging (r : Nat × State) (t n : Nat) : State :=
  let done := max (tileOf r.2 t).stageFree r.2.hc + r.1
  schedule (updOp (updTile r.2 t fun x => { x with stageFree := done }) t n (stagingUntil done)) done (.cubeStagingEnd t n)

theorem startStaging_eq (ho : opOf s t n = some o) : startStaging s t n =
    setOutStaging (stageTime (updOp s t n (stagingOp (tileOf s t))) t (stagingOp (tileOf s t) o) o.layers.length) t n := by
  have hop : opOf (updOp s t n (stagingOp (tileOf s t))) t n = some (stagingOp (tileOf s t) o) :=
    opOf_updOp_self ho fun _ => rfl
  unfold startStaging
  dsimp only
  split
  next h => exact absurd (hop.symm.trans h) (by simp)
  next h =>
    cases Option.some.inj (hop.symm.trans h)
    rfl

/-- A view does not look at the cube's operations, nor at the hc from which staging is free. -/
def BlindToStaging {α : Type} (view : Tile → α) : Prop := ∀ x ops free, view { x with cubeOps := ops, stageFree := free } = view x

section
variable {α : Type} {view : Tile → α}

theorem keeps_flueTime {a : State} (h : Keeps view a s) (f : Nat) (count : Nat → Nat) : Keeps view a (flueTime s f count).2 := by
  unfold flueTime
  split
  · exact h.popDelay
  · exact h

theorem keeps_stageTime (s : State) (t : Nat) (o : CubeOp) (i : Nat) : Keeps view s (stageTime s t o i).2 := by
  induction i with
  | zero => exact .refl s
  | succ i ih =>
    rw [stageTime]
    exact keeps_flueTime ih _ _

theorem keeps_setOutStaging (hv : BlindToStaging view) (r : Nat × State) (t n : Nat) :
    Keeps view r.2 (setOutStaging r t n) :=
  .schedule (keeps_updOp (fun x ops => hv x ops x.stageFree) (.updTile (.refl _) fun x => hv x x.cubeOps _))

/-- A look at an operation whose chunks are all settled changes only operations and the hc from which staging is free. -/
theorem keeps_advanceOp_settled (hv : BlindToStaging view) (ho : opOf s t n = some o) (h : ∀ u ∈ o.chunks, u.tag = 0) :
    Keeps view s (advanceOp s t n) := by
  rw [advanceOp_settled ho h, startStaging_eq ho]
  have hstart : Keeps view s (updOp s t n (stagingOp (tileOf s t))) := keeps_updOp (fun x ops => hv x ops x.stageFree) (.refl s)
  exact .ite (Keeps.refl s).scheduleOnce (.ite (Keeps.refl s).scheduleOnce (.ite (Keeps.refl s).scheduleOnce
    ((hstart.trans (keeps_stageTime ..)).trans (keeps_setOutStaging hv ..))))

end

theorem opOf_setOutStaging {r : Nat × State} {done : Nat} (hdone : max (tileOf r.2 t).stageFree r.2.hc + r.1 = done)
    (ho : opOf r.2 t n = some o) : opOf (setOutStaging r t n) t n = some (stagingUntil done o) := by
  subst hdone
  exact opOf_updOp_self ((opOf_congr (by rw [tileOf_updTile_self]) n).trans ho) fun _ => rfl

theorem stageFree_setOutStaging (r : Nat × State) (t n : Nat) :
    (tileOf (setOutStaging r t n) t).stageFree = max (tileOf r.2 t).stageFree r.2.hc + r.1 := by
  rw [setOutStaging, tileOf_schedule, updOp, tileOf_updTile_self, tileOf_updTile_self]

/-- Staging begins with all flues live and free (R144, R147). -/
theorem stagingBegins (ho : opOf s t n = some o) (hst : o.st = .resolving) (htags : ∀ u ∈ o.chunks, u.tag = 0)
    (hheld : chunksHeld s t o = false) (hbefore : stagesBefore s t o = false) (hfree : (tileOf s t).stageFree ≤ s.hc)
    (hflues : (tileOf s t).fluert = 0) : ∃ s' o',
    exec (.cubeResolution t n) s = .next s' ∧ opOf s' t n = some o' ∧ o'.st = .staging ∧
    o'.aBytes = gather (tileOf s t) o.chunks 0 ∧ o'.bBytes = gather (tileOf s t) o.chunks 1 ∧
    o'.addBytes = gather (tileOf s t) o.chunks 2 ∧ o'.halves = o.layers.map (freeHalf (tileOf s t) o) ∧
    o'.stepsLeft = s.hc + ((List.range o.layers.length).map fun i => ceilDiv (stageBytes o' i).length 2048).sum ∧
    (tileOf s' t).stageFree = o'.stepsLeft ∧ o'.out = (List.range o.layers.length).flatMap (stageBytes o') ∧
    (∃ p ∈ s'.events, p.ev = .cubeStagingEnd t n ∧ p.due = o'.stepsLeft) ∧ SameMemory s s' := by
  have hwhole : (tileOf (updOp s t n (stagingOp (tileOf s t))) t).fluert = 0 := by rw [updOp, tileOf_updTile_self, ← hflues]
  have hdone : max (tileOf (updOp s t n (stagingOp (tileOf s t))) t).stageFree s.hc + stagingHc (stagingOp (tileOf s t) o) =
      s.hc + stagingHc (stagingOp (tileOf s t) o) := by rw [updOp, tileOf_updTile_self, max_eq_right hfree]
  have hstart : advanceOp s t n = setOutStaging (stagingHc (stagingOp (tileOf s t) o), updOp s t n (stagingOp (tileOf s t))) t n := by
    rw [advanceOp_settled ho htags, hheld, hbefore, if_neg Bool.false_ne_true, if_neg (Nat.not_lt.2 hfree),
      if_neg Bool.false_ne_true, startStaging_eq ho, stageTime_whole hwhole]
    rfl
  have hexec : exec (.cubeResolution t n) s = .next (advanceOp s t n) := by
    show execCubeResolution t n s = _
    simp only [execCubeResolution, ho, hst]
  have hkeeps : Keeps memories s (advanceOp s t n) := keeps_advanceOp_settled (fun _ _ _ => rfl) ho htags
  rw [hstart] at hexec hkeeps
  refine ⟨_, _, hexec, opOf_setOutStaging hdone (opOf_updOp_self ho fun _ => rfl), rfl, rfl, rfl, rfl, rfl, rfl,
    (stageFree_setOutStaging ..).trans hdone, rfl, ?_, hkeeps.sameMemory⟩
  obtain ⟨p, hp, hev, hdue⟩ := exists_mem_schedule _ _ _
  exact ⟨p, hp, hev, hdue.trans hdone⟩

end

end Sys2Proof.CubeWork
end

section
/-! PROOFS. The family of the cube and the engines: the fill of an operand's chunk. -/
namespace Sys2Proof.CubeWork

open Sys2Proof Sys2Proof.Machine Sys2Proof.TaskFlow Sys2Proof.VectorWords Sys2Proof.Units

section
variable {s : State} {t n c : Nat} {o : CubeOp} {u : ChunkUse}

/-- A chunk's fill has landed: the state in which its operation looks again (R146, R170). -/
def landFill (s : State) (t n c : Nat) (u : ChunkUse) (bs : List Byte) : State :=
  updChunk (updTile (engineWrite s t (addrBytes (16384 * u.slot) bs)) t fun x => endClaim x u.slot u.tag) t n c
    fun u => { u with tag := 0 }

theorem exec_cubeChunkFillEnd {s₁ : State} {bs : List Byte} (ho : opOf s t n = some o) (hst : o.st = .resolving)
    (hu : o.chunks[c]? = some u) (hown : u.own = true) (htag : u.tag ≠ 0) (hbefore : fillBefore (tileOf s t) n c = false)
    (hheld : fillHeld (tileOf s t) u.slot u.tag = false) (hstores : storesAt (tileOf s t) o u.slot = false)
    (hxlat : ensureUnit s t o.task (tileCtx s t) (chunkFirst (o.desc u.operand) u.chunk) false = (true, s₁))
    (hbytes : chunkBytes s₁ (tileCtx s₁ t) (o.desc u.operand) u.chunk = .ok bs) :
    exec (.cubeChunkFillEnd t n c) s = .next (advanceOp (landFill s₁ t n c u bs) t n) := by
  show execCubeChunkFillEnd t n c s = _
  simp only [execCubeChunkFillEnd, ho, hu, hst, hown, bne_iff_ne.2 htag, hbefore, hheld, hstores, hxlat, hbytes, beq_self_eq_true,
    Bool.and_self, Bool.not_true, Bool.or_self, Bool.false_eq_true, if_false]
  rfl

/-- With its one open fill landed, every chunk of an operation is settled. -/
theorem settled_set {us : List ChunkUse} (hothers : ∀ i v, us[i]? = some v → i ≠ c → v.tag = 0) {w : ChunkUse}
    (hw : w.tag = 0) : ∀ v ∈ us.set c w, v.tag = 0 := by
  intro v hv
  obtain ⟨i, hi⟩ := List.mem_iff_getElem?.1 hv
  rw [List.getElem?_set] at hi
  split at hi
  · split at hi
    · cases hi
      exact hw
    · cases hi
  next hne => exact hothers i v hi (Ne.symm hne)

/-- With the port quiet, the slot holds the fill's bytes under the tag it was claimed for. -/
theorem landFill_spec (ho : opOf s t n = some o) (hu : o.chunks[c]? = some u) (htag : u.tag ≠ 0)
    (hquiet : (tileOf s t).raceHc ≠ s.hc) (hshared : isShared (tileOf s t) (u.slot * 16384) = false)
    (hholders : holders (tileOf s t).tags u.slot u.tag = []) (bs : List Byte) :
    opOf (landFill s t n c u bs) t n = some { o with chunks := o.chunks.set c { u with tag := 0 } } ∧
    (tileOf (landFill s t n c u bs) t).floor = mwriteAll (tileOf s t).floor (addrBytes (16384 * u.slot) bs) ∧
    ∃ owner, tget ({} : TagEntry) (tileOf (landFill s t n c u bs) t).tags u.slot = { st := .valid, tag := u.tag, owner := owner } := by
  have hfloor := floor_engineWrite_quiet hquiet (addrBytes (16384 * u.slot) bs)
  have hport : Keeps (fun x => (x.cubeOps, x.tags, x.sshare)) s (engineWrite s t (addrBytes (16384 * u.slot) bs)) := by
    rw [engineWrite_quiet hquiet]
    exact (Keeps.refl s).writeUnits fun _ _ _ _ _ => rfl
  obtain ⟨hops, htags, hshare⟩ := by simpa only [Prod.mk.injEq] using hport.tile t
  unfold landFill
  generalize engineWrite s t (addrBytes (16384 * u.slot) bs) = s₁ at hfloor hops htags hshare
  have hclaim := (tileOf_updTile_self s₁ t fun x => endClaim x u.slot u.tag).trans (endClaim_valid htag
    (show isShared (tileOf s₁ t) _ = _ by rw [isShared, hshare]; exact hshared) (by rw [htags, hholders]))
  have hop : opOf (updTile s₁ t fun x => endClaim x u.slot u.tag) t n = some o := by rw [opOf, hclaim, hops]; exact ho
  generalize updTile s₁ t (fun x => endClaim x u.slot u.tag) = s₂ at hclaim hop
  refine ⟨?_, ?_, ?_⟩
  · rw [updChunk, opOf_updOp_self hop, hu]
    · rfl
    · exact fun _ => rfl
  · rw [updChunk, updOp, tileOf_updTile_self, hclaim, ← hfloor]
  · rw [updChunk, updOp, tileOf_updTile_self, hclaim]
    exact ⟨_, tget_tset_self ..⟩

/-- A fill ends with the chunk's bytes in its slot, valid under its tag (R146, R170). -/
theorem fillEnds {s₁ : State} {bs : List Byte} (ho : opOf s t n = some o) (hst : o.st = .resolving)
    (hu : o.chunks[c]? = some u) (hown : u.own = true) (htag : u.tag ≠ 0)
    (hothers : ∀ i v, o.chunks[i]? = some v → i ≠ c → v.tag = 0) (hbefore : fillBefore (tileOf s t) n c = false)
    (hheld : fillHeld (tileOf s t) u.slot u.tag = false) (hstores : storesAt (tileOf s t) o u.slot = false)
    (hrace : (tileOf s t).raceHc ≠ s.hc)
    (hxlat : ensureUnit s t o.task (tileCtx s t) (chunkFirst (o.desc u.operand) u.chunk) false = (true, s₁))
    (hbytes : chunkBytes s₁ (tileCtx s₁ t) (o.desc u.operand) u.chunk = .ok bs)
    (hholders : holders (tileOf s t).tags u.slot u.tag = []) (hshared : isShared (tileOf s t) (u.slot * 16384) = false) :
    ∃ s' e, exec (.cubeChunkFillEnd t n c) s = .next s' ∧
    (tileOf s' t).floor = mwriteAll (tileOf s t).floor (addrBytes (16384 * u.slot) bs) ∧
    e = tget ({} : TagEntry) (tileOf s' t).tags u.slot ∧ e.st = .valid ∧ e.tag = u.tag := by
  have hexec := exec_cubeChunkFillEnd ho hst hu hown htag hbefore hheld hstores hxlat hbytes
  obtain rfl := ensureUnit_ready hxlat
  have hxlat : Keeps (fun x => (x.cubeOps, x.floor, x.tags, x.sshare, x.raceHc)) s
      (noteXlat s t (tileCtx s t) (chunkFirst (o.desc u.operand) u.chunk)) := (Keeps.refl s).noteXlat fun _ _ _ _ => rfl
  generalize noteXlat s t (tileCtx s t) (chunkFirst (o.desc u.operand) u.chunk) = s₁ at hexec hxlat
  obtain ⟨hops, hfloor, htags, hshare, hraceHc⟩ := by simpa only [Prod.mk.injEq] using hxlat.tile t
  have hquiet : (tileOf s₁ t).raceHc ≠ s₁.hc := by rwa [hxlat.hc, hraceHc]
  obtain ⟨hop, hfill, owner, hentry⟩ := landFill_spec ((opOf_congr hops n).trans ho) hu htag hquiet
    (by rw [isShared, hshare]; exact hshared) (by rw [htags, hholders]) bs
  have hlook : Keeps (fun x => (x.floor, x.tags)) (landFill s₁ t n c u bs) (advanceOp (landFill s₁ t n c u bs) t n) :=
    keeps_advanceOp_settled (fun _ _ _ => rfl) hop (settled_set hothers rfl)
  obtain ⟨hfloor', htags'⟩ := by simpa only [Prod.mk.injEq] using hlook.tile t
  rw [hfloor] at hfill
  rw [← htags'] at hentry
  exact ⟨_, _, hexec, hfloor'.trans hfill, rfl, congrArg TagEntry.st hentry, congrArg TagEntry.tag hentry⟩
end
end Sys2Proof.CubeWork
end

section
/-! PROOFS. The family of the cube and the engines: the end of staging, the run and the rise of a cube operation. -/

namespace Sys2Proof.CubeWork

open Sys2Proof Sys2Proof.Machine Sys2Proof.TaskFlow Sys2Proof.VectorWords Sys2Proof.Units

section
variable {s : State} {t n : Nat} {o : CubeOp}

theorem opOf_schedule (due : Nat) (ev : Instr) : opOf (schedule s due ev) t n = opOf s t n := rfl

theorem opOf_updTile {f : Tile → Tile} (hf : ∀ x, (f x).cubeOps = x.cubeOps) : opOf (updTile s t f) t n = opOf s t n :=
  opOf_congr (by rw [tileOf_updTile_self, hf]) n

/-- The end of staging (R147, R149). -/
theorem stagingEnds (ho : opOf s t n = some o) (hst : o.st = .staging) (hhold : o.holdLeft = 0) (hdone : o.stepsLeft ≤ s.hc)
    (hpath : ∀ l ∈ o.layers, pathLost s t 0 (dieOf s l) = false) : ∃ s', exec (.cubeStagingEnd t n) s = .next s' ∧
    opOf s' t n = some { o with st := .staged, out := [] } ∧
    (tileOf s' t).wells = mwriteAll (tileOf s t).wells o.out ∧ (tileOf s' t).floor = (tileOf s t).floor ∧
    (∃ p ∈ s'.events, p.ev = .cubeRunStart t n ∧ p.due = s.hc) := by
  have hlost : (o.layers.any fun l => pathLost s t 0 (dieOf s l)) = false := by simpa using hpath
  have hexec : exec (.cubeStagingEnd t n) s = .next (schedule (updOp (updTile s t fun x =>
      { x with wells := mwriteAll x.wells o.out }) t n fun o => { o with st := .staged, out := [] }) s.hc (.cubeRunStart t n)) := by
    show execCubeStagingEnd t n s = _
    simp only [execCubeStagingEnd, ho, hst, whenever, hhold, Nat.lt_irrefl, Nat.not_lt.2 hdone, hlost, beq_self_eq_true, if_true,
      if_false, Bool.false_eq_true]
    rfl
  refine ⟨_, hexec, ?_, ?_, ?_, exists_mem_schedule _ _ _⟩
  · rw [opOf_schedule, opOf_updOp_self ((opOf_updTile ?_).trans ho)]
    all_goals exact fun _ => rfl
  · rw [tileOf_schedule, updOp, tileOf_updTile_self, tileOf_updTile_self]
  · rw [tileOf_schedule, updOp, tileOf_updTile_self, tileOf_updTile_self]

/-! ### The run (R136, R149 to R152) -/

/-- The operation as its run starts, its well-resident operands as the wells hold them. -/
def runningOp (x : Tile) (o : CubeOp) : CubeOp :=
  { o with st := .running, stepsLeft := o.ck + 254,
           aBytes := if o.dA.layout = 1 then wellOperand x o o.dA o.snap.k else o.aBytes,
           bBytes := if o.dB.layout = 1 then wellOperand x o o.dB o.snap.k else o.bBytes,
           addBytes := if o.hasAdd && o.dAdd.layout = 1 then wellOperand x o o.dAdd o.snap.n else o.addBytes }

theorem keeps_nextPass (s : State) (t : Nat) (o : CubeOp) : Keeps memories s (nextPass s t o) := by
  unfold nextPass
  split
  · exact .schedule ((Keeps.refl s).updTile fun _ => rfl)
  · exact .refl s

/-- The operations of the cube stay where they are when the next pass of one is accepted after them. -/
theorem cubeOps_nextPass (s : State) (t : Nat) (o : CubeOp) : ∃ ps : List CubeOp,
    (tileOf (nextPass s t o) t).cubeOps = (tileOf s t).cubeOps ++ ps ∧ ps.length = if o.pass + 1 < o.passes then 1 else 0 := by
  unfold nextPass
  split
  · exact ⟨[_], by rw [tileOf_schedule, tileOf_updTile_self], rfl⟩
  · exact ⟨[], (List.append_nil _).symm, rfl⟩

theorem opOf_nextPass {p : CubeOp} (h : opOf s t n = some p) (o : CubeOp) : opOf (nextPass s t o) t n = some p := by
  obtain ⟨ps, hps, -⟩ := cubeOps_nextPass s t o
  rw [opOf, hps, List.find?_append, ← opOf, h]
  rfl

theorem length_cubeOps_updOp (s : State) (t n : Nat) (f : CubeOp → CubeOp) :
    (tileOf (updOp s t n f) t).cubeOps.length = (tileOf s t).cubeOps.length := by
  rw [updOp, tileOf_updTile_self, List.length_map]

/-- A staged operation starts to run (R149, R150). -/
theorem runStarts (ho : opOf s t n = some o) (hst : o.st = .staged) (hmay : mayRun (tileOf s t) o = true)
    (hheld : wellsHeld (tileOf s t) o = false) : ∃ s' o',
    exec (.cubeRunStart t n) s = .next s' ∧ opOf s' t n = some o' ∧ o'.st = .running ∧ o'.stepsLeft = o.ck + 254 ∧
    (o.dA.layout ≠ 1 → o'.aBytes = o.aBytes) ∧ (o.dB.layout ≠ 1 → o'.bBytes = o.bBytes) ∧ o'.halves = o.halves ∧
    (tileOf s' t).cubeOps.length = (tileOf s t).cubeOps.length + (if o.pass + 1 < o.passes then 1 else 0) ∧ SameMemory s s' := by
  have hrun : opOf (updOp s t n (runningOp (tileOf s t))) t n = some (runningOp (tileOf s t) o) := opOf_updOp_self ho fun _ => rfl
  obtain ⟨ps, hps, hlen⟩ := cubeOps_nextPass (updOp s t n (runningOp (tileOf s t))) t o
  have hkeeps : Keeps memories s (schedule (nextPass (updOp s t n (runningOp (tileOf s t))) t o) s.hc (.cubeRunEnd t n)) :=
    ((keeps_updOp blindToOps_memories (.refl s)).trans (keeps_nextPass ..)).schedule
  have hexec : exec (.cubeRunStart t n) s =
      .next (schedule (nextPass (updOp s t n (runningOp (tileOf s t))) t o) s.hc (.cubeRunEnd t n)) := by
    show execCubeRunStart t n s = _
    simp only [execCubeRunStart, ho, hst, hmay, hheld, whenever, beq_self_eq_true, Bool.and_self, if_true, Bool.false_eq_true, if_false]
    rfl
  refine ⟨_, _, hexec, opOf_nextPass hrun o, rfl, rfl, fun h => if_neg h, fun h => if_neg h, rfl, ?_, hkeeps.sameMemory⟩
  rw [tileOf_schedule, hps, List.length_append, length_cubeOps_updOp, hlen]

/-- A running operation takes a step in an hc in which the hold line is not asserted (R150). -/
theorem runSteps (ho : opOf s t n = some o) (hst : o.st = .running) (hsteps : o.stepsLeft ≠ 0) (hheld : runHeld s t o = false) :
    ∃ s', exec (.cubeRunEnd t n) s = .next s' ∧ opOf s' t n = some { o with stepsLeft := o.stepsLeft - 1 } ∧
      (tileOf s' t).held = (tileOf s t).held ∧ (∃ p ∈ s'.events, p.ev = .cubeRunEnd t n ∧ p.due = s.hc + 1) ∧ SameMemory s s' := by
  have hexec : exec (.cubeRunEnd t n) s =
      .next (schedule (updOp s t n fun o => { o with stepsLeft := o.stepsLeft - 1 }) (s.hc + 1) (.cubeRunEnd t n)) := by
    show execCubeRunEnd t n s = _
    simp only [execCubeRunEnd, ho, hst, hheld, whenever, beq_self_eq_true, if_true, if_neg hsteps, Bool.false_eq_true, if_false]
    rfl
  have hkeeps : Keeps memories s (updOp s t n fun o => { o with stepsLeft := o.stepsLeft - 1 }) :=
    keeps_updOp blindToOps_memories (.refl s)
  refine ⟨_, hexec, opOf_updOp_self ho fun _ => rfl, ?_, exists_mem_schedule _ _ _, hkeeps.schedule.sameMemory⟩
  rw [tileOf_schedule, updOp, tileOf_updTile_self]

theorem keeps_holdOp {α : Type} {view : Tile → α} (hv : ∀ x ops held, view { x with cubeOps := ops, held := held } = view x)
    (s : State) (t n : Nat) : Keeps view s (holdOp s t n) := by
  have hop : Keeps view s (updOp s t n fun o => { o with heldHc := s.hc + 1, holdLeft := o.holdLeft - 1 }) :=
    (Keeps.refl s).updTile fun x => hv x _ x.held
  exact .ite hop (hop.updTile fun x => hv x x.cubeOps _)

/-- The first held hc of a tile in an hc counts (R151). -/
theorem holdOp_counts (h : ∀ p ∈ (tileOf s t).cubeOps, p.heldHc ≠ s.hc + 1) : holdOp s t n =
    updTile (updOp s t n fun o => { o with heldHc := s.hc + 1, holdLeft := o.holdLeft - 1 }) t fun x => { x with held := x.held + 1 } := by
  have hcounted : ((tileOf s t).cubeOps.any fun o => o.heldHc == s.hc + 1) = false := by simpa using h
  rw [holdOp, hcounted]
  rfl

/-- A running operation counts the first hc of its tile in which the hold line is asserted as held, and takes no step (R151). -/
theorem runIsHeld (ho : opOf s t n = some o) (hst : o.st = .running) (hsteps : o.stepsLeft ≠ 0) (hheld : runHeld s t o = true)
    (hfirst : ∀ p ∈ (tileOf s t).cubeOps, p.heldHc ≠ s.hc + 1) : ∃ s' o',
      exec (.cubeRunEnd t n) s = .next s' ∧ opOf s' t n = some o' ∧ o'.st = .running ∧ o'.stepsLeft = o.stepsLeft ∧
      (tileOf s' t).held = (tileOf s t).held + 1 ∧
      (∃ p ∈ s'.events, p.ev = .cubeRunEnd t n ∧ p.due = s.hc + 1) ∧ SameMemory s s' := by
  have hexec : exec (.cubeRunEnd t n) s = .next (schedule (holdOp s t n) (s.hc + 1) (.cubeRunEnd t n)) := by
    show execCubeRunEnd t n s = _
    simp only [execCubeRunEnd, ho, hst, hheld, whenever, beq_self_eq_true, if_true, if_neg hsteps]
    rw [(keeps_holdOp (view := memories) (fun _ _ _ => rfl) s t n).hc]
  have hop : opOf (holdOp s t n) t n = some { o with heldHc := s.hc + 1, holdLeft := o.holdLeft - 1 } := by
    rw [holdOp_counts hfirst]
    rw [opOf_updTile, opOf_updOp_self ho]
    all_goals exact fun _ => rfl
  refine ⟨_, _, hexec, hop, hst, rfl, ?_, exists_mem_schedule _ _ _, (keeps_holdOp (fun _ _ _ => rfl) s t n).schedule.sameMemory⟩
  rw [tileOf_schedule, holdOp_counts hfirst, tileOf_updTile_self, updOp, tileOf_updTile_self]

/-- The operation as its rise begins, to take `d` hc. -/
def risingOp (d : Nat) (o : CubeOp) : CubeOp := { o with st := .rising, stepsLeft := d }

/-- The rise of an operation sets out for a time, from a state. -/
def setOutRise (r : Nat × State) (t n hc : Nat) : State :=
  schedule (updOp r.2 t n (risingOp r.1)) hc (.cubeRiseEnd t n)

theorem keeps_riseTime {α : Type} {view : Tile → α} (s : State) (t : Nat) (ls : List Nat) : Keeps view s (riseTime s t ls).2 := by
  induction ls with
  | nil => exact .refl s
  | cons a ls ih =>
    cases ls with
    | nil => exact .refl s
    | cons b ls =>
      rw [riseTime]
      exact keeps_flueTime ih _ _

theorem riseTime_single {ls : List Nat} (h : ls.length ≤ 1) : (riseTime s t ls).1 = 0 := by
  match ls, h with
  | [], _ => rfl
  | [_], _ => rfl

/-- What the end of a run does to the operation itself. -/
def leaveRun (s : State) (t n : Nat) (o : CubeOp) : State :=
  if o.snap.plane then readyOp s t n else setOutRise (riseTime s t o.layers) t n (riseTime s t o.layers).2.hc

/-- The end of a run lets the staged operations look. -/
theorem keeps_endRun {α : Type} {view : Tile → α} (s : State) (t n : Nat) (o : CubeOp) :
    Keeps view (leaveRun s t n o) (endRun s t n o) :=
  .foldl (.refl _) fun s _ => .ite (Keeps.refl s).scheduleOnce (.refl s)

theorem opOf_readyOp (ho : opOf s t n = some o) : opOf (readyOp s t n) t n = some { o with st := .awaiting, readyAt := s.hc } :=
  opOf_updOp_self (f := fun o => { o with st := .awaiting, readyAt := s.hc }) ho fun _ => rfl

theorem keeps_readyOp {α : Type} {view : Tile → α} (hv : BlindToOps view) : Keeps view s (readyOp s t n) :=
  (keeps_updOp hv (.refl s)).schedule

theorem exec_endRun (ho : opOf s t n = some o) (hst : o.st = .running) (hsteps : o.stepsLeft = 0) :
    exec (.cubeRunEnd t n) s = .next (endRun s t n o) := by
  show execCubeRunEnd t n s = _
  simp only [execCubeRunEnd, ho, hst, hsteps, whenever, beq_self_eq_true, if_true]

/-- After its last step a plane operation awaits the drain (R149, R154). -/
theorem planeRunEnds (ho : opOf s t n = some o) (hst : o.st = .running) (hsteps : o.stepsLeft = 0) (hplane : o.snap.plane = true) :
    ∃ s', exec (.cubeRunEnd t n) s = .next s' ∧ opOf s' t n = some { o with st := .awaiting, readyAt := s.hc } ∧
      SameMemory s s' := by
  have hleave : leaveRun s t n o = readyOp s t n := if_pos hplane
  refine ⟨_, exec_endRun ho hst hsteps, ?_, ?_⟩
  · rw [opOf_kept (keeps_endRun s t n o), hleave, opOf_readyOp ho]
  · exact (Keeps.trans (hleave ▸ keeps_readyOp blindToOps_memories) (keeps_endRun s t n o)).sameMemory

/-- After its last step an accumulate operation rises, at once where it has one layer (R149, R153). -/
theorem accumulateRunEnds (ho : opOf s t n = some o) (hst : o.st = .running) (hsteps : o.stepsLeft = 0)
    (hplane : o.snap.plane = false) : ∃ s' o', exec (.cubeRunEnd t n) s = .next s' ∧ opOf s' t n = some o' ∧ o'.st = .rising ∧
      (o.layers.length ≤ 1 → o'.stepsLeft = 0) ∧ SameMemory s s' := by
  have hleave : leaveRun s t n o = setOutRise (riseTime s t o.layers) t n (riseTime s t o.layers).2.hc :=
    if_neg (by simp [hplane])
  have hop : opOf (endRun s t n o) t n = some (risingOp (riseTime s t o.layers).1 o) := by
    rw [opOf_kept (keeps_endRun s t n o), hleave]
    exact opOf_updOp_self ((opOf_kept (keeps_riseTime s t o.layers) t n).trans ho) fun _ => rfl
  refine ⟨_, _, exec_endRun ho hst hsteps, hop, rfl, riseTime_single, ?_⟩
  have hset : Keeps memories s (leaveRun s t n o) :=
    hleave ▸ ((keeps_riseTime s t o.layers).trans (keeps_updOp blindToOps_memories (.refl _))).schedule
  exact (hset.trans (keeps_endRun s t n o)).sameMemory

/-! ### The rise (R153) -/

theorem exec_cubeRiseEnd (ho : opOf s t n = some o) (hst : o.st = .rising) (hflues : (tileOf s t).fluert = 0) :
    exec (.cubeRiseEnd t n) s = .next (if o.stepsLeft = 0 then readyOp s t n else
      let s := if 0 < o.holdLeft then holdOp s t n else updOp s t n fun o => { o with stepsLeft := o.stepsLeft - 1 }
      schedule s (s.hc + 1) (.cubeRiseEnd t n)) := by
  show execCubeRiseEnd t n s = _
  simp only [execCubeRiseEnd, ho, hst, whenever, pathLost_whole hflues, beq_self_eq_true, if_true, Bool.false_eq_true, if_false]

theorem riseEnds (ho : opOf s t n = some o) (hst : o.st = .rising) (hflues : (tileOf s t).fluert = 0) (hsteps : o.stepsLeft = 0) :
    ∃ s', exec (.cubeRiseEnd t n) s = .next s' ∧ opOf s' t n = some { o with st := .awaiting, readyAt := s.hc } ∧
      (∃ p ∈ s'.events, p.ev = .cubeDrainStart t n ∧ p.due = s.hc) :=
  ⟨_, (exec_cubeRiseEnd ho hst hflues).trans (by rw [if_pos hsteps]), opOf_readyOp ho, exists_mem_schedule _ _ _⟩

theorem riseSteps (ho : opOf s t n = some o) (hst : o.st = .rising) (hflues : (tileOf s t).fluert = 0) (hsteps : o.stepsLeft ≠ 0)
    (hhold : o.holdLeft = 0) : ∃ s', exec (.cubeRiseEnd t n) s = .next s' ∧
      opOf s' t n = some { o with stepsLeft := o.stepsLeft - 1 } ∧
      (∃ p ∈ s'.events, p.ev = .cubeRiseEnd t n ∧ p.due = s.hc + 1) := by
  have hexec := exec_cubeRiseEnd ho hst hflues
  rw [if_neg hsteps, if_neg (by omega : ¬ 0 < o.holdLeft)] at hexec
  exact ⟨_, hexec, opOf_updOp_self ho fun _ => rfl, exists_mem_schedule _ _ _⟩

end
end Sys2Proof.CubeWork
end

section
/-! PROOFS. The family of the cube and the engines: replays of flue beats. -/

namespace Sys2Proof.CubeWork

open Sys2Proof Sys2Proof.Machine Sys2Proof.TaskFlow Sys2Proof.VectorWords Sys2Proof.Units

section
variable {α : Type} {view : Tile → α} {s : State} {t n : Nat} {o : CubeOp} {r : FlueReplay}

/-- A view does not look at the flues of a tile, their replays and the repair of their banks. -/
def BlindToFlues {α : Type} (view : Tile → α) : Prop :=
  ∀ x replays repair fluert, view { x with replays := replays, repair := repair, fluert := fluert } = view x

theorem keeps_noteFailure (s : State) (bank kind : Nat) : Keeps view s (noteFailure s bank kind) := by
  unfold noteFailure noteError
  dsimp only [freshBool, freshWord]
  have hbank : ∀ e, Keeps view s { s with free := s.free + 1 + 1, errBanks := e } := fun e => .of_tiles rfl rfl rfl rfl
  exact .ite (hbank _).raiseLine (hbank _)

theorem keeps_failDies (s : State) : Keeps view s (failDies s) := by
  refine .foldl (.refl s) fun s p => .raiseLine (.foldl ?_ fun s t => keeps_noteFailure s t 3)
  exact .of_tiles rfl rfl rfl rfl

section
variable (hv : BlindToFlues view)
include hv

theorem keeps_retireFlue (s : State) (t b f : Nat) : Keeps view s (retireFlue s t b f) :=
  .trans ((Keeps.refl s).updTile fun x => hv x x.replays x.repair _) (keeps_failDies _)

theorem keeps_failFlue (s : State) (t b f : Nat) : Keeps view s (failFlue s t b f) := by
  have hline : Keeps view s (raiseLine s 3) := (Keeps.refl s).raiseLine
  refine .ite (.ite ?_ (hline.trans (keeps_retireFlue hv ..))) (.refl s)
  exact .updTile (hline.trans (.of_tiles rfl rfl rfl rfl)) fun x => hv x x.replays _ x.fluert

theorem keeps_countReplay (s : State) (t : Nat) (r : FlueReplay) : Keeps view s (countReplay s t r) := by
  have hcount : ∀ l, Keeps view s (updTile s t fun x => { x with replays := tset x.replays (4 * r.boundary + r.flue) l }) :=
    fun _ => (Keeps.refl s).updTile fun x => hv x _ x.repair x.fluert
  exact .ite (.refl s) (.ite ((hcount _).trans (keeps_failFlue hv ..)) (hcount _))

end

theorem fluert_retireFlue {b f : Nat} (hk : 4 * b + f < 36) : (tileOf (retireFlue s t b f) t).fluert.getLsbD (4 * b + f) = true := by
  rw [retireFlue, (keeps_failDies (view := Tile.fluert) _).tile t, tileOf_updTile_self, BitVec.getLsbD_or]
  have hbit : (BitVec.ofNat 36 (1 <<< (4 * b + f))).getLsbD (4 * b + f) = true := by
    rw [BitVec.getLsbD_ofNat, Nat.one_shiftLeft, Nat.testBit_two_pow_self, decide_eq_true hk, Bool.and_self]
  exact (congrArg _ hbit).trans (Bool.or_true _)

/-- A replay of a flue above boundary 0 that fails, or is the 65th in 1 ms, retires the flue (R369). -/
theorem fluert_countReplay (hlive : flueLive s t r.boundary r.flue = true) (hb : r.boundary ≠ 0)
    (hretires : r.fails = true ∨ 64 ≤ ((tget [] (tileOf s t).replays (4 * r.boundary + r.flue)).filter
      fun h => decide (s.hc < h + 700000)).length) :
    (tileOf (countReplay s t r) t).fluert.getLsbD (4 * r.boundary + r.flue) = true := by
  have hbounds : t < 64 ∧ r.boundary < 9 ∧ r.flue < 4 := by
    simp only [flueLive, Bool.and_eq_true, decide_eq_true_eq] at hlive
    exact ⟨hlive.1.1.1.1, hlive.1.1.1.2, hlive.1.1.2⟩
  obtain ⟨ht, hboundary, hflue⟩ := hbounds
  have hrange : ¬ (decide (64 ≤ t) || decide (9 ≤ r.boundary) || decide (4 ≤ r.flue)) = true := by simp; omega
  have hcount : (r.fails || decide (64 ≤ ((tget [] (tileOf s t).replays (4 * r.boundary + r.flue)).filter
      fun h => decide (s.hc < h + usToHc 1000)).length)) = true := by
    rw [Bool.or_eq_true, decide_eq_true_iff]
    exact hretires
  rw [countReplay, if_neg hrange]
  dsimp only
  rw [if_pos hcount]
  generalize hs : updTile s t _ = s₁
  have hlive₁ : flueLive s₁ t r.boundary r.flue = true := by
    rw [← hs, flueLive, tileOf_updTile_self]
    exact hlive
  rw [failFlue, if_pos hlive₁]
  dsimp only
  rw [if_neg hb]
  exact fluert_retireFlue (by omega)

/-- A replayed beat adds two held hc to its operation, and counts against its flue (R151, R369). -/
theorem beatReplays (ho : opOf s t r.op = some o)
    (hst : o.st = .staging ∨ o.st = .running ∨ o.st = .rising ∨ o.st = .draining) : ∃ s',
    exec (.flueBeatReplay t r) s = .next s' ∧ opOf s' t r.op = some { o with holdLeft := o.holdLeft + 2 } ∧ SameMemory s s' ∧
    (flueLive s t r.boundary r.flue = true → r.boundary ≠ 0 →
      (r.fails = true ∨ 64 ≤ ((tget [] (tileOf s t).replays (4 * r.boundary + r.flue)).filter
        fun h => decide (s.hc < h + 700000)).length) → (tileOf s' t).fluert.getLsbD (4 * r.boundary + r.flue) = true) := by
  have hunder : (o.st == .staging || o.st == .running || o.st == .rising || o.st == .draining) = true := by
    rcases hst with h | h | h | h <;> rw [h] <;> rfl
  let s₁ := updOp s t r.op fun o => { o with holdLeft := o.holdLeft + 2 }
  have hexec : exec (.flueBeatReplay t r) s = .next (if o.st = .staging then
      scheduleOnce (countReplay s₁ t r) (countReplay s₁ t r).hc (.cubeStagingEnd t r.op) else countReplay s₁ t r) := by
    show execFlueBeatReplay t r s = _
    simp only [execFlueBeatReplay, ho, hunder, whenever, if_true]
    rfl
  have hlook : ∀ {β : Type} {view : Tile → β}, Keeps view (countReplay s₁ t r) (if o.st = .staging then
      scheduleOnce (countReplay s₁ t r) (countReplay s₁ t r).hc (.cubeStagingEnd t r.op) else countReplay s₁ t r) :=
    .ite (Keeps.refl _).scheduleOnce (.refl _)
  have hop : opOf s₁ t r.op = some { o with holdLeft := o.holdLeft + 2 } := opOf_updOp_self ho fun _ => rfl
  have hmem : Keeps memories s (countReplay s₁ t r) :=
    (keeps_updOp blindToOps_memories (.refl s)).trans (keeps_countReplay (fun _ _ _ _ => rfl) s₁ t r)
  refine ⟨_, hexec, ?_, (hmem.trans hlook).sameMemory, fun hlive hb hretires => ?_⟩
  · rw [opOf_kept hlook, opOf_kept (keeps_countReplay (fun _ _ _ _ => rfl) s₁ t r), hop]
  · have hflues : Keeps (fun x => (x.fluert, x.repair, x.replays)) s s₁ := keeps_updOp (fun _ _ => rfl) (.refl s)
    obtain ⟨hfluert, hrepair, hreplays⟩ := by simpa only [Prod.mk.injEq] using hflues.tile t
    have hlive₁ : flueLive s₁ t r.boundary r.flue = true := by rw [flueLive, hfluert, hrepair]; exact hlive
    rw [hlook.tile (view := Tile.fluert) t]
    exact fluert_countReplay hlive₁ hb (by rw [hreplays]; exact hretires)

end
end Sys2Proof.CubeWork
end

section
/-! PROOFS. The family of the cube and the engines: the drain of a cube operation, and its end. -/

namespace Sys2Proof.CubeWork

open Sys2Proof Sys2Proof.Machine Sys2Proof.TaskFlow Sys2Proof.VectorWords Sys2Proof.Units

section
variable {s : State} {t n : Nat} {o : CubeOp}

/-! ### The start of a drain (R146, R153 to R155) -/

/-- A destination chunk that is there is drained to as it stands. The search for its tag is made opaque before the recursion
is opened: the definition's own equation makes the kernel run the search through an unknown table. -/
theorem dstSlots_cons_found {miss c v : Nat} {e : TagEntry} {cs : List Nat} {slots : List (Nat × Nat)}
    (hfind : findTag (tileOf s t) (chunkTag o 3 c) = some (v, e)) (hst : e.st ≠ .filling)
    (hslots : dstSlots s t o miss cs = .got s slots miss) : dstSlots s t o miss (c :: cs) = .got s ((c, v) :: slots) miss := by
  obtain ⟨step, hstep⟩ : ∃ step, step = @dstSlots._f := ⟨_, rfl⟩
  have hrec : ∀ cs, dstSlots s t o miss cs = List.brecOn (motive := fun _ => State → Nat → DstSlots) cs (step t o) s miss := by
    intro cs
    rw [hstep]
    delta dstSlots
    rfl
  rw [hrec] at hslots ⊢
  clear hrec
  obtain ⟨search, hsearch⟩ : ∃ search, search = findTag := ⟨_, rfl⟩
  delta dstSlots._f at hstep
  rw [← hsearch] at hfind hstep
  subst hstep
  dsimp only at hslots ⊢
  rw [hfind]
  dsimp only
  rw [if_neg hst, hslots]

/-- Destination chunks that are all there are drained to as they stand: none is claimed. -/
theorem dstSlots_found {miss : Nat} {cs : List Nat} (h : ∀ c ∈ cs, ∃ v e, findTag (tileOf s t) (chunkTag o 3 c) = some (v, e) ∧
    e.st ≠ .filling) : ∃ slots, dstSlots s t o miss cs = .got s slots miss ∧ slots.map (·.1) = cs ∧
      ∀ c v, (c, v) ∈ slots → ∃ e, findTag (tileOf s t) (chunkTag o 3 c) = some (v, e) := by
  induction cs with
  | nil => exact ⟨[], rfl, rfl, by simp⟩
  | cons c cs ih =>
    obtain ⟨⟨v, e, hfind, hst⟩, hcs⟩ := List.forall_mem_cons.1 h
    obtain ⟨slots, hslots, hmap, hall⟩ := ih hcs
    refine ⟨_, dstSlots_cons_found hfind hst hslots, by rw [List.map_cons, hmap], fun c' v' hmem => ?_⟩
    rcases List.mem_cons.1 hmem with h | h
    · cases h
      exact ⟨e, hfind⟩
    · exact hall c' v' h

/-- The count of missing chunks noted for the operations of a trigger. -/
def noteDstMiss (s : State) (t trig m : Nat) : State :=
  updTile s t fun x => { x with cubeOps := x.cubeOps.map fun p => if p.trig = trig then { p with dstMiss := m } else p }

/-- With no chunk newly missed, the operation itself is as it was. -/
theorem opOf_noteDstMiss (ho : opOf s t n = some o) : opOf (noteDstMiss s t o.trig o.dstMiss) t n = some o := by
  have hkey : ((fun p : CubeOp => p.n == n) ∘ fun p => if p.trig = o.trig then { p with dstMiss := o.dstMiss } else p) =
      fun p => p.n == n := by
    funext p
    dsimp only [Function.comp]
    split <;> rfl
  rw [opOf, noteDstMiss, tileOf_updTile_self, List.find?_map, hkey, ← opOf, ho, Option.map_some, if_pos rfl]

/-- The operation as its drain begins, from a tile, in the slots of its destination chunks. -/
def drainingOp (x : Tile) (slots : List (Nat × Nat)) (d : Nat) (o : CubeOp) : CubeOp :=
  { o with st := .draining, stepsLeft := d, victims := slots.map (·.2), dstSlots := slots,
           out := drainOut x { o with dstSlots := slots } }

theorem startDrain_found {slots : List (Nat × Nat)} (hpoison : o.poison = false) (hflues : (tileOf s t).fluert = 0)
    (hslots : dstSlots s t o o.dstMiss (o.dstChunks o.dDst.d0) = .got s slots o.dstMiss) :
    startDrain s t n o = schedule (updOp (noteDstMiss s t o.trig o.dstMiss) t n
      (drainingOp (tileOf (noteDstMiss s t o.trig o.dstMiss) t) slots 32)) (s.hc + 1) (.cubeDrainEnd t n) := by
  have hwhole : (tileOf (noteDstMiss s t o.trig o.dstMiss) t).fluert = 0 := by rw [noteDstMiss, tileOf_updTile_self, ← hflues]
  unfold startDrain
  rw [hslots]
  dsimp only
  rw [hpoison, ← noteDstMiss]
  simp only [Bool.false_eq_true, if_false, fewestFlues_whole hwhole, flueTime]
  rfl

/-- An awaiting operation takes its turn on the falling flue (R153, R154). -/
theorem drainStarts (ho : opOf s t n = some o) (hst : o.st = .awaiting) (hturn : drainTurn (tileOf s t) o = true)
    (hpoison : o.poison = false) (hflues : (tileOf s t).fluert = 0)
    (hfound : ∀ c ∈ o.dstChunks o.dDst.d0, ∃ v e, findTag (tileOf s t) (chunkTag o 3 c) = some (v, e) ∧ e.st ≠ .filling) :
    ∃ s' o', exec (.cubeDrainStart t n) s = .next s' ∧ opOf s' t n = some o' ∧ o'.st = .draining ∧
    o'.stepsLeft = 32 ∧ o'.dstSlots.map (·.1) = o.dstChunks o.dDst.d0 ∧
    (∀ c v, (c, v) ∈ o'.dstSlots → ∃ e, findTag (tileOf s t) (chunkTag o 3 c) = some (v, e)) ∧
    o'.out = drainOut (tileOf s t) { o with dstSlots := o'.dstSlots } ∧
    (∃ p ∈ s'.events, p.ev = .cubeDrainEnd t n ∧ p.due = s.hc + 1) ∧ SameMemory s s' := by
  obtain ⟨slots, hslots, hmap, hall⟩ := dstSlots_found (miss := o.dstMiss) hfound
  have hexec : exec (.cubeDrainStart t n) s = .next (startDrain s t n o) := by
    show execCubeDrainStart t n s = _
    simp only [execCubeDrainStart, ho, hst, hturn, whenever, beq_self_eq_true, Bool.and_self, if_true]
  rw [startDrain_found hpoison hflues hslots] at hexec
  have hkeeps : Keeps memories s (noteDstMiss s t o.trig o.dstMiss) := (Keeps.refl s).updTile fun _ => rfl
  have hout : drainOut (tileOf (noteDstMiss s t o.trig o.dstMiss) t) { o with dstSlots := slots } =
      drainOut (tileOf s t) { o with dstSlots := slots } := by
    rw [noteDstMiss, tileOf_updTile_self]
    rfl
  exact ⟨_, _, hexec, opOf_updOp_self (opOf_noteDstMiss ho) fun _ => rfl, rfl, rfl, hmap, hall, hout, exists_mem_schedule _ _ _,
    (keeps_updOp blindToOps_memories hkeeps).schedule.sameMemory⟩

/-! ### The hc of a drain (R151, R153, R155, R156) -/

theorem portHeldNow_free (h : o.out = [] ∨ copyLandsAt s t = false) : portHeldNow s t o = (false, s) := by
  rcases h with h | h <;> simp [portHeldNow, h]

theorem exec_cubeDrainEnd (ho : opOf s t n = some o) (hst : o.st = .draining) (hhold : o.holdLeft = 0)
    (hport : o.out = [] ∨ copyLandsAt s t = false) : exec (.cubeDrainEnd t n) s = .next (
      if 1 < o.stepsLeft then
        schedule (updOp s t n fun o => { o with stepsLeft := o.stepsLeft - 1 }) (s.hc + 1) (.cubeDrainEnd t n)
      else if drainHeld (tileOf s t) o || drainLost s t o then schedule s (s.hc + 1) (.cubeDrainEnd t n)
      else endDrain s t n o) := by
  show execCubeDrainEnd t n s = _
  simp only [execCubeDrainEnd, ho, hst, whenever, portHeldNow_free hport, hhold, Nat.lt_irrefl, decide_false,
    Bool.or_self, Bool.false_eq_true, if_false, beq_self_eq_true, if_true]
  rfl

theorem drainSteps (ho : opOf s t n = some o) (hst : o.st = .draining) (hhold : o.holdLeft = 0)
    (hport : o.out = [] ∨ copyLandsAt s t = false) (hsteps : 1 < o.stepsLeft) : ∃ s', exec (.cubeDrainEnd t n) s = .next s' ∧
      opOf s' t n = some { o with stepsLeft := o.stepsLeft - 1 } ∧
      (∃ p ∈ s'.events, p.ev = .cubeDrainEnd t n ∧ p.due = s.hc + 1) ∧ SameMemory s s' := by
  have hexec := exec_cubeDrainEnd ho hst hhold hport
  rw [if_pos hsteps] at hexec
  have hkeeps : Keeps memories s (updOp s t n fun o => { o with stepsLeft := o.stepsLeft - 1 }) :=
    keeps_updOp blindToOps_memories (.refl s)
  exact ⟨_, hexec, opOf_updOp_self ho fun _ => rfl, exists_mem_schedule _ _ _, hkeeps.schedule.sameMemory⟩

/-! ### The last hc of a drain -/

/-- The bytes that the last hc of a drain writes to the floor. -/
def lastBytes (x : Tile) (o : CubeOp) : List (Nat × Byte) := (drainOut x o).filter fun c => o.out.any fun d => d.1 == c.1

/-- The floor and vd are written. -/
def deliverDrain (s : State) (t : Nat) (o : CubeOp) (bytes : List (Nat × Byte)) : State :=
  if o.marks && o.snap.drow / 128 == o.pass then deliverV (engineWrite s t bytes) t o.task o.snap.vd (drainRow o)
  else engineWrite s t bytes

/-- The operation is complete, with the done bits of its layers where it is the last pass. -/
def completeOp (s : State) (t n : Nat) (o : CubeOp) : State :=
  updOp (if o.pass + 1 == o.passes then updTile s t fun x => setDone x o else s) t n fun o => { o with st := .complete, out := [] }

theorem endDrain_passes (h : o.mismatch (tileOf s t).chktol = none) : endDrain s t n o =
    endClaims (checkWaits (completeOp (deliverDrain s t o (lastBytes (tileOf s t) o)) t n o) t) t n := by
  unfold endDrain
  dsimp only
  rw [h]
  rfl

theorem lastBytes_unclaimed {x : Tile} (h : claimedDst x o = []) :
    lastBytes x o = (drainBytes x.floor o o.dstSlots).filter fun c => o.out.any fun d => d.1 == c.1 := by
  rw [lastBytes, drainOut, h]
  rfl

/-- What a drain leaves of a tile until its operation is gone: its tags, its operations and the done bits. -/
theorem keeps_deliverDrain {α : Type} {view : Tile → α} (hv : BlindToTasks view) (hfloor : BlindToFloor view)
    (hrace : (tileOf s t).raceHc ≠ s.hc) (bytes : List (Nat × Byte)) : Keeps view s (deliverDrain s t o bytes) := by
  have hwrite : Keeps view s (engineWrite s t bytes) := by
    rw [engineWrite_quiet hrace]
    exact (Keeps.refl s).writeUnits hfloor
  exact .ite (hwrite.trans (keeps_deliverV hv ..)) hwrite

theorem floor_deliverDrain (hrace : (tileOf s t).raceHc ≠ s.hc) (bytes : List (Nat × Byte)) :
    (tileOf (deliverDrain s t o bytes) t).floor = mwriteAll (tileOf s t).floor bytes := by
  have hkeeps : Keeps Tile.floor (engineWrite s t bytes) (deliverDrain s t o bytes) :=
    .ite (keeps_deliverV (fun _ _ _ _ => rfl) ..) (.refl _)
  rw [hkeeps.tile t, floor_engineWrite_quiet hrace]

theorem vd_deliverDrain (hmarks : o.marks = true) (hrow : o.snap.drow / 128 = o.pass) (bytes : List (Nat × Byte)) :
    readV (taskOf (deliverDrain s t o bytes) t o.task) o.snap.vd = drainRow o ∧
      isEmpty (taskOf (deliverDrain s t o bytes) t o.task) (.v o.snap.vd) = false := by
  have hmine : (o.marks && o.snap.drow / 128 == o.pass) = true := by simp [hmarks, hrow]
  rw [deliverDrain, if_pos hmine]
  exact deliverV_full ..

/-- The bits of a list of layers are set, and no other. -/
theorem getLsbD_foldl_bits (ls : List Nat) (m : BitVec 8) {l : Nat} (hl : l < 8) :
    (ls.foldl (fun m l => m ||| ((1 : BitVec 8) <<< l)) m).getLsbD l = (m.getLsbD l || ls.contains l) := by
  induction ls generalizing m with
  | nil => simp
  | cons k ls ih =>
    have hbit : ((1 : BitVec 8) <<< k).getLsbD l = (l == k) := by
      rw [BitVec.getLsbD_shiftLeft, decide_eq_true hl, Bool.true_and]
      rcases Nat.lt_trichotomy l k with h | h | h
      · simp [h, h.ne]
      · simp [h]
      · have hsub : l - k ≠ 0 := by omega
        simp [Nat.not_lt.2 h.le, h.ne', hsub]
    rw [List.foldl_cons, ih, BitVec.getLsbD_or, hbit, List.contains_cons, Bool.or_assoc]

theorem cubeDone_setDone (x : Tile) (o : CubeOp) {l : Nat} (hl : l < 8) : (setDone x o).cubeDone.getLsbD l =
    (x.cubeDone.getLsbD l ||
      (o.layers.contains l && !x.cubeOps.any fun p => decide (o.trig < p.trig) && p.layers.contains l)) := by
  have hlayers : ∀ (ls : List Nat) (p : Nat → Bool), (ls.filter p).contains l = (ls.contains l && p l) := by
    intro ls p
    rw [Bool.eq_iff_iff]
    simp
  rw [setDone, BitVec.getLsbD_or, getLsbD_foldl_bits _ _ hl, hlayers]
  exact congrArg _ (congrArg (· || _) BitVec.getLsbD_zero)

theorem cubeDone_completeOp (hlast : o.pass + 1 = o.passes) {l : Nat} (hl : l < 8) :
    (tileOf (completeOp s t n o) t).cubeDone.getLsbD l = ((tileOf s t).cubeDone.getLsbD l ||
      (o.layers.contains l && !(tileOf s t).cubeOps.any fun p => decide (o.trig < p.trig) && p.layers.contains l)) := by
  rw [completeOp, if_pos (by simpa using hlast), updOp, tileOf_updTile_self, tileOf_updTile_self]
  exact cubeDone_setDone _ o hl

theorem opOf_completeOp (ho : opOf s t n = some o) : opOf (completeOp s t n o) t n = some { o with st := .complete, out := [] } := by
  refine opOf_updOp_self ?_ fun _ => rfl
  split
  · rw [opOf_updTile, ho]
    exact fun _ => rfl
  · exact ho

/-- A view does not look at the cube's operations, nor at its done bits. -/
def BlindToEnd {α : Type} (view : Tile → α) : Prop := ∀ x ops done, view { x with cubeOps := ops, cubeDone := done } = view x

theorem keeps_completeOp {α : Type} {view : Tile → α} (hv : BlindToEnd view) : Keeps view s (completeOp s t n o) :=
  keeps_updOp (fun x ops => hv x ops x.cubeDone) (.ite ((Keeps.refl s).updTile fun x => hv x x.cubeOps _) (.refl s))

theorem keepsVectors_completeOp : KeepsVectors s (completeOp s t n o) := by
  unfold completeOp updOp
  refine .updTile (.ite (.updTile (.refl s) ?_) (.refl s)) ?_
  all_goals exact fun _ => ⟨rfl, rfl, rfl, rfl⟩

/-- An operation that has claimed no slot is gone with its drain. -/
theorem endClaims_unclaimed (ho : opOf s t n = some o) (h : claimedDst (tileOf s t) o = []) : endClaims s t n = dropOp s t n := by
  simp only [endClaims, ho, h, List.isEmpty_nil, if_true]

theorem endClaims_completeOp (ho : opOf s t n = some o) (h : claimedDst (tileOf s t) o = []) :
    endClaims (checkWaits (completeOp s t n o) t) t n = dropOp (checkWaits (completeOp s t n o) t) t n := by
  have hops : Keeps Tile.cubeOps (completeOp s t n o) (checkWaits (completeOp s t n o) t) := .checkWaits (fun _ _ _ _ => rfl) (.refl _)
  have htags : Keeps Tile.tags s (checkWaits (completeOp s t n o) t) := .checkWaits (fun _ _ _ _ => rfl) (keeps_completeOp fun _ _ _ => rfl)
  refine endClaims_unclaimed ((opOf_kept hops t n).trans (opOf_completeOp ho)) ?_
  rw [claimedDst, htags.tile t]
  exact h

/-- With the operation complete, what else its end does changes only the cube's operations and the tasks that wait. -/
theorem keeps_leaveCube {α : Type} {view : Tile → α} (hv : BlindToTasks view) (hops : BlindToOps view) :
    Keeps view s (dropOp (checkWaits s t) t n) :=
  (Keeps.checkWaits hv (.refl s)).trans (((Keeps.refl _).updTile fun x => hops x _).trans (keeps_dropOp hv ..))

theorem keepsVectors_leaveCube : KeepsVectors s (dropOp (checkWaits s t) t n) :=
  (KeepsVectors.refl s).checkWaits.trans (keepsVectors_dropOp ..)

/-- The last hc of a drain whose slots were all there and whose checksums match (R149, R153, R155, R156). -/
theorem drainEnds (ho : opOf s t n = some o) (hst : o.st = .draining) (hhold : o.holdLeft = 0)
    (hport : o.out = [] ∨ copyLandsAt s t = false) (hsteps : o.stepsLeft ≤ 1) (hheld : drainHeld (tileOf s t) o = false)
    (hflues : (tileOf s t).fluert = 0) (hrace : (tileOf s t).raceHc ≠ s.hc) (hmatch : o.mismatch (tileOf s t).chktol = none)
    (hclaimed : claimedDst (tileOf s t) o = []) : ∃ s',
      exec (.cubeDrainEnd t n) s = .next s' ∧ opOf s' t n = none ∧
      (tileOf s' t).floor = mwriteAll (tileOf s t).floor
        ((drainBytes (tileOf s t).floor o o.dstSlots).filter fun c => o.out.any fun d => d.1 == c.1) ∧
      (o.marks = true → o.snap.drow / 128 = o.pass → readV (taskOf s' t o.task) o.snap.vd = drainRow o ∧
        isEmpty (taskOf s' t o.task) (.v o.snap.vd) = false) ∧
      (o.pass + 1 = o.passes → ∀ l < 8, (tileOf s' t).cubeDone.getLsbD l = ((tileOf s t).cubeDone.getLsbD l ||
        (o.layers.contains l && !(tileOf s t).cubeOps.any fun p => decide (o.trig < p.trig) && p.layers.contains l))) := by
  have hlost : drainLost s t o = false := pathLost_whole hflues _ _
  have hexec := exec_cubeDrainEnd ho hst hhold hport
  rw [if_neg (Nat.not_lt.2 hsteps), hheld, hlost, Bool.or_self, if_neg Bool.false_ne_true, endDrain_passes hmatch,
    lastBytes_unclaimed hclaimed] at hexec
  generalize hbytes : (drainBytes (tileOf s t).floor o o.dstSlots).filter (fun c => o.out.any fun d => d.1 == c.1) = bytes at hexec ⊢
  have hwritten : Keeps (fun x => (x.cubeOps, x.tags, x.cubeDone)) s (deliverDrain s t o bytes) :=
    keeps_deliverDrain (fun _ _ _ _ => rfl) (fun _ _ _ _ _ => rfl) hrace bytes
  obtain ⟨hops, htags, hdone⟩ := by simpa only [Prod.mk.injEq] using hwritten.tile t
  have hfloor := floor_deliverDrain (o := o) hrace bytes
  have hvd := fun hmarks hrow => vd_deliverDrain (s := s) (t := t) (o := o) hmarks hrow bytes
  generalize deliverDrain s t o bytes = s₁ at hexec hops htags hdone hfloor hvd
  rw [endClaims_completeOp ((opOf_congr hops n).trans ho) (by rw [claimedDst, htags]; exact hclaimed)] at hexec
  refine ⟨_, hexec, opOf_dropOp .., ?_, fun hmarks hrow => ?_, fun hlast l hl => ?_⟩
  · have hkeeps : Keeps Tile.floor s₁ (dropOp (checkWaits (completeOp s₁ t n o) t) t n) :=
      (keeps_completeOp fun _ _ _ => rfl).trans (keeps_leaveCube (fun _ _ _ _ => rfl) fun _ _ => rfl)
    rw [hkeeps.tile t, hfloor]
  · have hkeeps : KeepsVectors s₁ (dropOp (checkWaits (completeOp s₁ t n o) t) t n) :=
      keepsVectors_completeOp.trans keepsVectors_leaveCube
    rw [hkeeps.readV, hkeeps.isEmpty_v]
    exact hvd hmarks hrow
  · have hkeeps : Keeps Tile.cubeDone (completeOp s₁ t n o) (dropOp (checkWaits (completeOp s₁ t n o) t) t n) :=
      keeps_leaveCube (fun _ _ _ _ => rfl) fun _ _ => rfl
    rw [hkeeps.tile t, cubeDone_completeOp hlast hl, hdone, hops]

/-! ### The end of claims (R170, R174) -/

theorem keeps_endClaim_fold (slots : List (Nat × Nat)) (tagOf : Nat × Nat → Word) (s : State) (t : Nat) :
    Keeps memories s (slots.foldl (fun s sl => updTile s t fun x => endClaim x sl.2 (tagOf sl)) s) := by
  refine .foldl (.refl s) fun s sl => (Keeps.refl s).updTile fun x => ?_
  obtain ⟨tags, htags⟩ := endClaim_tags x sl.2 (tagOf sl)
  rw [htags]
  rfl

/-- The claimed slots of a drained operation take their tags, and it is gone. -/
theorem claimsSettle (ho : opOf s t n = some o) (hst : o.st = .complete)
    (hfree : ∀ sl ∈ claimedDst (tileOf s t) o, tagWait (tileOf s t) sl.2 (chunkTag o 3 sl.1) = none) : ∃ s',
    exec (.cubeDrainEnd t n) s = .next s' ∧ opOf s' t n = none ∧ SameMemory s s' := by
  have hheld : ((claimedDst (tileOf s t) o).any fun sl => (tagWait (tileOf s t) sl.2 (chunkTag o 3 sl.1)).isSome) = false := by
    rw [List.any_eq_false]
    intro sl hsl
    simp [hfree sl hsl]
  have hexec : exec (.cubeDrainEnd t n) s = .next (settleClaims s t n o) := by
    show execCubeDrainEnd t n s = _
    simp only [execCubeDrainEnd, ho, if_pos hst]
  have hsettle : settleClaims s t n o = dropOp (((claimedDst (tileOf s t) o).filter fun sl =>
      !(tagWait (tileOf s t) sl.2 (chunkTag o 3 sl.1)).isSome).foldl
        (fun s sl => updTile s t fun x => endClaim x sl.2 (chunkTag o 3 sl.1)) s) t n := by
    unfold settleClaims
    dsimp only
    rw [hheld]
    rfl
  rw [hsettle] at hexec
  refine ⟨_, hexec, opOf_dropOp .., ?_⟩
  have hgone : ∀ s, Keeps memories s (dropOp s t n) := fun s =>
    ((Keeps.refl s).updTile fun x => blindToOps_memories x _).trans (keeps_dropOp blindToTasks_memories ..)
  exact ((keeps_endClaim_fold _ (fun sl => chunkTag o 3 sl.1) s t).trans (hgone _)).sameMemory

/-! ### O41 -/

/-- Settles O41: one lemma for each event of an operation on its way, from its resolution to its end. -/
theorem cubeEvents : Obligations.CubeEvents := by
  unfold Obligations.CubeEvents
  refine ⟨?staging, ?fill, ?stagingEnd, ?runStart, ?run, ?runEnd, ?rise, ?replay, ?drainStart, ?drain, ?settle⟩
  case staging => exact fun _ _ _ _ => stagingBegins
  case fill =>
    intro s t n c o u bs ho hst hu hown htag hothers hbefore hheld hstores hrace s₁ hxlat hbytes hholders hshared
    exact fillEnds ho hst hu hown htag hothers hbefore hheld hstores hrace hxlat hbytes hholders hshared
  case stagingEnd => exact fun _ _ _ _ => stagingEnds
  case runStart => exact fun _ _ _ _ => runStarts
  case run => exact fun _ _ _ _ ho hst hsteps => ⟨runSteps ho hst hsteps, runIsHeld ho hst hsteps⟩
  case runEnd => exact fun _ _ _ _ ho hst hsteps => ⟨planeRunEnds ho hst hsteps, accumulateRunEnds ho hst hsteps⟩
  case rise => exact fun _ _ _ _ ho hst hflues => ⟨riseEnds ho hst hflues, riseSteps ho hst hflues⟩
  case replay => exact fun _ _ _ _ => beatReplays
  case drainStart => exact fun _ _ _ _ => drainStarts
  case drain => exact fun _ _ _ _ ho hst hhold hport => ⟨drainSteps ho hst hhold hport, drainEnds ho hst hhold hport⟩
  case settle => exact fun _ _ _ _ => claimsSettle

end
end Sys2Proof.CubeWork
end

section
/-! PROOFS. The family of the cube and the engines: the steps of a nib request on its way. -/

namespace Sys2Proof.NibWork

open Sys2Proof Sys2Proof.Machine Sys2Proof.TaskFlow Sys2Proof.VectorWords Sys2Proof.Units

section
variable {s : State} {t n : Nat} {r : NibReq}

theorem nibOf_id (h : nibOf s t n = some r) : r.id = n := by simpa using List.find?_some h

theorem nibOf_congr {s' : State} (h : (tileOf s' t).nib = (tileOf s t).nib) (n : Nat) : nibOf s' t n = nibOf s t n := by
  rw [nibOf, h, nibOf]

/-- Request `n` of a tile is changed. -/
def updNib (s : State) (t n : Nat) (f : NibReq → NibReq) : State :=
  updTile s t fun x => { x with nib := x.nib.map fun r => if r.id = n then f r else r }

theorem nibOf_updNib_self (h : nibOf s t n = some r) {f : NibReq → NibReq} (hf : ∀ r, (f r).id = r.id) :
    nibOf (updNib s t n f) t n = some (f r) := by
  rw [nibOf] at h ⊢
  rw [updNib, tileOf_updTile_self, find?_map_key (key := NibReq.id) hf, h]
  rfl

theorem keeps_updNib (s : State) (t n : Nat) (f : NibReq → NibReq) : Keeps memories s (updNib s t n f) :=
  (Keeps.refl s).updTile fun _ => rfl

theorem exec_nibResolution {d : TileDesc} {sc : Option TileDesc} {s₁ : State} {x : List Byte} (hr : nibOf s t n = some r)
    (hopen : r.resolved = false) (hlive : (taskOf s t r.task).st ≠ .stopped) (hbefore : earlierGlobal s t r.task r.after = false)
    (hgroups : (tget ({} : BootEntry) s.bootRec 9).st ≠ 4)
    (hxlat : ensureUnit s t r.task (tileCtx s t) (nibX r.lat) false = (true, s₁)) (hdescs : nibDescs s₁ t r = .ok (d, sc))
    (hx : nibXRead s₁ t r = .ok x) : exec (.nibResolution t n) s = .next (markResolved (keepX s₁ t n x) t n d sc) := by
  show execNibResolution t n s = _
  simp only [execNibResolution, hr, hopen, hbefore, beq_eq_false_iff_ne.2 hlive, if_neg hgroups, hxlat, hdescs, hx,
    Bool.false_eq_true, if_false]

/-- A request whose x can be read and whose descriptors pass the checks is resolved (R162, R164). -/
theorem nibResolves {d : TileDesc} {sc : Option TileDesc} {s₁ : State} {x : List Byte} (hr : nibOf s t n = some r)
    (hopen : r.resolved = false) (hlive : (taskOf s t r.task).st ≠ .stopped) (hbefore : earlierGlobal s t r.task r.after = false)
    (hgroups : (tget ({} : BootEntry) s.bootRec 9).st ≠ 4)
    (hxlat : ensureUnit s t r.task (tileCtx s t) (nibX r.lat) false = (true, s₁)) (hdescs : nibDescs s₁ t r = .ok (d, sc))
    (hx : nibXRead s₁ t r = .ok x) : ∃ s', exec (.nibResolution t n) s = .next s' ∧
    nibOf s' t n = some { r with resolved := true, w := d, sc := sc, x := some x } ∧
    (∃ p ∈ s'.events, p.ev = .nibRequestComplete t n ∧ s.hc < p.due) ∧ SameMemory s s' := by
  have hexec := exec_nibResolution hr hopen hlive hbefore hgroups hxlat hdescs hx
  obtain rfl := ensureUnit_ready hxlat
  generalize hs : noteXlat s t (tileCtx s t) (nibX r.lat) = s₁ at hexec
  have hnib : Keeps Tile.nib s s₁ := hs ▸ (Keeps.refl s).noteXlat fun _ _ _ _ => rfl
  have hmem : Keeps memories s s₁ := hs ▸ (Keeps.refl s).noteXlat fun _ _ _ _ => rfl
  have hkept : nibOf (keepX s₁ t n x) t n = some { r with x := some x } :=
    nibOf_updNib_self (f := fun r => { r with x := some x }) ((nibOf_congr (hnib.tile t) n).trans hr) fun _ => rfl
  have hmarked : nibOf (markResolved (keepX s₁ t n x) t n d sc) t n =
      some { r with resolved := true, w := d, sc := sc, x := some x } :=
    (nibOf_congr (congrArg Tile.nib (tileOf_scheduleOpen ..)) n).trans
      (nibOf_updNib_self (f := fun r => { r with resolved := true, w := d, sc := sc }) hkept fun _ => rfl)
  obtain ⟨p, hp, hev, hdue⟩ := exists_mem_scheduleOpen (updNib (keepX s₁ t n x) t n fun r =>
    { r with resolved := true, w := d, sc := sc }) (.nibRequestComplete t n)
  refine ⟨_, hexec, hmarked, ⟨p, hp, hev, hnib.hc ▸ hdue⟩, ?_⟩
  exact (Keeps.scheduleOpen ((hmem.trans (keeps_updNib ..)).trans (keeps_updNib ..))).sameMemory

theorem bind_ok {ε α β : Type} {x : Except ε α} {f : α → Except ε β} {b : β} (h : x >>= f = .ok b) : ∃ a, x = .ok a ∧ f a = .ok b := by
  cases x with
  | error e => cases h
  | ok a => exact ⟨a, rfl, h⟩

theorem reject_ok {c : Bool} {code : Nat} {u : Unit} (h : reject c code = .ok u) : c = false := by
  cases c with
  | false => rfl
  | true => cases h

/-- The descriptors of a request are the ones of its handles, with the checks passed (R37, R139, R162). -/
theorem nibDescs_ok {d : TileDesc} {sc : Option TileDesc} (h : nibDescs s t r = .ok (d, sc)) :
    fetchDesc s t (nibW r.lat) = .ok d ∧ nibFault r d = none ∧ (sc.isSome = scaled r.fmt 6 d) ∧
      (∀ x, sc = some x → x.kind = 2 ∧ scaleBad d.d0 (nibK r.lat) x = false) := by
  obtain ⟨d', hd, h⟩ := bind_ok h
  split at h
  · cases h
  next hfault =>
  split at h
  next hscaled =>
    obtain ⟨x, -, h⟩ := bind_ok h
    obtain ⟨_, hkind, h⟩ := bind_ok h
    obtain ⟨_, hbad, h⟩ := bind_ok h
    cases h
    refine ⟨hd, hfault, hscaled.symm, fun y hy => ?_⟩
    cases hy
    exact ⟨by simpa using reject_ok hkind, reject_ok hbad⟩
  next hscaled =>
    cases h
    exact ⟨hd, hfault, by simpa using hscaled, fun _ h => by cases h⟩

/-- A request ends with its vector in vd, which is full (R163, R164). -/
theorem nibEnds {v : VWord} (hr : nibOf s t n = some r) (hresolved : r.resolved = true)
    (hlive : (taskOf s t r.task).st ≠ .stopped) (hbefore : nibBefore (tileOf s t) n = false) (hv : nibVector s t r = .ok v) :
    ∃ s', exec (.nibRequestComplete t n) s = .next s' ∧ nibOf s' t n = none ∧ readV (taskOf s' t r.task) r.vd = v ∧
    isEmpty (taskOf s' t r.task) (.v r.vd) = false ∧ SameMemory s s' := by
  have hexec : exec (.nibRequestComplete t n) s = .next (endNib s t r v) := by
    show execNibRequestComplete t n s = _
    simp only [execNibRequestComplete, hr, hresolved, beq_eq_false_iff_ne.2 hlive, hbefore, hv, Bool.not_true, Bool.or_self,
      Bool.false_eq_true, if_false]
  let s₁ := updTile s t fun x => { x with nib := x.nib.filter fun q => q.id != r.id }
  have hdeliver : KeepsVectors (deliverV s₁ t r.task r.vd v) (endNib s t r v) := (KeepsVectors.refl _).checkWaits
  have hkeeps : ∀ {α : Type} {view : Tile → α}, BlindToTasks view → Keeps view s₁ (endNib s t r v) := fun hv =>
    (keeps_deliverV hv ..).checkWaits hv
  have hmem : Keeps memories s s₁ := (Keeps.refl s).updTile fun _ => rfl
  have hgone : nibOf (endNib s t r v) t n = none := by
    rw [nibOf_congr ((hkeeps fun _ _ _ _ => rfl).tile t), nibOf, tileOf_updTile_self, nibOf_id hr]
    exact find?_filter_key (key := NibReq.id) n _
  obtain ⟨hval, hfull⟩ := deliverV_full s₁ t r.task r.vd v
  exact ⟨_, hexec, hgone, (hdeliver.readV ..).trans hval, (hdeliver.isEmpty_v ..).trans hfull,
    (hmem.trans (hkeeps blindToTasks_memories)).sameMemory⟩

end
end Sys2Proof.NibWork
end

section
/-! PROOFS. The family of the cube and the engines: the start and the end of a copy command. -/

namespace Sys2Proof.CopyWork

open Sys2Proof Sys2Proof.Machine Sys2Proof.TaskFlow Sys2Proof.VectorWords Sys2Proof.Units

section
variable {α : Type} {view : Tile → α} {a s : State} {t e n : Nat} {c : CopyCmd}

/-! ### Commands by number -/

theorem cmdOf_n (h : cmdOf s t e n = some c) : c.n = n := by simpa using List.find?_some h

theorem cmdOf_congr {s' : State} (h : (tileOf s' t).cpy = (tileOf s t).cpy) (e n : Nat) : cmdOf s' t e n = cmdOf s t e n := by
  rw [cmdOf, h, cmdOf]

theorem cmdOf_kept {s' : State} (h : Keeps Tile.cpy s s') (t e n : Nat) : cmdOf s' t e n = cmdOf s t e n := cmdOf_congr (h.tile t) e n

theorem cmdOf_updCmd_self (h : cmdOf s t e n = some c) {f : CopyCmd → CopyCmd} (hf : ∀ c, (f c).n = c.n) :
    cmdOf (updCmd s t e n f) t e n = some (f c) := by
  rw [cmdOf] at h ⊢
  rw [updCmd, tileOf_updTile_self, tget_tmod_self, find?_map_key (key := CopyCmd.n) hf, h]
  rfl

/-- A view does not look at the copy engines. -/
def BlindToEngines {α : Type} (view : Tile → α) : Prop := ∀ x cpy, view { x with cpy := cpy } = view x

theorem blindToEngines_memories : BlindToEngines memories := fun _ _ => rfl

theorem keeps_updCmd (hv : BlindToEngines view) {f : CopyCmd → CopyCmd} (h : Keeps view a s) : Keeps view a (updCmd s t e n f) :=
  h.updTile fun x => hv x _

/-! ### Commands that end -/

/-- Engine `e` without command `n`. -/
def withoutCmd (s : State) (t e n : Nat) : State :=
  updTile s t fun x => { x with cpy := tmod {} x.cpy e fun (g : CopyEng) => { g with cmds := g.cmds.filter fun c => c.n != n } }

theorem keeps_withoutCmd (hv : BlindToEngines view) (s : State) (t e n : Nat) : Keeps view s (withoutCmd s t e n) :=
  (Keeps.refl s).updTile fun x => hv x _

theorem keeps_wakeHead (s : State) (t e : Nat) : Keeps view s (wakeHead s t e) := by
  unfold wakeHead
  split
  · exact .ite (Keeps.refl s).unschedule.schedule (.refl s)
  · exact .refl s

/-- A command taken off its engine is gone; what else its end does only lets other commands look, and ends waits. -/
theorem keeps_dropCmd (hv : BlindToTasks view) (s : State) (t e n : Nat) : Keeps view (withoutCmd s t e n) (dropCmd s t e n) :=
  .checkWaits hv (keeps_wakeHead ..).scheduleOnce

theorem cpy_dropCmd (s : State) (t e n : Nat) : (tileOf (dropCmd s t e n) t).cpy =
    tmod {} (tileOf s t).cpy e fun (g : CopyEng) => { g with cmds := g.cmds.filter fun c => c.n != n } := by
  rw [(keeps_dropCmd (view := Tile.cpy) (fun _ _ _ _ => rfl) s t e n).tile t, withoutCmd, tileOf_updTile_self]

theorem cmdOf_dropCmd (s : State) (t e n : Nat) : cmdOf (dropCmd s t e n) t e n = none := by
  rw [cmdOf, cpy_dropCmd, tget_tmod_self]
  exact find?_filter_key (key := CopyCmd.n) n _

theorem follow_dropCmd (s : State) (t e n : Nat) : (tget ({} : CopyEng) (tileOf (dropCmd s t e n) t).cpy e).follow =
    (tget ({} : CopyEng) (tileOf s t).cpy e).follow := by rw [cpy_dropCmd, tget_tmod_self]

/-- A channel that goes to its limit changes nothing else of its tile. -/
theorem limitWm_wm (x : Tile) (ch : Option Nat) : ∃ wm, limitWm x ch = { x with wm := wm } := by
  cases ch with
  | none => exact ⟨_, rfl⟩
  | some w => exact ⟨_, rfl⟩

/-! ### Claims (R192, R193) -/

/-- What a change leaves true of a tile, changing several tiles leaves true. -/
theorem foldl_updTile_keeps {P : Tile → Prop} {f : Tile → Tile} (hf : ∀ x, P x → P (f x)) (ds : List Nat) {d : Nat}
    (h : P (tileOf s d)) : P (tileOf (ds.foldl (fun s d => updTile s d f) s) d) := by
  induction ds generalizing s with
  | nil => exact h
  | cons d' ds ih =>
    refine ih ?_
    rw [tileOf_updTile]
    split
    next hd => exact hd ▸ hf _ (hd ▸ h)
    next => exact h

/-- What a change makes true of a tile is true of each tile that is changed. -/
theorem foldl_updTile_makes {P : Tile → Prop} {f : Tile → Tile} (hf : ∀ x, P (f x)) {ds : List Nat} {d : Nat} (hd : d ∈ ds) (s : State) :
    P (tileOf (ds.foldl (fun s d => updTile s d f) s) d) := by
  induction ds generalizing s with
  | nil => cases hd
  | cons d' ds ih =>
    by_cases hmem : d ∈ ds
    · exact ih hmem _
    · have hself : d = d' := by simpa [hmem] using hd
      refine foldl_updTile_keeps (fun x _ => hf x) ds ?_
      rw [← hself, tileOf_updTile_self]
      exact hf _

/-- The tiles in which a command claims its destination slot. -/
def claimTiles (s : State) (t : Nat) (c : CopyCmd) : List Nat :=
  if c.tagm = 1 then (c.dstTiles t).filter fun d => !closedTile s d else []

/-- The slot that a command claims in each tile. -/
def claimedCmd (s : State) (t : Nat) (c d : CopyCmd) : CopyCmd :=
  { d with claimed := (claimTiles s t c).map fun y => (y, slotOf c.dst.toNat) }

/-- The tiles with the slots of a command claimed. -/
def claimedTiles (s : State) (t e : Nat) (c : CopyCmd) : State :=
  (claimTiles s t c).foldl (fun s d => updTile s d fun x => claimSlot x (slotOf c.dst.toNat) e c.tag) s

/-- The slots of a command are claimed, and noted with it. -/
def claimSlots (s : State) (t e : Nat) (c : CopyCmd) : State :=
  updCmd (claimedTiles s t e c) t e c.n (claimedCmd s t c)

theorem applyClaims_eq (s : State) (t e : Nat) (c : CopyCmd) : applyClaims s t e c = if c.evict then
    updTile (claimSlots s t e c) t fun x =>
      { x with tags := tset x.tags (slotOf c.src.toNat) { st := .evicting, tag := 0, owner := e } }
    else claimSlots s t e c := rfl

/-- A view does not look at the tags of a tile, nor at its engines. -/
def BlindToClaims {α : Type} (view : Tile → α) : Prop := ∀ x tags cpy, view { x with tags := tags, cpy := cpy } = view x

theorem keeps_claimedTiles (hv : ∀ x tags, view { x with tags := tags } = view x) (s : State) (t e : Nat) (c : CopyCmd) :
    Keeps view s (claimedTiles s t e c) := .foldl (.refl s) fun s _ => (Keeps.refl s).updTile fun x => hv x _

theorem keeps_applyClaims (hv : BlindToClaims view) (s : State) (t e : Nat) (c : CopyCmd) : Keeps view s (applyClaims s t e c) := by
  have hslots : Keeps view s (claimSlots s t e c) :=
    keeps_updCmd (fun x cpy => hv x x.tags cpy) (keeps_claimedTiles (fun x tags => hv x tags x.cpy) ..)
  rw [applyClaims_eq]
  exact .ite (hslots.updTile fun x => hv x _ x.cpy) hslots

theorem cmdOf_applyClaims (hc : cmdOf s t e c.n = some c) : cmdOf (applyClaims s t e c) t e c.n = some (claimedCmd s t c c) := by
  have hslots : cmdOf (claimSlots s t e c) t e c.n = some (claimedCmd s t c c) :=
    cmdOf_updCmd_self ((cmdOf_kept (keeps_claimedTiles (fun _ _ => rfl) ..) t e c.n).trans hc) fun _ => rfl
  rw [applyClaims_eq]
  split
  · rw [← hslots]
    exact cmdOf_congr (by rw [tileOf_updTile_self]) e c.n
  · exact hslots

/-- A claimed slot is filling. -/
theorem filling_applyClaims (htagm : c.tagm = 1) (hevict : c.evict = false) {d : Nat} (hd : d ∈ c.dstTiles t)
    (hopen : closedTile s d = false) :
    (tget ({} : TagEntry) (tileOf (applyClaims s t e c) d).tags (slotOf c.dst.toNat)).st = .filling := by
  have hmem : d ∈ claimTiles s t c := by
    rw [claimTiles, if_pos htagm]
    exact List.mem_filter.2 ⟨hd, by simp [hopen]⟩
  have htags : Keeps Tile.tags (claimedTiles s t e c) (applyClaims s t e c) := by
    rw [applyClaims_eq, if_neg (by simp [hevict])]
    exact keeps_updCmd (fun _ _ => rfl) (.refl _)
  rw [htags.tile d]
  refine foldl_updTile_makes (P := fun x => (tget ({} : TagEntry) x.tags (slotOf c.dst.toNat)).st = .filling) (fun x => ?_) hmem s
  simp [claimSlot]

/-- An evicting command's source slot is evicting. -/
theorem evicting_applyClaims (hevict : c.evict = true) :
    (tget ({} : TagEntry) (tileOf (applyClaims s t e c) t).tags (slotOf c.src.toNat)).st = .evicting := by
  rw [applyClaims_eq, if_pos hevict, tileOf_updTile_self]
  simp

/-! ### The start of a command (R182, R191, R192) -/

/-- The command as it starts, from a state. -/
def startedCmd (s : State) (t : Nat) (d : CopyCmd) : CopyCmd :=
  { d with st := .fetching, fetched := d.landed + d.bytes.length, firstTs := if d.tries = 0 then s.ts else d.firstTs,
           poison := d.poison || (d.op == 0 && selfOverlap s t d),
           noticed := d.noticed || (d.dsp == 1 && (reachable s t d).length < (d.dstTiles t).length) }

/-- The state in which a command has started. -/
def startedState (s : State) (t e : Nat) (c : CopyCmd) : State :=
  updCmd (applyClaims s t e c) t e c.n (startedCmd (applyClaims s t e c) t)

theorem cmdOf_startedState (hc : cmdOf s t e c.n = some c) :
    cmdOf (startedState s t e c) t e c.n = some (startedCmd (applyClaims s t e c) t (claimedCmd s t c c)) :=
  cmdOf_updCmd_self (cmdOf_applyClaims hc) fun _ => rfl

theorem startCmd_passes (hc : cmdOf s t e c.n = some c) (hsource : sourceClosed s t c = false)
    (hreach : c.dsp = 1 → reachable s t c ≠ []) (hfault : startFault s t c = none) :
    startCmd s t e c = scheduleOpen (startedState s t e c) (moveEvent t e c) := by
  have hway : (c.dsp == 1 && (reachable s t c).isEmpty) = false := by simpa using hreach
  unfold startCmd
  rw [hsource, hway, hfault]
  simp only [Bool.or_self, Bool.false_eq_true, if_false]
  split
  next h =>
    cases Option.some.inj ((cmdOf_startedState hc).symm.trans h)
    rfl
  next h => cases (cmdOf_startedState hc).symm.trans h

theorem exec_copyStart (hhint : (tget ({} : CopyEng) (tileOf s t).cpy e).hint = none)
    (hnext : nextCmd (tget ({} : CopyEng) (tileOf s t).cpy e) = some c) (hlive : (taskOf s t c.task).st ≠ .stopped)
    (hglobal : earlierGlobal s t c.task c.after = false) (hstores : earlierStores s t c.task c.acceptedAt = false)
    (hclaim : claimHeld s t c = false) : exec (.copyStart t e) s =
      .next (scheduleOnce (startCmd s t e c) ((startCmd s t e c).hc + 1) (.copyStart t e)) := by
  show execCopyStart t e s = _
  simp only [execCopyStart, hhint, hnext, if_neg hlive, hglobal, hstores, hclaim, Option.any_none, Bool.or_self,
    Bool.false_eq_true, if_false]

/-- A queued command whose turn it is and whose checks pass starts (R182, R191, R192). -/
theorem copyStarts (hhint : (tget ({} : CopyEng) (tileOf s t).cpy e).hint = none)
    (hnext : nextCmd (tget ({} : CopyEng) (tileOf s t).cpy e) = some c) (hc : cmdOf s t e c.n = some c)
    (hlive : (taskOf s t c.task).st ≠ .stopped) (hglobal : earlierGlobal s t c.task c.after = false)
    (hstores : earlierStores s t c.task c.acceptedAt = false) (hclaim : claimHeld s t c = false)
    (hsource : sourceClosed s t c = false) (hreach : c.dsp = 1 → reachable s t c ≠ []) (hfault : startFault s t c = none) :
    ∃ s' c', exec (.copyStart t e) s = .next s' ∧
    cmdOf s' t e c.n = some c' ∧ c'.st = .fetching ∧ c'.landed = c.landed ∧ c'.bytes = c.bytes ∧
    c'.fetched = c.landed + c.bytes.length ∧
    (c.tagm = 1 → c.evict = false → ∀ d ∈ c.dstTiles t, closedTile s d = false →
      (tget ({} : TagEntry) (tileOf s' d).tags (slotOf c.dst.toNat)).st = .filling) ∧
    (c.evict = true → (tget ({} : TagEntry) (tileOf s' t).tags (slotOf c.src.toNat)).st = .evicting) ∧
    (∃ p ∈ s'.events, p.ev = moveEvent t e c ∧ s.hc < p.due) ∧ SameMemory s s' := by
  have hexec := exec_copyStart hhint hnext hlive hglobal hstores hclaim
  rw [startCmd_passes hc hsource hreach hfault] at hexec
  generalize hhc : (scheduleOpen (startedState s t e c) (moveEvent t e c)).hc + 1 = due at hexec
  have hstarted : Keeps memories s (startedState s t e c) :=
    keeps_updCmd blindToEngines_memories (keeps_applyClaims (fun _ _ _ => rfl) s t e c)
  have hset : ∀ {β : Type} {v : Tile → β}, Keeps v (startedState s t e c)
      (scheduleOnce (scheduleOpen (startedState s t e c) (moveEvent t e c)) due (.copyStart t e)) := (Keeps.refl _).scheduleOpen.scheduleOnce
  have htags : Keeps Tile.tags (applyClaims s t e c)
      (scheduleOnce (scheduleOpen (startedState s t e c) (moveEvent t e c)) due (.copyStart t e)) :=
    (keeps_updCmd (fun _ _ => rfl) (.refl _)).trans hset
  obtain ⟨p, hp, hev, hdue⟩ := exists_mem_scheduleOpen (startedState s t e c) (moveEvent t e c)
  refine ⟨_, _, hexec, (cmdOf_kept hset t e c.n).trans (cmdOf_startedState hc), rfl, rfl, rfl, rfl, ?claimed, ?evicted, ?event,
    (hstarted.trans hset).sameMemory⟩
  case claimed =>
    intro htagm hevict d hd hopen
    rw [htags.tile d]
    exact filling_applyClaims htagm hevict hd hopen
  case evicted =>
    intro hevict
    rw [htags.tile t]
    exact evicting_applyClaims hevict
  case event => exact ⟨p, mem_scheduleOnce _ _ _ hp, hev, hstarted.hc ▸ hdue⟩

/-! ### The end of a command (R184, R192, R194, R197) -/

/-- A view does not look at the tags of a tile, its watermarks and its engines. -/
def BlindToEndings {α : Type} (view : Tile → α) : Prop :=
  ∀ x tags wm cpy, view { x with tags := tags, wm := wm, cpy := cpy } = view x

/-- The claimed slots of a command take its tag. -/
def endClaimsOf (s : State) (c : CopyCmd) (vs : List (Nat × Nat)) : State :=
  vs.foldl (fun s v => updTile s v.1 fun x => endClaim x v.2 (finalTag c)) s

theorem keeps_endClaimsOf (hv : ∀ x tags, view { x with tags := tags } = view x) (s : State) (c : CopyCmd) (vs : List (Nat × Nat)) :
    Keeps view s (endClaimsOf s c vs) := by
  refine .foldl (.refl s) fun s v => (Keeps.refl s).updTile fun x => ?_
  obtain ⟨tags, htags⟩ := endClaim_tags x v.2 (finalTag c)
  rw [htags]
  exact hv x tags

/-- What a completed command leaves with its tile: its channel at its limit, its follow-on with the engine. -/
def handOver (s : State) (t e : Nat) (c : CopyCmd) : State :=
  let s := updTile s t fun x => limitWm x c.wm
  match c.follow with
  | some f =>
    let put := fun (g : CopyEng) => { g with follow := g.follow ++ [(c.n, c.task, f, c.entry, c.addr)] }
    scheduleOnce (updTile s t fun x => { x with cpy := tmod {} x.cpy e put }) s.hc (.followOnCube t e)
  | none => s

theorem exec_copyComplete (hhead : (tget ({} : CopyEng) (tileOf s t).cpy e).cmds.head? = some c) (hop : c.op < 7)
    (hlanded : c.total ≤ c.landed) (hlive : (taskOf s t c.task).st ≠ .stopped) (hnoticed : c.noticed = false)
    (hclaims : ∀ v ∈ c.claimed, tagWait (tileOf s v.1) v.2 (finalTag c) = none) :
    exec (.copyComplete t e) s = .next (dropCmd (handOver (endClaimsOf s c c.claimed) t e c) t e c.n) := by
  have hheld : (c.claimed.filter fun v => (tagWait (tileOf s v.1) v.2 (finalTag c)).isSome) = [] :=
    List.filter_eq_nil_iff.2 fun v hv => by simp [hclaims v hv]
  have hall : (c.claimed.filter fun v => !([] : List (Nat × Nat)).contains v) = c.claimed := by simp
  have hatomic : c.atomic = false := decide_eq_false (Nat.not_le.2 hop)
  show execCopyComplete t e s = _
  simp only [execCopyComplete, hhead, hatomic, decide_eq_false (Nat.not_lt.2 hlanded), beq_eq_false_iff_ne.2 hlive, hnoticed, hheld,
    hall, Bool.or_self, Bool.false_eq_true, if_false, List.isEmpty_nil, Bool.not_true]
  rfl

theorem wm_limitWm {x : Tile} {w : Nat} : (tget ({} : Watermark) (limitWm x (some w)).wm w).wm = (tget ({} : Watermark) x.wm w).lim := by
  simp [limitWm]

theorem keeps_handOver (hv : BlindToEndings view) (s : State) (t e : Nat) (c : CopyCmd) : Keeps view s (handOver s t e c) := by
  have hlimit : Keeps view s (updTile s t fun x => limitWm x c.wm) := (Keeps.refl s).updTile fun x => by
    obtain ⟨wm, hwm⟩ := limitWm_wm x c.wm
    rw [hwm]
    exact hv x x.tags wm x.cpy
  unfold handOver
  split
  · exact .scheduleOnce (hlimit.updTile fun x => hv x x.tags x.wm _)
  · exact hlimit

theorem wm_handOver {w : Nat} (hw : c.wm = some w) :
    (tget ({} : Watermark) (tileOf (handOver s t e c) t).wm w).wm = (tget ({} : Watermark) (tileOf s t).wm w).lim := by
  have hkeeps : Keeps Tile.wm (updTile s t fun x => limitWm x c.wm) (handOver s t e c) := by
    unfold handOver
    split
    · exact .scheduleOnce ((Keeps.refl _).updTile fun _ => rfl)
    · exact .refl _
  rw [hkeeps.tile t, tileOf_updTile_self, hw, wm_limitWm]

theorem cpy_limitWm (x : Tile) (ch : Option Nat) : (limitWm x ch).cpy = x.cpy := by
  obtain ⟨wm, hwm⟩ := limitWm_wm x ch
  rw [hwm]

theorem follow_handOver_some {f : CubeSnap} (hf : c.follow = some f) :
    (tget ({} : CopyEng) (tileOf (handOver s t e c) t).cpy e).follow =
      (tget ({} : CopyEng) (tileOf s t).cpy e).follow ++ [(c.n, c.task, f, c.entry, c.addr)] := by
  simp only [handOver, hf]
  rw [tileOf_scheduleOnce, tileOf_updTile_self, tget_tmod_self, tileOf_updTile_self, cpy_limitWm]

theorem follow_handOver_none (hf : c.follow = none) :
    (tget ({} : CopyEng) (tileOf (handOver s t e c) t).cpy e).follow = (tget ({} : CopyEng) (tileOf s t).cpy e).follow := by
  simp only [handOver, hf]
  rw [tileOf_updTile_self, cpy_limitWm]

/-- The oldest command whose last byte has landed ends (R184, R192, R194, R197). -/
theorem copyCompletes (hhead : (tget ({} : CopyEng) (tileOf s t).cpy e).cmds.head? = some c) (hop : c.op < 7)
    (hlanded : c.total ≤ c.landed) (hlive : (taskOf s t c.task).st ≠ .stopped) (hnoticed : c.noticed = false)
    (hclaims : ∀ v ∈ c.claimed, tagWait (tileOf s v.1) v.2 (finalTag c) = none) : ∃ s', exec (.copyComplete t e) s = .next s' ∧
    cmdOf s' t e c.n = none ∧ (∀ w, c.wm = some w →
      (tget ({} : Watermark) (tileOf s' t).wm w).wm = (tget ({} : Watermark) (tileOf s t).wm w).lim) ∧
    (∀ f, c.follow = some f → (tget ({} : CopyEng) (tileOf s' t).cpy e).follow =
      (tget ({} : CopyEng) (tileOf s t).cpy e).follow ++ [(c.n, c.task, f, c.entry, c.addr)]) ∧
    (c.follow = none → (tget ({} : CopyEng) (tileOf s' t).cpy e).follow = (tget ({} : CopyEng) (tileOf s t).cpy e).follow) ∧
    SameMemory s s' := by
  have hexec := exec_copyComplete hhead hop hlanded hlive hnoticed hclaims
  have hended : Keeps (fun x => (x.wm, x.cpy)) s (endClaimsOf s c c.claimed) := keeps_endClaimsOf (fun _ _ => rfl) ..
  have hmem : Keeps memories s (endClaimsOf s c c.claimed) := keeps_endClaimsOf (fun _ _ => rfl) ..
  obtain ⟨hwm, hcpy⟩ := by simpa only [Prod.mk.injEq] using hended.tile t
  generalize endClaimsOf s c c.claimed = s₁ at hexec hmem hwm hcpy
  refine ⟨_, hexec, cmdOf_dropCmd .., fun w hw => ?_, fun f hf => ?_, fun hf => ?_, ?_⟩
  · have hdrop : Keeps Tile.wm (handOver s₁ t e c) (dropCmd (handOver s₁ t e c) t e c.n) :=
      (keeps_withoutCmd (fun _ _ => rfl) ..).trans (keeps_dropCmd (fun _ _ _ _ => rfl) ..)
    rw [hdrop.tile t, wm_handOver hw, hwm]
  · rw [follow_dropCmd, follow_handOver_some hf, hcpy]
  · rw [follow_dropCmd, follow_handOver_none hf, hcpy]
  · have hdrop : ∀ s, Keeps memories s (dropCmd s t e c.n) := fun s =>
      (keeps_withoutCmd blindToEngines_memories ..).trans (keeps_dropCmd blindToTasks_memories ..)
    exact ((hmem.trans (keeps_handOver (fun _ _ _ _ => rfl) ..)).trans (hdrop _)).sameMemory

end
end Sys2Proof.CopyWork
end

section
/-! PROOFS. The family of the cube and the engines: follow-on operations, notices and prefetch hints. -/

namespace Sys2Proof.CopyWork

open Sys2Proof Sys2Proof.Machine Sys2Proof.TaskFlow Sys2Proof.VectorWords Sys2Proof.Units

section
variable {α : Type} {view : Tile → α} {a s : State} {t e n : Nat} {c : CopyCmd}

/-! ### Open ways (R11) -/

theorem closedTile_kept {s' : State} (h : Keeps Tile.health s s') (d : Nat) : closedTile s' d = closedTile s d := by
  rw [closedTile, h.tile d, closedTile]

theorem routeOpen_kept {s' : State} (h : Keeps Tile.health s s') (d d' : Nat) : routeOpen s' d d' = routeOpen s d d' := by
  simp only [routeOpen, closedTile_kept h]

/-! ### Follow-on operations (R144, R197) -/

/-- The follow-on operations that an engine keeps. -/
def keepFollow (s : State) (t e : Nat) (rest : List (Nat × Nat × CubeSnap × Nat × Word)) : State :=
  let s := updTile s t fun x => { x with cpy := tmod {} x.cpy e fun (g : CopyEng) => { g with follow := rest } }
  if rest.isEmpty then s else scheduleOnce s (s.hc + 1) (.followOnCube t e)

theorem keeps_keepFollow (hv : BlindToEngines view) (s : State) (t e : Nat) (rest : List (Nat × Nat × CubeSnap × Nat × Word)) :
    Keeps view s (keepFollow s t e rest) := by
  have hput : Keeps view s (updTile s t fun x =>
      { x with cpy := tmod {} x.cpy e fun (g : CopyEng) => { g with follow := rest } }) := (Keeps.refl s).updTile fun x => hv x _
  exact .ite hput hput.scheduleOnce

theorem follow_keepFollow (s : State) (t e : Nat) (rest : List (Nat × Nat × CubeSnap × Nat × Word)) :
    (tget ({} : CopyEng) (tileOf (keepFollow s t e rest) t).cpy e).follow = rest := by
  unfold keepFollow
  dsimp only
  split
  · rw [tileOf_updTile_self, tget_tmod_self]
  · rw [tileOf_scheduleOnce, tileOf_updTile_self, tget_tmod_self]

/-- A view does not look at the cube's operations, their numbers and its done bits. -/
def BlindToCube {α : Type} (view : Tile → α) : Prop :=
  ∀ x ops seq done, view { x with cubeOps := ops, cubeSeq := seq, cubeDone := done } = view x

theorem keeps_acceptCube (hv : BlindToCube view) (s : State) (t k : Nat) (f : CubeSnap) (origin : Option Nat) (entry : Nat)
    (addr : Word) : Keeps view s (acceptCube s t k f origin entry addr) :=
  ((Keeps.refl s).updTile fun x => hv x _ _ _).schedule

theorem acceptCube_op (s : State) (t k : Nat) (f : CubeSnap) (origin : Option Nat) (entry : Nat) (addr : Word) : ∃ o : CubeOp,
    (tileOf (acceptCube s t k f origin entry addr) t).cubeOps = (tileOf s t).cubeOps ++ [o] ∧ o.st = .accepted ∧ o.origin = origin ∧
    o.task = k ∧ o.snap = f ∧ o.layers = snapLayers f ∧ o.marks = (f.toReg && origin.isNone) ∧
    ∃ p ∈ (acceptCube s t k f origin entry addr).events, p.ev = .cubeResolution t o.n ∧ p.due = s.hc + 1 := by
  refine ⟨_, congrArg Tile.cubeOps ((tileOf_schedule ..).trans (tileOf_updTile_self ..)), ?_⟩
  exact ⟨rfl, rfl, rfl, rfl, rfl, rfl, exists_mem_schedule _ _ _⟩

/-- The cube takes the follow-on operation of a completed copy once it can (R144, R197). -/
theorem followOnIsTaken {k : Nat} {f : CubeSnap} {entry : Nat} {addr : Word} {rest : List (Nat × Nat × CubeSnap × Nat × Word)}
    (hfollow : (tget ({} : CopyEng) (tileOf s t).cpy e).follow = (n, k, f, entry, addr) :: rest)
    (hlive : (taskOf s t k).st ≠ .stopped) (hroom : cubeRefuses (tileOf s t) f = false) :
    ∃ s' o, exec (.followOnCube t e) s = .next s' ∧
    (tget ({} : CopyEng) (tileOf s' t).cpy e).follow = rest ∧ (tileOf s' t).cubeOps = (tileOf s t).cubeOps ++ [o] ∧
    o.st = .accepted ∧ o.origin = some n ∧ o.task = k ∧ o.snap = f ∧ o.layers = snapLayers f ∧ o.marks = false ∧
    (∃ p ∈ s'.events, p.ev = .cubeResolution t o.n ∧ p.due = s.hc + 1) ∧ SameMemory s s' := by
  have hexec : exec (.followOnCube t e) s = .next (acceptCube (keepFollow s t e rest) t k f (some n) entry addr) := by
    show execFollowOnCube t e s = _
    simp only [execFollowOnCube, hfollow, if_neg hlive, hroom, Bool.false_eq_true, if_false]
    rfl
  have hkept : Keeps Tile.cubeOps s (keepFollow s t e rest) := keeps_keepFollow (fun _ _ => rfl) ..
  have hmem : Keeps memories s (acceptCube (keepFollow s t e rest) t k f (some n) entry addr) :=
    (keeps_keepFollow blindToEngines_memories ..).trans (keeps_acceptCube (fun _ _ _ _ => rfl) ..)
  have hcpy : Keeps Tile.cpy (keepFollow s t e rest) (acceptCube (keepFollow s t e rest) t k f (some n) entry addr) :=
    keeps_acceptCube (fun _ _ _ _ => rfl) ..
  obtain ⟨o, hops, hst, horigin, htask, hsnap, hlayers, hmarks, hevent⟩ :=
    acceptCube_op (keepFollow s t e rest) t k f (some n) entry addr
  refine ⟨_, o, hexec, ?_, ?_, hst, horigin, htask, hsnap, hlayers, hmarks.trans (Bool.and_false _), hkept.hc ▸ hevent, hmem.sameMemory⟩
  · rw [hcpy.tile t, follow_keepFollow]
  · rw [hops, hkept.tile t]

/-! ### Notices (R184, R357, R385) -/

theorem keeps_noteNotice (hv : ∀ x ntc drop, view { x with orphNtc := ntc, orphDrop := drop } = view x) (s : State) (t : Nat)
    (c : CopyCmd) : Keeps view s (noteNotice s t c) := by
  unfold noteNotice
  refine .updTile ?_ fun x => hv x _ x.orphDrop
  split
  · exact (Keeps.refl s).updTile fun x => hv x x.orphNtc _
  · exact .refl s

theorem keeps_releaseCmd (hv : ∀ x tags wm, view { x with tags := tags, wm := wm } = view x) (s : State) (t e : Nat) (c : CopyCmd) :
    Keeps view s (releaseCmd s t e c) := by
  have hclaims : Keeps view s (c.claimed.foldl (fun s v => updTile s v.1 fun x => emptySlot x v.2) s) :=
    .foldl (.refl s) fun s v => (Keeps.refl s).updTile fun x => hv x _ x.wm
  unfold releaseCmd
  refine hclaims.updTile fun x => ?_
  split
  next v _ =>
    obtain ⟨wm, hwm⟩ := limitWm_wm (emptySlot x v) c.wm
    rw [hwm]
    exact hv x _ wm
  next =>
    obtain ⟨wm, hwm⟩ := limitWm_wm x c.wm
    rw [hwm]
    exact hv x x.tags wm

/-- A plain copy or an accumulate-on-write that ends by notice is gone, and no byte with it. -/
theorem noticeCmd_ends (hop : c.op < 7) : cmdOf (noticeCmd s t e c) t e c.n = none ∧ SameMemory s (noticeCmd s t e c) := by
  have hatomic : c.atomic = false := decide_eq_false (Nat.not_le.2 hop)
  have hend : noticeCmd s t e c = dropCmd (releaseCmd (noteNotice s t c) t e c) t e c.n := by
    unfold noticeCmd endFailed
    rw [hatomic]
    rfl
  rw [hend]
  have hreleased : Keeps memories s (releaseCmd (noteNotice s t c) t e c) :=
    (keeps_noteNotice (fun _ _ _ => rfl) ..).trans (keeps_releaseCmd (fun _ _ _ => rfl) ..)
  exact ⟨cmdOf_dropCmd .., ((hreleased.trans (keeps_withoutCmd blindToEngines_memories ..)).trans
    (keeps_dropCmd blindToTasks_memories ..)).sameMemory⟩

theorem exec_noticeArrival (hhead : (tget ({} : CopyEng) (tileOf s t).cpy e).cmds.head? = some c) (hst : c.st ≠ .queued)
    (hop : c.op < 7) (hlost : ((c.named t).any fun d => !routeOpen s t d) = true) : exec (.noticeArrival t e) s =
      .next (if c.dsp == 1 && !(reachable s t c).isEmpty && !sourceClosed s t c then
        updCmd s t e c.n fun d => { d with noticed := true } else noticeCmd s t e c) := by
  have hatomic : c.atomic = false := decide_eq_false (Nat.not_le.2 hop)
  show execNoticeArrival t e s = _
  simp only [execNoticeArrival, hhead, whenever, bne_iff_ne.2 hst, hlost, hatomic, Bool.or_true, Bool.and_true, Bool.not_false,
    Bool.true_and, if_true]

/-- A notice marks a command that still reaches some tile (R385). -/
theorem noticeMarks (hhead : (tget ({} : CopyEng) (tileOf s t).cpy e).cmds.head? = some c) (hc : cmdOf s t e c.n = some c)
    (hst : c.st ≠ .queued) (hop : c.op < 7) (hlost : ((c.named t).any fun d => !routeOpen s t d) = true) (hdsp : c.dsp = 1)
    (hreach : reachable s t c ≠ []) (hsource : sourceClosed s t c = false) : ∃ s', exec (.noticeArrival t e) s = .next s' ∧
      cmdOf s' t e c.n = some { c with noticed := true } ∧ SameMemory s s' := by
  have hexec := exec_noticeArrival hhead hst hop hlost
  have hway : (c.dsp == 1 && !(reachable s t c).isEmpty && !sourceClosed s t c) = true := by simp [hdsp, hreach, hsource]
  rw [if_pos hway] at hexec
  exact ⟨_, hexec, cmdOf_updCmd_self hc fun _ => rfl, (keeps_updCmd blindToEngines_memories (.refl s)).sameMemory⟩

/-- A notice ends any other command (R357, R385). -/
theorem noticeEnds (hhead : (tget ({} : CopyEng) (tileOf s t).cpy e).cmds.head? = some c) (hst : c.st ≠ .queued) (hop : c.op < 7)
    (hlost : ((c.named t).any fun d => !routeOpen s t d) = true)
    (hway : c.dsp = 1 → reachable s t c = [] ∨ sourceClosed s t c = true) : ∃ s', exec (.noticeArrival t e) s = .next s' ∧
      cmdOf s' t e c.n = none ∧ SameMemory s s' := by
  have hexec := exec_noticeArrival hhead hst hop hlost
  have hnoway : ¬ (c.dsp == 1 && !(reachable s t c).isEmpty && !sourceClosed s t c) = true := by
    simp only [Bool.and_eq_true, beq_iff_eq, Bool.not_eq_true', List.isEmpty_eq_false_iff]
    rintro ⟨⟨hdsp, hreach⟩, hsource⟩
    rcases hway hdsp with h | h
    · exact hreach h
    · exact absurd (hsource.symm.trans h) (by decide)
  rw [if_neg hnoway] at hexec
  exact ⟨_, hexec, noticeCmd_ends hop⟩

/-! ### Prefetch hints (R207) -/

theorem hintExpires (h : ∃ h ∈ (tileOf s t).hints, h.id = n ∧ h.deadline.toNat < s.ts) : ∃ s',
    exec (.hintDeadlineExpiry t n) s = .next s' ∧ (tileOf s' t).hints = (tileOf s t).hints.filter (fun h => h.id != n) ∧
    (tileOf s' t).pfhDrop = (tileOf s t).pfhDrop + 1 ∧ SameMemory s s' := by
  obtain ⟨h, hmem, hid, hlate⟩ := h
  have hany : ((tileOf s t).hints.any fun h => h.id == n && decide (h.deadline.toNat < s.ts)) = true :=
    List.any_eq_true.2 ⟨h, hmem, by simp [hid, hlate]⟩
  have hexec : exec (.hintDeadlineExpiry t n) s =
      .next (dropHint (updTile s t fun x => { x with hints := x.hints.filter fun h => h.id != n }) t) := by
    show execHintDeadlineExpiry t n s = _
    rw [execHintDeadlineExpiry, whenever, if_pos hany]
  have hkeeps : Keeps memories s (dropHint (updTile s t fun x => { x with hints := x.hints.filter fun h => h.id != n }) t) :=
    by
    refine .updTile (.updTile (.refl s) ?_) ?_
    all_goals exact fun _ => rfl
  refine ⟨_, hexec, ?_, ?_, hkeeps.sameMemory⟩
  · rw [dropHint, tileOf_updTile_self, tileOf_updTile_self]
  · rw [dropHint, tileOf_updTile_self, tileOf_updTile_self]

/-- A missing chunk of a running hint is claimed and its fill set out. The search for its tag and for a victim are made opaque
before the recursion is opened: the definition's own equation makes the kernel run them through an unknown table. -/
theorem hintNext_claims {s : State} {t e v : Nat} {h : HintRun} {d : TileDesc} {c : Nat} {cs : List Nat}
    (htag : findTag (tileOf s t) (operandTag h.hint.handle c) = none)
    (hvictim : findVictim (tileOf s t) (h.hint.victim + h.missed) = some v)
    (hwait : tagWait (tileOf s t) v (operandTag h.hint.handle c) = none) : hintNext s t e h d (c :: cs) =
      scheduleFill (setHint (updTile s t fun x => claimSlot x v e (operandTag h.hint.handle c)) t e
        (some { h with slot := some v, missed := h.missed + 1, after := (tileOf s t).cubeSeq,
                       claimedAt := (updTile s t fun x => claimSlot x v e (operandTag h.hint.handle c)).hc,
                       att := hintWay (updTile s t fun x => claimSlot x v e (operandTag h.hint.handle c)) t (chunkFirst d c) }))
        (.copyLanding t e 0) := by
  obtain ⟨step, hstep⟩ : ∃ step, step = @hintNext._f := ⟨_, rfl⟩
  have hrec : ∀ cs, hintNext s t e h d cs = List.brecOn (motive := fun _ => HintRun → State) cs (step s t e d) h := by
    intro cs
    rw [hstep]
    delta hintNext
    rfl
  rw [hrec]
  clear hrec
  obtain ⟨search, hsearch⟩ : ∃ search, search = findTag := ⟨_, rfl⟩
  obtain ⟨pick, hpick⟩ : ∃ pick, pick = findVictim := ⟨_, rfl⟩
  delta hintNext._f at hstep
  rw [← hsearch] at htag hstep
  rw [← hpick] at hvictim hstep
  subst hstep
  dsimp only
  rw [htag, hvictim]
  dsimp only
  rw [hwait]
  rfl

theorem keeps_scheduleFill (s : State) (ev : Instr) : Keeps view s (scheduleFill s ev) := (Keeps.refl s).popDelay.scheduleLate

theorem exists_mem_scheduleFill (s : State) (ev : Instr) : ∃ p ∈ (scheduleFill s ev).events, p.ev = ev := by
  obtain ⟨p, hp, hev, -⟩ := exists_mem_scheduleLate (popDelay s).2 ((popDelay s).2.hc + 16 + (popDelay s).1) ev 1
  exact ⟨p, hp, hev⟩

theorem keeps_wakeHints (s : State) (t : Nat) : Keeps view s (wakeHints s t) := by
  unfold wakeHints
  refine .ite (.refl s) ?_
  split
  · exact (Keeps.refl s).scheduleOnce
  · exact .refl s

theorem mem_wakeHints {p : Pend} (h : p ∈ s.events) : p ∈ (wakeHints s t).events := by
  unfold wakeHints
  split
  · exact h
  · split
    · exact mem_scheduleOnce _ _ _ h
    · exact h

theorem hintWay_updTile {f : Tile → Tile} (hctx : ∀ x, (f x).ctx = x.ctx) (hhealth : ∀ x, (f x).health = x.health) (va : Word) :
    hintWay (updTile s t f) t va = hintWay s t va := by
  have hopen : Keeps Tile.health s (updTile s t f) := (Keeps.refl s).updTile hhealth
  have hattach : ∀ side, attachment (updTile s t f) t side = attachment s t side := fun side => by
    simp only [attachment, routeOpen_kept hopen]
  have hroot : tileCtx (updTile s t f) t = tileCtx s t := by rw [tileCtx, tileOf_updTile_self, hctx, tileCtx]
  unfold hintWay
  rw [hroot]
  simp only [hattach]
  rfl

theorem readDesc_updTile {f : Tile → Tile} (hctx : ∀ x, (f x).ctx = x.ctx) (hbase : ∀ x, (f x).tdtbase = x.tdtbase)
    (hlen : ∀ x, (f x).tdtlen = x.tdtlen) (h : Word32) : readDesc (updTile s t f) t h = readDesc s t h := by
  have hroot : tileCtx (updTile s t f) t = tileCtx s t := by rw [tileCtx, tileOf_updTile_self, hctx, tileCtx]
  unfold readDesc fetchDesc
  dsimp only
  rw [hroot, tileOf_updTile_self, hbase, hlen]
  rfl

/-- The hints of a tile are `r`. -/
def withHints (s : State) (t : Nat) (r : List Hint) : State := updTile s t fun x => { x with hints := r }

theorem tileOf_withHints (s : State) (t : Nat) (r : List Hint) : tileOf (withHints s t r) t = { tileOf s t with hints := r } :=
  tileOf_updTile_self ..

theorem keeps_withHints (hv : ∀ x hints, view { x with hints := hints } = view x) (s : State) (t : Nat) (r : List Hint) :
    Keeps view s (withHints s t r) := (Keeps.refl s).updTile fun x => hv x r

/-- A slot is claimed for the hint that an engine runs. -/
def claimForHint (s : State) (t e v : Nat) (tag : Word) (run : HintRun) : State :=
  setHint (updTile s t fun x => claimSlot x v e tag) t e (some run)

theorem keeps_claimForHint (hv : BlindToClaims view) (s : State) (t e v : Nat) (tag : Word) (run : HintRun) :
    Keeps view s (claimForHint s t e v tag run) :=
  ((Keeps.refl s).updTile fun x => hv x _ x.cpy).updTile fun x => hv x x.tags _

theorem hint_claimForHint (s : State) (t e v : Nat) (tag : Word) (run : HintRun) :
    (tget ({} : CopyEng) (tileOf (claimForHint s t e v tag run) t).cpy e).hint = some run := by
  rw [claimForHint, setHint, tileOf_updTile_self, tget_tmod_self]

theorem tag_claimForHint (s : State) (t e v : Nat) (tag : Word) (run : HintRun) :
    tget ({} : TagEntry) (tileOf (claimForHint s t e v tag run) t).tags v = { st := .filling, tag := tag, owner := e } := by
  rw [claimForHint, setHint, tileOf_updTile_self, tileOf_updTile_self]
  exact tget_tset_self ..

/-- A hint whose first chunk is missing sets out with a claim for it. -/
theorem runHint_claims {h : Hint} {d : TileDesc} {k v : Nat} {cs : List Nat} (hdesc : readDesc s t h.handle = some d)
    (hkind : d.kind = 0) (hlayout : d.layout = 0) (hchunks : allChunks d = k :: cs)
    (htag : findTag (tileOf s t) (operandTag h.handle k) = none) (hvictim : findVictim (tileOf s t) h.victim = some v)
    (hwait : tagWait (tileOf s t) v (operandTag h.handle k) = none) : runHint s t e ⟨h, 0, none, 0, 0, 0, none⟩ =
      scheduleFill (claimForHint s t e v (operandTag h.handle k)
        ⟨h, 0, some v, 1, (tileOf s t).cubeSeq, s.hc, hintWay s t (chunkFirst d k)⟩) (.copyLanding t e 0) := by
  have hway : hintWay (updTile s t fun x => claimSlot x v e (operandTag h.handle k)) t (chunkFirst d k) =
      hintWay s t (chunkFirst d k) := by
    rw [hintWay_updTile]
    all_goals exact fun _ => rfl
  have hplain : (decide (d.kind = 0) && d.layout == 0) = true := by simp [hkind, hlayout]
  have hclaims := hintNext_claims (s := s) (t := t) (e := e) (h := ⟨h, 0, none, 0, 0, 0, none⟩) (d := d) (cs := cs) htag
    (hvictim : findVictim (tileOf s t) (h.victim + 0) = some v) hwait
  unfold runHint
  rw [hdesc]
  dsimp only
  rw [if_pos hplain, hchunks, List.drop_zero, hclaims, hway]
  rfl

/-- An idle engine takes the oldest hint and claims a slot for its first missing chunk (R207). -/
theorem hintStarts {h : Hint} {r : List Hint} {d : TileDesc} {k v : Nat} {cs : List Nat} (hidle : idleEngine (tileOf s t) = some e)
    (hhints : (tileOf s t).hints = h :: r) (hearly : s.ts ≤ h.deadline.toNat) (hdesc : readDesc s t h.handle = some d)
    (hkind : d.kind = 0) (hlayout : d.layout = 0) (hchunks : allChunks d = k :: cs)
    (htag : findTag (tileOf s t) (operandTag h.handle k) = none) (hvictim : findVictim (tileOf s t) h.victim = some v)
    (hwait : tagWait (tileOf s t) v (operandTag h.handle k) = none) :
    ∃ s' u, exec (.hintStart t e) s = .next s' ∧ (tileOf s' t).hints = r ∧
    (tget ({} : CopyEng) (tileOf s' t).cpy e).hint = some ⟨h, 0, some v, 1, (tileOf s t).cubeSeq, s.hc, hintWay s t (chunkFirst d k)⟩ ∧
    tget ({} : TagEntry) (tileOf s' t).tags v = u ∧ u.st = .filling ∧ u.tag = operandTag h.handle k ∧
    (∃ p ∈ s'.events, p.ev = .copyLanding t e 0) ∧ SameMemory s s' := by
  let s₁ := withHints s t r
  let s₂ := claimForHint s₁ t e v (operandTag h.handle k)
    ⟨h, 0, some v, 1, (tileOf s t).cubeSeq, s.hc, hintWay s t (chunkFirst d k)⟩
  have hdesc₁ : readDesc s₁ t h.handle = some d := by
    refine (readDesc_updTile ?_ ?_ ?_ _).trans hdesc
    all_goals exact fun _ => rfl
  have hway₁ : hintWay s₁ t (chunkFirst d k) = hintWay s t (chunkFirst d k) := by
    refine hintWay_updTile ?_ ?_ _
    all_goals exact fun _ => rfl
  have hrun : runHint s₁ t e ⟨h, 0, none, 0, 0, 0, none⟩ = scheduleFill s₂ (.copyLanding t e 0) := by
    rw [runHint_claims hdesc₁ hkind hlayout hchunks, hway₁, tileOf_withHints]
    · rfl
    · rw [tileOf_withHints]
      exact htag
    · rw [tileOf_withHints]
      exact hvictim
    · rw [tileOf_withHints]
      exact hwait
  have htaken : takeHint s t e = wakeHints (runHint s₁ t e ⟨h, 0, none, 0, 0, 0, none⟩) t := by
    unfold takeHint
    rw [hhints]
    exact congrArg (wakeHints · t) (if_neg (Nat.not_lt.2 hearly))
  have hexec : exec (.hintStart t e) s = .next (wakeHints (scheduleFill s₂ (.copyLanding t e 0)) t) := by
    show execHintStart t e s = _
    rw [execHintStart, whenever, if_pos (by simp [hidle]), htaken, hrun]
  have hfill : ∀ {β : Type} {w : Tile → β}, Keeps w s₂ (wakeHints (scheduleFill s₂ (.copyLanding t e 0)) t) :=
    (keeps_scheduleFill ..).trans (keeps_wakeHints ..)
  have hclaimed : Keeps Tile.hints s₁ s₂ := keeps_claimForHint (fun _ _ _ => rfl) ..
  have hmem : Keeps memories s s₂ :=
    (keeps_withHints (fun _ _ => rfl) ..).trans (keeps_claimForHint (fun _ _ _ => rfl) ..)
  obtain ⟨p, hp, hev⟩ := exists_mem_scheduleFill s₂ (.copyLanding t e 0)
  refine ⟨_, { st := .filling, tag := operandTag h.handle k, owner := e }, hexec, ?_, ?_, ?_, rfl, rfl,
    ⟨p, mem_wakeHints hp, hev⟩, (hmem.trans hfill).sameMemory⟩
  · rw [hfill.tile (view := Tile.hints) t, hclaimed.tile t, tileOf_withHints]
  · rw [hfill.tile (view := Tile.cpy) t, hint_claimForHint]
  · rw [hfill.tile (view := Tile.tags) t, tag_claimForHint]

end
end Sys2Proof.CopyWork
end

section
/-! PROOFS. The family of the cube and the engines: a piece of a copy is read. -/

namespace Sys2Proof.CopyWork

open Sys2Proof Sys2Proof.Machine Sys2Proof.TaskFlow Sys2Proof.VectorWords Sys2Proof.Units

section
variable {α : Type} {view : Tile → α} {a s : State} {t e n : Nat} {c : CopyCmd}

/-! ### The bytes that an engine reads (R255) -/

theorem length_pickUnits (s : State) (m : FloorUnit) (us : List FloorUnit) : (pickUnits s m us).1.length = m.length := by
  induction us generalizing s m with
  | nil => rfl
  | cons u us ih =>
    refine (ih ..).trans ?_
    split
    · exact List.length_map _
    · rfl

theorem onlyFree_pickUnits (s : State) (m : FloorUnit) (us : List FloorUnit) : OnlyFree s (pickUnits s m us).2 := by
  induction us generalizing s m with
  | nil => exact ⟨s.free, rfl⟩
  | cons u us ih => exact OnlyFree.trans ⟨s.free + 1, rfl⟩ (ih ..)

theorem snd_addrBytes (a : Nat) (bs : List Byte) : (addrBytes a bs).map (·.2) = bs := by
  induction bs generalizing a with
  | nil => rfl
  | cons b bs ih => rw [addrBytes, List.map_cons, ih]

theorem fst_addrBytes (a : Nat) (bs : List Byte) : (addrBytes a bs).map (·.1) = (List.range bs.length).map (a + ·) := by
  induction bs generalizing a with
  | nil => rfl
  | cons b bs ih =>
    rw [addrBytes, List.map_cons, ih, List.length_cons, List.range_succ_eq_map, List.map_cons, List.map_map]
    refine congrArg (a :: ·) (List.map_congr_left fun i _ => ?_)
    exact (Nat.add_assoc a 1 i).trans (congrArg (a + ·) (Nat.add_comm 1 i))

theorem length_addrBytes (a : Nat) (bs : List Byte) : (addrBytes a bs).length = bs.length := by
  rw [← List.length_map (f := (·.2)), snd_addrBytes]

/-- A read that finds one byte and draws open values only. -/
def ReadsByte (rd : State → Nat → List Byte × State) : Prop := ∀ s a, (rd s a).1.length = 1 ∧ OnlyFree s (rd s a).2

theorem length_readFloor (s : State) (d : Nat) (k : Option Nat) (a n : Nat) : (readFloor s d k a n).1.length = n := by
  rw [readFloor, List.length_map, length_pickUnits, length_addrBytes, length_mbytes]

theorem length_readWell (s : State) (d : Nat) (k : Option Nat) (a n : Nat) : (readWell s d k a n).1.length = n := by
  rw [readWell, List.length_map, length_pickUnits, length_addrBytes, length_mbytes]

theorem readsByte_floor (d : Nat) : ReadsByte fun s a => readFloor s d none a 1 := fun _ _ =>
  ⟨length_readFloor .., onlyFree_pickUnits ..⟩

theorem readsByte_well (d : Nat) : ReadsByte fun s a => readWell s d none a 1 := fun _ _ =>
  ⟨length_readWell .., onlyFree_pickUnits ..⟩

theorem readBytes_spec {rd : State → Nat → List Byte × State} (h : ReadsByte rd) (s : State) (a n : Nat) :
    (readBytes rd s a n).1.length = n ∧ OnlyFree s (readBytes rd s a n).2 := by
  induction n generalizing s a with
  | zero => exact ⟨rfl, s.free, rfl⟩
  | succ n ih =>
    obtain ⟨hlen, hfree⟩ := ih (rd s a).2 (a + 1)
    refine ⟨?_, (h s a).2.trans hfree⟩
    exact (List.length_append ..).trans (by rw [(h s a).1, hlen, Nat.add_comm])

theorem length_pageBytes (s : State) (l : Leaf) (va : Word) (n : Nat) : (pageBytes s l va n).length = n := by
  unfold pageBytes
  split
  · exact List.length_replicate
  · exact length_mbytes ..

/-! ### A command that has been read (R184, R192) -/

/-- The command with a piece that has been read. -/
def readCmd (c : CopyCmd) (bs : List Byte) (rep : Bool) (d : CopyCmd) : CopyCmd :=
  { d with bytes := d.bytes ++ addrBytes (d.dstAt c.fetched) bs, fetched := c.fetched + bs.length, rep := d.rep && rep }

/-- The bytes that have been read are noted with their command. -/
def noteRead (s : State) (t e : Nat) (c : CopyCmd) (bs : List Byte) : State :=
  updCmd s t e c.n (readCmd c bs (tagBlockSealed s (tileCtx s t) c.tag))

/-- The last byte read empties an evicted slot, and lets the next command of the engine start. -/
def lastRead (s : State) (t e : Nat) (c : CopyCmd) (last : Bool) : State :=
  let s := if last && c.evict then updTile s t fun x => emptySlot x (slotOf c.src.toNat) else s
  if last then scheduleOnce s (s.hc + 1) (.copyStart t e) else s

theorem pieceRead_eq (s : State) (t e : Nat) (c : CopyCmd) (bs : List Byte) : pieceRead s t e c bs =
    scheduleOpen (lastRead (noteRead s t e c bs) t e c (c.total ≤ c.fetched + bs.length)) (moveEvent t e c) := by
  simp only [pieceRead, lastRead, decide_eq_true_eq]
  rfl

theorem keeps_lastRead (hv : ∀ x tags, view { x with tags := tags } = view x) (s : State) (t e : Nat) (c : CopyCmd) (last : Bool) :
    Keeps view s (lastRead s t e c last) := by
  have hevict : Keeps view s (if last && c.evict then updTile s t fun x => emptySlot x (slotOf c.src.toNat) else s) :=
    .ite ((Keeps.refl s).updTile fun x => hv x _) (.refl s)
  exact .ite hevict.scheduleOnce hevict

theorem keeps_pieceRead (hv : ∀ x tags, view { x with tags := tags } = view x) (s : State) (t e : Nat) (c : CopyCmd)
    (bs : List Byte) : Keeps view (noteRead s t e c bs) (pieceRead s t e c bs) := by
  rw [pieceRead_eq]
  exact (keeps_lastRead hv ..).scheduleOpen

theorem cmdOf_pieceRead {d : CopyCmd} (hc : cmdOf s t e c.n = some d) (bs : List Byte) :
    cmdOf (pieceRead s t e c bs) t e c.n = some (readCmd c bs (tagBlockSealed s (tileCtx s t) c.tag) d) :=
  (cmdOf_kept (keeps_pieceRead (fun _ _ => rfl) ..) t e c.n).trans (cmdOf_updCmd_self hc fun _ => rfl)

theorem exists_mem_pieceRead (s : State) (t e : Nat) (c : CopyCmd) (bs : List Byte) :
    ∃ p ∈ (pieceRead s t e c bs).events, p.ev = moveEvent t e c ∧ s.hc < p.due := by
  rw [pieceRead_eq]
  obtain ⟨p, hp, hev, hdue⟩ := exists_mem_scheduleOpen (lastRead (noteRead s t e c bs) t e c (c.total ≤ c.fetched + bs.length))
    (moveEvent t e c)
  rw [(keeps_lastRead (view := memories) (fun _ _ => rfl) ..).hc] at hdue
  exact ⟨p, hp, hev, hdue⟩

theorem memories_pieceRead (s : State) (t e : Nat) (c : CopyCmd) (bs : List Byte) : Keeps memories s (pieceRead s t e c bs) :=
  (keeps_updCmd blindToEngines_memories (.refl s)).trans (keeps_pieceRead (fun _ _ => rfl) ..)

/-! ### The source of a piece (R187, R188, R194) -/

/-- What lets the next piece of a command be read at its source. -/
structure SourceReady (s : State) (t e : Nat) (c : CopyCmd) : Prop where
  floor : c.ssp = 1 → sourceClosed s t c = false ∧ floorHeld (tileOf s (c.srcTile t)) (ownEngine t e (c.srcTile t))
    (c.srcAt c.fetched) (pieceLen c c.fetched false) = false
  well : c.ssp = 2 → wmBlocked (tileOf s t) [e] true (c.srcAt c.fetched) (pieceLen c c.fetched false) = false
  page : c.ssp ≠ 1 → c.ssp ≠ 2 → ∃ l, locate s t c.task (BitVec.ofNat 64 (c.srcAt c.fetched)) false = .here l

/-- The engines and the memories of a tile. -/
def copyView (x : Tile) : Table CopyEng × Memory × Memory := (x.cpy, memories x)

/-- A piece that has been read: its bytes and the state from which its command goes on. -/
structure PieceOf (s : State) (t : Nat) (c : CopyCmd) (s' : State) (bs : List Byte) : Prop where
  keeps : Keeps copyView s s'
  length : bs.length = pieceLen c c.fetched false
  page : ∀ l, c.ssp ≠ 1 → c.ssp ≠ 2 → locate s t c.task (BitVec.ofNat 64 (c.srcAt c.fetched)) false = .here l →
    bs = pageBytes s l (BitVec.ofNat 64 (c.srcAt c.fetched)) (pieceLen c c.fetched false)

theorem fetchPiece_floor (h : SourceReady s t e c) (hssp : c.ssp = 1) :
    ∃ s' bs, fetchPiece s t e c = pieceRead s' t e c bs ∧ PieceOf s t c s' bs := by
  obtain ⟨hopen, hfree⟩ := h.floor hssp
  obtain ⟨hlen, honly⟩ := readBytes_spec (readsByte_floor (c.srcTile t)) s (c.srcAt c.fetched) (pieceLen c c.fetched false)
  refine ⟨_, _, ?_, OnlyFree.keeps honly, hlen, fun l hnot => absurd hssp hnot⟩
  simp only [fetchPiece, if_pos hssp, hopen, hfree, Bool.false_eq_true, if_false]

theorem fetchPiece_well (h : SourceReady s t e c) (hssp : c.ssp = 2) :
    ∃ s' bs, fetchPiece s t e c = pieceRead s' t e c bs ∧ PieceOf s t c s' bs := by
  obtain ⟨hlen, honly⟩ := readBytes_spec (readsByte_well t) s (c.srcAt c.fetched) (pieceLen c c.fetched false)
  have hnot : c.ssp ≠ 1 := by rw [hssp]; decide
  refine ⟨_, _, ?_, OnlyFree.keeps honly, hlen, fun l _ hnot => absurd hssp hnot⟩
  simp only [fetchPiece, if_neg hnot, if_pos hssp, h.well hssp, Bool.false_eq_true, if_false]

theorem fetchPiece_page (h : SourceReady s t e c) (hnot₁ : c.ssp ≠ 1) (hnot₂ : c.ssp ≠ 2) :
    ∃ s' bs, fetchPiece s t e c = pieceRead s' t e c bs ∧ PieceOf s t c s' bs := by
  obtain ⟨l, hl⟩ := h.page hnot₁ hnot₂
  have hxlat : Keeps copyView s (noteXlat s t (tileCtx s t) (BitVec.ofNat 64 (c.srcAt c.fetched))) :=
    (Keeps.refl s).noteXlat fun _ _ _ _ => rfl
  have hpage : fetchPiece s t e c = pieceRead (noteXlat s t (tileCtx s t) (BitVec.ofNat 64 (c.srcAt c.fetched))) t e c
      (pageBytes (noteXlat s t (tileCtx s t) (BitVec.ofNat 64 (c.srcAt c.fetched))) l (BitVec.ofNat 64 (c.srcAt c.fetched))
        (pieceLen c c.fetched false)) := by
    simp only [fetchPiece, if_neg hnot₁, if_neg hnot₂, hl]
  refine ⟨_, _, hpage, hxlat, length_pageBytes .., fun l' _ _ hl' => ?_⟩
  cases hl.symm.trans hl'
  unfold pageBytes
  rw [hxlat.hbm]

theorem fetchPiece_reads (h : SourceReady s t e c) : ∃ s' bs, fetchPiece s t e c = pieceRead s' t e c bs ∧ PieceOf s t c s' bs := by
  by_cases hfloor : c.ssp = 1
  · exact fetchPiece_floor h hfloor
  · by_cases hwell : c.ssp = 2
    · exact fetchPiece_well h hwell
    · exact fetchPiece_page h hfloor hwell

/-! ### The read of a command (R184, R193, R394) -/

/-- A command that no longer reaches every destination is noted so. -/
def noteShort (s : State) (t e : Nat) (c : CopyCmd) : State :=
  if c.dsp = 1 ∧ (reachable s t c).length < (c.dstTiles t).length then updCmd s t e c.n fun d => { d with noticed := true } else s

theorem keeps_noteShort (hv : BlindToEngines view) (s : State) (t e : Nat) (c : CopyCmd) : Keeps view s (noteShort s t e c) :=
  .ite (keeps_updCmd hv (.refl s)) (.refl s)

theorem cmdOf_noteShort (hc : cmdOf s t e c.n = some c) :
    ∃ noticed, cmdOf (noteShort s t e c) t e c.n = some { c with noticed := noticed } := by
  unfold noteShort
  split
  · exact ⟨true, cmdOf_updCmd_self hc fun _ => rfl⟩
  · exact ⟨c.noticed, hc⟩

/-- A page is found here: its translation is there, its mode allows the access, and a cache holds it. -/
structure FoundHere (s : State) (t : Nat) (va : Word) (write : Bool) (l : Leaf) : Prop where
  xlat : translate s (rootOf s (tileCtx s t)) va write = .here l
  allowed : (write && l.seal) = false
  cached : (inUtlb s t (tileCtx s t) va || inHtlb s (tileCtx s t) va) = true

theorem FoundHere.locate {k : Nat} {va : Word} {write : Bool} {l : Leaf} (h : FoundHere s t va write l) :
    locate s t k va write = .here l := by
  simp only [Machine.locate, ensureUnit, h.xlat, h.allowed, h.cached, Bool.false_eq_true, if_false, if_true]

theorem ensureUnit_here {k ctx : Nat} {va : Word} {write : Bool} {l : Leaf} (h : translate s (rootOf s ctx) va write = .here l) :
    (ensureUnit s t k ctx va write).1 = (inUtlb s t ctx va || inHtlb s ctx va) := by
  simp only [ensureUnit, h]
  split
  next hin => exact hin.symm
  next hin => exact (Bool.eq_false_iff.2 hin).symm

theorem foundHere_of_locate {k : Nat} {va : Word} {write : Bool} {l : Leaf} (h : locate s t k va write = .here l) :
    FoundHere s t va write l := by
  unfold Machine.locate at h
  dsimp only at h
  split at h
  · cases h
  next l' hxlat =>
    split at h
    · cases h
    next hseal =>
      split at h
      next hready =>
        cases h
        exact ⟨hxlat, by simpa using hseal, (ensureUnit_here hxlat).symm.trans (congrArg Prod.fst hready)⟩
      next => cases h
  next l' _ =>
    split at h
    · split at h <;> cases h
    · split at h
      · cases h
      · split at h
        · cases h
        · split at h <;> cases h

/-- A page that is found here is found here whatever the commands of the engines. -/
theorem locate_updCmd {f : CopyCmd → CopyCmd} {k m : Nat} {va : Word} {write : Bool} {l : Leaf} (h : locate s t k va write = .here l) :
    locate (updCmd s t e m f) t k va write = .here l := by
  have hkeeps : Keeps (fun x => (x.ctx, x.utlb)) s (updCmd s t e m f) := keeps_updCmd (fun _ _ => rfl) (.refl s)
  obtain ⟨hctx, hutlb⟩ := by simpa only [Prod.mk.injEq] using hkeeps.tile t
  have hroot : tileCtx (updCmd s t e m f) t = tileCtx s t := by rw [tileCtx, hctx, tileCtx]
  have hcache : inUtlb (updCmd s t e m f) t (tileCtx s t) va = inUtlb s t (tileCtx s t) va := by rw [inUtlb, hutlb, inUtlb]
  have hfound := foundHere_of_locate h
  exact FoundHere.locate ⟨hroot.symm ▸ hfound.xlat, hfound.allowed, by rw [hroot, hcache]; exact hfound.cached⟩

theorem sourceClosed_kept {s' : State} (h : Keeps Tile.health s s') (t : Nat) (c : CopyCmd) : sourceClosed s' t c = sourceClosed s t c := by
  simp only [sourceClosed, routeOpen_kept h]

theorem SourceReady.updCmd {f : CopyCmd → CopyCmd} (h : SourceReady s t e c) : SourceReady (updCmd s t e n f) t e c := by
  have hhealth : Keeps Tile.health s (Machine.updCmd s t e n f) := keeps_updCmd (fun _ _ => rfl) (.refl s)
  have hkeeps : Keeps (fun x => (x.wm, x.repair)) s (Machine.updCmd s t e n f) := keeps_updCmd (fun _ _ => rfl) (.refl s)
  have hwm : ∀ d, (tileOf (Machine.updCmd s t e n f) d).wm = (tileOf s d).wm := fun d => congrArg Prod.fst (hkeeps.tile d)
  have hrepair : ∀ d, (tileOf (Machine.updCmd s t e n f) d).repair = (tileOf s d).repair := fun d => congrArg Prod.snd (hkeeps.tile d)
  refine ⟨fun hssp => ?_, fun hssp => ?_, fun hnot₁ hnot₂ => ?_⟩
  · obtain ⟨hopen, hfree⟩ := h.floor hssp
    refine ⟨(sourceClosed_kept hhealth t c).trans hopen, ?_⟩
    rw [floorHeld, wmBlocked, hwm, hrepair]
    exact hfree
  · rw [wmBlocked, hwm]
    exact h.well hssp
  · obtain ⟨l, hl⟩ := h.page hnot₁ hnot₂
    exact ⟨l, locate_updCmd hl⟩

theorem SourceReady.noteShort (h : SourceReady s t e c) : SourceReady (noteShort s t e c) t e c := by
  unfold CopyWork.noteShort
  split
  · exact h.updCmd
  · exact h

theorem locate_noteShort {k : Nat} {va : Word} {write : Bool} {l : Leaf} (h : locate s t k va write = .here l) :
    locate (noteShort s t e c) t k va write = .here l := by
  unfold noteShort
  split
  · exact locate_updCmd h
  · exact h

theorem lacks_nil (h : c.bytes = []) (d : Nat) : lacks c d = [] := by rw [lacks, h, List.drop_nil]

/-- With every byte landed, a command reads its next piece (R184, R193). -/
theorem moveCmd_fetches (hbytes : c.bytes = []) (hmore : c.fetched < c.total) (hreach : c.dsp = 1 → reachable s t c ≠ []) :
    moveCmd s t e c = fetchPiece (noteShort s t e c) t e c := by
  unfold moveCmd noteShort
  by_cases hdsp : c.dsp = 1
  · rw [if_pos hdsp]
    simp only [hdsp, true_and]
    obtain ⟨d, hd⟩ := List.exists_mem_of_ne_nil _ (hreach hdsp)
    have hready : ∀ s', ((reachable s t c).filter fun d => !(lacks c d).isEmpty && !landHeld s' t e c d) = [] := fun s' =>
      List.filter_eq_nil_iff.2 fun d _ => by simp [lacks_nil hbytes]
    have hnext : (decide (c.fetched < c.total) && (reachable s t c).any fun d => (lacks c d).isEmpty) = true := by
      rw [decide_eq_true hmore, Bool.true_and]
      exact List.any_eq_true.2 ⟨d, hd, by rw [lacks_nil hbytes]; rfl⟩
    have hsome : (reachable s t c).isEmpty = false := by simpa using hreach hdsp
    unfold moveFloor
    dsimp only
    rw [hready, hsome, if_neg Bool.false_ne_true, if_neg (by decide), if_pos hnext]
  · rw [if_neg hdsp, hbytes, List.isEmpty_nil, if_pos rfl, if_neg fun h => hdsp h.1]

theorem exec_copyLanding (hn : n ≠ 0) (hc : cmdOf s t e n = some c) (hop : c.op = 0) (hsent : c.sent = false) (hst : c.st ≠ .queued)
    (hhead : atHead s t e c = true) (hwaits : engineWaits s t e n = false) : exec (.copyLanding t e n) s = .next (moveCmd s t e c) := by
  have hlive : ((taskOf s t c.task).st == .stopped) = false := by
    simp only [atHead, Bool.and_eq_true, bne_iff_ne] at hhead
    exact beq_eq_false_iff_ne.2 hhead.2
  have hatomic : c.atomic = false := by rw [CopyCmd.atomic, hop]; rfl
  show execCopyLanding t e n s = _
  simp only [execCopyLanding, if_neg hn, hc, hop, hsent, beq_eq_false_iff_ne.2 hst, hlive, hwaits, hhead, hatomic]
  rfl

theorem moveEvent_plain (hc : cmdOf s t e n = some c) (hop : c.op = 0) : moveEvent t e c = .copyLanding t e n := by
  rw [moveEvent, hop, cmdOf_n hc]
  rfl

/-- The next piece of a plain copy is read (R184, R187, R188, R394). -/
theorem pieceIsRead (hn : n ≠ 0) (hc : cmdOf s t e n = some c) (hop : c.op = 0) (hsent : c.sent = false) (hst : c.st ≠ .queued)
    (hhead : atHead s t e c = true) (hwaits : engineWaits s t e n = false) (hbytes : c.bytes = []) (hmore : c.fetched < c.total)
    (hreach : c.dsp = 1 → reachable s t c ≠ [])
    (hfloor : c.ssp = 1 → sourceClosed s t c = false ∧ floorHeld (tileOf s (c.srcTile t)) (ownEngine t e (c.srcTile t))
      (c.srcAt c.fetched) (pieceLen c c.fetched false) = false)
    (hwell : c.ssp = 2 → wmBlocked (tileOf s t) [e] true (c.srcAt c.fetched) (pieceLen c c.fetched false) = false)
    (hpage : c.ssp ≠ 1 → c.ssp ≠ 2 → ∃ l, locate s t c.task (BitVec.ofNat 64 (c.srcAt c.fetched)) false = .here l) :
    ∃ s' c', exec (.copyLanding t e n) s = .next s' ∧ cmdOf s' t e n = some c' ∧
    c'.fetched = c.fetched + pieceLen c c.fetched false ∧ c'.landed = c.landed ∧
    c'.bytes.map (·.1) = (List.range (pieceLen c c.fetched false)).map (c.dstAt c.fetched + ·) ∧
    (∀ l, c.ssp ≠ 1 → c.ssp ≠ 2 → locate s t c.task (BitVec.ofNat 64 (c.srcAt c.fetched)) false = .here l →
      c'.bytes.map (·.2) = pageBytes s l (BitVec.ofNat 64 (c.srcAt c.fetched)) (pieceLen c c.fetched false)) ∧
    (∃ p ∈ s'.events, p.ev = .copyLanding t e n ∧ s.hc < p.due) ∧ SameMemory s s' := by
  obtain rfl := cmdOf_n hc
  have hexec := (exec_copyLanding hn hc hop hsent hst hhead hwaits).trans (by rw [moveCmd_fetches hbytes hmore hreach])
  have hshort : Keeps memories s (noteShort s t e c) := keeps_noteShort blindToEngines_memories ..
  obtain ⟨noticed, hnoted⟩ := cmdOf_noteShort hc
  have hsource : SourceReady s t e c := ⟨hfloor, hwell, hpage⟩
  obtain ⟨s₂, bs, hfetch, hpiece⟩ := fetchPiece_reads hsource.noteShort
  rw [hfetch] at hexec
  have hread : cmdOf s₂ t e c.n = some { c with noticed := noticed } := (cmdOf_kept (hpiece.keeps.map Prod.fst) ..).trans hnoted
  have hmem : Keeps memories s s₂ := hshort.trans (hpiece.keeps.map Prod.snd)
  obtain ⟨p, hp, hev, hdue⟩ := exists_mem_pieceRead s₂ t e c bs
  refine ⟨_, _, hexec, cmdOf_pieceRead hread bs, congrArg (c.fetched + ·) hpiece.length, rfl, ?addresses, ?page,
    ⟨p, hp, hev.trans (moveEvent_plain hc hop), hmem.hc ▸ hdue⟩, (hmem.trans (memories_pieceRead ..)).sameMemory⟩
  case addresses =>
    rw [readCmd, hbytes, List.nil_append, fst_addrBytes, hpiece.length]
    rfl
  case page =>
    intro l hnot₁ hnot₂ hl
    rw [readCmd, hbytes, List.nil_append, snd_addrBytes, hpiece.page l hnot₁ hnot₂ (locate_noteShort hl)]
    unfold pageBytes
    rw [hshort.hbm]

end
end Sys2Proof.CopyWork
end

section
/-! PROOFS. The family of the cube and the engines: a piece of a copy lands. -/

namespace Sys2Proof.CopyWork

open Sys2Proof Sys2Proof.Machine Sys2Proof.TaskFlow Sys2Proof.VectorWords Sys2Proof.Units

section
variable {α : Type} {view : Tile → α} {a s : State} {t e n d : Nat} {c : CopyCmd}

/-! ### A command whose bytes have landed (R184, R193, R194) -/

/-- The command with its bytes landed. -/
def landedCmd (c : CopyCmd) (landed : Nat) (d : CopyCmd) : CopyCmd :=
  { d with st := .landing, landed := landed, bytes := d.bytes.drop (landed - c.landed), eid := none }

/-- The landed bytes are noted with their command, its watermark rises, and the waits on them end. -/
def noteLanded (s : State) (t e : Nat) (c : CopyCmd) (landed own : Nat) : State :=
  let s := updCmd s t e c.n (landedCmd c landed)
  let s := match c.wm with
    | some w => if own = 0 then s else updTile s t fun x =>
        let v : Watermark := tget {} x.wm w
        { x with wm := tset x.wm w { v with wm := max v.wm (c.dstAt (own - 1) + 1) } }
    | none => s
  checkWaits s t

theorem pieceLanded_eq (s : State) (t e : Nat) (c : CopyCmd) (landed own : Nat) : pieceLanded s t e c landed own =
    if c.total ≤ landed then
      (if c.claimed.isEmpty then scheduleOnce (noteLanded s t e c landed own) (noteLanded s t e c landed own).hc (.copyComplete t e)
       else scheduleLate (noteLanded s t e c landed own) (noteLanded s t e c landed own).hc 1 (.copyComplete t e))
    else scheduleOpen (noteLanded s t e c landed own) (moveEvent t e c) := rfl

section
variable (hv : BlindToTasks view) (hwm : ∀ x wm, view { x with wm := wm } = view x)
include hv hwm

theorem keeps_noteLanded (s : State) (t e : Nat) (c : CopyCmd) (landed own : Nat) :
    Keeps view (updCmd s t e c.n (landedCmd c landed)) (noteLanded s t e c landed own) := by
  unfold noteLanded
  refine .checkWaits hv ?_
  split
  · exact .ite (.refl _) ((Keeps.refl _).updTile fun x => hwm x _)
  · exact .refl _

theorem keeps_goOn (s : State) (t e : Nat) (c : CopyCmd) (landed own : Nat) :
    Keeps view (updCmd s t e c.n (landedCmd c landed)) (pieceLanded s t e c landed own) := by
  have hnoted := keeps_noteLanded hv hwm s t e c landed own
  rw [pieceLanded_eq]
  exact .ite (.ite hnoted.scheduleOnce hnoted.scheduleLate) hnoted.scheduleOpen

end

theorem keeps_pieceLanded (s : State) (t e : Nat) (c : CopyCmd) (landed own : Nat) :
    Keeps memories s (pieceLanded s t e c landed own) :=
  (keeps_updCmd blindToEngines_memories (.refl s)).trans (keeps_goOn blindToTasks_memories (fun _ _ => rfl) ..)

theorem cmdOf_pieceLanded {d : CopyCmd} (hc : cmdOf s t e c.n = some d) (landed own : Nat) :
    cmdOf (pieceLanded s t e c landed own) t e c.n = some (landedCmd c landed d) :=
  (cmdOf_kept (keeps_goOn (fun _ _ _ _ => rfl) (fun _ _ => rfl) ..) t e c.n).trans (cmdOf_updCmd_self hc fun _ => rfl)

/-- A command whose last byte has landed completes (R184). -/
theorem completes_pieceLanded {landed : Nat} (h : c.total ≤ landed) (own : Nat) :
    ∃ p ∈ (pieceLanded s t e c landed own).events, p.ev = .copyComplete t e ∧ p.due ≤ s.hc := by
  have hnoted : (noteLanded s t e c landed own).hc = s.hc :=
    (keeps_noteLanded blindToTasks_memories (fun _ _ => rfl) s t e c landed own).hc
  rw [pieceLanded_eq, if_pos h, hnoted]
  split
  · exact exists_mem_scheduleOnce ..
  · exact exists_mem_scheduleLate ..

/-! ### The floor (R187, R188, R193) -/

theorem keeps_drainRace (hv : ∀ x ops, view { x with cubeOps := ops } = view x) (s : State) (d : Nat) (bs : List (Nat × Byte)) :
    Keeps view s (drainRace s d bs) := by
  induction bs generalizing s with
  | nil => exact .refl s
  | cons b bs ih =>
    unfold drainRace
    dsimp only [freshBool]
    have hdraw : Keeps view s { s with free := s.free + 1 } := .of_tiles rfl rfl rfl rfl
    exact .ite (.trans (.ite (hdraw.updTile fun x => hv x _) hdraw) (ih _)) (ih s)

/-- The bytes of a copy that land at a floor outside its step-shared space (R187). -/
theorem landFloor_plain {bs : List (Nat × Byte)} (hop : c.op = 0) (hpoison : c.poison = false)
    (hshared : ∀ b ∈ bs, isShared (tileOf s d) b.1 = false) : landFloor s t e c d bs = engineWrite (drainRace s d bs) d bs := by
  have hall : (bs.filter fun b => !isShared (tileOf s d) b.1) = bs := List.filter_eq_self.2 fun b hb => by simp [hshared b hb]
  have hnone : ((bs.zipIdx.map fun b => (b.1.1, progAt c d + b.2, b.1.2)).filter fun b => isShared (tileOf s d) b.1) = [] := by
    refine List.filter_eq_nil_iff.2 fun b hb => ?_
    obtain ⟨b', hb', rfl⟩ := List.mem_map.1 hb
    simpa using hshared b'.1 (List.fst_mem_of_mem_zipIdx hb')
  unfold landFloor
  dsimp only
  rw [hop, if_neg (by decide), hall, hnone, landPlain, hpoison]
  rfl

theorem lacks_all (h : progAt c d = c.landed) : lacks c d = c.bytes := by rw [lacks, h, Nat.sub_self, List.drop_zero]

/-- The bytes that a tile has taken of a command. -/
def takenCmd (c : CopyCmd) (d : Nat) (c' : CopyCmd) : CopyCmd := { c' with prog := tset c.prog d c.fetched }

theorem landTiles_single (hprog : progAt c d = c.landed) : landTiles s t e c [d] [d] =
    pieceLanded (updCmd (landFloor s t e c d c.bytes) t e c.n (takenCmd c d)) t e c c.fetched c.fetched := by
  have htaken : tget c.landed (tset c.prog d c.fetched) d = c.fetched := tget_tset_self ..
  have hown : (if [d].contains t then tget c.landed (tset c.prog d c.fetched) t else c.fetched) = c.fetched := by
    split
    next h => rw [List.contains_iff_mem, List.mem_singleton] at h; rw [h, htaken]
    next => rfl
  unfold landTiles
  simp only [List.foldl_cons, List.foldl_nil, lacks_all hprog, htaken, Nat.min_self, hown]
  rfl

/-- The one tile that a command writes takes all that has been read (R193). -/
theorem moveCmd_landsFloor (hdsp : c.dsp = 1) (htiles : c.dstTiles t = [d]) (hopen : routeOpen s t d = true)
    (hprog : progAt c d = c.landed) (hheld : landHeld s t e c d = false) (hbytes : c.bytes ≠ []) : moveCmd s t e c =
      pieceLanded (updCmd (landFloor s t e c d c.bytes) t e c.n (takenCmd c d)) t e c c.fetched c.fetched := by
  have hreach : reachable s t c = [d] := by rw [reachable, htiles, List.filter_singleton, hopen]; rfl
  have hready : ([d].filter fun d => !(lacks c d).isEmpty && !landHeld s t e c d) = [d] := by
    rw [List.filter_singleton, lacks_all hprog, hheld, List.isEmpty_eq_false_iff.2 hbytes]
    rfl
  unfold moveCmd moveFloor
  dsimp only
  rw [if_pos hdsp, hreach, htiles, if_neg (Nat.lt_irrefl _), hready, landTiles_single hprog]
  rfl

/-- Bytes have landed in the floor of a tile, in no other floor and not in HBM, and the engines are as they were. -/
structure Landed (s s' : State) (d : Nat) (bs : List (Nat × Byte)) : Prop where
  hc : s'.hc = s.hc
  hbm : s'.hbm = s.hbm
  cpy : ∀ t, (tileOf s' t).cpy = (tileOf s t).cpy
  floor : (tileOf s' d).floor = mwriteAll (tileOf s d).floor bs
  others : ∀ d', d' ≠ d → (tileOf s' d').floor = (tileOf s d').floor

theorem landed_writeUnits (s : State) (d : Nat) (us : List FloorUnit) : Landed s (writeUnits s d us) d us.flatten where
  hc := rfl
  hbm := rfl
  cpy := ((Keeps.refl s).writeUnits (view := Tile.cpy) fun _ _ _ _ _ => rfl).tile
  floor := floor_writeUnits us
  others d' h := by rw [writeUnits, tileOf_updTile, if_neg (Ne.symm h)]

/-- A race with a drain in progress changes what the drain has still to write, and nothing that a landing shows. -/
theorem Landed.of_drainRace {s' : State} {bs raced : List (Nat × Byte)} (h : Landed (drainRace s d raced) s' d bs) :
    Landed s s' d bs := by
  have hrace : Keeps (fun x => (x.cpy, x.floor)) s (drainRace s d raced) := keeps_drainRace (fun _ _ => rfl) ..
  have hfloor : ∀ d', (tileOf (drainRace s d raced) d').floor = (tileOf s d').floor := fun d' => congrArg Prod.snd (hrace.tile d')
  exact ⟨h.hc.trans hrace.hc, h.hbm.trans hrace.hbm, fun t => (h.cpy t).trans (congrArg Prod.fst (hrace.tile t)),
    h.floor.trans (by rw [hfloor]), fun d' hd => (h.others d' hd).trans (hfloor d')⟩

/-- With a piece landed in one floor, its command is landing, or completes. -/
theorem Landed.goesOn {s₁ : State} {bs : List (Nat × Byte)} (h : Landed s s₁ d bs) (hc : cmdOf s t e c.n = some c) :
    ∃ s' c', pieceLanded (updCmd s₁ t e c.n (takenCmd c d)) t e c c.fetched c.fetched = s' ∧ cmdOf s' t e c.n = some c' ∧
      c'.st = .landing ∧ c'.landed = c.fetched ∧ (tileOf s' d).floor = mwriteAll (tileOf s d).floor bs ∧
      (∀ d', d' ≠ d → (tileOf s' d').floor = (tileOf s d').floor) ∧ s'.hbm = s.hbm ∧
      (c.total ≤ c.fetched → ∃ p ∈ s'.events, p.ev = .copyComplete t e ∧ p.due ≤ s.hc) := by
  have htaken : cmdOf (updCmd s₁ t e c.n (takenCmd c d)) t e c.n = some (takenCmd c d c) :=
    cmdOf_updCmd_self ((cmdOf_congr (h.cpy t) e c.n).trans hc) fun _ => rfl
  have hkeeps : Keeps memories s₁ (pieceLanded (updCmd s₁ t e c.n (takenCmd c d)) t e c c.fetched c.fetched) :=
    (keeps_updCmd blindToEngines_memories (.refl s₁)).trans (keeps_pieceLanded ..)
  have hfloor : ∀ d', (tileOf (pieceLanded (updCmd s₁ t e c.n (takenCmd c d)) t e c c.fetched c.fetched) d').floor =
      (tileOf s₁ d').floor := fun d' => congrArg Prod.fst (hkeeps.tile d')
  refine ⟨_, _, rfl, cmdOf_pieceLanded htaken .., rfl, rfl, (hfloor d).trans h.floor, fun d' hd => (hfloor d').trans (h.others d' hd),
    hkeeps.hbm.trans h.hbm, fun htotal => ?_⟩
  obtain ⟨p, hp, hev, hdue⟩ := completes_pieceLanded (s := updCmd s₁ t e c.n (takenCmd c d)) (t := t) (e := e) htotal c.fetched
  exact ⟨p, hp, hev, hdue.trans h.hc.le⟩

/-- A piece of a plain copy lands in the one floor that it goes to, and nowhere else (R184, R187, R193). -/
theorem pieceLandsInFloor (hn : n ≠ 0) (hc : cmdOf s t e n = some c) (hop : c.op = 0) (hsent : c.sent = false) (hst : c.st ≠ .queued)
    (hhead : atHead s t e c = true) (hwaits : engineWaits s t e n = false) (hbytes : c.bytes ≠ []) (hpoison : c.poison = false)
    (hdsp : c.dsp = 1) (htiles : c.dstTiles t = [d]) (hopen : routeOpen s t d = true) (hprog : progAt c d = c.landed)
    (hheld : landHeld s t e c d = false) (hrace : (tileOf s d).raceHc ≠ s.hc) (hshared : ∀ b ∈ c.bytes, isShared (tileOf s d) b.1 = false) :
    ∃ s' c', exec (.copyLanding t e n) s = .next s' ∧ cmdOf s' t e n = some c' ∧ c'.st = .landing ∧ c'.landed = c.fetched ∧
      (tileOf s' d).floor = mwriteAll (tileOf s d).floor c.bytes ∧ (∀ d', d' ≠ d → (tileOf s' d').floor = (tileOf s d').floor) ∧
      s'.hbm = s.hbm ∧ (c.total ≤ c.fetched → ∃ p ∈ s'.events, p.ev = .copyComplete t e ∧ p.due ≤ s.hc) := by
  obtain rfl := cmdOf_n hc
  have hexec := (exec_copyLanding hn hc hop hsent hst hhead hwaits).trans
    (by rw [moveCmd_landsFloor hdsp htiles hopen hprog hheld hbytes, landFloor_plain hop hpoison hshared])
  have hrace₁ : Keeps Tile.raceHc s (drainRace s d c.bytes) := keeps_drainRace (fun _ _ => rfl) ..
  have hquiet : (tileOf (drainRace s d c.bytes) d).raceHc ≠ (drainRace s d c.bytes).hc := by rwa [hrace₁.tile d, hrace₁.hc]
  have hlanded := landed_writeUnits (drainRace s d c.bytes) d (c.bytes.map fun b => [b])
  rw [flatten_singletons] at hlanded
  rw [engineWrite_quiet hquiet] at hexec
  obtain ⟨s', c', rfl, h⟩ := hlanded.of_drainRace.goesOn hc
  exact ⟨_, c', hexec, h⟩

/-! ### The wells and global memory (R166, R168, R187) -/

theorem landWell_free (hpoison : c.poison = false) (hwm : ∀ b ∈ c.bytes, wmBlocked (tileOf s t) [e] true b.1 1 = false) :
    landWell s t e c = pieceLanded (updTile s t fun x => poisonWells { x with wells := mwriteAll x.wells c.bytes } (c.bytes.map (·.1)))
      t e c c.fetched c.fetched := by
  have hfree : (c.bytes.any fun b => wmBlocked (tileOf s t) [e] true b.1 1) = false :=
    List.any_eq_false.2 fun b hb => by simp [hwm b hb]
  unfold landWell
  rw [hfree, hpoison]
  rfl

/-- A piece of a plain copy lands in the wells of its tile, and nowhere else. -/
theorem pieceLandsInWells (hn : n ≠ 0) (hc : cmdOf s t e n = some c) (hop : c.op = 0) (hsent : c.sent = false) (hst : c.st ≠ .queued)
    (hhead : atHead s t e c = true) (hwaits : engineWaits s t e n = false) (hbytes : c.bytes ≠ []) (hpoison : c.poison = false)
    (hdsp : c.dsp = 2) (hwm : ∀ b ∈ c.bytes, wmBlocked (tileOf s t) [e] true b.1 1 = false) :
    ∃ s' c', exec (.copyLanding t e n) s = .next s' ∧ cmdOf s' t e n = some c' ∧ c'.st = .landing ∧ c'.landed = c.fetched ∧
      (tileOf s' t).wells = mwriteAll (tileOf s t).wells c.bytes ∧ (∀ d, (tileOf s' d).floor = (tileOf s d).floor) ∧
      s'.hbm = s.hbm := by
  obtain rfl := cmdOf_n hc
  have hmove : moveCmd s t e c = landWell s t e c := by
    rw [moveCmd, if_neg (by rw [hdsp]; decide), List.isEmpty_eq_false_iff.2 hbytes, if_neg Bool.false_ne_true, if_pos hdsp]
  have hexec := (exec_copyLanding hn hc hop hsent hst hhead hwaits).trans (by rw [hmove, landWell_free hpoison hwm])
  let s₁ := updTile s t fun x => poisonWells { x with wells := mwriteAll x.wells c.bytes } (c.bytes.map (·.1))
  have hstored : Keeps (fun x => (x.cpy, x.floor)) s s₁ := (Keeps.refl s).updTile fun _ => rfl
  have hwells : (tileOf s₁ t).wells = mwriteAll (tileOf s t).wells c.bytes := by rw [tileOf_updTile_self]; rfl
  have hcmd : cmdOf s₁ t e c.n = some c := (cmdOf_kept (hstored.map Prod.fst) t e c.n).trans hc
  have hkeeps : Keeps memories s₁ (pieceLanded s₁ t e c c.fetched c.fetched) := keeps_pieceLanded ..
  exact ⟨_, _, hexec, cmdOf_pieceLanded hcmd .., rfl, rfl, (congrArg Prod.snd (hkeeps.tile t)).trans hwells,
    fun d => (congrArg Prod.fst (hkeeps.tile d)).trans (congrArg Prod.snd (hstored.tile d)), hkeeps.hbm⟩

theorem seedPage_seeded {ctx : Nat} {l : Leaf} (h : l.pp = false ∨ l.nw = true) : seedPage s ctx l = s :=
  if_pos (by rcases h with h | h <;> simp [h])

/-- The state in which the bytes of a command have landed in a page. -/
def writtenPage (s : State) (t : Nat) (c : CopyCmd) (l : Leaf) (va : Word) : State :=
  let s := noteXlat s t (tileCtx s t) va
  { s with hbm := mwriteAll s.hbm (addrBytes (l.writePa va) (c.bytes.map (·.2))) }

theorem landGlobal_here {x : Nat} {b : Byte} {r : List (Nat × Byte)} {l : Leaf} (hop : c.op = 0) (hpoison : c.poison = false)
    (hbytes : c.bytes = (x, b) :: r) (hl : locate s t c.task (BitVec.ofNat 64 x) true = .here l) (hseed : l.pp = false ∨ l.nw = true)
    (hheld : channelHeld s t e c l = false) : landGlobal s t e c =
      pieceLanded (writtenPage s t c l (BitVec.ofNat 64 x)) t e c c.fetched c.fetched := by
  have hhead : (c.bytes.head?.map (·.1)).getD 0 = x := by rw [hbytes]; rfl
  have hbytes : ∀ s, globalBytes s c l (BitVec.ofNat 64 x) = (c.bytes.map (·.2), s) := fun s => by
    rw [globalBytes, hop, if_neg (by decide), hpoison, if_neg Bool.false_ne_true]
  unfold landGlobal
  rw [hhead]
  dsimp only
  rw [hl]
  simp only [hheld, Bool.false_eq_true, if_false, seedPage_seeded hseed, hbytes, writePage]
  rfl

/-- A piece of a plain copy lands in the page that it goes to, and in no floor. -/
theorem pieceLandsInPage {x : Nat} {b : Byte} {r : List (Nat × Byte)} {l : Leaf} (hn : n ≠ 0) (hc : cmdOf s t e n = some c)
    (hop : c.op = 0) (hsent : c.sent = false) (hst : c.st ≠ .queued) (hhead : atHead s t e c = true) (hwaits : engineWaits s t e n = false)
    (hpoison : c.poison = false) (hdsp : c.dsp = 0) (hbytes : c.bytes = (x, b) :: r)
    (hl : locate s t c.task (BitVec.ofNat 64 x) true = .here l) (hseed : l.pp = false ∨ l.nw = true)
    (hheld : channelHeld s t e c l = false) :
    ∃ s' c', exec (.copyLanding t e n) s = .next s' ∧ cmdOf s' t e n = some c' ∧ c'.st = .landing ∧ c'.landed = c.fetched ∧
      s'.hbm = mwriteAll s.hbm (addrBytes (l.writePa (BitVec.ofNat 64 x)) (c.bytes.map (·.2))) ∧
      (∀ d, (tileOf s' d).floor = (tileOf s d).floor) := by
  obtain rfl := cmdOf_n hc
  have hmove : moveCmd s t e c = landGlobal s t e c := by
    rw [moveCmd, if_neg (by rw [hdsp]; decide), List.isEmpty_eq_false_iff.2 (by rw [hbytes]; exact List.cons_ne_nil _ _),
      if_neg Bool.false_ne_true, if_neg (by rw [hdsp]; decide)]
  have hexec := (exec_copyLanding hn hc hop hsent hst hhead hwaits).trans (by rw [hmove, landGlobal_here hop hpoison hbytes hl hseed hheld])
  have hxlat : Keeps (fun x => (x.cpy, x.floor)) s (noteXlat s t (tileCtx s t) (BitVec.ofNat 64 x)) :=
    (Keeps.refl s).noteXlat fun _ _ _ _ => rfl
  let s₁ := writtenPage s t c l (BitVec.ofNat 64 x)
  have hstored : ∀ d, (tileOf s₁ d).cpy = (tileOf s d).cpy ∧ (tileOf s₁ d).floor = (tileOf s d).floor := fun d =>
    ⟨congrArg Prod.fst (hxlat.tile d), congrArg Prod.snd (hxlat.tile d)⟩
  have hcmd : cmdOf s₁ t e c.n = some c := (cmdOf_congr (hstored t).1 e c.n).trans hc
  have hkeeps : Keeps memories s₁ (pieceLanded s₁ t e c c.fetched c.fetched) := keeps_pieceLanded ..
  refine ⟨_, _, hexec, cmdOf_pieceLanded hcmd .., rfl, rfl, hkeeps.hbm.trans ?_,
    fun d => (congrArg Prod.fst (hkeeps.tile d)).trans (hstored d).2⟩
  exact congrArg (mwriteAll · _) hxlat.hbm

/-! ### Elements of an accumulate-on-write (R198) -/

theorem landDue_none {x m : Nat} (h : ∀ p ∈ (tileOf s d).stores, p.due ≤ s.hc → p.kind.floorUnits = []) : landDue s d x m = s := by
  have hnone : ((tileOf s d).stores.filter fun p => decide (p.due ≤ s.hc) && !p.kind.floorUnits.isEmpty) = [] := by
    refine List.filter_eq_nil_iff.2 fun p hp => ?_
    simp only [Bool.and_eq_true, decide_eq_true_eq, Bool.not_eq_true', not_and]
    intro hdue
    simp [h p hp hdue]
  unfold landDue
  dsimp only
  rw [hnone]
  rfl

/-- Where no store becomes visible in the hc of an element's access, the access is the element alone. -/
theorem atElement_quiet {β : Type} {x m : Nat} {f : State → β × State} (hquiet : (tileOf s d).raceHc ≠ s.hc)
    (h : ∀ p ∈ (tileOf s d).stores, p.due ≤ s.hc → p.kind.floorUnits = []) : atElement s d x m f = f s := by
  unfold atElement
  dsimp only
  rw [landDue_none h, if_neg hquiet]
  rfl

theorem esize_pos (c : CopyCmd) : 0 < c.esize := by
  unfold CopyCmd.esize
  split <;> decide

/-- One element lands combined with what stands there. -/
theorem landFloor_element (hop : 1 ≤ c.op) (hlen : c.bytes.length = c.esize) (hquiet : (tileOf s d).raceHc ≠ s.hc)
    (h : ∀ p ∈ (tileOf s d).stores, p.due ≤ s.hc → p.kind.floorUnits = []) : landFloor s t e c d c.bytes =
      writeUnits (drainRace s d c.bytes) d [awBytes (tileOf s d).floor c c.bytes] := by
  have hrace : Keeps (fun x => (x.raceHc, x.stores, x.floor)) s (drainRace s d c.bytes) := keeps_drainRace (fun _ _ => rfl) ..
  obtain ⟨hraceHc, hstores, hfloor⟩ := by simpa only [Prod.mk.injEq] using hrace.tile d
  have htake : c.bytes.take c.esize = c.bytes := List.take_of_length_le hlen.le
  have hone : c.bytes.length / c.esize = 1 := by rw [hlen, Nat.div_self (esize_pos c)]
  rw [landFloor, if_pos hop, hone, landElements]
  rw [htake, atElement_quiet (by rwa [hraceHc, hrace.hc]) (by rwa [hstores, hrace.hc]), hfloor]
  rfl

/-- An element of an accumulate-on-write lands in the one floor that it goes to (R198). -/
theorem elementLands (hhead : (tget ({} : CopyEng) (tileOf s t).cpy e).cmds.head? = some c) (hc : cmdOf s t e c.n = some c)
    (hop : 1 ≤ c.op) (hop' : c.op < 7) (hst : c.st ≠ .queued) (hlive : (taskOf s t c.task).st ≠ .stopped) (hmore : c.landed < c.total)
    (hwaits : engineWaits s t e c.n = false) (hlen : c.bytes.length = c.esize) (hdsp : c.dsp = 1) (htiles : c.dstTiles t = [d])
    (hopen : routeOpen s t d = true) (hprog : progAt c d = c.landed) (hheld : landHeld s t e c d = false)
    (hrace : (tileOf s d).raceHc ≠ s.hc) (hstores : ∀ p ∈ (tileOf s d).stores, p.due ≤ s.hc → p.kind.floorUnits = []) :
    ∃ s' c', exec (.awPortApply t e) s = .next s' ∧ cmdOf s' t e c.n = some c' ∧ c'.landed = c.fetched ∧
    (tileOf s' d).floor = mwriteAll (tileOf s d).floor (awBytes (tileOf s d).floor c c.bytes) ∧
    (∀ d', d' ≠ d → (tileOf s' d').floor = (tileOf s d').floor) ∧ s'.hbm = s.hbm := by
  have hatomic : c.atomic = false := decide_eq_false (Nat.not_le.2 hop')
  have hbytes : c.bytes ≠ [] := fun h => (esize_pos c).ne (by rw [← hlen, h]; rfl)
  have hexec : exec (.awPortApply t e) s = .next (moveCmd s t e c) := by
    show execAwPortApply t e s = _
    simp only [execAwPortApply, hhead, whenever, decide_eq_true hop, hatomic, bne_iff_ne.2 hst, bne_iff_ne.2 hlive,
      decide_eq_true hmore, hwaits, Bool.not_false, Bool.and_self, if_true]
  rw [moveCmd_landsFloor hdsp htiles hopen hprog hheld hbytes, landFloor_element hop hlen hrace hstores] at hexec
  have hlanded := landed_writeUnits (drainRace s d c.bytes) d [awBytes (tileOf s d).floor c c.bytes]
  rw [List.flatten_singleton] at hlanded
  obtain ⟨s', c', rfl, hcmd, -, hto, hfloor, hothers, hhbm, -⟩ := hlanded.of_drainRace.goesOn hc
  exact ⟨_, c', hexec, hcmd, hto, hfloor, hothers, hhbm⟩

end
end Sys2Proof.CopyWork
end

section
/-! PROOFS. The family of the cube and the engines: the steps of the engines, together. -/

namespace Sys2Proof.CopyWork

open Sys2Proof Sys2Proof.Machine Sys2Proof.NibWork

/-- Settles O42: one lemma for each event of a nib request, of a copy command and of a prefetch hint. -/
theorem engineEvents : Obligations.EngineEvents := by
  unfold Obligations.EngineEvents
  refine ⟨?resolution, ?descs, ?request, ?start, ?read, ?landing, ?element, ?complete, ?followOn, ?notice, ?hint, ?expiry⟩
  case resolution =>
    intro s t n r d sc hr hopen hlive hbefore hgroups s₁ x hxlat hdescs hx
    exact nibResolves hr hopen hlive hbefore hgroups hxlat hdescs hx
  case descs => exact fun _ _ _ _ _ => nibDescs_ok
  case request => exact fun _ _ _ _ _ => nibEnds
  case start => exact fun _ _ _ _ => copyStarts
  case read => exact fun _ _ _ _ _ => pieceIsRead
  case landing =>
    intro s t e n c hn hc hop hsent hst hhead hwaits hbytes hpoison
    refine ⟨fun d => ?floor, ?wells, fun x b r l hdsp hpiece => ?page⟩
    case floor => exact pieceLandsInFloor hn hc hop hsent hst hhead hwaits hbytes hpoison
    case wells => exact pieceLandsInWells hn hc hop hsent hst hhead hwaits hbytes hpoison
    case page => exact pieceLandsInPage hn hc hop hsent hst hhead hwaits hpoison hdsp hpiece
  case element => exact fun _ _ _ _ _ => elementLands
  case complete => exact fun _ _ _ _ => copyCompletes
  case followOn => exact fun _ _ _ _ _ _ _ _ _ => followOnIsTaken
  case notice =>
    intro s t e c hhead hc hst hop hlost
    exact ⟨noticeMarks hhead hc hst hop hlost, noticeEnds hhead hst hop hlost⟩
  case hint => exact fun _ _ _ _ _ _ _ _ _ => hintStarts
  case expiry => exact fun _ _ _ => hintExpires

end Sys2Proof.CopyWork
end
